-- ==== Sys2Proof/Word.lean ====
section
/-! DEFINITION. The word types of the WQ-6480 model and the sparse table that holds memories, register files and
queues keyed by number. -/
namespace Sys2Proof

/-- One byte (R5: multi-byte fields are little-endian, bit 0 least significant). -/
abbrev Byte := BitVec 8

/-- A 16-byte unit, the data part of an S144 codeword (R87) and the unit of scratch and of the Felt (R382). -/
abbrev Unit16 := BitVec 128

/-- The words of a Felt packet: its lead codeword and the further codewords (R349, R381). -/
abbrev Packet := List Unit16

/-- Bytes of host memory that the host wrote before one of its accesses to the device became visible (R442):
`(address, some byte)`, or `(address, none)` where a later read of the byte returns an error or poison (R443). -/
abbrev HostWrites := List (Nat × Option Byte)

/-- A sparse table: entries with strictly rising keys. What an absent key stands for is said where the table is used. -/
abbrev Tab (α : Type) := List (Nat × α)

/-- A memory of bytes. An address that is not listed holds no value that the spec gives: what it reads as is a free
value of `Config`, so no listed byte ever equals it. -/
abbrev Mem := Tab Byte

end Sys2Proof
end

