-- ==== Sys2Proof/Syntax.lean ====
section
/-! DEFINITION. The commands of the block: one constructor for each row of spec/opcode_table.json, with the operands
that the row's rule gives the step. A row of a Jeisk command carries the number of the command read from a ring (its
packet holds the parameters, R446); a row of a sheet operation carries the cluster whose queue holds the word (R184); a
row of a packet carries the packet; a row that time drives carries the time in nanoseconds. -/
namespace Sys2Proof

/-- One decoded sample as the Beater hands it over (R57 to R66, Table 11 of ch. 02). -/
structure Sample where
  errClass : Nat
  lost : Nat
  concealed : Nat
  pts : Nat
  videoTokens : Nat
  audioFrames : Nat
  captionTokens : Nat
  subtitleBytes : Nat
  payload : List Byte
deriving DecidableEq, Repr

/-- What the decode of one chunk yields (R44 to R66): the outcome depends only on the chunk's bytes, its descriptor,
the sample profile and the augmentation stream (R50); the codecs' own standards fix it. -/
structure DecodeResult where
  /-- the entry does not land on a keyframe (R46) -/
  noKeyframe : Bool
  /-- the chunk is undecodable (after R59) -/
  undecodable : Bool
  /-- picture area in luma samples, which decides the stream units (R49) -/
  area : Nat
  lostPackets : Nat
  concealedUnits : Nat
  leading : Nat
  subtitleTrunc : Nat
  luma : Nat
  bits : Nat
  flags : BitVec 4
  /-- output pictures after leading pictures are discarded and deinterlacing is applied (R61) -/
  pictures : Nat
  samples : List Sample
deriving DecidableEq, Repr

/-- A link of a member as its settle record shows it to the lead (R372, R374, R386): its logical number, whether it
carries data, and the neighbour's package and logical link. -/
structure LinkSeen where
  link : Nat
  data : Bool
  pkg : Nat
  peer : Nat
deriving DecidableEq, Repr

/-- The lead's decisions for one member (R107): generation, owner of each shard, role of each axis, data rank of each
member in block order, rank count, the circuit entries of this package with their direction maps (R395), the job seed
(R155), the digest of the block, and the package that a spare replaces with that spare (R109). A status other than 0 says
that nothing is placed (R474). -/
structure Decision where
  status : Nat
  detail : Nat
  generation : Nat
  owners : List Nat
  axes : List Nat
  ranks : List Nat
  rankCount : Nat
  circuits : List (Nat × BitVec 256 × List Nat)
  seed : BitVec 256
  digest : BitVec 256
  replaced : Option (Nat × Nat)
deriving DecidableEq, Repr

/-- The commands of the WQ-6480, one constructor for each row of the table. -/
inductive Instr where
  /-- HELLO (R448): Opens the session at protocol level 1 if the host's level range includes it. -/
  | hello (id : Nat)
  /-- FENCE (R460): Completes once earlier commands of its scope have completed, then orders host memory traffic against them. -/
  | fence (id : Nat)
  /-- TOKEN_SET (R459): Raises a token to the greater of its value and the value given. -/
  | tokenSet (id : Nat)
  /-- TOKEN_RESET (R459): Sets a token to 0 unless a command waits on it or a Press attachment holds it. -/
  | tokenReset (id : Nat)
  /-- TOKEN_READ (R459): Writes the values of up to 64 named tokens to host memory. -/
  | tokenRead (id : Nat)
  /-- HANDLE_ALLOC (R96): Creates a handle and places its extent by class and consumers. -/
  | handleAlloc (id : Nat)
  /-- HANDLE_FREE (R102): Invalidates a handle for later commands and frees its extent once earlier users complete. -/
  | handleFree (id : Nat)
  /-- HANDLE_QUERY (R103): Writes the 32-byte handle record to host memory. -/
  | handleQuery (id : Nat)
  /-- MEM_CONFIG (R111): Sets the DRAM carve-outs if nothing they protect is in use. -/
  | memConfig (id : Nat)
  /-- TRACK_CONFIG (R118): Sets per-context tracker guarantees, pool caps and the pressure threshold, as its apply bits select. -/
  | trackConfig (id : Nat)
  /-- JOB_PLACE (R107): Places the package in a job; the lead computes and installs slice decisions, circuits and the report. -/
  | jobPlace (id : Nat)
  /-- JOB_END (R475): Ends this package's membership in the named job and frees its job state. -/
  | jobEnd (id : Nat)
  /-- INDEX_GATHER (R122): Copies table rows named by an index list into packed rows. -/
  | indexGather (id : Nat)
  /-- INDEX_SCATTER (R124): Writes packed rows into table rows named by an index list. -/
  | indexScatter (id : Nat)
  /-- INDEX_SCATTER_ADD (R125): Adds packed rows into an FP32 table atomically at the DRAM controllers. -/
  | indexScatterAdd (id : Nat)
  /-- STACK_OPEN (R263): Claims the activation stack and divides it into P_s empty sub-stacks. -/
  | stackOpen (id : Nat)
  /-- STACK_CLOSE (R263): Discards the activation stack contents and releases the carve-out. -/
  | stackClose (id : Nat)
  /-- LAUNCH (R476): Checks a launch block and sheet program and queues the launch for its clusters. -/
  | launch (id : Nat)
  /-- LAUNCH_START (R477): Starts a checked launch once all of its clusters can be taken together, initialising their registers. -/
  | launchStart (id : Nat)
  /-- LAUNCH_CLUSTERS_FINISHED (R224): Completes the launching command once every cluster has finished or stopped and its requests retired. -/
  | launchClustersFinished (id : Nat)
  /-- LAUNCH_PROGRESS_TIMEOUT (R196): Stops a launch with ST_TIMEOUT after 2^24 MCLK cycles without progress on a cluster. -/
  | launchProgressTimeout (cl at_ : Nat)
  /-- CP_LOAD (R198): Loads DRAM rows through a slot into packed scratch rows with format conversion. -/
  | cpLoad (cl pos : Nat)
  /-- CP_STORE (R198): Stores packed scratch rows to DRAM rows through a slot with format conversion. -/
  | cpStore (cl pos : Nat)
  /-- CP_MOVE (R198): Copies scratch rows to scratch with format conversion. -/
  | cpMove (cl pos : Nat)
  /-- CP_FILL (R198): Writes a 16-byte pattern from scalar parameters over a scratch range. -/
  | cpFill (cl pos : Nat)
  /-- CP_GATHER (R202): Gathers table rows named by a scratch index list into scratch. -/
  | cpGather (cl pos : Nat)
  /-- CP_SCATTER (R202): Scatters scratch rows into table rows named by an index list. -/
  | cpScatter (cl pos : Nat)
  /-- CP_SCATTER_ADD (R203): Adds scratch rows into table rows at the DRAM controllers. -/
  | cpScatterAdd (cl pos : Nat)
  /-- CP_PUSH (R264): Appends a marked record of scratch rows to the cluster's activation sub-stack. -/
  | cpPush (cl pos : Nat)
  /-- CP_POP (R266): Removes the top sub-stack record after checking mark and length and writes it to scratch. -/
  | cpPop (cl pos : Nat)
  /-- GROUP_OPEN (R168): Opens an accumulation group on a result page with a level depth and initial mode. -/
  | groupOpen (cl : Nat)
  /-- MMA (R205): Adds the product of A and B tiles over nk K-blocks into an open group. -/
  | mma (cl : Nat)
  /-- GROUP_CLOSE_SCRATCH (R208): Closes a group and writes the rounded tile to scratch, freeing its pages. -/
  | groupCloseScratch (cl : Nat)
  /-- GROUP_CLOSE_STREAM (R209): Closes an FP32 group and sends the tile to the reduce path once credit is held. -/
  | groupCloseStream (cl : Nat)
  /-- PAGE_LOAD (R210): Copies a 32x32 tile of words from scratch into an accumulator page. -/
  | pageLoad (cl : Nat)
  /-- V_ADD (R212): Elementwise addition on the vector engine. -/
  | vAdd (cl : Nat)
  /-- V_SUB (R212): Elementwise subtraction on the vector engine. -/
  | vSub (cl : Nat)
  /-- V_MUL (R212): Elementwise multiplication on the vector engine. -/
  | vMul (cl : Nat)
  /-- V_FMA (R212): Elementwise fused multiply-add rounded once. -/
  | vFma (cl : Nat)
  /-- V_MAX (R213): Elementwise maximum under the special-value rules. -/
  | vMax (cl : Nat)
  /-- V_MIN (R213): Elementwise minimum under the special-value rules. -/
  | vMin (cl : Nat)
  /-- V_DIV (R213): Elementwise correctly rounded division. -/
  | vDiv (cl : Nat)
  /-- V_SQRT (R213): Elementwise correctly rounded square root. -/
  | vSqrt (cl : Nat)
  /-- V_CONVERT (R212): Converts elements from fmt_a to fmt_d. -/
  | vConvert (cl : Nat)
  /-- V_ABS (R213): Elementwise absolute value. -/
  | vAbs (cl : Nat)
  /-- V_NEG (R213): Elementwise negation. -/
  | vNeg (cl : Nat)
  /-- V_EXP (R215): Function table exponential within 2 ulp. -/
  | vExp (cl : Nat)
  /-- V_LOG (R215): Function table natural logarithm within 1 ulp. -/
  | vLog (cl : Nat)
  /-- V_RSQRT (R215): Function table reciprocal square root within 1 ulp. -/
  | vRsqrt (cl : Nat)
  /-- V_TANH (R215): Function table hyperbolic tangent within 2 ulp. -/
  | vTanh (cl : Nat)
  /-- V_SIGMOID (R215): Function table logistic sigmoid within 2 ulp. -/
  | vSigmoid (cl : Nat)
  /-- V_GELU_ERF (R215): Function table erf-based GELU within 4 ulp. -/
  | vGeluErf (cl : Nat)
  /-- V_GELU_TANH (R215): Function table tanh-approximated GELU within 4 ulp. -/
  | vGeluTanh (cl : Nat)
  /-- V_GELU_ERF_D (R215): Function table derivative of erf GELU within 4 ulp. -/
  | vGeluErfD (cl : Nat)
  /-- V_RECIP (R215): Function table reciprocal within 1 ulp. -/
  | vRecip (cl : Nat)
  /-- V_CMP_EQ (R213): Writes a mask of a = b. -/
  | vCmpEq (cl : Nat)
  /-- V_CMP_NE (R213): Writes a mask of a != b. -/
  | vCmpNe (cl : Nat)
  /-- V_CMP_LT (R213): Writes a mask of a < b. -/
  | vCmpLt (cl : Nat)
  /-- V_CMP_LE (R213): Writes a mask of a <= b. -/
  | vCmpLe (cl : Nat)
  /-- V_CMP_GT (R213): Writes a mask of a > b. -/
  | vCmpGt (cl : Nat)
  /-- V_CMP_GE (R213): Writes a mask of a >= b. -/
  | vCmpGe (cl : Nat)
  /-- V_SELECT (R213): Selects a or b per element by a mask. -/
  | vSelect (cl : Nat)
  /-- V_MASK_RAND (R214): Writes a random mask from generator bits against a threshold. -/
  | vMaskRand (cl : Nat)
  /-- V_RED_SUM (R217): Sums each 64-element row, or all rows, in a fixed tree order. -/
  | vRedSum (cl : Nat)
  /-- V_RED_MAX (R217): Reduces rows by maximum in a fixed tree order. -/
  | vRedMax (cl : Nat)
  /-- V_RED_MIN (R217): Reduces rows by minimum in a fixed tree order. -/
  | vRedMin (cl : Nat)
  /-- V_SEG_SUM (R218): Sums segments of rows given by an offset list. -/
  | vSegSum (cl : Nat)
  /-- V_SEG_MAX (R218): Takes the maximum over segments of rows. -/
  | vSegMax (cl : Nat)
  /-- V_SEG_MIN (R218): Takes the minimum over segments of rows. -/
  | vSegMin (cl : Nat)
  /-- V_SEG_MEAN (R218): Takes the correctly rounded mean over segments of rows. -/
  | vSegMean (cl : Nat)
  /-- V_SORT64 (R219): Sorts each 64-element row in the total order, optionally writing indices. -/
  | vSort64 (cl : Nat)
  /-- V_TOPK64 (R219): Writes the k largest keys of each row in descending order. -/
  | vTopk64 (cl : Nat)
  /-- ROW_SOFTMAX (R252): Row-engine softmax with masking, optionally recording the statistic. -/
  | rowSoftmax (cl : Nat)
  /-- ROW_SOFTMAX_BWD (R252): Row-engine softmax backward using the stored statistic. -/
  | rowSoftmaxBwd (cl : Nat)
  /-- ROW_LNORM (R252): Row-engine layer normalisation, optionally recording mu and rho. -/
  | rowLnorm (cl : Nat)
  /-- ROW_LNORM_BWD (R252): Row-engine layer normalisation backward from the stored statistic. -/
  | rowLnormBwd (cl : Nat)
  /-- ROW_RMSNORM (R252): Row-engine RMS normalisation, optionally recording rho. -/
  | rowRmsnorm (cl : Nat)
  /-- ROW_RMSNORM_BWD (R252): Row-engine RMS normalisation backward from the stored statistic. -/
  | rowRmsnormBwd (cl : Nat)
  /-- NOP (R220): Control word that only waits or signals a local token. -/
  | nop (cl : Nat)
  /-- SET_IX (R220): Sets an index register from an immediate or scalar parameter. -/
  | setIx (cl : Nat)
  /-- ADD_IX (R220): Adds a signed increment to an index register modulo a value. -/
  | addIx (cl : Nat)
  /-- LOOP (R221): Sets a loop counter to a nonzero count. -/
  | loop (cl : Nat)
  /-- BRANCH_LOOP (R220): Decrements a loop counter and branches while it is nonzero. -/
  | branchLoop (cl : Nat)
  /-- JUMP (R220): Continues distribution at a target instruction index. -/
  | jump (cl : Nat)
  /-- SET_RND_STREAM (R220): Sets a rounding context's stream and index base. -/
  | setRndStream (cl : Nat)
  /-- SET_RND_STEP (R220): Sets a rounding context's step. -/
  | setRndStep (cl : Nat)
  /-- FLAGS_RC (R222): Writes the selected engines' sticky flag words to scratch, optionally clearing them. -/
  | flagsRc (cl : Nat)
  /-- LATCH (R223): Writes a mark with counts to the command trace when enabled. -/
  | latch (cl : Nat)
  /-- STOP (R224): Ends distribution on the cluster. -/
  | stop (cl : Nat)
  /-- GATHER_JIT (R407): Gathers listed shards from their owners at a required step to every group member. -/
  | gatherJit (id : Nat)
  /-- GATHER_READOUT_START (R407): An owner starts reading a listed shard once its step token reaches the required value. -/
  | gatherReadoutStart (id : Nat)
  /-- BROADCAST (R405): Multicasts the root's bytes to every member of a role group. -/
  | broadcast (id : Nat)
  /-- REDUCE_SCATTER (R411): Reduces members' inputs and lands segment i on member i. -/
  | reduceScatter (id : Nat)
  /-- ALL_REDUCE (R411): Reduces members' inputs and multicasts every segment to every member. -/
  | allReduce (id : Nat)
  /-- ALL_TO_ALL (R412): Exchanges variable-length blocks between all members of a role group. -/
  | allToAll (id : Nat)
  /-- COLLECTIVE_SEND_START (R403): A sender starts sending data once every served member has reported READY or been fenced. -/
  | collectiveSendStart (id : Nat)
  /-- COLLECTIVE_TIMEOUT (R404): Completes a collective with ST_TIMEOUT when its timeout passes. -/
  | collectiveTimeout (id at_ : Nat)
  /-- PUT (R413): Writes local bytes into a handle on a named member, counting ACKs. -/
  | put (id : Nat)
  /-- GET (R414): Reads a remote handle's bytes with READ packets into a local destination. -/
  | get (id : Nat)
  /-- FELT_PLAN (R366): Loads the cabling plan and rejudges every link. -/
  | feltPlan (id : Nat)
  /-- FELT_LINK (R376): Takes a link down, retrains it or brings it up. -/
  | feltLink (id : Nat)
  /-- FELT_QUERY (R377): Writes the 24 link records to host memory. -/
  | feltQuery (id : Nat)
  /-- FELT_CONG (R428): Copies retained congestion maps from a sequence number to host memory. -/
  | feltCong (id : Nat)
  /-- TRANSIT_GRANT (R421): Grants a borrowing job a share of a stretch of this job's packages. -/
  | transitGrant (id : Nat)
  /-- TRANSIT_REVOKE (R421): Revokes a transit grant not used by a placement. -/
  | transitRevoke (id : Nat) (inUse : Bool)
  /-- SRC_REGISTER (R34): Registers a table of source descriptors for the job. -/
  | srcRegister (id : Nat)
  /-- SRC_RELEASE (R478): Releases the most recently registered sources once none is in flight. -/
  | srcRelease (id : Nat)
  /-- VAT_CONFIG (R479): Sets the sample profile and mix buffer layout and creates the batch handle. -/
  | vatConfig (id : Nat)
  /-- VAT_START (R82): Starts the Vat filling windows from the share and drawing batches. -/
  | vatStart (id : Nat)
  /-- VAT_STOP (R79): Stops the Vat once no fill, draw or batch copy is in flight. -/
  | vatStop (id : Nat)
  /-- VAT_GET_POSITION (R480): Writes the data position and draw counter after the last batch. -/
  | vatGetPosition (id : Nat)
  /-- VAT_SET_POSITION (R81): Restores the data position, aligning or refusing the draw counter. -/
  | vatSetPosition (id : Nat)
  /-- CHUNK_FETCH (R34): The Vat fetches a chunk's index entry and bytes over CXL for the Beater. -/
  | chunkFetch
  /-- CHUNK_DECODE_DONE (R61): The Beater finishes a chunk and writes its kept samples into window slots. -/
  | chunkDecodeDone (pos : Nat) (res : DecodeResult)
  /-- WINDOW_DRAW_START (R75): Starts the draws of a window once every slot of it is filled. -/
  | windowDrawStart (cycles : Nat)
  /-- VAT_DRAW (R74): Takes the next local draw through the window permutation. -/
  | vatDraw
  /-- BATCH_HANDOVER (R76): Copies B draws into a batch region, records the position and raises the batch token. -/
  | batchHandover
  /-- BATCH_REGION_REUSE (R25): Resumes drawing into a region once its release token is signalled. -/
  | batchRegionReuse (cycles : Nat)
  /-- MOULD_DECLARE (R310): Copies and decomposes a fixed matrix and returns a matrix id. -/
  | mouldDeclare (id : Nat)
  /-- MOULD_APPLY (R316): Multiplies a batch of vectors by a declared matrix in light or electronically. -/
  | mouldApply (id : Nat)
  /-- MOULD_RELEASE (R315): Discards a declared matrix. -/
  | mouldRelease (id : Nat)
  /-- MOULD_QUERY (R340): Writes the four Mould unit records, optionally clearing sticky words. -/
  | mouldQuery (id : Nat)
  /-- MOULD_RETUNE (R339): Takes a unit out of service for comb check, ring search and calibration. -/
  | mouldRetune (id : Nat)
  /-- TILE_LOAD_DONE (R325): A Mould tile load finishes its heater settling. -/
  | tileLoadDone (unit at_ : Nat)
  /-- PROBE_CAPTURE (R333): Every 10 ms a unit in service captures 64 probe vectors and reads loss planes. -/
  | probeCapture (unit at_ sect : Nat) (excess : BitVec 32)
  /-- PROBE_VERDICT (R334): The check engine judges a probe against the error bound. -/
  | probeVerdict (unit : Nat) (rms maxErr : BitVec 32)
  /-- RECALIBRATION_DONE (R337): A recalibration ends and Hadamard probing for return to service begins. -/
  | recalibrationDone (unit : Nat)
  /-- RING_DITHER_CHECK (R330): Every 1 ms checks locked Mould rings and re-searches wrongly locked ones. -/
  | ringDitherCheck (unit bus ring : Nat) (wrong : Bool)
  /-- RING_SEARCH_DONE (R328): A ring's search ends locked or failed, changing the unit's lines in service. -/
  | ringSearchDone (unit bus ring : Nat) (locked : Bool)
  /-- COMB_LOST (R327): Input monitors report comb loss; the unit leaves service and restarts the comb. -/
  | combLost (unit : Nat)
  /-- PRESS_ATTACH (R269): Binds a shard to its handles, rule and step token, initialising or checking state. -/
  | pressAttach (id : Nat)
  /-- PRESS_APPLY (R280): Applies one step's gradient to a shard in slice or row-list form. -/
  | pressApply (id : Nat)
  /-- PRESS_FREEZE (R297): Sets or clears frozen marks of a block range. -/
  | pressFreeze (id : Nat)
  /-- PRESS_DETACH (R304): Unbinds a shard and returns its handles to general use. -/
  | pressDetach (id : Nat)
  /-- PRESS_SLICE_CONSUME (R284): The Press consumes a complete slice, updating its blocks and freeing the buffer. -/
  | pressSliceConsume (shard : Nat)
  /-- PARTIAL_TILE_ARRIVAL (R234): A member or owner adds an arriving tile partial and forwards or lands it. -/
  | partialTileArrival (shard step row col count : Nat) (tile : List (BitVec 32)) (flags : BitVec 4)
  /-- REDUCE_CREDIT_REQUEST (R642): The owner answers a member's first credit request with credit or refusal. -/
  | reduceCreditRequest (shard step rows cols member : Nat)
  /-- REDUCE_CREDIT_GRANT (R237): The owner grants credit for a tile row once its slice buffer is free. -/
  | reduceCreditGrant (shard row : Nat)
  /-- REDUCE_REFUSAL (R642): A refusal reaches a member and stops launches streaming under the binding. -/
  | reduceRefusal (shard step : Nat) (later : Bool)
  /-- REDUCE_WATCHDOG_EXPIRY (R241): The owner abandons a step after 1 s without progress. -/
  | reduceWatchdogExpiry (shard at_ : Nat)
  /-- REDUCE_ABANDON (R241): An abandonment reaches a member and stops launches of that step with ST_ABORTED. -/
  | reduceAbandon (shard step : Nat)
  /-- SINK_START (R579): Claims couch staging and sends a sink hello to the job's lead. -/
  | sinkStart (id : Nat)
  /-- SINK_STOP (R584): Abandons any open round and releases couch staging. -/
  | sinkStop (id : Nat)
  /-- CKPT_SAVE (R587): Saves a held shard, a rank entry or the sink's manifest to host memory. -/
  | ckptSave (id : Nat)
  /-- CKPT_RESTORE (R592): Verifies a manifest and writes a shard's weight and state images back. -/
  | ckptRestore (id : Nat)
  /-- PKG_FENCE (R577): Requests the lead to fence a member. -/
  | pkgFence (id : Nat)
  /-- JOB_SPARE (R578): Replaces a fenced package with a spare and redraws the placement. -/
  | jobSpare (id : Nat)
  /-- JOB_SPARE_TIMEOUT (R578): JOB_SPARE fails with ST_TIMEOUT when the spare's JOB_PLACE does not arrive within 10 s. -/
  | jobSpareTimeout (id at_ : Nat)
  /-- COUNTER_COPY (R560): Copies counter records to host memory. -/
  | counterCopy (id : Nat)
  /-- TRACE_CONFIG (R561): Enables or disables the command trace and sets its mask. -/
  | traceConfig (id : Nat)
  /-- TRACE_COPY (R564): Copies trace records to host memory. -/
  | traceCopy (id : Nat)
  /-- DECKLE_CONFIG (R551): Sets the Deckle role and master source. -/
  | deckleConfig (id : Nat)
  /-- ATTEST (R618): Writes a signed attestation quote. -/
  | attest (id : Nat)
  /-- FW_STAGE (R614): Verifies a firmware bank image and writes it to the inactive bank. -/
  | fwStage (id : Nat)
  /-- FW_ACTIVATE (R616): Restarts the firmware from the staged bank, falling back if it fails. -/
  | fwActivate (id : Nat)
  /-- BLACKBOX_READ (R603): Copies black-box records to host memory and raises the read mark. -/
  | blackboxRead (id : Nat)
  /-- BLACKBOX_CONFIG (R482): Assigns or frees the shared ball as the dump trigger. -/
  | blackboxConfig (id : Nat)
  /-- SELFTEST (R540): Runs the named self-test scopes and reports the code. -/
  | selftest (id : Nat) (code : BitVec 8)
  /-- POWER_SET (R520): Switches power domains and sets MCLK ceilings. -/
  | powerSet (id : Nat)
  /-- TOKEN_WAIT_TIMEOUT (R457): A command whose token wait is unmet within wait_limit completes with ST_TIMEOUT without starting. -/
  | tokenWaitTimeout (id at_ : Nat)
  /-- DB_SET_TAIL (R442): A doorbell write with set_tail moves the submission tail so commands are read. -/
  | dbSetTail (pair : Nat) (value : BitVec 64) (writes : HostWrites)
  /-- DB_SET_HEAD (R440): A doorbell write with set_head moves the completion head. -/
  | dbSetHead (pair : Nat) (value : BitVec 64) (writes : HostWrites)
  /-- RING_LINE_SNOOP (R441): A host write invalidates the ring control line and the device reads it again. -/
  | ringLineSnoop (pair : Nat) (writes : HostWrites)
  /-- RING_LINE_POLL_TIMER (R441): The device rereads the ring control line at least every 10 ms. -/
  | ringLinePollTimer (pair at_ : Nat)
  /-- QCFG_ENABLE (R439): Writing enable 1 takes a pair's configuration and resets its indices. -/
  | qcfgEnable (pair : Nat) (value : BitVec 64)
  /-- QCFG_DISABLE (R643): Writing enable 0 stops reading the pair while read commands finish. -/
  | qcfgDisable (pair : Nat) (value : BitVec 64)
  /-- QCFG_RESUME (R443): Writing resume leaves the halted state and clears ring_error. -/
  | qcfgResume (pair : Nat) (value : BitVec 64)
  /-- CQ_RECORD_WRITE (R445): Writes a waiting completion or notice record once the completion ring has room. -/
  | cqRecordWrite (pair : Nat) (rejected : Bool)
  /-- MSIX_DELAY_EXPIRY (R452): Sends the MSI-X message when int_delay has passed since the first uncovered record. -/
  | msixDelayExpiry (pair at_ : Nat)
  /-- MSIX_VECTOR_UNMASK (R452): Unmasking a vector with its pending bit set sends the message. -/
  | msixVectorUnmask (vector : Nat)
  /-- HN_CTRL_WRITE (R453): Sets the notice pair, enable and heartbeat, releasing waiting notices when enabled. -/
  | hnCtrlWrite (value : BitVec 64)
  /-- HN_MASK_WRITE (R453): Sets which notice codes are discarded instead of posted. -/
  | hnMaskWrite (value : BitVec 64)
  /-- NOTICE_WINDOW_CLOSE (R454): A 1 ms coalescing window closes and the last suppressed occurrence is posted. -/
  | noticeWindowClose (bit at_ : Nat)
  /-- HEARTBEAT_TICK (R455): Posts N_HEARTBEAT every 10 ms while enabled. -/
  | heartbeatTick (at_ : Nat)
  /-- REGISTER_WRITE (R8): A write to a BAR0 register without its own row stores or acts per its access code. -/
  | registerWrite (offset size : Nat) (value : BitVec 64)
  /-- BAR2_READ (R566): A host read through the debug window returns corrected, poisoned or masked data. -/
  | bar2Read (offset size : Nat)
  /-- BAR2_WRITE (R566): A host write through the debug window is performed or dropped. -/
  | bar2Write (offset : Nat) (data : List Byte)
  /-- DK_NOW_LOW_READ (R552): A 4-byte read of DK_NOW's low half latches the high half. -/
  | dkNowLowRead
  /-- PT_MCLK_CLAMP_WRITE (R531): Sets a die's clamp level, ignoring values outside 5 to 15. -/
  | ptMclkClampWrite (die : Nat) (value : BitVec 64)
  /-- HOST_MEM_READ (R130): A host CXL.mem read of the host window returns data or poison. -/
  | hostMemRead (offset size : Nat)
  /-- HOST_MEM_WRITE (R130): A host CXL.mem write to the host window is performed or dropped. -/
  | hostMemWrite (offset : Nat) (data : List Byte)
  /-- FUNCTION_LEVEL_RESET (R449): Ends the session, aborts unfinished commands and resets the pairs. -/
  | functionLevelReset
  /-- CXL_PERST_ASSERT (R627): Host reset takes the CXL link down and acts as a Function Level Reset. -/
  | cxlPerstAssert (at_ : Nat)
  /-- HOST_LINK_LOSS_TIMEOUT (R569): The CXL link down for 1 s self-fences the package with reason 8. -/
  | hostLinkLossTimeout (at_ : Nat)
  /-- RESET_N_ASSERT (R626): RESET_N low for 1 ms resets the whole package. -/
  | resetNAssert
  /-- RESET_RELEASE (R537): Release of RESET_N starts bring-up. -/
  | resetRelease
  /-- CRYSTAL_STABLE (R508): The crystal is judged stable after 65,536 cycles. -/
  | crystalStable (at_ : Nat)
  /-- PLL_LOCK (R509): A PLL is judged locked after 8,192 reference cycles and its divider may start. -/
  | pllLock (pll at_ : Nat)
  /-- PLL_LOCK_LOSS (R510): A PLL losing lock stops its domain's clock and takes the package-fault path. -/
  | pllLockLoss (pll : Nat)
  /-- DIVIDER_STEP (R512): A clock divider takes one sixteenth step toward its target. -/
  | dividerStep (clk at_ : Nat)
  /-- AVS_WRITE_RETRY (R633): Rewrites a refused voltage request every 10 us, self-fencing after 100 failures. -/
  | avsWriteRetry (die : Nat) (good : Bool) (at_ : Nat)
  /-- DOMAIN_SWITCH_STAGE (R517): A power domain advances through its switch, reset, clock and isolation stages. -/
  | domainSwitchStage (dom at_ : Nat)
  /-- DOMAIN_SEQUENCE_TICK (R518): Starts the next domain of a sequence 1 ms after the previous one. -/
  | domainSequenceTick (at_ : Nat)
  /-- SENSOR_SAMPLE (R525): Samples every thermal sensor every 10 us. -/
  | sensorSample (logic dram : List (BitVec 16)) (power at_ : Nat)
  /-- THROTTLE_LOOP_TICK (R528): Every 1 ms lowers, raises or holds a die's throttle level. -/
  | throttleLoopTick (die at_ : Nat)
  /-- CLAMP_HOLD_EXPIRY (R532): Releases a clamp after its 10 ms hold when no rise or hot reading remains. -/
  | clampHoldExpiry (die at_ : Nat)
  /-- HOLDUP_ALARM (R601): Standby power loss makes sentinel 1 finish its record and write a power-loss record. -/
  | holdupAlarm
  /-- HOLDUP_CHARGED (R634): The hold-up capacitor reaches its charge. -/
  | holdupCharged
  /-- DRAM_TRAINING_DONE (R537): DRAM training of the stacks ends and dram_ready is set. -/
  | dramTrainingDone
  /-- STARTUP_SELFTEST_DONE (R540): Start-up self-test ends and writes selftest_code and selftest_pass. -/
  | startupSelftestDone (code : BitVec 8)
  /-- BOOT_ROM_VERIFY (R612): The boot ROM checks the active bank's images and releases or switches banks. -/
  | bootRomVerify
  /-- FUSE_BLOW (R613): After state 3, anti-rollback fuses are blown up to the bank's svn. -/
  | fuseBlow
  /-- WATCHDOG_SAMPLE (R486): Sentinel 0 samples kick words every 10 ms and acts on misses. -/
  | watchdogSample (kicks : List (BitVec 64)) (at_ : Nat)
  /-- MANAGEMENT_RESTART_DONE (R571): After an all-core restart, unfinished commands complete with ST_ABORTED. -/
  | managementRestartDone
  /-- EVENT_SOURCE_EDGE (R499): A rising edge sets an edge source's pending bit and may raise core interrupts. -/
  | eventSourceEdge (source : Nat)
  /-- EVENT_SOURCE_LEVEL (R499): A level source's input change updates its pending bit. -/
  | eventSourceLevel (source : Nat) (level : Bool)
  /-- EVC_CLAIM (R495): Reading a claim register claims the best eligible source for the core. -/
  | evcClaim (cores : List Nat)
  /-- EVC_COMPLETE (R497): Writing a source id completes the top of the core's run stack. -/
  | evcComplete (core source : Nat)
  /-- EVC_PEND_CLEAR (R499): W1C write clears pending bits. -/
  | evcPendClear (k : Nat) (mask hwSet : BitVec 32)
  /-- EVC_PEND_SET (R499): W1S write sets pending bits as if sources fired. -/
  | evcPendSet (k : Nat) (mask : BitVec 32)
  /-- EVC_CONFIG_WRITE (R498): A change of priority, targets or threshold takes effect for eligibility next cycle. -/
  | evcConfigWrite (offset : Nat) (value : BitVec 32)
  /-- WAKE_EDGE (R502): A latched wake edge during sleep wakes the management complex. -/
  | wakeEdge (source : Nat)
  /-- S2_ENTRY (R504): Firmware enters S2, saving retention groups and clearing admin_ready. -/
  | s2Entry
  /-- PATROL_SCRUB_READ (R93): The patrol scrubber reads a word and writes back any correction. -/
  | patrolScrubRead (word : Nat)
  /-- TRACKER_ENTRY_GRANT (R120): A waiting request receives a tracker entry when one frees. -/
  | trackerEntryGrant
  /-- NEAR_MEMORY_ADD (R125): A DRAM controller performs an atomic FP32 add and acknowledges it. -/
  | nearMemoryAdd (pos : Nat)
  /-- LINK_PACKET_SEND (R356): A sender sends a packet on a VC once credit allows. -/
  | linkPacketSend (link vc : Nat)
  /-- LINK_PACKET_RECEIVE (R352): A receiver takes a packet's codewords, correcting or requesting replay. -/
  | linkPacketReceive (link : Nat) (cws : List (BitVec 144))
  /-- CREDIT_CODEWORD_RECEIVE (R357): A credit codeword updates freed counts and acks at the sender. -/
  | creditCodewordReceive (link : Nat) (cw : BitVec 128)
  /-- CREDIT_SEND_TIMER (R357): The receiver sends a credit codeword after 64 ns or 1,024 freed codewords. -/
  | creditSendTimer (link at_ : Nat)
  /-- REPLAY_REQUEST_RECEIVE (R353): The sender resends from the requested sequence after lane markers. -/
  | replayRequestReceive (link : Nat) (cw : BitVec 128)
  /-- LINK_RETRAIN_TIMEOUT (R354): A link not retrained within 500 ms is down and its packets are discarded. -/
  | linkRetrainTimeout (link at_ : Nat)
  /-- LANE_MARKER_RECEIVE (R348): A lane marker is checked and a wrong lane is dropped and re-searched. -/
  | laneMarkerReceive (link lane : Nat) (cw : BitVec 128)
  /-- LANE_LOSS (R361): A lane leaves a link and a new lane map is sent. -/
  | laneLoss (link : Nat) (lanes : BitVec 32)
  /-- LANE_MAP_RECEIVE (R361): A sender applies a received lane map at its next replay restart. -/
  | laneMapReceive (link : Nat) (cw : BitVec 128)
  /-- LANE_REJOIN (R363): A lane clean for 100 ms rejoins through a new lane map. -/
  | laneRejoin (link lane at_ : Nat)
  /-- LOOP_PROBE_RECEIVE (R358): A loop probe is echoed or completes the credit loop measurement. -/
  | loopProbeReceive (link : Nat) (cw : BitVec 128) (at_ : Nat)
  /-- FCLK_LANE_SWITCH (R359): FCLK moves to the next locked lane when its lane loses lock. -/
  | fclkLaneSwitch (port : Nat)
  /-- LINK_TRAINING_STEP (R365): A link advances through the bring-up steps of Table 5. -/
  | linkTrainingStep (link : Nat) (nonce : BitVec 128) (at_ : Nat)
  /-- LINK_MISSING_TIMEOUT (R365): A planned link not past step 5 within 2,000 ms is judged missing. -/
  | linkMissingTimeout (link at_ : Nat)
  /-- DISCOVERY_RECORD_RECEIVE (R369): A hello, proof or settle record is assembled and verified. -/
  | discoveryRecordReceive (link : Nat) (record : List Byte)
  /-- DISCOVERY_REPEAT_TIMER (R368): Repeats a discovery record every 1 ms until the peer's next record arrives. -/
  | discoveryRepeatTimer (link at_ : Nat)
  /-- LINK_JUDGE (R372): Judges a link from the settle record and plan and posts cabling notices. -/
  | linkJudge (link : Nat)
  /-- PACKET_FORWARD (R392): A package routes a VC 0 to 4 packet to its next hop. -/
  | packetForward (vc : Nat) (pkt : Packet)
  /-- DATA_RECEIVE (R400): A receiving instance writes DATA or RDATA units and counts its landing. -/
  | dataReceive (pkt : Packet)
  /-- READ_RECEIVE (R414): A responder answers a READ with RDATA or an error ACK. -/
  | readReceive (pkt : Packet)
  /-- ACK_RECEIVE (R413): A PUT or GET counts acknowledged units and status. -/
  | ackReceive (pkt : Packet)
  /-- PARTIAL_RECEIVE (R401): A collective instance combines a PARTIAL packet by weight. -/
  | partialReceive (pkt : Packet)
  /-- READY_RECEIVE (R403): READY packets merge toward each sender. -/
  | readyReceive (pkt : Packet)
  /-- CIRCUIT_PACKET_RECEIVE (R398): A package on a circuit delivers, multicasts or directs a packet. -/
  | circuitPacketReceive (edge : Nat) (pkt : Packet)
  /-- TRANSIT_PACKET (R422): A stretch package forwards a VC 7 packet within its share. -/
  | transitPacket (pkt : Packet) (at_ : Nat)
  /-- TRANSIT_CREDIT_FRAME (R424): The far end grants stretch credit in FRAME packets back along the stretch. -/
  | transitCreditFrame (link vc units : Nat)
  /-- CONGESTION_SAMPLE (R426): Samples waiting codewords per link and VC every 10 us. -/
  | congestionSample (at_ : Nat)
  /-- CONGESTION_MAP_FOLD (R427): Folds each millisecond's samples into a congestion map. -/
  | congestionMapFold (at_ : Nat)
  /-- PLACEMENT_DIGEST_RECEIVE (R474): The lead compares a member's placement block digest. -/
  | placementDigestReceive (pkg : Nat) (digest : BitVec 256) (links : List LinkSeen) (serial : BitVec 64)
  /-- JOB_PLACE_TIMEOUT (R474): JOB_PLACE completes with ST_TIMEOUT if a member has not issued it within 10 s. -/
  | jobPlaceTimeout (id at_ : Nat)
  /-- PLACEMENT_DECISION_RECEIVE (R107): A member installs the lead's slice decisions and circuits. -/
  | placementDecisionReceive (dec : Decision)
  /-- REDRAW_INSTALL (R419): The lead installs redrawn circuits once no transfer of the job is in flight. -/
  | redrawInstall
  /-- BEAT_SEND_TIMER (R570): The lead and members send beat frames every 1 ms. -/
  | beatSendTimer (at_ : Nat)
  /-- BEAT_RECEIVE (R570): A beat frame refreshes the sender's liveness. -/
  | beatReceive (pkg job gen seq_ at_ : Nat)
  /-- MEMBER_SILENT_TIMEOUT (R570): The lead fences a member unheard for 20 ms. -/
  | memberSilentTimeout (pkg at_ : Nat)
  /-- LEAD_SILENT_TIMEOUT (R576): The next-lowest member becomes acting lead after 20 ms without the lead's beat. -/
  | leadSilentTimeout (at_ : Nat)
  /-- FENCE_REQUEST_RECEIVE (R572): The lead receives a fence request and sends a fence list. -/
  | fenceRequestReceive (pkg reason : Nat)
  /-- FENCE_LIST_RECEIVE (R416): A member applies a fence list to transfers, branches and commands. -/
  | fenceListReceive (job gen seq_ : Nat) (entries : List (Nat × Nat))
  /-- SINK_HELLO_RECEIVE (R579): The lead answers a sink hello with the shard list. -/
  | sinkHelloReceive (job serial : Nat)
  /-- SINK_HELLO_TIMEOUT (R579): SINK_START completes with ST_TIMEOUT if no answer arrives in 10 s. -/
  | sinkHelloTimeout (id at_ : Nat)
  /-- SINK_PACKET_RECEIVE (R581): The sink assembles a tagged copy packet or drops it as stale. -/
  | sinkPacketReceive (pkt : Packet)
  /-- CHECKPOINT_ROUND_OPEN (R585): When the interval passes the sink opens a round and calls a step. -/
  | checkpointRoundOpen (at_ : Nat)
  /-- CALL_RECEIVE (R586): An owner holds its shards for the called step or reports them late. -/
  | callReceive (job round step at_ : Nat)
  /-- SHARD_HOLD_EXPIRY (R586): A shard hold ends after 60 s and its entry is sent late. -/
  | shardHoldExpiry (shard at_ : Nat)
  /-- SHARD_ENTRY_RECEIVE (R589): The sink records a shard or rank entry and seals the round when complete. -/
  | shardEntryReceive (gen round : Nat) (entry : BitVec 768) (rankEntry : Bool)
  /-- SINK_ABANDON_RECEIVE (R589): An abandon frame ends every hold of the round. -/
  | sinkAbandonReceive (job gen : Nat)
  /-- TIME_ANNOUNCE_TIMER (R545): The master sends an announce every 1 ms. -/
  | timeAnnounceTimer (at_ : Nat)
  /-- ANNOUNCE_RECEIVE (R545): A package chooses its master and upstream link and forwards the announce. -/
  | announceReceive (link : Nat) (frame : BitVec 128) (at_ : Nat)
  /-- ANNOUNCE_EXPIRY (R545): Announces older than 3 ms are dropped from master selection. -/
  | announceExpiry (at_ : Nat)
  /-- SYNC_EXCHANGE_TIMER (R546): Starts a sync exchange with the upstream package every 125 us. -/
  | syncExchangeTimer (at_ : Nat)
  /-- SYNC_RECEIVE (R546): Stamps t2 and sends a delay request. -/
  | syncReceive (link : Nat) (frame time : BitVec 128) (at_ : Nat)
  /-- DELAY_REQUEST_RECEIVE (R546): The upstream package answers with a delay response. -/
  | delayRequestReceive (link : Nat) (frame : BitVec 128) (at_ : Nat)
  /-- DELAY_RESPONSE_RECEIVE (R547): Computes theta and steps or slews the Deckle. -/
  | delayResponseReceive (link : Nat) (frame time : BitVec 128)
  /-- HOLDOVER_ENTRY (R549): Enters holdover on upstream loss or three unanswered syncs. -/
  | holdoverEntry (at_ : Nat)
  /-- TIME_PULSE_EDGE (R550): A master on the pulse aligns the Deckle to the edge. -/
  | timePulseEdge (at_ : Nat)
  /-- PULSE_MISSING_TIMEOUT (R550): No pulse for 1.5 s sets pulse_missing and runs on ACLK. -/
  | pulseMissingTimeout (at_ : Nat)
  /-- DUMP_TRIGGER_EDGE (R602): An edge on the assigned shared ball writes a dump record. -/
  | dumpTriggerEdge (at_ : Nat)
  /-- BLACKBOX_RECORD_WRITE (R598): Sentinel 1 writes a queued black-box record to flash. -/
  | blackboxRecordWrite
  /-- SPDM_REQUEST (R619): Answers an SPDM 1.2 request over the DOE mailbox. -/
  | spdmRequest (code : BitVec 8) (payload : List Byte)
  /-- SIDEBAND_SPDM (R620): Answers an SPDM request over MCTP on the sideband. -/
  | sidebandSpdm (code : BitVec 8) (payload : List Byte)
  /-- SIDEBAND_BLACKBOX_READ (R604): Returns up to four black-box records over the sideband. -/
  | sidebandBlackboxRead (first count : Nat)
  /-- SIDEBAND_QUOTE (R620): Returns an attestation quote over the sideband. -/
  | sidebandQuote (nonce : BitVec 128) (mask : BitVec 8)
  /-- SIDEBAND_DEBUG_CHALLENGE (R621): Returns a fresh debug unlock challenge. -/
  | sidebandDebugChallenge
  /-- SIDEBAND_DEBUG_UNLOCK (R621): Unlocks debug if the unlock token verifies. -/
  | sidebandDebugUnlock (serial : BitVec 64) (challenge : BitVec 128) (key : BitVec 512) (endorsement signature : BitVec 512)
  /-- CXL_PERST_RELEASE (R627): Release of CXL_PERST_N retrains the CXL link within 100 ms. -/
  | cxlPerstRelease (at_ : Nat)
  /-- CXL_LINK_STATE_CHANGE (R569): The CXL link comes up after training, in CXL or PCIe mode, or goes down, which starts the 1 s loss count. -/
  | cxlLinkStateChange (up cxl : Bool) (at_ : Nat)
  /-- REDUCE_CREDIT_RECEIVE (R237): Reduce-path credit from the parent reaches a member and releases a streaming close that waits for it. -/
  | reduceCreditReceive (shard step row : Nat)
  /-- SHARD_LIST_RECEIVE (R579): The lead's shard-list sink frame reaches the sink and SINK_START completes. -/
  | shardListReceive (job gen : Nat) (shards : List (Nat × Nat))
  /-- COMB_START_DONE (R327): A unit's comb reaches its line state, its 32 line tones are identified at the separator, and the ring search of every bus starts. -/
  | combStartDone (unit : Nat)
  /-- FIRMWARE_ADMIN_READY (R537): Management firmware reaches state 2, sets admin_ready and, after FW_ACTIVATE, switches the bank flag and completes the activation. -/
  | firmwareAdminReady (at_ : Nat)
  /-- FW_ACTIVATE_TIMEOUT (R616): New firmware not in state 2 within 5 s makes sentinel 0 restart from the previous bank, and FW_ACTIVATE completes with ST_BAD_PARAM detail 1. -/
  | fwActivateTimeout (at_ : Nat)
  /-- S1_ENTRY (R504): Firmware stops GCLK and puts the management complex into S1, from which a latched wake edge returns it. -/
  | s1Entry
deriving DecidableEq, Repr

end Sys2Proof
end

