-- ==== Sys2Proof/Config.lean ====
section
/-! DEFINITION. The free values of the model: what the spec leaves open, as constants with no body, so that nothing can
be proved of the value they hold, and the few numbers that one package carries (its serial, its certificate). -/
namespace Sys2Proof.Config

/-- How far a counter of cycles goes on (busy and stall cycles of Table 7 of ch. 15, cycles waited for credit: the spec
gives no rates from which they follow), by the moment to which the clock moves on and the counter. -/
opaque waitCycles : Nat → Nat → Nat
/-- What a byte of bonded DRAM that nothing has written since package reset reads as, by reset count and device address
(R85; the spec gives no power-on contents, and R626 does not name DRAM among what a reset keeps). -/
opaque dramByte : Nat → Nat → Byte
/-- What a byte of host memory reads as that no host write shown to the device has set. -/
opaque hostByte : Nat → Byte
/-- What an unwritten scratch byte reads as (R181: unspecified), by draw and by byte address. -/
opaque scratchByte : Nat → Nat → Byte
/-- What an unwritten accumulator word reads as (R181: unspecified), by draw and by word. -/
opaque pageWord : Nat → Nat → BitVec 32
/-- The placement unit's preferred granule for a new extent (R96, R98 leave the base open), by draw. -/
opaque extentGranule : Nat → Nat
/-- The placement unit's preferred clusters for a launch (R105 states preferences only), by draw: a rotation of the
package's clusters. -/
opaque clusterRotation : Nat → Nat
/-- Which of the source rows written to one table word wins (R124), by draw and word. -/
opaque scatterWinner : Nat → Nat → Nat
/-- The error of a function-table result in units in the last place (R215), by operation and FP32 input (R174: the same
inputs give the same bits); it is used only after it has been brought into the bound that the rule states. -/
opaque funcError : Nat → BitVec 32 → Int
/-- The error of a row-engine output or statistic in units in the last place (R250), by operation, the FP32 inputs of the
row with its parameters (R174), and position; it is used only after it has been brought into the bound. -/
opaque rowError : Nat → List Nat → Nat → Int
/-- An output of a Mould unit computed in light, before rounding to the output format (R317, R322), by draw and index. -/
opaque lightOutput : Nat → Nat → BitVec 32
/-- The unit under which the vectors of an apply on the electronic path are counted (Table 11 of ch. 08 and Table 4 of
ch. 15 give the counter one instance for each unit, and R318 computes them on no unit), by draw. -/
opaque elecUnit : Nat → Nat
/-- Which flags a Mould unit's detectors raise while computing in light (R320), by draw. -/
opaque lightFlags : Nat → BitVec 4
/-- The owner that the lead's firmware gives a shard (R107, R108), by placement digest and shard: a member position. -/
opaque ownerPick : BitVec 256 → Nat → Nat
/-- The role that the lead's firmware gives a torus axis (R107, R110), by placement digest and axis. -/
opaque axisRole : BitVec 256 → Nat → Nat
/-- The data rank that the lead's firmware gives a member (R107), by placement digest and member position. -/
opaque rankPick : BitVec 256 → Nat → Nat
/-- The rank count D that the lead's firmware chooses (R107), by placement digest. -/
opaque rankCount : BitVec 256 → Nat
/-- The axis along which a member's edge toward the root leaves it, in the tree of a role group (R396: the lead's firmware
computes one tree for each group), by placement digest, tree number and member position: a number reduced to one of the
axes that lead toward the root. -/
opaque treeParent : BitVec 256 → Nat → Nat → Nat
/-- The combine quire that the placement unit assigns to a shard (R234). -/
opaque combineQuire : Nat → Nat
/-- The Watermark serial number of this package (R436 Table 5: per package). -/
opaque serial : BitVec 64
/-- The Watermark of this package in DER (R608). -/
opaque watermark : List Byte
/-- An SM2 signature by the identity key (R605, R606), by use (0 link proof, 1 quote, 2 manifest) and message digest and draw: GB/T 32918.2 draws a random
value, which the spec leaves open. -/
opaque sm2Sign : Nat → BitVec 256 → Nat → BitVec 512
/-- Whether an SM2 signature verifies (GB/T 32918.2), by public key, distinguishing identifier (0 `WQ-DISC`, 1 `WQ-QUOTE`,
2 `WQ-CKPT`, 3 `1234567812345678`), digest, signature. -/
opaque sm2Verify : BitVec 512 → Nat → BitVec 256 → BitVec 512 → Bool
/-- The public key of a certificate, where the certificate meets R608 and chains to the Waimet root (R609). -/
opaque certKey : List Byte → Option (BitVec 512)
/-- The serial in the subject of a certificate (R608). -/
opaque certSerial : List Byte → BitVec 64
/-- The Waimet root public key held in the boot ROM (R609, R611). -/
opaque rootKey : BitVec 512
/-- The fresh random bits of the key engine and of link training (R368, R606, R621), by draw. -/
opaque fresh128 : Nat → BitVec 128
/-- SM3 of the boot ROM (R617 slot 0). -/
opaque bootRomDigest : BitVec 256
/-- The firmware image that the active bank holds when the model begins (R610), bank A. -/
opaque factoryBank : List Byte
/-- The number of anti-rollback fuses blown before the model begins (R613: 0 to 64). -/
opaque factoryFuses : Nat
/-- The next black-box sequence number when the model begins (R598: never reset, from manufacture). -/
opaque bbSequence : Nat
/-- The self digest of the newest black-box record when the model begins (R598). -/
opaque bbLastSelf : BitVec 256
/-- The body bytes of a black-box record that the spec calls informative (R598 context, R600), by draw. -/
opaque bbContext : Nat → BitVec 3072
/-- The rank count D of a job as the snapshot sink knows it, and the SM3 of the job's seed (Table 6 of ch. 16: the spec
does not say how the sink, which is no member, learns them), by job. -/
opaque sinkRanks : Nat → Nat
opaque sinkSeedDigest : Nat → BitVec 256
/-- The response that the SPDM 1.2 standard gives to a supported request (R619, R620), by request bytes and draw. -/
opaque spdmResponse : List Byte → Nat → List Byte
/-- Whether a management image's trust list passes the boot ROM's check against the root key (R609; the spec does not say
where in the image the list stands), by image bytes. -/
opaque trustListOk : List Byte → Bool
/-- The power-on and reset count when the model begins (Table 13 of ch. 16). -/
opaque bbBoot : Nat
/-- The ports whose loopback failed, of which a self-test code has one bit for all six (Table 10 of ch. 14), by draw: it
is used only after it has been brought into the range 1 to 63, bit p for port p. -/
opaque loopbackPorts : Nat → Nat
/-- The fused VDD_CORE request in mV for each divider step j of a die
(R515: 650 mV at j = 4 up to at most 850 mV at j = 15). -/
opaque vcoreFused : Nat → Nat → Nat

/-- The credit_wait field of a congestion map entry (R427): time, which the model does not count, by draw and link. -/
opaque creditWait : Nat → Nat → BitVec 16

/-- The frequency correction of TCLK (Table 2 of ch. 15, R544: the spec gives no computation of it), by draw. -/
opaque freqCorrection : Nat → BitVec 32

/-- The detail of a notice whose rule gives none (R450: as the code defines), by bit of its code and draw. -/
opaque noticeDetail : Nat → Nat → BitVec 32

/-- The detail of a FELT_CONG that copies no map (R428 names the first map copied), by draw. -/
opaque noMapDetail : Nat → BitVec 32

end Sys2Proof.Config
end

