-- ==== Sys2Proof/Machine/State.lean ====
section
/-! DEFINITION. The state of the WQ-6480: plain data, one group of fields for each part of the spec, the queue of
waiting commands, the state after package reset, and the reasons for which a step can stop. -/
namespace Sys2Proof.Machine

/-! ### Host attachment (ch. 11) -/

/-- A record that waits to be written to a completion ring (R445, R450): its 32 bytes with phase 0, whether its MSI-X
message is sent at once (notify, or an urgent notice, R452), and whether it ends a command (R444). -/
structure Rec where
  bytes : BitVec 256
  atOnce : Bool
  command : Bool
deriving DecidableEq, Repr

/-- One queue pair (R438 to R445): the four QCFG_ registers, the indices written to DB_n, the indices in force, the
device's own indices, and the records that wait. While enable or busy is 1 the registers hold the configuration taken at
enable (R439, R643). -/
structure Pair where
  sq : BitVec 64
  cq : BitVec 64
  line : BitVec 64
  ctl : BitVec 64
  /-- sq_tail and cq_head of DB_n (R440) -/
  dbTail : Nat
  dbHead : Nat
  /-- the tail and the head in force (R441) -/
  tail : Nat
  head : Nat
  /-- the device's submission head, completion tail and phase (R439) -/
  sqHead : Nat
  cqTail : Nat
  phase : Bool
  halted : Bool
  ringError : Bool
  waiting : List Rec
  /-- records written that no MSI-X message has covered, and when the first of them was written (R452) -/
  uncovered : Nat
  firstAt : Nat
  /-- the ring control line is held in Shared state (R430, R441) -/
  lineHeld : Bool
  /-- when the ring control line was last read (R441) -/
  lineReadAt : Nat
deriving DecidableEq, Repr

/-- A queue pair after package reset: every register 0 (Tables 8 to 12 of ch. 11). -/
def Pair.empty : Pair :=
  { sq := 0, cq := 0, line := 0, ctl := 0, dbTail := 0, dbHead := 0, tail := 0, head := 0, sqHead := 0, cqTail := 0,
    phase := true, halted := false, ringError := false, waiting := [], uncovered := 0, firstAt := 0,
    lineHeld := false, lineReadAt := 0 }

/-- How far a command read from a ring has come (R456, R457). -/
inductive CmdPhase where
  | waiting
  | started
deriving DecidableEq, Repr

/-- A command that has been read and has not completed (R444, R446). Its key is its place in the order of reading. -/
structure CmdRec where
  pair : Nat
  ctx : Nat
  packet : BitVec 512
  phase : CmdPhase
  /-- since when everything but its token or its block lets it start (R457) -/
  readyAt : Option Nat
  /-- the Deckle at its start (R450), and when it started on the model's clock (R404) -/
  tStart : Nat
  startAt : Nat
  /-- flags raised by its work (R166) -/
  flags : BitVec 4
  /-- operation counters of its context at the start latch (R557) -/
  latch : List Nat
  /-- placement word of its counter record (R557 word 31) -/
  place : BitVec 64
deriving DecidableEq, Repr

/-- One occurrence of a notice (R450, R453). -/
structure Occ where
  ctx : Nat
  detect : Nat
  data : BitVec 64
  detail : BitVec 32
deriving DecidableEq, Repr

/-- What the device keeps for one notice code (R454): the end of its open window, the last suppressed occurrence with the
count of the others, and the occurrence that waits to be posted with the count merged into it. -/
structure NWin where
  until_ : Option Nat
  last : Option Occ
  others : Nat
  wait : Option Occ
  waitOthers : Nat
deriving DecidableEq, Repr

/-- One MSI-X vector (R452): its table entry, its mask and pending bits, and the messages sent. -/
structure Vec where
  entry : BitVec 96
  masked : Bool
  pend : Bool
  sent : Nat
deriving DecidableEq, Repr

/-- What a host read through BAR0, BAR2 or CXL.mem last returned: the value, and whether it carried poison. -/
structure Resp where
  value : Nat
  poison : Bool
deriving DecidableEq, Repr

/-- The host attachment (ch. 11). -/
structure HostIf where
  linkUp : Bool
  /-- when the CXL link went down (R569) -/
  downAt : Nat
  /-- ID_STATUS cxl_mode (R432, R436) -/
  cxlMode : Bool
  session : Bool
  levelNow : Nat
  selftestCode : BitVec 8
  selftestPass : Bool
  mouldReady : Bool
  feltReady : Bool
  dramReady : Bool
  adminReady : Bool
  /-- the end of start-up DRAM self-test (R539) -/
  dramTested : Bool
  idFw : BitVec 64
  idPkg : BitVec 16
  pairs : Tab Pair
  cmds : Tab CmdRec
  /-- place in the order of reading that the next command takes -/
  nextSeq : Nat
  tokens : Tab Nat
  vecs : Tab Vec
  hnCtrl : BitVec 64
  hnMask : BitVec 64
  hnSuppressed : Nat
  hnPosted : Nat
  wins : Tab NWin
  beatSeq : Nat
  lastBeat : Nat
  /-- host memory as far as the device has seen it; `none` is a byte whose read fails (R443) -/
  mem : Tab (Option Byte)
  resp : Resp
deriving DecidableEq, Repr

/-! ### Bonded memory, handles, carve-outs, request tracker (ch. 03) -/

/-- The extent of a handle (R86, Table 5 of ch. 03). -/
structure Extent where
  cls : Nat
  stripe : Nat
  place : Nat
  hostVisible : Bool
  fabricRead : Bool
  size : Nat
  base : Nat
  hdm : Nat
  /-- bytes of the striped area before byte 0: not 0 only in the batch handle, which begins inside a carve-out (R479) -/
  skip : Nat := 0
deriving DecidableEq, Repr

/-- One handle slot (R95, R99): the generation of its handle, whether it is live, whether it is a firmware handle
(R479). A HANDLE_FREE that has been read and not completed stands in the table of commands (R102). -/
structure HSlot where
  gen : Nat
  live : Bool
  firmware : Bool
  ext : Extent
deriving DecidableEq, Repr

/-- The sizes of the carve-outs in bytes (Table 9 of ch. 03); `countersInFw` is the 1 MiB ring of R559. -/
structure Carve where
  vat : Nat
  stack : Nat
  spill : Nat
  counters : Nat
  trace : Nat
  couch : Nat
  window : Nat
  countersInFw : Bool
deriving DecidableEq, Repr

/-- Who issued a near-memory add (R127, R203). -/
inductive AddIssuer where
  | command (id : Nat)
  | cluster (cl uid : Nat)
deriving DecidableEq, Repr

/-- A near-memory add that has been issued and not performed (R125). -/
structure PendAdd where
  addr : Nat
  value : BitVec 32
  issuer : AddIssuer
deriving DecidableEq, Repr

/-- Who holds a carve-out that serves one claimant at a time (R114). -/
inductive Claimant where
  | stackOpen
  | selfTest
  | trace
  | sink
  | restore (id : Nat)
deriving DecidableEq, Repr

structure MemSys where
  /-- bytes of bonded DRAM by device address (R85) -/
  dram : Mem
  /-- error pattern of each 128-bit DRAM word whose stored codeword is not the code of its data (R87, R94) -/
  err : Tab (BitVec 144)
  slots : Tab HSlot
  /-- slots released since reset, longest ago first (R99) -/
  released : List Nat
  /-- lowest slot not used since reset (R99) -/
  fresh : Nat
  carve : Carve
  stackBy : Option Claimant
  traceBy : Option Claimant
  couchBy : Option Claimant
  adds : List PendAdd
  /-- stacks that hold an uncorrectable word seen (event sources 160 + s) -/
  badStacks : List Nat
deriving DecidableEq, Repr

/-- Tracker entries that one context holds (R116 to R119). -/
structure TrkUse where
  guar : Nat
  pool : Nat
  vcs : List Nat
deriving DecidableEq, Repr

/-- A request that waits for a tracker entry (R120). -/
structure TrkWait where
  ctx : Nat
  vc : Nat
  pkt : Packet
  since : Nat
deriving DecidableEq, Repr

/-- Where an outstanding request's entry came from (R119), with the command that issued it. -/
structure TrkEntry where
  ctx : Nat
  vc : Nat
  source : Nat
  cmd : Nat
deriving DecidableEq, Repr

structure Tracker where
  guarantee : Tab Nat
  cap : Tab Nat
  threshold : Nat
  used : Tab TrkUse
  entries : List TrkEntry
  waiting : List TrkWait
  /-- the context after which the next grant begins (R120: round-robin) -/
  turn : Nat
deriving DecidableEq, Repr

/-! ### The job and its slice (ch. 03, 10, 12) -/

/-- A member entry of the placement block (Table 7 of ch. 12): hops +X, -X, +Y, -Y, +Z, -Z. -/
structure Member where
  pkg : Nat
  x : Nat
  y : Nat
  z : Nat
  hops : List Nat
deriving DecidableEq, Repr

/-- A circuit table entry (R395) with the direction map that its dirmap field points to. -/
structure Circuit where
  entry : BitVec 256
  dirs : List Nat
deriving DecidableEq, Repr

/-- A job as its placement block names it (R473), with the lead's decisions once installed (R107). -/
structure Job where
  id : Nat
  extents : List Nat
  members : List Member
  shards : List (Nat × Nat)
  seed : BitVec 256
  report : Nat
  sinkLink : Nat
  /-- the bytes of the block, and their digest (R474) -/
  block : List Byte
  digest : BitVec 256
  generation : Nat
  lead : Nat
  owners : List Nat
  axes : List Nat
  ranks : List Nat
  rankCount : Nat
deriving DecidableEq, Repr

/-- A JOB_PLACE that has started and not completed (R474). -/
structure Placing where
  cmd : Nat
  job : Job
  since : Nat
deriving DecidableEq, Repr

/-- What a member's digest message brought to the lead (R474, R386, R578). -/
structure Heard where
  pkg : Nat
  digest : BitVec 256
  links : List LinkSeen
  serial : BitVec 64
deriving DecidableEq, Repr

/-- A JOB_SPARE that has started and not completed (R578): `ready` says that its checks have passed. -/
structure Sparing where
  cmd : Nat
  fenced : Nat
  spare : Nat
  serial : BitVec 64
  since : Nat
  ready : Bool
deriving DecidableEq, Repr

structure JobState where
  job : Option Job
  placing : Option Placing
  sparing : Option Sparing
  /-- digest messages received since the last placement, one of each package -/
  heard : List Heard
  circuits : Tab Circuit
  /-- a snapshot sink has attached to this package as the lead (R409, R579) -/
  sinkOn : Bool
deriving DecidableEq, Repr

/-! ### The Beater and the Vat (ch. 02) -/

/-- A chunk of the share that has been fetched (R34): its place in the share, its number, its source, and the outcome
of its decode once the Beater has finished it. -/
structure Fetch where
  epoch : Nat
  k : Nat
  chunk : Nat
  skip : Nat
  source : Nat
  entry : BitVec 256
  done : Option DecodeResult
deriving DecidableEq, Repr

/-- The sample profile of VAT_CONFIG (R479) with its batch handle and the context of VAT_START. -/
structure VatCfg where
  profile : BitVec 1024
  handle : Nat
deriving DecidableEq, Repr

/-- A data position with the draw counter (R77, R78): share cursor (epoch, k, sample i), g, and the counter c. -/
structure VatPos where
  epoch : Nat
  k : Nat
  i : Nat
  g : Nat
  c : Nat
deriving DecidableEq, Repr

structure Vat where
  /-- registered source descriptors (R39), first registered first -/
  sources : List (BitVec 512)
  cfg : Option VatCfg
  running : Bool
  /-- the VAT_STOP that waits for the chunks in flight (R79) -/
  stopping : Option Nat
  ctx : Nat
  /-- chunk count fixed at VAT_START (R43) -/
  chunks : Nat
  /-- cursor of the next chunk of the share, and the samples of it that a restored window leaves out (R82) -/
  epoch : Nat
  k : Nat
  skip : Nat
  fetches : List Fetch
  /-- next sequence number (R71) -/
  nextQ : Nat
  /-- samples numbered that no slot has room for yet, with the bytes of their slots (R73) -/
  held : List (Nat × List Byte)
  /-- the window whose draws have started and not finished (R75) -/
  window : Option Nat
  /-- draws copied: g of the next draw to copy (R74), and the draw counter (R78) -/
  copied : Nat
  drawn : Nat
  /-- draws of the current batch copied so far, and batches handed over (R76) -/
  inBatch : Nat
  batches : Nat
  /-- the draws of a window are finished and the next window is not full (R75) -/
  stalled : Bool
  /-- the next batch's region waits for its release token (R25) -/
  regionWait : Bool
  /-- where sample wS of each window w came from: epoch, share cursor and sample (R77) -/
  starts : Tab (Nat × Nat × Nat)
  /-- position after the last batch (R78), and after each of the last 64 handovers by batch (R588) -/
  position : VatPos
  history : List (Nat × VatPos)
  flags : BitVec 4
deriving DecidableEq, Repr

/-! ### Clusters, launches, row engines, activation stack (ch. 05, 06) -/

/-- A rounding context (R180). -/
structure RndCtx where
  stream : Nat
  step : Nat
  base : Nat
deriving DecidableEq, Repr

/-- A word of a queue (R186): its index, its 128 bits, the index registers and the rounding contexts as they stood when
the distributor appended it, whether it has started, and whether it waits for near-memory adds (R203). -/
structure QWord where
  uid : Nat
  idx : Nat
  word : BitVec 128
  ix : List Nat
  rc : List RndCtx
  started : Bool
  adding : Bool
deriving DecidableEq, Repr

/-- An open accumulation group (R168, R170, R207). -/
structure Group where
  depth : Nat
  occupied : List Bool
  topValid : Bool
  /-- `none` until its first MMA fixes the kind; then whether it is an INT32 group -/
  kind : Option Bool
deriving DecidableEq, Repr

/-- A cluster (R180): launch and rank, registers, memories, queues, groups and sticky flags. -/
structure Cluster where
  launch : Option Nat
  rank : Nat
  scratch : Mem
  pages : Tab (Tab (BitVec 32))
  tokens : Tab Nat
  ix : Tab Nat
  lc : Tab Nat
  rc : Tab RndCtx
  /-- instruction index of the distributor, and whether it has reached STOP (R224) -/
  pc : Nat
  ended : Bool
  stopped : Bool
  copyQ : List QWord
  matQ : List QWord
  vecQ : List QWord
  uid : Nat
  groups : Tab Group
  copyFlags : BitVec 4
  matFlags : BitVec 4
  vecFlags : BitVec 4
  /-- K-blocks, vector elements and copy bytes since the command started, and what its counter of busy cycles held then
  (R223) -/
  kBlocks : Nat
  elems : Nat
  copyBytes : Nat
  busy : Nat
  /-- when an instruction last started or completed (R196) -/
  progressAt : Nat
deriving DecidableEq, Repr

/-- A cluster as it is while no launch has used it. -/
def Cluster.idle : Cluster :=
  { launch := none, rank := 0, scratch := [], pages := [], tokens := [], ix := [], lc := [], rc := [], pc := 0,
    ended := false, stopped := false, copyQ := [], matQ := [], vecQ := [], uid := 0, groups := [], copyFlags := 0,
    matFlags := 0, vecFlags := 0, kBlocks := 0, elems := 0, copyBytes := 0, busy := 0, progressAt := 0 }

/-- An operand slot of a launch (R180, Table 10 of ch. 12). -/
structure OpSlot where
  handle : Nat
  writable : Bool
  off : Nat
  len : Nat
deriving DecidableEq, Repr

/-- A stream binding (R228). -/
structure Binding where
  shard : Nat
  step : Nat
  rows : Nat
  cols : Nat
  replicas : Nat
  final : Bool
deriving DecidableEq, Repr

/-- Why a launch stops (R195): status, detail, rank and instruction index. -/
structure StopCause where
  status : Nat
  detail : Nat
  rank : Nat
  idx : Nat
deriving DecidableEq, Repr

/-- A launch whose checks have passed (R476, R477). Its key is its command. -/
structure Launch where
  words : List (BitVec 128)
  want : Nat
  /-- physical clusters by rank; empty while it waits (R477) -/
  held : List Nat
  slots : List OpSlot
  params : List (BitVec 64)
  bindings : List Binding
  usesStack : Bool
  stop : Option StopCause
  /-- zero tiles streamed for its final bindings so far (R232) -/
  zeros : Nat
deriving DecidableEq, Repr

/-- A statistic entry (R255, R256). -/
structure Stat where
  bank : Nat
  tag : Nat
  kind : Nat
  hi : BitVec 32
  lo : BitVec 32
deriving DecidableEq, Repr

/-- A record of an activation sub-stack (R264). -/
structure StackRec where
  mark : Nat
  len : Nat
  data : List Byte
deriving DecidableEq, Repr

structure Sheet where
  clusters : Tab Cluster
  launches : Tab Launch
  /-- sticky flags of the row engine of each quire (R251) -/
  rowFlags : Tab (BitVec 4)
  /-- side memory of each home quire, oldest entry first (R256, R258) -/
  homes : Tab (List Stat)
  /-- live entries in the spill carve-out (R258), as bank * 2^24 + tag -/
  spilled : Tab Stat
  /-- ranks of STACK_OPEN while it is in force, and its sub-stacks, top record first (R263) -/
  stackRanks : Option Nat
  subStacks : Tab (List StackRec)
deriving DecidableEq, Repr

/-! ### The reduce path (ch. 06) -/

/-- What a member keeps of one step of a shard's reduce path (R231, R234, R236 to R238, R642). -/
structure RedStep where
  /-- grid of the binding: tile rows and tile columns -/
  rows : Nat
  cols : Nat
  /-- tiles this package has streamed, as row * 65536 + column (R231) -/
  streamed : List Nat
  /-- tile rows that credit has been granted for (R237) -/
  credit : List Nat
  /-- the first streaming close has sent its credit request (R642) -/
  requested : Bool
  refused : Bool
  abandoned : Bool
  /-- partial sums by tile: contributor count and the 1,024 words (R234) -/
  partials : Tab (Nat × List (BitVec 32))
  /-- on the owner: members whose closes wait for its credit (R642) -/
  waiters : List Nat
  /-- on the owner: contributor count of each tile and of each slice (R238) -/
  counts : Tab Nat
  sliceCount : Tab Nat
  /-- on the owner: complete slices in order of completion, and how many of them the Press has consumed (R238, R236) -/
  complete : List Nat
  consumed : Nat
  /-- latest moment that R241 counts from -/
  movedAt : Nat
  /-- flags of combine adds (R240) -/
  flags : BitVec 4
deriving DecidableEq, Repr

/-- A step of which nothing has been streamed, of a grid. -/
def RedStep.fresh (rows cols at_ : Nat) : RedStep :=
  { rows := rows, cols := cols, streamed := [], credit := [], requested := false, refused := false, abandoned := false,
    partials := [], waiters := [], counts := [], sliceCount := [], complete := [], consumed := 0, movedAt := at_, flags := 0 }

/-- Steps by shard * 2^48 + step. -/
structure Reduce where
  steps : Tab RedStep
deriving DecidableEq, Repr

/-! ### The Press (ch. 07) -/

/-- A PRESS_APPLY in slice form that has started (R284). -/
structure PressRun where
  cmd : Nat
  step : Nat
  hp : BitVec 512
  guard : Bool
  frozen : Nat
  skips : Nat
  slices : Nat
  poison : Bool
deriving DecidableEq, Repr

/-- A shard attached to the Press (R269). -/
structure PShard where
  weight : Nat
  state : Nat
  landing : Nat
  config : BitVec 8
  rows : Nat
  cols : Nat
  s0 : Nat
  token : Nat
  /-- gradient form once fixed: `some true` is the row list (R285) -/
  form : Option Bool
  /-- Mould matrices declared from it while it is resident (R314) -/
  resident : List Nat
  run : Option PressRun
  /-- Press work has started since the last step completed (R586) -/
  later : Bool
deriving DecidableEq, Repr

structure Press where
  shards : Tab PShard
deriving DecidableEq, Repr

/-! ### The Mould (ch. 08) -/

/-- A declared matrix (R310 to R313): its copy, its shape and its nonzero tiles. -/
structure Matrix where
  copy : List (BitVec 32)
  fmt : Nat
  m : Nat
  k : Nat
  pin : Nat
  optical : Bool
  tiles : List Nat
  shard : Option Nat
deriving DecidableEq, Repr

/-- A Mould unit (R308, R340). -/
structure MouldUnit where
  state : Nat
  flags : BitVec 4
  sect : Nat
  reason : Nat
  lines : BitVec 32
  lastPass : Nat
  rms : BitVec 32
  maxErr : BitVec 32
  /-- matrix id and tile index loaded (Table 8 of ch. 08), `none` if none; the tile being loaded, and since when -/
  loaded : Option (Nat × Nat)
  loading : Option (Nat × Nat)
  loadAt : Nat
  excess : BitVec 32
  tPass : Nat
  tCal : Nat
  fallbacks : Nat
  /-- sequence number of the last capture (R333), when it was made, and whether its verdict is due (R334) -/
  probeSeq : Nat
  captureAt : Nat
  probing : Bool
  /-- comb start under way, calibration under way, and probing on Hadamard vectors for return to service (R327, R337) -/
  comb : Bool
  calibrating : Bool
  hadamard : Bool
  /-- passes in a row since calibration, recoveries failed in a row, probes in a row above the drift bound -/
  passes : Nat
  failures : Nat
  drift : Nat
  /-- the MOULD_RETUNE that runs -/
  retune : Option Nat
  /-- the ring under search on each bus that is searched, and the rings that failed their last search, as bus * 32 + ring
  (R328, R329) -/
  searching : List Nat
  parked : List Nat
  /-- details of the MOULD_APPLY commands completed in light, back to last_pass (R336) -/
  done : List Nat
deriving DecidableEq, Repr

/-- A MOULD_APPLY in light that waits for tile loads (R325): its matrix, the units that it runs on, and the tiles still
to be loaded, each with its unit, in order. -/
structure LightRun where
  cmd : Nat
  id : Nat
  mat : Matrix
  units : List Nat
  work : List (Nat × Nat)
deriving DecidableEq, Repr

structure Mould where
  mats : Tab Matrix
  units : Tab MouldUnit
  runs : List LightRun
deriving DecidableEq, Repr

/-! ### The Felt: links and discovery (ch. 09) -/

/-- An entry of the cabling plan (Table 7 of ch. 09). -/
structure PlanEntry where
  link : Nat
  swapTol : Bool
  expected : Nat
  serial : BitVec 64
  pkg : Nat
deriving DecidableEq, Repr

structure Plan where
  id : Nat
  generation : Nat
  pkg : Nat
  modes : Nat
  entries : List PlanEntry
deriving DecidableEq, Repr

/-- One link, by its number 4 * port + group (R343, R377). -/
structure Link where
  /-- step of Table 5 reached: 0 dark, 1 to 8 bring-up, 9 settle, 10 judged -/
  step : Nat
  judged : Nat
  /-- it has been judged before and retrains (R377 state 5) -/
  again : Bool
  on : Bool
  laneMap : BitVec 32
  sendMap : BitVec 32
  nextMap : Option (BitVec 32)
  epoch : Nat
  nonce : BitVec 128
  peerNonce : BitVec 128
  peerSerial : BitVec 64
  peerPkg : Nat
  peerPhys : Nat
  peerLogical : Nat
  peerMode : Nat
  peerKey : Option (BitVec 512)
  idFailed : Bool
  settled : Bool
  logical : Nat
  loopNs : Nat
  /-- sender: next sequence, packets not acknowledged (sequence, VC, packet), packets waiting for credit by VC -/
  txSeq : Nat
  unacked : List (Nat × Nat × Packet)
  txq : Tab (List Packet)
  /-- codewords held by the receiver per VC, freed counts last seen, credit_seq last seen (R356, R357) -/
  heldCw : List Nat
  freedSeen : List Nat
  creditSeen : Nat
  /-- receiver: next sequence, freed counts, credit_seq, freed since the last credit codeword, its time -/
  rxSeq : Nat
  freed : List Nat
  creditSeq : Nat
  freedSince : List Nat
  creditAt : Nat
  /-- a packet has been received whole or freed since the last credit codeword (R357) -/
  changed : Bool
  /-- replay requests of one sequence in a row (R354), the moment retraining began, and the neighbour with which the link's
  sequences and replay buffer stand (0: none) -/
  replays : Nat
  replaySeq : Nat
  retrainAt : Option Nat
  oldSerial : BitVec 64
  /-- lanes that re-search and the moment from which each has been clean (R363) -/
  rejoin : Tab Nat
  /-- discovery record being repeated and the last record received (R368) -/
  outType : Nat
  sentAt : Nat
  /-- codewords received and not yet a whole packet (R352) -/
  partialCw : List Unit16
deriving DecidableEq, Repr

structure Felt where
  plan : Option Plan
  links : Tab Link
  /-- port modes in force (R343), FCLK lane of each port (R359), `none` the local reference -/
  modes : List Nat
  fclk : List (Option Nat)
  /-- Felt loopback failed at self-test, by port (R541) -/
  portBad : List Nat
  /-- when PD18 was switched on (R365) -/
  litAt : Nat
  /-- packets received whole and handed on to the package, in order of arrival: link, VC, packet -/
  rxq : List (Nat × Nat × Packet)
deriving DecidableEq, Repr

/-! ### The Felt: transfers (ch. 10) -/

/-- What has left the package: codewords on a link (R349), a regulator write (R515), messages of the sideband and the DOE
mailbox (ch. 16, 17), and the messages whose frame layout the spec does not give: placement digests and decisions (R107,
R474), reduce-path credit, refusals, abandonments and partials (R234, R237, R241, R642), fence requests (R572). -/
inductive Out where
  | digest (dst : Nat) (d : BitVec 256) (links : List LinkSeen) (serial : BitVec 64)
  | decision (dst : Nat) (dec : Decision)
  | creditRequest (dst shard step rows cols : Nat)
  | credit (dst shard step row : Nat)
  | refusal (dst shard step : Nat) (later : Bool)
  | abandon (dst shard step : Nat)
  | tile (dst shard step row col count : Nat) (words : List (BitVec 32)) (flags : BitVec 4)
  | fenceRequest (dst pkg reason : Nat)
  | stretchCredit (link vc units : Nat)
  | codeword (link : Nat) (cw : Unit16)
  | sideband (code : Nat) (data : List Byte)
  | doe (data : List Byte)
  | avs (die mv : Nat)
deriving DecidableEq, Repr

/-- Landing record of a receiving transfer (R400). -/
structure Landing where
  expect : Nat
  lasts : List Nat
  totals : Nat
  units : Nat
deriving DecidableEq, Repr

/-- A collective that has started (R405): its packet, whose parameters it uses to the end, and how far it has come. Its
key is its command. -/
structure Inst where
  packet : BitVec 512
  ctx : Nat
  /-- 0 GATHER_JIT, 1 BROADCAST, 2 REDUCE_SCATTER, 3 ALL_REDUCE, 4 ALL_TO_ALL -/
  kind : Nat
  since : Nat
  /-- shards listed by a GATHER_JIT, and the places in that list that this owner has still to read out (R407); of an
  ALL_TO_ALL, the byte counts it sends (R412) -/
  shards : List Nat
  left : List Nat
  land : Landing
  /-- READY packets received: sender's member index, package of the tree neighbour, members ready in its subtree (R403) -/
  ready : List (Nat × Nat × Nat)
  /-- senders toward which this member has reported its subtree ready -/
  readySent : List Nat
  sent : Bool
  poison : Bool
  /-- weight received, and sums of units with their contributor counts, by segment * 2^32 + unit (R401) -/
  weight : Nat
  sums : Tab (Nat × List (BitVec 32))
  /-- units of other members' segments passed on, and whether the command has completed before the last of them -/
  passed : Nat
  isOver : Bool
  /-- bytes received from each member of an ALL_TO_ALL (R412) -/
  counts : Tab Nat
deriving DecidableEq, Repr

/-- A PUT or GET in flight (R413, R414). -/
structure OneSided where
  get_ : Bool
  pkg : Nat
  units : Nat
  acked : Nat
  status : Nat
deriving DecidableEq, Repr

/-- A transit grant (R421): the borrowing job, the share, the stretch (package, link in, link out), and the VC 7
codewords sent in the current window of 1 µs with its start (R423). -/
structure Grant where
  borrower : Nat
  share : Nat
  stretch : List (Nat × Nat × Nat)
  slotsUsed : Nat
  windowAt : Nat
deriving DecidableEq, Repr

/-- Congestion samples and maps (R426, R427). -/
structure Congest where
  samples : List (List Nat)
  sampleAt : Nat
  seq : Nat
  startAt : Nat
  maps : List (Nat × List Byte)
  /-- codewords sent since the last map, by 2 * link, and of them those on VC 7, by 2 * link + 1 -/
  sent : Tab Nat
deriving DecidableEq, Repr

structure Xfer where
  insts : Tab Inst
  ones : Tab OneSided
  grants : Tab Grant
  /-- credit that this package holds for a stretch it enters, by link * 8 + VC (R424) -/
  stretchCredit : Tab Nat
  congest : Congest
  /-- messages that have left the package, newest first -/
  out : List Out
deriving DecidableEq, Repr

/-! ### Management cores and event controller (ch. 13) -/

/-- The kick word of a core as last sampled and since when it has not changed (R486, R490). -/
structure Kick where
  word : BitVec 64
  since : Nat
deriving DecidableEq, Repr

structure Mgmt where
  fwState : Nat
  kicks : Tab Kick
  misses : Nat
  /-- when a core was last restarted under R487 (R489), `none` if never -/
  restartAt : Option Nat
  restarting : Bool
  /-- 0 awake, 1 S1, 2 S2 (R502 to R504) -/
  sleep : Nat
  /-- when a sentinel was last restarted under R490, `none` if never -/
  sentinelAt : Option Nat
  /-- the domains of start-up have been queued since package reset (R537) -/
  broughtUp : Bool
  /-- the boot ROM has checked the banks since package reset (R612) -/
  romDone : Bool
  /-- a FW_ACTIVATE under way: its command and when it began (R616) -/
  activating : Option (Nat × Nat)
deriving DecidableEq, Repr

/-- One event source (R493, Table 8 of ch. 13). -/
structure Source where
  targets : BitVec 10
  wake : Bool
  prio : Nat
  pend : Bool
  active : Bool
  latch : Bool
  level : Bool
deriving DecidableEq, Repr

/-- The controller's registers of one core: threshold, run stack of (source, priority) top first, bad_complete. -/
structure EvCore where
  thresh : Nat
  stack : List (Nat × Nat)
  bad : Bool
deriving DecidableEq, Repr

structure Evc where
  sources : Tab Source
  sleepMode : BitVec 32
  cores : Tab EvCore
  /-- what the last claim reads returned, by core (R495) -/
  claims : Tab Nat
deriving DecidableEq, Repr

/-! ### Clocks, power, thermal control (ch. 14) -/

/-- A PLL and its divider (R509, R512): lock, current j, and the time of the last step. -/
structure Clk where
  locked : Bool
  j : Nat
  target : Nat
  stepAt : Nat
deriving DecidableEq, Repr

/-- Thermal control of one die (R525 to R536). -/
structure Die where
  ceiling : Nat
  throttle : Nat
  clampLevel : Nat
  clampActive : Bool
  /-- when MCLK reached the clamp level (R532) -/
  reachedAt : Option Nat
  clampEvents : Nat
  critical : Bool
  /-- each logic sensor's last readings, newest first, at most 101 (R530) -/
  logic : List (List Int)
  dram : List Int
  /-- when the throttle loop of the die last ran (R528) -/
  loopAt : Nat
  vcore : Nat
  /-- AVSBus writes refused in a row and when the last was made (R633) -/
  avsFails : Nat
  avsAt : Nat
deriving DecidableEq, Repr

structure Power where
  resetLow : Bool
  crystal : Bool
  clks : Tab Clk
  /-- domains that are on, and the stage of each domain being switched (R517): (on?, stage, at) -/
  on : BitVec 20
  stage : Tab (Bool × Nat × Nat)
  /-- domains of the current sequence not yet started, with their direction (R518) -/
  sequence : List (Nat × Bool)
  startedAt : Nat
  /-- the POWER_SET that runs (R520) -/
  cmd : Option Nat
  dies : Tab Die
  tripped : Bool
  events : BitVec 13
  power : Nat
  /-- stacks that refresh at twice the normal rate (R529) -/
  fastRefresh : List Nat
deriving DecidableEq, Repr

/-! ### Deckle, counters, trace, debug (ch. 15) -/

/-- An announce heard (R545). -/
structure Announce where
  link : Nat
  serial : BitVec 64
  pkg : Nat
  hops : Nat
  flags : Nat
  heardAt : Nat
deriving DecidableEq, Repr

structure Deckle where
  now : Nat
  latch : Nat
  role : Bool
  source : Bool
  state : Nat
  announces : List Announce
  up : Option Nat
  master : Nat
  hops : Nat
  mserial : BitVec 64
  overridden : Bool
  pulse : Bool
  pulseAt : Option Nat
  edge : Nat
  theta : Int
  freq : BitVec 32
  events : BitVec 5
  asym : Tab Int
  acquiring : Bool
  /-- nanoseconds still to be slewed away (R547), in units of 1/65536 ns -/
  slew : Int
  seq : Nat
  /-- sync exchange under way: t1, t2, t3 in units of 1/65536 ns, and syncs unanswered in a row -/
  t1 : Int
  t2 : Int
  t3 : Option Int
  unanswered : Nat
  /-- when the last announce was sent and the last exchange begun; edges of the pulse seen since DECKLE_CONFIG -/
  announceAt : Nat
  syncAt : Nat
  edges : Bool
deriving DecidableEq, Repr

structure Counters where
  /-- counters by their slot in the CNT_ window: offset / 8 (R555) -/
  cnt : Tab Nat
  /-- operation counters by context * 32 + word, and package totals under context 1024 (R556) -/
  ops : Tab Nat
  /-- counter records held, by index (R558, R559) -/
  recs : Tab (BitVec 2048)
  next : Nat
  oldest : Nat
deriving DecidableEq, Repr

structure Trace where
  enabled : Bool
  mask : BitVec 32
  next : Nat
  recs : List (Nat × BitVec 512)
  dropped : Nat
  loss : Bool
  win : BitVec 64
deriving DecidableEq, Repr

/-! ### Failures, checkpoints, black box (ch. 16) -/

structure Fail where
  /-- members fenced since the last redraw, with their reasons (R573) -/
  fenced : List (Nat × Nat)
  fenceSeq : Nat
  selfFenced : Option Nat
  actingLead : Bool
  beatSeq : Nat
  /-- when each member was last heard (R570) -/
  heard : Tab Nat
  beatAt : Nat
deriving DecidableEq, Repr

/-- What the sink keeps of one shard (R581): the tag being assembled, the packets received by offset and units, the last
packet's stable mark, and the bytes, by offset, that it keeps. -/
structure Assembly where
  tag : Nat
  got : List (Nat × Nat)
  stable : Bool
  poison : Bool
  bytes : Tab (List Byte)
deriving DecidableEq, Repr

/-- A checkpoint round at the sink (R585, R589): the called step, the entries received, by shard and by rank, and the
high-plane digests of the accepted copy once it has come. -/
structure Round where
  number : Nat
  step : Nat
  entries : Tab (BitVec 768)
  ranks : Tab (BitVec 512)
  copied : Bool
  digests : Tab (BitVec 256)
deriving DecidableEq, Repr

/-- A sealed manifest, and whether a CKPT_SAVE of step 0 has written it (R590). -/
structure Manifest where
  step : Nat
  bytes : List Byte
  saved : Bool
deriving DecidableEq, Repr

/-- The snapshot sink role (R579 to R590): `cmd` is the SINK_START that waits for the lead's answer. -/
structure Sink where
  job : Nat
  link : Nat
  interval : Nat
  whole : Bool
  cmd : Option Nat
  startAt : Nat
  generation : Nat
  /-- parameters and class of each shard (R579) -/
  shards : List (Nat × Nat)
  asm : Tab Assembly
  /-- step of the last complete copy, and its bytes by shard in whole-copy mode -/
  copy : Option Nat
  copyBytes : Tab (List Byte)
  /-- the last step whose copy has been discarded -/
  discardedAt : Option Nat
  /-- when the last round was sealed, or SINK_START completed (R585) -/
  sealedAt : Nat
  round : Option Round
  rounds : Nat
  complete : Nat
  discarded : Nat
  stale : Nat
  /-- the highest tag seen (R585) -/
  high : Nat
deriving DecidableEq, Repr

/-- Checkpoints: the sink role, the last four sealed manifests, oldest first (R589); and an owner's part in a round (R586):
the called step with its round number, the shards held since when, the shards that were late, and the CKPT_SAVE commands
that wait (R587, R590). -/
structure Ckpt where
  sink : Option Sink
  manifests : List Manifest
  called : Option Nat
  round : Nat
  holds : Tab Nat
  late : List Nat
deriving DecidableEq, Repr

structure BlackBox where
  recs : List (Nat × BitVec 4096)
  next : Nat
  lastSelf : BitVec 256
  mark : Nat
  boot : Nat
  queue : List (Nat × BitVec 256 × List Byte)
  lost : Nat
  charged : Bool
  /-- the last eight notice records posted (R602) -/
  notices : List (BitVec 256)
  dumpAt : Option Nat
  nearPosted : Bool
deriving DecidableEq, Repr

/-! ### Identity and pins (ch. 17, 18) -/

structure Identity where
  fuses : Nat
  bankA : List Byte
  bankB : List Byte
  /-- the bank flag: true names bank B (R610) -/
  flag : Bool
  staged : Bool
  slots : Tab (BitVec 256)
  changes : Nat
  unlocked : Bool
  challenge : Option (BitVec 128)
deriving DecidableEq, Repr

structure Pins where
  perstLow : Bool
  thermLow : Bool
  /-- the shared ball: 0 free, 1 time pulse, 2 dump trigger (R482, R630) -/
  ball : Nat
deriving DecidableEq, Repr

/-- The state of the block. `time` counts nanoseconds since package reset on the model's own clock; `free` numbers the
draws of free values (both are the model's fields, not the spec's). `pending` is the queue of waiting commands. -/
structure State where
  time : Nat
  free : Nat
  host : HostIf
  mem : MemSys
  trk : Tracker
  job : JobState
  vat : Vat
  sheet : Sheet
  red : Reduce
  press : Press
  mould : Mould
  felt : Felt
  xfer : Xfer
  mgmt : Mgmt
  evc : Evc
  pwr : Power
  dk : Deckle
  ctr : Counters
  trc : Trace
  fail : Fail
  ckpt : Ckpt
  bb : BlackBox
  iden : Identity
  pins : Pins
  pending : List Instr
deriving DecidableEq, Repr

/-! ### The state after package reset -/

/-- An event source at reset (Table 8 of ch. 13): wake is 1 for sources 0 to 9. -/
def Source.atReset (i : Nat) : Source :=
  { targets := 0, wake := decide (i < 10), prio := 0, pend := false, active := false, latch := false, level := false }

/-- A core's controller registers at reset (Table 8 of ch. 13). -/
def EvCore.atReset : EvCore := { thresh := 0, stack := [], bad := false }

/-- A clock at reset: not locked, stopped (R509, Table 8 of ch. 14). -/
def Clk.atReset : Clk := { locked := false, j := 0, target := 0, stepAt := 0 }

/-- A die at reset (Table 8 of ch. 14). -/
def Die.atReset : Die :=
  { ceiling := 15, throttle := 15, clampLevel := 10, clampActive := false, reachedAt := none, clampEvents := 0,
    critical := false, logic := [], dram := [], loopAt := 0, vcore := 750, avsFails := 0, avsAt := 0 }

/-- A vector at reset: masked, as PCI Express has it (PRESUMED, log 5). -/
def Vec.atReset : Vec := { entry := 0, masked := true, pend := false, sent := 0 }

/-- A notice code with no open window (R454). -/
def NWin.empty : NWin := { until_ := none, last := none, others := 0, wait := none, waitOthers := 0 }

/-- A Mould unit at reset: off (Table 6 of ch. 08). -/
def MouldUnit.atReset : MouldUnit :=
  { state := 0, flags := 0, sect := 0xFF, reason := 0, lines := 0, lastPass := 0, rms := 0, maxErr := 0, loaded := none,
    loading := none, loadAt := 0, excess := 0, tPass := 0, tCal := 0, fallbacks := 0, probeSeq := 0, captureAt := 0,
    probing := false, comb := false, calibrating := false, hadamard := false, passes := 0, failures := 0, drift := 0,
    retune := none, searching := [], parked := [], done := [] }

/-- A link at reset: no light (R377). -/
def Link.atReset : Link :=
  { step := 0, judged := 0, again := false, on := true, laneMap := 0, sendMap := 0, nextMap := none, epoch := 0, nonce := 0,
    peerNonce := 0, peerSerial := 0, peerPkg := 0, peerPhys := 0, peerLogical := 0, peerMode := 0, peerKey := none,
    idFailed := false, settled := false, logical := 0, loopNs := 0, txSeq := 0, unacked := [], txq := [],
    heldCw := [], freedSeen := [], creditSeen := 0, rxSeq := 0, freed := [], creditSeq := 0,
    freedSince := [], creditAt := 0, changed := false, replays := 0, replaySeq := 0, retrainAt := none, oldSerial := 0, rejoin := [],
    outType := 0, sentAt := 0, partialCw := [] }

/-- The Vat with no source, no configuration and nothing under way. -/
def Vat.idle : Vat :=
  { sources := [], cfg := none, running := false, stopping := none, ctx := 0, chunks := 0, epoch := 0, k := 0, skip := 0,
    fetches := [], nextQ := 0, held := [], window := none, copied := 0, drawn := 0, inBatch := 0, batches := 0,
    stalled := false, regionWait := false, starts := [], position := ⟨0, 0, 0, 0, 0⟩, history := [], flags := 0 }

/-- The carve-outs from package reset until the first MEM_CONFIG (R640). -/
def Carve.atReset : Carve :=
  { vat := 0, stack := 0, spill := 256 * 2 ^ 20, counters := 2 ^ 20, trace := 0, couch := 0, window := 0,
    countersInFw := true }

/-- The package right after package reset, before RESET_N is released (R537, R626). Where the spec gives a register no
reset value, the value here is the model's (log 4). -/
def State.reset : State :=
  { time := 0, free := 0
    host := { linkUp := false, downAt := 0, cxlMode := false, session := false, levelNow := 0, selftestCode := 0,
              selftestPass := false, mouldReady := false, feltReady := false, dramReady := false, adminReady := false,
              dramTested := false, idFw := 0, idPkg := 0xFFFF, pairs := [], cmds := [], nextSeq := 0, tokens := [],
              vecs := [], hnCtrl := 0, hnMask := 0, hnSuppressed := 0, hnPosted := 0, wins := [], beatSeq := 0,
              lastBeat := 0, mem := [], resp := { value := 0, poison := false } }
    mem := { dram := [], err := [], slots := [], released := [], fresh := 0, carve := Carve.atReset, stackBy := none,
             traceBy := none, couchBy := none, adds := [], badStacks := [] }
    trk := { guarantee := [], cap := [], threshold := 64, used := [], entries := [], waiting := [], turn := 0 }
    job := { job := none, placing := none, sparing := none, heard := [], circuits := [], sinkOn := false }
    vat := Vat.idle
    sheet := { clusters := [], launches := [], rowFlags := [], homes := [], spilled := [], stackRanks := none, subStacks := [] }
    red := { steps := [] }
    press := { shards := [] }
    mould := { mats := [], units := [], runs := [] }
    felt := { plan := none, links := [], modes := [0, 0, 0, 0, 0, 0], fclk := [none, none, none, none, none, none],
              portBad := [], litAt := 0, rxq := [] }
    xfer := { insts := [], ones := [], grants := [], stretchCredit := [],
              congest := { samples := [], sampleAt := 0, seq := 0, startAt := 0, maps := [], sent := [] }, out := [] }
    mgmt := { fwState := 0, kicks := [], misses := 0, restartAt := none, restarting := false, sleep := 0,
              sentinelAt := none, broughtUp := false, romDone := false, activating := none }
    evc := { sources := [], sleepMode := 0xFFFFFFFC, cores := [], claims := [] }
    pwr := { resetLow := true, crystal := false, clks := [], on := 1, stage := [], sequence := [], startedAt := 0,
             cmd := none, dies := [], tripped := false, events := 0, power := 0, fastRefresh := [] }
    dk := { now := 0, latch := 0, role := false, source := false, state := 0, announces := [], up := none,
            master := 0xFFFF, hops := 0xFF, mserial := 0, overridden := false, pulse := false, pulseAt := none,
            edge := 0, theta := 0, freq := 0, events := 0, asym := [], acquiring := true, slew := 0, seq := 0,
            t1 := 0, t2 := 0, t3 := none, unanswered := 0, announceAt := 0, syncAt := 0, edges := false }
    ctr := { cnt := [], ops := [], recs := [], next := 0, oldest := 0 }
    trc := { enabled := false, mask := 0, next := 0, recs := [], dropped := 0, loss := false, win := 0 }
    fail := { fenced := [], fenceSeq := 0, selfFenced := none, actingLead := false, beatSeq := 0, heard := [],
              beatAt := 0 }
    ckpt := { sink := none, manifests := [], called := none, round := 0, holds := [], late := [] }
    bb := { recs := [], next := Config.bbSequence, lastSelf := Config.bbLastSelf, mark := Config.bbSequence, boot := Config.bbBoot, queue := [],
            lost := 0, charged := false, notices := [], dumpAt := none, nearPosted := false }
    iden := { fuses := Config.factoryFuses % 65, bankA := Config.factoryBank, bankB := [], flag := false,
              staged := false, slots := [(0, Config.bootRomDigest)], changes := 0, unlocked := false, challenge := none }
    pins := { perstLow := false, thermLow := false, ball := 0 }
    pending := [] }

/-- Why a step stops with a fault. -/
inductive Fault where
  /-- An operand names a unit, register, address, lane or member that the package does not have: raised by the meanings
  that take such an operand from outside (clusters above 2,047, links above 23, a device address of 2^40 or more, a byte
  outside BAR2 or the host window). Safe: the hardware has no such unit to act on. -/
  | absent (operand : Nat)
deriving DecidableEq, Repr

/-- Why a step is refused. -/
inductive Refusal where
  /-- The command of this name has no meaning in the model yet: raised by arms of the dispatch only. Safe. -/
  | notModelled (mnemonic : String)
deriving DecidableEq, Repr

end Sys2Proof.Machine
end

