-- ==== Sys2Proof/Machine/Table.lean ====
section
/-! DEFINITION. Operations on sparse tables: look up, set, remove, update. They keep the keys strictly rising. -/
namespace Sys2Proof.Machine

/-- The entry of key `k`, if it is listed. -/
def tget {α : Type} (t : Tab α) (k : Nat) : Option α :=
  match t with
  | [] => none
  | (i, v) :: r => if i = k then some v else tget r k

/-- The entry of key `k`, or `d` where none is listed. -/
def tgetD {α : Type} (t : Tab α) (k : Nat) (d : α) : α := (tget t k).getD d

/-- The table with `v` at key `k`. -/
def tset {α : Type} (t : Tab α) (k : Nat) (v : α) : Tab α :=
  match t with
  | [] => [(k, v)]
  | (i, w) :: r => if k < i then (k, v) :: (i, w) :: r else if k = i then (k, v) :: r else (i, w) :: tset r k v

/-- The table with nothing at key `k`. -/
def tdel {α : Type} (t : Tab α) (k : Nat) : Tab α :=
  match t with
  | [] => []
  | (i, w) :: r => if i = k then tdel r k else (i, w) :: tdel r k

/-- The entry of key `k`, or `d`, replaced by its image under `f`. -/
def tupd {α : Type} (t : Tab α) (k : Nat) (d : α) (f : α → α) : Tab α := tset t k (f (tgetD t k d))

/-- An entry that is listed replaced by its image under `f`; an absent key stays absent. -/
def tmod {α : Type} (t : Tab α) (k : Nat) (f : α → α) : Tab α :=
  match tget t k with
  | none => t
  | some v => tset t k (f v)

/-- Every entry replaced by its image under `f`. -/
def tmap {α β : Type} (t : Tab α) (f : Nat → α → β) : Tab β :=
  match t with
  | [] => []
  | (i, v) :: r => (i, f i v) :: tmap r f

/-- The entries that `p` keeps. -/
def tfilter {α : Type} (t : Tab α) (p : Nat → α → Bool) : Tab α :=
  match t with
  | [] => []
  | (i, v) :: r => if p i v then (i, v) :: tfilter r p else tfilter r p

/-- The first key, in rising order, whose entry `p` accepts. -/
def tfind {α : Type} (t : Tab α) (p : Nat → α → Bool) : Option (Nat × α) :=
  match t with
  | [] => none
  | (i, v) :: r => if p i v then some (i, v) else tfind r p

/-- Some entry satisfies `p`. -/
def tany {α : Type} (t : Tab α) (p : Nat → α → Bool) : Bool :=
  match t with
  | [] => false
  | (i, v) :: r => p i v || tany r p

/-- Every key of `t` is above `lo`. -/
def tabove {α : Type} (lo : Nat) (t : Tab α) : Bool :=
  match t with
  | [] => true
  | (i, _) :: _ => decide (lo < i)

/-- The canonical form: keys strictly rising. Two tables with the same entries are then the same data. -/
def twf {α : Type} (t : Tab α) : Bool :=
  match t with
  | [] => true
  | (i, _) :: r => tabove i r && twf r

/-- The memory keeps its canonical form: listed addresses strictly rising. What an unlisted address reads as is a free
value that nothing can compare a written byte with, so no entry is dropped for being equal to it (log 3). -/
abbrev Memory.wf (m : Mem) : Bool := twf m

/-- Position `i` of a list replaced by its image under `f`; past its end nothing changes. -/
def lupd {α : Type} (l : List α) (i : Nat) (f : α → α) : List α :=
  match l, i with
  | [], _ => []
  | a :: r, 0 => f a :: r
  | a :: r, j + 1 => a :: lupd r j f

end Sys2Proof.Machine
end

