-- ==== Sys2Proof/Machine/Bits.lean ====
section
/-! DEFINITION. Bit fields, byte order and signed readings (R5, R6). -/
namespace Sys2Proof.Machine

/-- The field [hi:lo] of a register, both ends included (R6), as a number. -/
def bits {w : Nat} (v : BitVec w) (hi lo : Nat) : Nat := (v.toNat >>> lo) % 2 ^ (hi + 1 - lo)

/-- One bit of a register. -/
def bit {w : Nat} (v : BitVec w) (i : Nat) : Bool := v.toNat.testBit i

/-- The field [hi:lo] of `v` replaced by `x`. -/
def setBits {w : Nat} (v : BitVec w) (hi lo x : Nat) : BitVec w :=
  let m := (2 ^ (hi + 1 - lo) - 1) <<< lo
  (v &&& ~~~(BitVec.ofNat w m)) ||| BitVec.ofNat w ((x % 2 ^ (hi + 1 - lo)) <<< lo)

/-- One bit of `v` replaced. -/
def setBit {w : Nat} (v : BitVec w) (i : Nat) (b : Bool) : BitVec w := setBits v i i (if b then 1 else 0)

/-- The little-endian field of `len` bytes at byte `off` of a record (R5). -/
def fld {w : Nat} (r : BitVec w) (off len : Nat) : Nat := (r.toNat >>> (8 * off)) % 2 ^ (8 * len)

/-- A list of bytes read as a little-endian number (R5). -/
def leNat (bs : List Byte) : Nat :=
  match bs with
  | [] => 0
  | b :: r => b.toNat + 256 * leNat r

/-- A number as `n` little-endian bytes (R5). -/
def leBytes (n v : Nat) : List Byte :=
  match n with
  | 0 => []
  | k + 1 => BitVec.ofNat 8 v :: leBytes k (v / 256)

/-- A record of `w` bits built from fields: byte offset, length in bytes, value (R5). -/
def mkRec (w : Nat) (fs : List (Nat × Nat × Nat)) : BitVec w :=
  BitVec.ofNat w (fs.foldl (fun a f => a + (f.2.2 % 2 ^ (8 * f.2.1)) <<< (8 * f.1)) 0)

/-- The bytes of a record, first byte first. -/
def recBytes {w : Nat} (r : BitVec w) : List Byte := leBytes (w / 8) r.toNat

/-- A `w`-bit field read in two's complement. -/
def signed (w v : Nat) : Int := if v % 2 ^ w < 2 ^ (w - 1) then ((v % 2 ^ w : Nat) : Int) else ((v % 2 ^ w : Nat) : Int) - ((2 ^ w : Nat) : Int)

/-- The low `w` bits of an integer in two's complement. -/
def unsigned (w : Nat) (v : Int) : Nat := (v % ((2 ^ w : Nat) : Int)).toNat

/-- A list cut into pieces of `n`, over at most `fuel` pieces. -/
def chunks {α : Type} (fuel n : Nat) (l : List α) : List (List α) :=
  match fuel with
  | 0 => []
  | k + 1 => match l with
    | [] => []
    | _ => l.take n :: chunks k n (l.drop n)

/-- ⌈a / b⌉ (b at least 1). -/
def ceilDiv (a b : Nat) : Nat := (a + b - 1) / b

/-- `a` rounded up to a multiple of `b`. -/
def roundUp (a b : Nat) : Nat := ceilDiv a b * b

/-- 1 for true. -/
def b2n (b : Bool) : Nat := if b then 1 else 0

/-- A list has no entry twice. -/
def noDup {α : Type} [BEq α] (l : List α) : Bool :=
  match l with
  | [] => true
  | a :: r => !r.contains a && noDup r

end Sys2Proof.Machine
end

