-- ==== Sys2Proof/Machine/Ecc.lean ====
section
/-! DEFINITION. The S144 code (R87 to R91): encoder, syndromes and decoder. -/
namespace Sys2Proof.Machine

/-- Multiplication by α = 0x02 in GF(2^8) with x^8 + x^4 + x^3 + x^2 + 1 (R88). -/
def gfDouble (a : Byte) : Byte := if bit a 7 then (a <<< 1) ^^^ 0x1D else a <<< 1

/-- α^n × a. -/
def gfPow (n : Nat) (a : Byte) : Byte :=
  match n with
  | 0 => a
  | k + 1 => gfDouble (gfPow k a)

/-- Symbol j of a codeword (R88). -/
def symbol (c : BitVec 144) (j : Nat) : Byte := BitVec.ofNat 8 (c.toNat >>> (8 * j))

/-- Syndrome S0 (R88). -/
def syn0 (c : BitVec 144) : Byte := (List.range 18).foldl (fun a j => a ^^^ symbol c j) 0

/-- Syndrome S1 (R88). -/
def syn1 (c : BitVec 144) : Byte := (List.range 18).foldl (fun a j => a ^^^ gfPow j (symbol c j)) 0

/-- The codeword of a 128-bit word: c1 = (Q + α^16 P) × α^214, c0 = P + c1 (R88). -/
def s144Encode (d : BitVec 128) : BitVec 144 :=
  let sym (j : Nat) : Byte := BitVec.ofNat 8 (d.toNat >>> (8 * j))
  let p := (List.range 16).foldl (fun a j => a ^^^ sym j) (0 : Byte)
  let q := (List.range 16).foldl (fun a j => a ^^^ gfPow j (sym j)) (0 : Byte)
  let c1 := gfPow 214 (q ^^^ gfPow 16 p)
  let c0 := p ^^^ c1
  BitVec.ofNat 144 (d.toNat + c0.toNat * 2 ^ 128 + c1.toNat * 2 ^ 136)

/-- What a decoder makes of a codeword (R89, Table 2 of ch. 03). -/
inductive Decoded where
  | clean (data : BitVec 128)
  | corrected (data : BitVec 128)
  | bad (data : BitVec 128)
deriving DecidableEq, Repr

/-- The S144 decoder (R89). -/
def s144Decode (c : BitVec 144) : Decoded :=
  let s0 := syn0 c
  let s1 := syn1 c
  let data (x : BitVec 144) : BitVec 128 := BitVec.ofNat 128 x.toNat
  if s0 = 0 ∧ s1 = 0 then .clean (data c)
  else if s0 = 0 ∨ s1 = 0 then .bad (data c)
  else match (List.range 18).find? (fun j => gfPow j s0 == s1) with
    | some j => .corrected (data (c ^^^ BitVec.ofNat 144 (s0.toNat <<< (8 * j))))
    | none => .bad (data c)

end Sys2Proof.Machine
end

