-- ==== Sys2Proof/Machine/Hash.lean ====
section
/-! DEFINITION. SM3 (GB/T 32905), which R474, R582, R598, R611 and R617 name, and the piecewise digest of R582. -/
namespace Sys2Proof.Machine

/-- Rotation to the left of a 32-bit word. -/
def rotl (x : BitVec 32) (n : Nat) : BitVec 32 := x.rotateLeft (n % 32)

/-- The two permutations of SM3. -/
def sm3P0 (x : BitVec 32) : BitVec 32 := x ^^^ rotl x 9 ^^^ rotl x 17
def sm3P1 (x : BitVec 32) : BitVec 32 := x ^^^ rotl x 15 ^^^ rotl x 23

/-- The expansion of a block: the word list grows to 68 words, newest first. -/
def sm3Expand (fuel : Nat) (ws : List (BitVec 32)) : List (BitVec 32) :=
  match fuel with
  | 0 => ws
  | n + 1 =>
    let w (i : Nat) : BitVec 32 := (ws[i]?).getD 0
    sm3Expand n ((sm3P1 (w 15 ^^^ w 8 ^^^ rotl (w 2) 15) ^^^ rotl (w 12) 7 ^^^ w 5) :: ws)

/-- One round over the eight chaining words. -/
def sm3Round (ws : List (BitVec 32)) (v : List (BitVec 32)) (j : Nat) : List (BitVec 32) :=
  match v with
  | [a, b, c, d, e, f, g, h] =>
    let t : BitVec 32 := if j < 16 then 0x79cc4519 else 0x7a879d8a
    let w := (ws[j]?).getD 0
    let w' := w ^^^ (ws[j + 4]?).getD 0
    let ss1 := rotl (rotl a 12 + e + rotl t j) 7
    let ss2 := ss1 ^^^ rotl a 12
    let ff := if j < 16 then a ^^^ b ^^^ c else (a &&& b) ||| (a &&& c) ||| (b &&& c)
    let gg := if j < 16 then e ^^^ f ^^^ g else (e &&& f) ||| (~~~e &&& g)
    let tt1 := ff + d + ss2 + w'
    let tt2 := gg + h + ss1 + w
    [tt1, a, rotl b 9, c, sm3P0 tt2, e, rotl f 19, g]
  | _ => v

/-- A big-endian 32-bit word of four bytes. -/
def beWord (bs : List Byte) : BitVec 32 := BitVec.ofNat 32 (leNat bs.reverse)

/-- The compression of one 64-byte block. -/
def sm3Block (v : List (BitVec 32)) (blk : List Byte) : List (BitVec 32) :=
  let ws := (sm3Expand 52 ((chunks 16 4 blk).map beWord).reverse).reverse
  ((List.range 64).foldl (sm3Round ws) v).zipWith (· ^^^ ·) v

/-- SM3's initial value. -/
def sm3Iv : List (BitVec 32) :=
  [0x7380166f, 0x4914b2b9, 0x172442d7, 0xda8a0600, 0xa96f30bc, 0x163138aa, 0xe38dee4d, 0xb0fb0e4e]

/-- The message padded to whole blocks. -/
def sm3Pad (m : List Byte) : List Byte :=
  let n := m.length
  m ++ [0x80] ++ List.replicate ((119 - n % 64) % 64) 0 ++ (leBytes 8 (8 * n)).reverse

/-- The SM3 digest of a byte string, as 32 bytes. -/
def sm3Bytes (m : List Byte) : List Byte :=
  let p := sm3Pad m
  ((chunks (p.length / 64) 64 p).foldl sm3Block sm3Iv).flatMap (fun w => (leBytes 4 w.toNat).reverse)

/-- The SM3 digest as a record of 32 bytes. -/
def sm3 (m : List Byte) : BitVec 256 := BitVec.ofNat 256 (leNat (sm3Bytes m))

/-- The digest of R582: SM3 over the SM3 digests of the 64 KiB pieces. -/
def pieceDigest (m : List Byte) : BitVec 256 :=
  sm3 ((chunks (m.length / 65536 + 1) 65536 m).flatMap sm3Bytes)

end Sys2Proof.Machine
end

