-- ==== Sys2Proof/Machine/Gen.lean ====
section
/-! DEFINITION. The counter generator (R156), its 16-bit draws (R154), and the keyed permutation of the Vat (R67,
R68, R74). -/
namespace Sys2Proof.Machine

/-- One quarter round of ChaCha20 on four positions of the state (RFC 8439, which R156 names). -/
def quarter (st : List (BitVec 32)) (p : Nat × Nat × Nat × Nat) : List (BitVec 32) :=
  let a := (st[p.1]?).getD 0
  let b := (st[p.2.1]?).getD 0
  let c := (st[p.2.2.1]?).getD 0
  let d := (st[p.2.2.2]?).getD 0
  let a := a + b
  let d := rotl (d ^^^ a) 16
  let c := c + d
  let b := rotl (b ^^^ c) 12
  let a := a + b
  let d := rotl (d ^^^ a) 8
  let c := c + d
  let b := rotl (b ^^^ c) 7
  (((st.set p.1 a).set p.2.1 b).set p.2.2.1 c).set p.2.2.2 d

/-- A column round and a diagonal round. -/
def doubleRound (st : List (BitVec 32)) (_ : Nat) : List (BitVec 32) :=
  [(0, 4, 8, 12), (1, 5, 9, 13), (2, 6, 10, 14), (3, 7, 11, 15),
   (0, 5, 10, 15), (1, 6, 11, 12), (2, 7, 8, 13), (3, 4, 9, 14)].foldl quarter st

/-- The block function: 20 rounds and the addition of the input state. -/
def chachaBlock (st : List (BitVec 32)) : List (BitVec 32) :=
  ((List.range 10).foldl doubleRound st).zipWith (· + ·) st

/-- The generator word of (job seed, stream, step, element) (R156). -/
def genWord (seed : BitVec 256) (stream step element : Nat) : BitVec 64 :=
  let block := (element % 2 ^ 48) / 8
  let j := element % 8
  let w (n : Nat) : BitVec 32 := BitVec.ofNat 32 n
  let st : List (BitVec 32) := [0x61707865, 0x3320646E, 0x79622D32, 0x6B206574] ++
    (List.range 8).map (fun i => w (fld seed (4 * i) 4)) ++
    [w block, w ((stream % 2 ^ 16) * 2 ^ 16 + block / 2 ^ 32), w step, w (step / 2 ^ 32)]
  let out := chachaBlock st
  BitVec.ofNat 64 (((out[2 * j]?).getD 0).toNat + ((out[2 * j + 1]?).getD 0).toNat * 2 ^ 32)

/-- The 16-bit random value of element `e` of a stochastically rounded output (R154). -/
def gen16 (seed : BitVec 256) (stream step e : Nat) : Nat :=
  ((genWord seed stream step (e / 4)).toNat >>> (16 * (e % 4))) % 65536

/-- One round of the Feistel network of R68 on halves of `h` bits. -/
def feistelRound (h : Nat) (lr : Nat × Nat) (key : Nat) : Nat × Nat :=
  (lr.2, lr.1 ^^^ ((((lr.2 + key) * 0x9E3779B1) % 2 ^ 32) >>> (32 - h)))

/-- `feistel` of R68. -/
def feistel (x b : Nat) (keys : List Nat) : Nat :=
  let h := b / 2
  let lr := keys.foldl (feistelRound h) (x >>> h, x % 2 ^ h)
  (lr.1 <<< h) ||| lr.2

/-- The even width b of R68: at least 2, with 2^b at least n. -/
def feistelWidth (fuel b n : Nat) : Nat :=
  match fuel with
  | 0 => b
  | k + 1 => if 2 ^ b < n then feistelWidth k (b + 2) n else b

/-- The cycle walk of R68; `fuel` bounds it by the size of the cycle's domain. -/
def cycleWalk (fuel y n b : Nat) (keys : List Nat) : Nat :=
  match fuel with
  | 0 => y
  | k + 1 => if y ≥ n then cycleWalk k (feistel y b keys) n b keys else y

/-- `permute` of R68: π(x) over 0 to n - 1. -/
def permute (x n : Nat) (keys : List Nat) : Nat :=
  let b := feistelWidth 20 2 n
  cycleWalk (2 ^ b) (feistel x b keys) n b keys

/-- The round keys of epoch `e` (R67). -/
def epochKeys (seed : BitVec 256) (e : Nat) : List Nat :=
  (List.range 4).map (fun i => (genWord seed 1 e i).toNat % 2 ^ 32)

/-- The keys of window `w` for data rank `d` (R74). -/
def windowKeys (seed : BitVec 256) (w d : Nat) : List Nat :=
  (List.range 4).map (fun i => (genWord seed 2 w (4 * d + i)).toNat % 2 ^ 32)

/-- The augmentation word of sample `i` of chunk `c` (R64). -/
def augWord (seed : BitVec 256) (epoch c i : Nat) : BitVec 64 := genWord seed 3 epoch (256 * c + i)

end Sys2Proof.Machine
end

