-- ==== Sys2Proof/Machine/Fp.lean ====
section
/-! DEFINITION. Numbers: values, the format codes, exact arithmetic, rounding and the flags (ch. 04: R135 to R137, R140,
R151 to R153, R159 to R161, R163). -/
namespace Sys2Proof.Machine

/-- The value of an operand: not a number, an infinity, or the exact number (-1)^neg × m × 2^e. -/
inductive FVal where
  | nan
  | inf (neg : Bool)
  | fin (neg : Bool) (m : Nat) (e : Int)
deriving DecidableEq, Repr

/-- The flag word of an operation (R162): [0] inexact, [1] underflow, [2] overflow, [3] invalid. -/
abbrev Flags := BitVec 4

/-- The flag word with the given bits. -/
def mkFlags (inexact underflow overflow invalid : Bool) : Flags :=
  BitVec.ofNat 4 (b2n inexact + 2 * b2n underflow + 4 * b2n overflow + 8 * b2n invalid)

def flagInvalid : Flags := 8
def flagOverflow : Flags := 4

/-- Positive zero, the only zero that an engine writes (R159). -/
def FVal.zero : FVal := .fin false 0 0

/-- A number that is not NaN and not infinite. -/
def FVal.isFinite (v : FVal) : Bool :=
  match v with
  | .fin .. => true
  | _ => false

def FVal.isNaN (v : FVal) : Bool :=
  match v with
  | .nan => true
  | _ => false

/-- A finite value as an integer multiple of 2^e, for e at most its exponent. -/
def scaledInt (neg : Bool) (m : Nat) (e0 e : Int) : Int :=
  let k : Nat := m <<< (e0 - e).toNat
  if neg then -(k : Int) else (k : Int)

/-- The value i × 2^e. -/
def ofScaled (i e : Int) : FVal := if i = 0 then .zero else .fin (decide (i < 0)) i.natAbs e

/-- Negation; a zero stays positive (R159). -/
def FVal.neg (v : FVal) : FVal :=
  match v with
  | .nan => .nan
  | .inf n => .inf (!n)
  | .fin n m e => if m = 0 then .zero else .fin (!n) m e

/-- Magnitude. -/
def FVal.abs (v : FVal) : FVal :=
  match v with
  | .nan => .nan
  | .inf _ => .inf false
  | .fin _ m e => .fin false m e

/-- The exact sum (R160: +∞ + -∞ is NaN and raises invalid). -/
def FVal.add (a b : FVal) : FVal × Flags :=
  match a, b with
  | .nan, _ => (.nan, 0)
  | _, .nan => (.nan, 0)
  | .inf x, .inf y => if x = y then (.inf x, 0) else (.nan, flagInvalid)
  | .inf x, _ => (.inf x, 0)
  | _, .inf y => (.inf y, 0)
  | .fin x m e, .fin y n f =>
    if m = 0 then (b, 0) else if n = 0 then (a, 0) else
    let g := min e f
    (ofScaled (scaledInt x m e g + scaledInt y n f g) g, 0)

/-- The exact product (R160: 0 × ∞ is NaN and raises invalid). -/
def FVal.mul (a b : FVal) : FVal × Flags :=
  match a, b with
  | .nan, _ => (.nan, 0)
  | _, .nan => (.nan, 0)
  | .inf x, .inf y => (.inf (x != y), 0)
  | .inf x, .fin y n _ => if n = 0 then (.nan, flagInvalid) else (.inf (x != y), 0)
  | .fin x m _, .inf y => if m = 0 then (.nan, flagInvalid) else (.inf (x != y), 0)
  | .fin x m e, .fin y n f => if m = 0 ∨ n = 0 then (.zero, 0) else (.fin (x != y) (m * n) (e + f), 0)

/-- The quotient carried to 130 bits beyond the divisor's with a sticky low bit, which every later rounding sees as the
exact quotient (R160: 0/0 and ∞/∞ invalid, x/0 overflow). -/
def FVal.div (a b : FVal) : FVal × Flags :=
  match a, b with
  | .nan, _ => (.nan, 0)
  | _, .nan => (.nan, 0)
  | .inf _, .inf _ => (.nan, flagInvalid)
  | .inf x, .fin y _ _ => (.inf (x != y), 0)
  | .fin .., .inf _ => (.zero, 0)
  | .fin x m e, .fin y n f =>
    if n = 0 then (if m = 0 then (.nan, flagInvalid) else (.inf (x != (y && decide (0 < n))), flagOverflow))
    else if m = 0 then (.zero, 0)
    else
      let k := 130 + Nat.log2 n
      let q := (m <<< k) / n
      let sticky := b2n (decide ((m <<< k) % n ≠ 0))
      (.fin (x != y) (2 * q + sticky) (e - f - (k : Int) - 1), 0)

/-- One step of the integer square root, from the bit `b` down. -/
def isqrtLoop (fuel b n r : Nat) : Nat :=
  match fuel with
  | 0 => r
  | k + 1 => let t := r + b
             isqrtLoop k (b / 2) n (if t * t ≤ n then t else r)

/-- ⌊√n⌋. -/
def isqrt (n : Nat) : Nat := let l := Nat.log2 n / 2 + 1
                             isqrtLoop (l + 1) (2 ^ l) n 0

/-- The square root with a sticky low bit (R160: below zero invalid). -/
def FVal.sqrt (a : FVal) : FVal × Flags :=
  match a with
  | .nan => (.nan, 0)
  | .inf n => if n then (.nan, flagInvalid) else (.inf false, 0)
  | .fin x m e =>
    if m = 0 then (.zero, 0) else if x then (.nan, flagInvalid) else
    let odd := (e % 2 ≠ 0 : Bool)
    let m := (if odd then 2 * m else m) <<< 160
    let e := (if odd then e - 1 else e) - 160
    let r := isqrt m
    (.fin false (2 * r + b2n (decide (r * r ≠ m))) (e / 2 - 1), 0)

/-- Order of two numbers (R161): `none` if either is NaN. -/
def FVal.cmp (a b : FVal) : Option Ordering :=
  match a, b with
  | .nan, _ => none
  | _, .nan => none
  | .inf x, .inf y => some (if x = y then .eq else if x then .lt else .gt)
  | .inf x, _ => some (if x then .lt else .gt)
  | _, .inf y => some (if y then .gt else .lt)
  | .fin x m e, .fin y n f => let g := min e f
                              some (compare (scaledInt x m e g) (scaledInt y n f g))

/-- a < b, false if either is NaN. -/
def FVal.lt (a b : FVal) : Bool := FVal.cmp a b == some .lt

/-- The total order of R161: -∞ < finite < +∞ < NaN. -/
def FVal.totLt (a b : FVal) : Bool :=
  match a, b with
  | .nan, _ => false
  | _, .nan => true
  | _, _ => FVal.lt a b

/-- Elementwise maximum and minimum: NaN if any operand is NaN (R161). -/
def FVal.max (a b : FVal) : FVal := if a.isNaN || b.isNaN then .nan else if FVal.lt a b then b else a
def FVal.min (a b : FVal) : FVal := if a.isNaN || b.isNaN then .nan else if FVal.lt b a then b else a

/-! ### Formats -/

def fmtFP32 : Nat := 0
def fmtBF16 : Nat := 1
def fmtFP16 : Nat := 2
def fmtE4M3 : Nat := 3
def fmtE5M2 : Nat := 4
def fmtB4 : Nat := 5
def fmtI8 : Nat := 6
def fmtI4 : Nat := 7
def fmtSPLIT32 : Nat := 8

/-- Bits of an element in storage (Table 1); SPLIT32 is reached as 16-bit (R142, R200). -/
def fmtBits (f : Nat) : Nat :=
  match f with
  | 0 => 32 | 1 => 16 | 2 => 16 | 3 => 8 | 4 => 8 | 5 => 4 | 6 => 8 | 7 => 4 | _ => 16

def fmtReserved (f : Nat) : Bool := decide (f > 8)
def fmtBlock (f : Nat) : Bool := f == 5 || f == 7
def fmtInt (f : Nat) : Bool := f == 6 || f == 7
def fmtFloat (f : Nat) : Bool := decide (f ≤ 8) && !fmtInt f

/-- Mantissa bits of a floating format, and the exponent of its subnormal grid (Table 1). -/
def fmtMant (f : Nat) : Nat :=
  match f with
  | 0 => 23 | 1 => 7 | 2 => 10 | 3 => 3 | 4 => 2 | _ => 7

def fmtGrid (f : Nat) : Int :=
  match f with
  | 0 => -149 | 1 => -133 | 2 => -24 | 3 => -9 | 4 => -16 | _ => -133

/-- The code of +∞, or the first code above the largest finite value in E4M3 (Table 1). -/
def fmtTop (f : Nat) : Nat :=
  match f with
  | 0 => 0x7F800000 | 1 => 0x7F80 | 2 => 0x7C00 | 3 => 0x7F | 4 => 0x7C | _ => 0x7F80

/-- The canonical NaN (R137). -/
def fmtNaN (f : Nat) : Nat :=
  match f with
  | 0 => 0x7FC00000 | 1 => 0x7FC0 | 2 => 0x7E00 | 3 => 0x7F | 4 => 0x7E | _ => 0x7FC0

/-- The value of a code of a floating format FP32, BF16, FP16, E4M3 or E5M2 (Table 1); -0 reads as +0 (R159). -/
def fdecode (f code : Nat) : FVal :=
  let mb := fmtMant f
  let w := fmtBits f
  let neg := code.testBit (w - 1)
  let a := code % 2 ^ (w - 1)
  let frac := a % 2 ^ mb
  let ex := a >>> mb
  if f == 3 ∧ a = 0x7F then .nan
  else if f != 3 ∧ a = fmtTop f then .inf neg
  else if f != 3 ∧ a > fmtTop f then .nan
  else if a = 0 then .zero
  else if ex = 0 then .fin neg frac (fmtGrid f)
  else .fin neg (frac + 2 ^ mb) (fmtGrid f + (ex : Int) - 1)

/-- How a narrowing conversion rounds (R151): to nearest even, or stochastically with the element's 16-bit value r. -/
inductive Rnd where
  | even
  | stoch (r : Nat)
deriving DecidableEq, Repr

/-- m × 2^e on the grid 2^u: the integer multiple chosen, and whether the value was off the grid (R151, R153). -/
def roundGrid (m : Nat) (e u : Int) (rnd : Rnd) : Nat × Bool :=
  if u ≤ e then (m <<< (e - u).toNat, false) else
  let k := (u - e).toNat
  let t := m >>> k
  let rem := m % 2 ^ k
  let up : Bool := match rnd with
    | .even => decide (2 ^ k < 2 * rem) || (decide (2 ^ k = 2 * rem) && t % 2 == 1)
    | .stoch r => decide (r < (rem <<< 16) >>> k)
  (if up then t + 1 else t, decide (rem ≠ 0))

/-- A value in a floating format: its code and the flags raised (R151 to R153, R159, R163, Table 4). -/
def fencode (f : Nat) (rnd : Rnd) (v : FVal) : Nat × Flags :=
  let w := fmtBits f
  match v with
  | .nan => (fmtNaN f, 0)
  | .inf n => if f == 3 then (0x7E + (if n then 0x80 else 0), flagOverflow)
              else (fmtTop f + (if n then 2 ^ (w - 1) else 0), 0)
  | .fin n m e =>
    if m = 0 then (0, 0) else
    let mb := fmtMant f
    let u := Max.max (e + (Nat.log2 m : Int) - mb) (fmtGrid f)
    let (q, off) := roundGrid m e u rnd
    let code := if q < 2 ^ mb then q else ((u - fmtGrid f + 1).toNat <<< mb) + (q - 2 ^ mb)
    let sgn := if n ∧ code ≠ 0 then 2 ^ (w - 1) else 0
    if code ≥ fmtTop f then
      ((if f == 3 then 0x7E else fmtTop f) + sgn, mkFlags true false true false)
    else (code + sgn, mkFlags off (off && decide (code < 2 ^ mb)) false false)

/-- A value in I8 (Table 4). -/
def i8encode (rnd : Rnd) (v : FVal) : Nat × Flags :=
  match v with
  | .nan => (0, flagInvalid)
  | .inf n => (if n then 0x80 else 0x7F, flagOverflow)
  | .fin n m e =>
    let (q, off) := roundGrid m e (Max.max e 0) rnd
    let q := if e ≤ 0 then q else m <<< e.toNat
    if n then (if q > 128 then (0x80, mkFlags true false true false)
               else (unsigned 8 (-(q : Int)), mkFlags off (off && q == 0) false false))
    else (if q > 127 then (0x7F, mkFlags true false true false)
          else (q, mkFlags off (off && q == 0) false false))

/-- The value of an element code of I8, I4 or B4, scale 1 (Table 1, the note after R136). -/
def elemDecode (f code : Nat) : FVal :=
  if f == 6 then ofScaled (signed 8 code) 0
  else if f == 7 then ofScaled (signed 4 code) 0
  else
    let mags := [0, 1, 2, 3, 4, 6, 8, 12]
    let m := (mags[code % 8]?).getD 0
    if m = 0 then .zero else .fin (code.testBit 3) m (-1)

/-- A value multiplied by 2^k. -/
def FVal.scale (v : FVal) (k : Int) : FVal :=
  match v with
  | .fin n m e => if m = 0 then .zero else .fin n m (e + k)
  | _ => v

/-- The value of one element of a B4 or I4 block with scale byte `s` (R138). -/
def blockDecode (f code s : Nat) : FVal := if s = 0xFF then .nan else (elemDecode f code).scale ((s : Int) - 127)

/-- An element of a block on the element grid of B4 or I4, scale 1 (R140). -/
def elemEncode (f : Nat) (rnd : Rnd) (v : FVal) : Nat × Flags :=
  match v with
  | .nan => (0, 0)
  | .inf n => if f == 7 then (if n then 9 else 7, flagOverflow) else (7 + (if n then 8 else 0), flagOverflow)
  | .fin n m e =>
    if m = 0 then (0, 0)
    else if f == 7 then
      let (q, off) := roundGrid m e (Max.max e 0) rnd
      let q := if e ≤ 0 then q else m <<< e.toNat
      let isOver := decide (q > 7)
      let q := if isOver then 7 else q
      (if n then unsigned 4 (-(q : Int)) else q, mkFlags (off || isOver) (off && q == 0) isOver false)
    else
      let u := Max.max (e + (Nat.log2 m : Int) - 1) (-1)
      let (q, off) := roundGrid m e u rnd
      let code := if q < 2 then q else ((u + 1 + 1).toNat <<< 1) + (q - 2)
      let isOver := decide (code > 7)
      let code := if isOver then 7 else code
      (if n ∧ code ≠ 0 then code + 8 else code, mkFlags (off || isOver) (off && decide (code < 2)) isOver false)

/-- The least k with |v| at most c × 2^k, for v = m × 2^e and m nonzero: ⌈log2 (v / c)⌉ (R140). -/
def blockExp (c m : Nat) (e : Int) : Int :=
  let k := (Nat.log2 m : Int) - (Nat.log2 c : Int) - 1
  -- m ≤ c × 2^j
  let fits (j : Int) : Bool := if 0 ≤ j then decide (m ≤ c <<< j.toNat) else decide (m <<< (-j).toNat ≤ c)
  e + (if fits k then k else if fits (k + 1) then k + 1 else k + 2)

/-- The largest magnitude among finite values. -/
def maxFinite (vs : List FVal) : FVal :=
  vs.foldl (fun a v => if v.isFinite && FVal.lt a v.abs then v.abs else a) .zero

/-- A block of 32 values in B4 or I4: scale, element codes and flags (R140). `rnd` gives the rounding of element i. -/
def blockEncode (f : Nat) (rnd : Nat → Rnd) (vs : List FVal) : Nat × List Nat × Flags :=
  if vs.any FVal.isNaN then (0xFF, vs.map (fun _ => 0), flagInvalid) else
  let e : Int := match maxFinite vs with
    | .fin _ m e => if m = 0 then -127 else Max.max (-127) (Min.min 127 (blockExp (if f == 7 then 7 else 6) m e))
    | _ => -127
  let rs := vs.zipIdx.map (fun p => elemEncode f (rnd p.2) (p.1.scale (-e)))
  ((e + 127).toNat, rs.map Prod.fst, rs.foldl (fun a r => a ||| r.2) 0)

/-! ### FP32 words -/

/-- The value of an FP32 word. -/
def f32 (w : BitVec 32) : FVal := fdecode 0 w.toNat

/-- A value rounded to nearest even in FP32, with the flags of the operation that produced it. -/
def toF32 (r : FVal × Flags) : BitVec 32 × Flags :=
  let (c, fl) := fencode 0 .even r.1
  (BitVec.ofNat 32 c, fl ||| r.2)

/-- One FP32 addition rounded to nearest even (R170, R234). -/
def f32Add (a b : BitVec 32) : BitVec 32 × Flags := toF32 ((f32 a).add (f32 b))

/-- One INT32 addition under Table 4: saturates and raises overflow with inexact. -/
def i32Add (a b : BitVec 32) : BitVec 32 × Flags :=
  let s := a.toInt + b.toInt
  if s > 2147483647 then (0x7FFFFFFF, mkFlags true false true false)
  else if s < -2147483648 then (0x80000000, mkFlags true false true false)
  else (BitVec.ofInt 32 s, 0)

/-- A value in format `f` other than a block-scaled one: its code and flags. -/
def encodeAs (f : Nat) (rnd : Rnd) (v : FVal) : Nat × Flags := if f == 6 then i8encode rnd v else fencode f rnd v

/-- The value of an element code of format `f` other than a block-scaled one. -/
def decodeAs (f code : Nat) : FVal := if f == 6 then elemDecode 6 code else fdecode f code

end Sys2Proof.Machine
end

