-- ==== Sys2Proof/Machine/Ops.lean ====
section
/-! DEFINITION. Named operations over the state: time and the Deckle, free values, counters, the trace, host memory,
bonded DRAM and its error patterns, extents and handles, tokens, black-box entries. -/
namespace Sys2Proof.Machine

/-- What a meaning answers. -/
abbrev Out' := Host.Outcome State Fault Refusal

/-- The condition under which the event can occur, and its effect. Where the condition does not hold the event cannot
occur in that state, and the state stays as it is (log 6). -/
def whenThen (c : Bool) (s t : State) : Out' := if c then .next t else .next s

/-- The effect where the operand names a unit that exists, a fault where it names none (log 7). -/
def inRange (c : Bool) (x : Nat) (o : Out') : Out' := if c then o else .fault (.absent x)

/-! ### Status codes (Table 1 of ch. 12) -/
def stOk : Nat := 0x0000
def stOkSkipped : Nat := 0x0001
def stPartial : Nat := 0x0002
def stBadOpcode : Nat := 0x0100
def stReservedNonzero : Nat := 0x0101
def stBadParam : Nat := 0x0102
def stLevelMismatch : Nat := 0x0103
def stNoResource : Nat := 0x0200
def stConflict : Nat := 0x0201
def stFenced : Nat := 0x0300
def stDataError : Nat := 0x0400
def stDigestMismatch : Nat := 0x0401
def stDataMismatch : Nat := 0x0402
def stTimeout : Nat := 0x0500
def stAborted : Nat := 0x0600
def stSecurity : Nat := 0x0700

/-- Status and detail of a completion. -/
abbrev Cause := Nat × Nat

/-! ### Time and the Deckle (R543, R547, R551) -/

/-- Power domain d is on. -/
def State.domOn (s : State) (d : Nat) : Bool := s.pwr.on.toNat.testBit d

/-- The Deckle over `dt` nanoseconds of TCLK: it advances 1 ns more or less in each 1,000 ns while a correction is being
slewed away (R547). -/
def Deckle.advance (d : Deckle) (dt : Nat) : Deckle :=
  let want := d.slew.natAbs / 65536
  let n := Min.min want (dt / 1000)
  if d.slew < 0 then { d with now := d.now + dt + n, slew := d.slew + (n * 65536 : Nat) }
  else { d with now := d.now + dt - n, slew := d.slew - (n * 65536 : Nat) }

/-- Milliseconds, microseconds and seconds in nanoseconds. -/
def ms (n : Nat) : Nat := n * 1000000
def us (n : Nat) : Nat := n * 1000
def sec (n : Nat) : Nat := n * 1000000000

/-- The number of the next draw of a free value. -/
def State.draw (s : State) : Nat × State := (s.free, { s with free := s.free + 1 })

/-! ### Counters (R553 to R556) -/

/-- A counter of the CNT_ window counts n more; `slot` is its offset divided by 8 (Table 4 of ch. 15). -/
def State.bump (s : State) (slot n : Nat) : State :=
  if n = 0 then s else { s with ctr := { s.ctr with cnt := tupd s.ctr.cnt slot 0 (· + n) } }

def slotPoolStall : Nat := 0x100 / 8
def slotFrozenSkips : Nat := 0x108 / 8
def slotDramCorr (stack : Nat) : Nat := 0x110 / 8 + stack
def slotBeat (row : Nat) : Nat := 0x200 / 8 + row
def slotRow (row : Nat) : Nat := 0x280 / 8 + row
def slotPressElems (rule cls : Nat) : Nat := 0x300 / 8 + 2 * rule + cls
def slotPress (row : Nat) : Nat := 0x300 / 8 + 8 + row
def slotMould (row unit : Nat) : Nat := 0x400 / 8 + 4 * row + unit
def slotFelt (row port : Nat) : Nat := 0x500 / 8 + 6 * row + port
def slotRoute (row : Nat) : Nat := 0x700 / 8 + row
def slotHostRead (ctx : Nat) : Nat := 0x1000 / 8 + ctx
def slotHost (row : Nat) : Nat := 0x1000 / 8 + 1024 + row
def slotBusy (cl : Nat) : Nat := 0x4000 / 8 + cl

/-- host_check_fail and the rows that follow it (Table 22 of ch. 11). -/
def slotCheckFail : Nat := slotHost 0
def slotRingError : Nat := slotHost 1
def slotCqFullWait : Nat := slotHost 2
def slotWaitTimeout : Nat := slotHost 3
def slotHaltAbort : Nat := slotHost 4
def slotNoticeSuppressed : Nat := slotHost 5
def slotBadAccess : Nat := slotHost 6

/-- Some record waits for room on a full completion ring (R445). -/
def State.ringFull (s : State) : Bool :=
  s.host.pairs.any (fun e => !e.2.waiting.isEmpty && decide ((e.2.cqTail + 1) % 2 ^ bits e.2.cq 4 0 = e.2.head))

/-- Words of Table 7 of ch. 15. -/
def wVecElem : Nat := 10
def wVecDiv : Nat := 11
def wVecFunc : Nat := 12
def wVecReduce : Nat := 13
def wVecSort : Nat := 14
def wRowRows : Nat := 15
def wPress : Nat := 16
def wCombine : Nat := 17
def wCopyIn : Nat := 18
def wCopyOut : Nat := 19
def wDramRead : Nat := 20
def wDramWrite : Nat := 21
def wFeltTx : Nat := 22
def wFeltRx : Nat := 23
def wLuma : Nat := 24
def wBits : Nat := 25
def wMouldMacs : Nat := 26
def wMouldElec : Nat := 27
def wBusy : Nat := 28
def wStall : Nat := 29
def wGen : Nat := 30

/-- A cluster that a launch holds has the launch's context; 1024 stands for none. -/
def State.heldCtx (s : State) (c : Cluster) : Nat := ((c.launch.bind (tget s.host.cmds)).map CmdRec.ctx).getD 1024

/-- The counters of cycles in the CNT_ window that may go on while time passes: the busy cycles of a cluster that a launch
holds, reduce_credit_wait while a launch runs, and felt_credit_wait of a port while a packet waits on it. -/
def State.cycleSlots (s : State) : List Nat :=
  (s.sheet.clusters.filter (fun e => e.2.launch.isSome)).map (fun e => slotBusy e.1)
    ++ (if s.sheet.launches.isEmpty then [] else [slotRow 5])
    ++ ((List.range 6).filter (fun p => s.felt.links.any (fun e => decide (e.1 / 4 = p) && e.2.txq.any (fun q => !q.2.isEmpty)))).map
        (slotFelt 5)

/-- The operation counters of cycles that may go on, each with its context, its word and the counter in `Config.waitCycles`:
busy for each cluster that a launch holds, stall for each command that has started. -/
def State.cycleOps (s : State) : List (Nat × Nat × Nat) :=
  (s.sheet.clusters.filter (fun e => e.2.launch.isSome)).map (fun e => (s.heldCtx e.2, wBusy, slotBusy e.1))
    ++ (s.host.cmds.filter (fun e => e.2.phase == .started)).map (fun e => (e.2.ctx, wStall, 0x8000 + e.1))

/-- The operation counters after n more in context `ctx` and in the package total; `ctx` 1024 stands for none. -/
def opsPlus (ops : Tab Nat) (ctx word n : Nat) : Tab Nat :=
  let t := tupd ops (32 * 1024 + word) 0 (· + n)
  if ctx < 1024 then tupd t (32 * ctx + word) 0 (· + n) else t

/-- The counters of cycles go on by amounts that the spec does not give (log 13). -/
def State.passCycles (s : State) (t : Nat) : State :=
  { s with ctr := { s.ctr with
      cnt := s.cycleSlots.foldl (fun c k => tupd c k 0 (· + Config.waitCycles t k)) s.ctr.cnt
      ops := s.cycleOps.foldl (fun o x => opsPlus o x.1 x.2.1 (Config.waitCycles t x.2.2)) s.ctr.ops } }

/-- The model's clock moves on to `t` (never back), and the Deckle with it while PD01 is on (R551); the counters of cycles
go on, and host_cq_full_wait counts the microseconds during which a record waits for room (Table 22 of ch. 11). -/
def State.advance (s : State) (t : Nat) : State :=
  if s.time < t then
    let u : State := { s with time := t, dk := if s.domOn 1 then s.dk.advance (t - s.time) else s.dk }
    State.bump (u.passCycles t) slotCqFullWait (if s.ringFull then t / 1000 - s.time / 1000 else 0)
  else s

/-- Operation counter `word` (4 to 30 of Table 7) counts n more in context `ctx` and in the package total; work without a
context (Table 6) is counted under `ctx` 1024, in the totals only. -/
def State.addOp (s : State) (ctx word n : Nat) : State :=
  if n = 0 then s else
  { s with ctr := { s.ctr with ops := opsPlus s.ctr.ops ctx word n } }

/-! ### The command trace (R561 to R563) -/

/-- Records that the trace ring holds: 64 bytes each. -/
def State.traceCap (s : State) : Nat := s.mem.carve.trace / 64

/-- A trace record of `kind`, if the trace is enabled and the mask has the kind's bit (R561, R562). `fs` gives the bytes
by kind as offset, length and value. -/
def State.trace (s : State) (kind ctx op tag : Nat) (fs : List (Nat × Nat × Nat)) : State :=
  if s.trc.enabled && bit s.trc.mask kind then
    let r : BitVec 512 := mkRec 512 ([(0, 8, s.trc.next), (8, 8, s.dk.now), (16, 1, kind), (17, 1, b2n s.trc.loss),
      (18, 2, ctx), (20, 2, op), (22, 2, tag)] ++ fs)
    let recs := s.trc.recs ++ [(s.trc.next, r)]
    { s with trc := { s.trc with next := s.trc.next + 1, loss := false,
                                 recs := recs.drop (recs.length - s.traceCap) } }
  else s

/-! ### Host memory (R443, R447, R451) -/

/-- One byte of host memory as the device reads it; `none` where the read returns an error or poison. -/
def State.hostByte (s : State) (a : Nat) : Option Byte :=
  match tget s.host.mem a with
  | some b => b
  | none => some (Config.hostByte a)

/-- `n` bytes of host memory; `none` where the read of any of them returns an error or poison. -/
def State.hostRead (s : State) (a n : Nat) : Option (List Byte) :=
  (List.range n).foldr (fun i r => match s.hostByte (a + i), r with
    | some b, some l => some (b :: l)
    | _, _ => none) (some [])

/-- A record of `w` bits read from host memory. -/
def State.hostRec (s : State) (w a : Nat) : Option (BitVec w) := (s.hostRead a (w / 8)).map (fun l => BitVec.ofNat w (leNat l))

/-- A number of `n` bytes read from host memory. -/
def State.hostNum (s : State) (a n : Nat) : Option Nat := (s.hostRead a n).map leNat

/-- Bytes put into host memory from an address on. -/
def hostPut (m : Tab (Option Byte)) (a : Nat) (bs : List Byte) : Tab (Option Byte) :=
  match bs with
  | [] => m
  | b :: r => hostPut (tset m a (some b)) (a + 1) r

/-- The device writes host memory. -/
def State.hostWrite (s : State) (a : Nat) (bs : List Byte) : State :=
  { s with host := { s.host with mem := hostPut s.host.mem a bs } }

/-- Host writes that have become visible to the device (R442). -/
def State.hostSees (s : State) (ws : HostWrites) : State :=
  { s with host := { s.host with mem := ws.foldl (fun m w => tset m w.1 w.2) s.host.mem } }

/-! ### Sparse byte memories -/

/-- Bytes put into a memory from an address on. -/
def memPut (m : Mem) (a : Nat) (bs : List Byte) : Mem :=
  match bs with
  | [] => m
  | b :: r => memPut (tset m a b) (a + 1) r

/-! ### Bonded DRAM (R84 to R94) -/

/-- What a byte of bonded DRAM holds before the S144 decoder, by device address (R85). -/
def State.dramByte (s : State) (a : Nat) : Byte := (tget s.mem.dram a).getD (Config.dramByte s.bb.boot a)

/-- The 128 data bits of the word at 16-byte address index `w`. -/
def State.dramData (s : State) (w : Nat) : BitVec 128 :=
  BitVec.ofNat 128 (leNat ((List.range 16).map (fun i => s.dramByte (16 * w + i))))

/-- The stored codeword of a word: the code of its data with its error pattern (R87). -/
def State.dramWord (s : State) (w : Nat) : BitVec 144 :=
  s144Encode (s.dramData w) ^^^ tgetD s.mem.err w 0

/-- A corrected word is written back and counted (R92). -/
def State.writeBack (s : State) (w : Nat) (d : BitVec 128) : State :=
  { s with mem := { s.mem with dram := memPut s.mem.dram (16 * w) (leBytes 16 d.toNat),
                               err := tdel s.mem.err w } }.bump (slotDramCorr (w / 2 ^ 32 % 16)) 1

/-- What a decoder's verdict on a word delivers. -/
def State.decoded (s : State) (w : Nat) (r : Decoded) : BitVec 128 × Bool × State :=
  match r with
  | .clean d => (d, false, s)
  | .corrected d => (d, false, s.writeBack w d)
  | .bad d => (d, true, s)

/-- What reading a DRAM word delivers: its data, and whether it is uncorrectable (R89, R94); a corrected word is written
back and counted (R92). -/
def State.readWord (s : State) (w : Nat) : BitVec 128 × Bool × State :=
  match tget s.mem.err w with
  | none => (s.dramData w, false, s)
  | some _ => s.decoded w (s144Decode (s.dramWord w))

/-- An entry waits for sentinel 1 to write it to the black box (R598): kind, event record, body. -/
def State.bbPush (s : State) (kind : Nat) (event : BitVec 256) (body : List Byte) : State :=
  { s with bb := { s.bb with queue := s.bb.queue ++ [(kind, event, body)] } }

/-- The stack of a device address. -/
def stackOf (a : Nat) : Nat := a / 2 ^ 36 % 16

/-- A word has been found uncorrectable: a black-box record of kind 5 (R569), once while the word stays so, and the event
source of its stack fires (sources 160 + s, ch. 13). -/
def State.noteBad (s : State) (w : Nat) : State :=
  let st := w / 2 ^ 32 % 16
  let s := s.bbPush 5 0 (leBytes 8 (16 * w))
  { s with mem := { s.mem with badStacks := if s.mem.badStacks.contains st then s.mem.badStacks
                                            else s.mem.badStacks ++ [st] } }

/-- One byte read through the decoder, with poison (R94). -/
def State.readByte (s : State) (a : Nat) : Byte × Bool × State :=
  if s.mem.err.isEmpty then (s.dramByte a, false, s) else
  let (d, bad, s) := s.readWord (a / 16)
  (BitVec.ofNat 8 (d.toNat >>> (8 * (a % 16))), bad, if bad then s.noteBad (a / 16) else s)

/-- Bytes at listed device addresses, whether any was poisoned, and the state after write-backs. -/
def State.readBytes (s : State) (as : List Nat) : List Byte × Bool × State :=
  if s.mem.err.isEmpty then (as.map s.dramByte, false, s) else
  let r := as.foldl (fun (acc : List Byte × Bool × State) a =>
    let (b, bad, t) := acc.2.2.readByte a
    (b :: acc.1, acc.2.1 || bad, t)) ([], false, s)
  (r.1.reverse, r.2.1, r.2.2)

/-- Whether every byte of the 16-byte word `w` is among the addresses written: a full write clears an uncorrectable word
(R94). A partial write of a word with an error pattern leaves the pattern in place. -/
def fullWord (as : List Nat) (w : Nat) : Bool := (List.range 16).all (fun i => as.contains (16 * w + i))

/-- Bytes written at listed device addresses. -/
def State.writeBytes (s : State) (as : List Nat) (bs : List Byte) : State :=
  let dram := (as.zip bs).foldl (fun m p => tset m p.1 p.2) s.mem.dram
  let err := if s.mem.err.isEmpty then [] else tfilter s.mem.err (fun w _ => !fullWord as w)
  { s with mem := { s.mem with dram := dram, err := err } }

/-! ### Extents and handles (R86, R95 to R103) -/

/-- The width of a stripe in channels (Table 1 of ch. 03). -/
def stripeWidth (stripe : Nat) : Nat :=
  match stripe with
  | 0 => 8
  | 1 => 64
  | 2 => 256
  | _ => 1024

/-- The device address of byte `o` of an extent (R86, Table 1). -/
def Extent.addr (e : Extent) (o : Nat) : Nat :=
  let o := o + e.skip
  let u := o / 256
  let (stack, chan) :=
    match e.stripe with
    | 0 => (e.place % 16, 8 * (e.place / 16 % 8) + u % 8)
    | 1 => (e.place % 16, u % 64)
    | 2 => (4 * (e.place % 4) + u % 4, u / 4 % 64)
    | _ => (u % 16, u / 16 % 64)
  stack * 2 ^ 36 + chan * 2 ^ 30 + (e.base + u / stripeWidth e.stripe * 256 + o % 256) % 2 ^ 30

/-- Bytes per channel that the firmware carve-out leaves below it: it takes the top 16 MiB of every channel group of
eight channels (R112). -/
def topOfCarve : Nat := 2 ^ 30 - 2 ^ 21

/-- Per-channel base of each carve-out below the firmware, in the order of Table 9 (R112): 0 Vat, 1 stack, 2 spill,
3 counters, 4 trace, 5 couch, 6 window. Each is package-striped. -/
def Carve.sizes (c : Carve) : List Nat :=
  [c.vat, c.stack, c.spill, if c.countersInFw then 0 else c.counters, c.trace, c.couch, c.window]

def Carve.base (c : Carve) (i : Nat) : Nat :=
  topOfCarve - ((c.sizes.take (i + 1)).map (· / 1024)).sum

/-- The extent of a carve-out. -/
def Carve.extent (c : Carve) (i : Nat) : Extent :=
  { cls := 0, stripe := 3, place := 0, hostVisible := false, fabricRead := false, size := (c.sizes[i]?).getD 0,
    base := c.base i, hdm := 0 }

/-- The slot and the generation of a handle (Table 4 of ch. 03). -/
def handleSlot (h : Nat) : Nat := h % 2 ^ 18
def handleGen (h : Nat) : Nat := h / 2 ^ 18 % 2 ^ 14

def mkHandle (slot gen : Nat) : Nat := gen * 2 ^ 18 + slot

/-- The slot that a handle names, if the handle is valid (R100); a handle whose HANDLE_FREE has been read is valid only
for commands read before it (R102), which `freeing` leaves to the caller. -/
def State.handle (s : State) (h : Nat) : Option HSlot :=
  match tget s.mem.slots (handleSlot h) with
  | some sl => if sl.live ∧ sl.gen = handleGen h ∧ sl.gen ≠ 0 ∧ h < 2 ^ 32 then some sl else none
  | none => none

/-- The byte range of a handle, or the status of R100 with the offending handle as detail. -/
def State.range (s : State) (h off len : Nat) : Except Cause Extent :=
  match s.handle h with
  | some sl => if off + len ≤ sl.ext.size then .ok sl.ext else .error (stBadParam, h)
  | none => .error (stBadParam, h)

/-- Addresses of a byte range of an extent. -/
def Extent.addrs (e : Extent) (off len : Nat) : List Nat := (List.range len).map (fun i => e.addr (off + i))

/-- Bytes of an extent, with poison (R94). -/
def State.extRead (s : State) (e : Extent) (off len : Nat) : List Byte × Bool × State := s.readBytes (e.addrs off len)

/-- Bytes written to an extent. -/
def State.extWrite (s : State) (e : Extent) (off : Nat) (bs : List Byte) : State :=
  s.writeBytes (e.addrs off bs.length) bs

/-! ### Package tokens (R458) -/

def tokenMax : Nat := 2 ^ 48 - 1

def State.token (s : State) (t : Nat) : Nat := tgetD s.host.tokens t 0

def State.putToken (s : State) (t v : Nat) : State :=
  { s with host := { s.host with tokens := if v = 0 then tdel s.host.tokens t else tset s.host.tokens t v } }

/-- A signal: the token takes the greater of its value and `v` (R458). -/
def State.raiseToken (s : State) (t v : Nat) : State := s.putToken t (Max.max (s.token t) (v % 2 ^ 48))

/-- An additive token counts n more and stays at 2^48 - 1 (R458). -/
def State.addToken (s : State) (t n : Nat) : State := s.putToken t (Min.min (s.token t + n) tokenMax)

/-! ### Messages that leave the package -/

def State.send (s : State) (o : Out) : State := { s with xfer := { s.xfer with out := o :: s.xfer.out } }

/-- A measurement slot takes a digest; slots 4 and 5 count their changes (R617). -/
def State.setMeasure (s : State) (i : Nat) (d : BitVec 256) : State :=
  { s with iden := { s.iden with slots := tset s.iden.slots i d,
                                 changes := if i = 4 ∨ i = 5 then (s.iden.changes + 1) % 2 ^ 32 else s.iden.changes } }

/-- The shard list, the members and the seed of the job (R155: 32 zero bytes while no job is placed). -/
def State.seed (s : State) : BitVec 256 :=
  match s.job.job with
  | some j => j.seed
  | none => 0

/-- The package id of the loaded cabling plan (R436). -/
def State.pkgId (s : State) : Nat := s.host.idPkg.toNat

end Sys2Proof.Machine
end

