-- ==== Sys2Proof/Machine/Queue.lean ====
section
/-! DEFINITION. The Jeisk protocol (ch. 11): queue pairs, reading and checking commands, their order, completions,
notices, MSI-X messages. -/
namespace Sys2Proof.Machine

/-! ### Queue pairs (R438 to R445, R643) -/

def State.pair (s : State) (n : Nat) : Pair := tgetD s.host.pairs n Pair.empty

def State.setPair (s : State) (n : Nat) (p : Pair) : State :=
  { s with host := { s.host with pairs := tset s.host.pairs n p } }

def Pair.enable (p : Pair) : Bool := bit p.ctl 20
def Pair.context (p : Pair) : Nat := bits p.ctl 9 0
def Pair.watch (p : Pair) : Bool := bit p.ctl 24
def Pair.haltOnError (p : Pair) : Bool := bit p.ctl 25
def Pair.waitLimit (p : Pair) : Nat := bits p.ctl 63 48
def Pair.intCount (p : Pair) : Nat := Max.max 1 (bits p.ctl 47 40)
def Pair.intDelay (p : Pair) : Nat := bits p.ctl 39 32
def Pair.sqSize (p : Pair) : Nat := 2 ^ bits p.sq 4 0
def Pair.cqSize (p : Pair) : Nat := 2 ^ bits p.cq 4 0
def Pair.sqBase (p : Pair) : Nat := bits p.sq 63 12 * 4096
def Pair.cqBase (p : Pair) : Nat := bits p.cq 63 12 * 4096
def Pair.vector (p : Pair) : Nat := bits p.cq 10 5
def Pair.lineAddr (p : Pair) : Nat := bits p.line 63 6 * 64

/-- Entries of the completion ring that the host has not read. -/
def Pair.used (p : Pair) : Nat := (p.cqTail + p.cqSize - p.head % p.cqSize) % p.cqSize

/-- The ring has room for one record beside those that wait (R445). -/
def Pair.room (p : Pair) : Bool := decide (p.used + p.waiting.length + 1 < p.cqSize)

/-- Commands of pair n that count against R444: read and not completed, or completed with a record that waits. -/
def State.outstanding (s : State) (n : Nat) : Nat :=
  (s.host.cmds.filter (fun c => c.2.pair == n)).length + ((s.pair n).waiting.filter Rec.command).length

/-- Commands across the package that count against R444. -/
def State.outstandingAll (s : State) : Nat :=
  s.host.cmds.length + (s.host.pairs.map (fun p => (p.2.waiting.filter Rec.command).length)).sum

/-- busy of QCFG_CTL_n (R643). -/
def State.busy (s : State) (n : Nat) : Bool :=
  s.host.cmds.any (fun c => c.2.pair == n) || !(s.pair n).waiting.isEmpty

/-- A record waits for room on a pair's completion ring (R445). -/
def State.post (s : State) (n : Nat) (r : Rec) : State :=
  let p := s.pair n
  s.setPair n { p with waiting := p.waiting ++ [r] }

/-! ### Notices (R450, R453 to R455) -/

/-- Codes of Table 17 by bit. -/
def noticeCode (b : Nat) : Nat :=
  ([0x0001, 0x0010, 0x0011, 0x0020, 0x0021, 0x0022, 0x0030, 0x0040, 0x0050, 0x0060, 0x0070, 0x0080, 0x0090][b]?).getD 0

def nHeartbeat : Nat := 0
def nThermalStep : Nat := 1
def nThermalCritical : Nat := 2
def nLinkDegrade : Nat := 3
def nCableMismatch : Nat := 4
def nCableSwap : Nat := 5
def nFenced : Nat := 6
def nMouldFallback : Nat := 7
def nRestoreAligned : Nat := 8
def nFrozenSkip : Nat := 9
def nPoolPressure : Nat := 10
def nBlackboxNearFull : Nat := 11
def nFwWatchdog : Nat := 12

/-- Codes that are marked urgent (Table 17), and codes that are coalesced in windows (R454). -/
def noticeUrgent (b : Nat) : Bool := (1 ≤ b && b ≤ 7) || b == 12
def noticeWindowed (b : Nat) : Bool := 8 ≤ b && b ≤ 11

/-- A notice record can be posted now (R454): a session is open, HN_CTRL enables notices, and the ring of its pair is
enabled and has room. -/
def State.canPost (s : State) : Bool :=
  let p := s.pair (bits s.host.hnCtrl 12 0)
  s.host.session && bit s.host.hnCtrl 16 && p.enable && p.room

def State.win (s : State) (b : Nat) : NWin := tgetD s.host.wins b NWin.empty

def State.setWin (s : State) (b : Nat) (w : NWin) : State :=
  { s with host := { s.host with wins := tset s.host.wins b w } }

/-- Occurrences merged or discarded, as HN_COUNT suppressed and host_notice_suppressed count them. -/
def State.suppress (s : State) (n : Nat) : State :=
  ({ s with host := { s.host with hnSuppressed := s.host.hnSuppressed + n } }).bump slotNoticeSuppressed n

/-- The notice record of an occurrence (Table 15), its phase bit 0 until it is written. -/
def noticeRec (seq b : Nat) (o : Occ) (others : Nat) : BitVec 256 :=
  mkRec 256 [(0, 2, seq), (2, 2, noticeCode b), (4, 2, 2 ^ 15), (6, 2, o.ctx), (8, 8, o.detect),
    (16, 8, o.data.toNat), (24, 4, others), (28, 4, o.detail.toNat)]

/-- An occurrence is posted now, unless its code is masked: then it is discarded and counted (R453). A coalesced code
opens its window of 1 ms (R454). -/
def State.postNotice (s : State) (b : Nat) (o : Occ) (others : Nat) : State :=
  if bit s.host.hnMask b then s.suppress 1
  else
    let r := noticeRec s.host.hnPosted b o others
    let s := s.post (bits s.host.hnCtrl 12 0) { bytes := r, atOnce := noticeUrgent b, command := false }
    let s := { s with host := { s.host with hnPosted := s.host.hnPosted + 1 },
                      bb := { s.bb with notices := (s.bb.notices ++ [r]).drop (s.bb.notices.length - 7) } }
    let s := s.trace 6 o.ctx 0 0 [(24, 2, noticeCode b), (28, 4, o.detail.toNat), (32, 8, o.data.toNat)]
    if noticeWindowed b then s.setWin b { s.win b with until_ := some (s.time + ms 1) } else s

/-- An occurrence waits; occurrences of one code that wait are merged (R454). -/
def State.waitNotice (s : State) (b : Nat) (o : Occ) (others : Nat) : State :=
  let w := s.win b
  let had := w.wait.isSome
  (s.setWin b { w with wait := some o, waitOthers := w.waitOthers + others + b2n had }).suppress (b2n had)

/-- An occurrence of a notice code is detected (R453, R454). -/
def State.detect (s : State) (b ctx : Nat) (data : BitVec 64) (detail : BitVec 32) : State :=
  let o : Occ := { ctx := ctx, detect := s.dk.now, data := data, detail := detail }
  let w := s.win b
  if noticeWindowed b && w.until_.isSome then
    (s.setWin b { w with last := some o, others := w.others + b2n w.last.isSome }).suppress (b2n w.last.isSome)
  else if s.canPost && w.wait.isNone then s.postNotice b o 0
  else s.waitNotice b o 0

/-- An occurrence of a code whose rule defines no detail (R450): the detail is a free value (log 26). -/
def State.detectOpen (s : State) (b ctx : Nat) (data : BitVec 64) : State :=
  s.draw.2.detect b ctx data (Config.noticeDetail b s.draw.1)

/-- Waiting occurrences are posted in the order of their codes while the ring has room (R453, R454). -/
def State.releaseNotices (s : State) : State :=
  (List.range 13).foldl (fun s b =>
    match (s.win b).wait with
    | none => s
    | some o =>
      if s.canPost then
        let n := (s.win b).waitOthers
        (s.setWin b { s.win b with wait := none, waitOthers := 0 }).postNotice b o n
      else s) s

/-! ### Commands (R446 to R460) -/

def State.cmd (s : State) (id : Nat) : Option CmdRec := tget s.host.cmds id

def State.setCmd (s : State) (id : Nat) (c : CmdRec) : State :=
  { s with host := { s.host with cmds := tset s.host.cmds id c } }

def pktOp (p : BitVec 512) : Nat := fld p 0 2 % 4096
def pktLevel (p : BitVec 512) : Nat := fld p 0 2 / 4096
def pktFlag (p : BitVec 512) (i : Nat) : Bool := (fld p 2 2).testBit i
def pktOvertake (p : BitVec 512) : Bool := pktFlag p 0
def pktNotify (p : BitVec 512) : Bool := pktFlag p 1
def pktWaits (p : BitVec 512) : Bool := pktFlag p 2
def pktSignals (p : BitVec 512) : Bool := pktFlag p 3
def pktTag (p : BitVec 512) : Nat := fld p 4 2
def pktCtx (p : BitVec 512) : Nat := fld p 6 2 % 1024
def pktWaitTok (p : BitVec 512) : Nat := fld p 8 2
def pktWaitVal (p : BitVec 512) : Nat := fld p 10 6
def pktSigTok (p : BitVec 512) : Nat := fld p 16 2
def pktSigVal (p : BitVec 512) : Nat := fld p 18 6

/-- The opcodes of protocol level 1 (R465) with the parameter bytes each uses, as offset and length; the bytes from 24 to
63 that are not listed are reserved. -/
def opTable : List (Nat × List (Nat × Nat)) := [
  (0x001, [(24, 1), (25, 1), (28, 4)]), (0x002, [(24, 1)]), (0x003, [(24, 2), (26, 6)]), (0x004, [(24, 2)]),
  (0x005, [(24, 1), (32, 8), (40, 8)]),
  (0x100, [(24, 8), (32, 1), (33, 1), (34, 1), (36, 2)]), (0x101, [(24, 4)]), (0x102, [(24, 4), (32, 8)]),
  (0x103, [(24, 2), (26, 1), (27, 1), (28, 1), (29, 1), (30, 1), (32, 2)]),
  (0x104, [(24, 2), (26, 2), (28, 2), (30, 2), (32, 2), (34, 1)]), (0x108, [(24, 8)]), (0x109, [(24, 4)]),
  (0x110, [(24, 38)]), (0x111, [(24, 38)]), (0x112, [(24, 38)]), (0x118, [(24, 2)]), (0x119, [])] ++ [
  (0x200, [(24, 8)]),
  (0x300, [(24, 8), (32, 6), (38, 1), (40, 10), (50, 2), (56, 8)]),
  (0x301, [(24, 8), (32, 2), (36, 14), (56, 8)]),
  (0x302, [(24, 8), (32, 2), (36, 24)]), (0x303, [(24, 8), (32, 2), (36, 24)]), (0x304, [(24, 40)]),
  (0x308, [(24, 30)]), (0x309, [(24, 2), (28, 26)]), (0x310, [(24, 8)]), (0x311, [(24, 2)]), (0x312, [(24, 8)]),
  (0x313, [(24, 4), (32, 8)]), (0x318, [(24, 6), (32, 8)]), (0x319, [(24, 1)]),
  (0x400, [(24, 12)]), (0x401, [(24, 4)]), (0x408, [(24, 8)]), (0x409, []), (0x40A, []), (0x40B, [(24, 8)]),
  (0x40C, [(24, 8)])] ++ [
  (0x500, [(24, 16)]), (0x501, [(24, 2), (28, 32)]), (0x502, [(24, 1)]), (0x503, [(24, 9)]), (0x504, [(24, 1)]),
  (0x600, [(24, 38)]), (0x601, [(24, 11), (36, 18), (56, 4)]), (0x602, [(24, 13)]), (0x603, [(24, 4)]),
  (0x700, [(24, 5), (30, 2)]), (0x701, [(24, 4)]), (0x702, [(24, 7), (32, 28)]), (0x703, [(24, 4), (32, 24)]),
  (0x708, [(24, 3)]), (0x709, [(24, 4), (32, 8)]),
  (0x800, [(24, 16)]), (0x801, [(24, 1), (28, 4)]), (0x802, [(24, 20)]), (0x803, [(24, 2)]),
  (0x900, [(24, 32)]), (0x901, [(24, 12)]), (0x902, []), (0x903, [(24, 16)]), (0x904, [(24, 1)]), (0x905, [(24, 1)]),
  (0x906, [(24, 3), (32, 8)])]

def opDefined (op : Nat) : Bool := opTable.any (fun r => r.1 == op)

/-- Bits inside used parameter bytes that a table marks reserved, as offset, length and the mask of the bits in use. -/
def opMask (op : Nat) : List (Nat × Nat × Nat) :=
  match op with
  | 0x002 => [(24, 1, 1)]
  | 0x100 => [(33, 1, 3)]
  | 0x104 => [(34, 1, 3)]
  | 0x110 | 0x111 | 0x112 => [(47, 1, 1)]
  | 0x300 => [(25, 1, 1)]
  | 0x301 | 0x302 | 0x303 | 0x304 => [(25, 1, 0)]
  | 0x311 => [(24, 1, 0x1F)]
  | 0x500 => [(35, 1, 7)]
  | 0x503 => [(32, 1, 1)]
  | 0x601 => [(34, 1, 3)]
  | 0x600 => [(40, 1, 0x1F)]
  | 0x602 => [(36, 1, 1)]
  | 0x700 => [(28, 1, 0x1F)]
  | 0x801 => [(24, 1, 1), (28, 4, 0xFE)]
  | 0x905 => [(24, 1, 0x0F)]
  | 0x906 => [(24, 3, 0xFFFFF)]
  | _ => []

/-- Some reserved bit of the packet is not 0 (check 3 of R447, Table 13). -/
def pktReserved (p : BitVec 512) : Bool :=
  let op := pktOp p
  let used := ((opTable.find? (fun r => r.1 == op)).map Prod.snd).getD []
  let inUse (i : Nat) : Bool := used.any (fun u => u.1 ≤ i && i < u.1 + u.2)
  decide (fld p 2 2 ≥ 16) || decide (fld p 6 2 ≥ 1024)
  || (!pktWaits p && decide (fld p 8 8 ≠ 0)) || (!pktSignals p && decide (fld p 16 8 ≠ 0))
  || ((List.range 40).any (fun i => !inUse (24 + i) && decide (fld p (24 + i) 1 ≠ 0)))
  || ((opMask op).any (fun m => decide ((fld p m.1 m.2.1) &&& ((256 ^ m.2.1 - 1) ^^^ m.2.2) ≠ 0)))

/-- Checks 1 to 4 of R447; the status of the first that fails. -/
def checkPacket (s : State) (pair : Nat) (p : BitVec 512) : Option Nat :=
  let op := pktOp p
  let hello := op == 1
  if (hello && pktLevel p != 0) || (!hello && !s.host.session)
      || (!hello && s.host.session && pktLevel p != s.host.levelNow) then some stLevelMismatch
  else if !opDefined op then some stBadOpcode
  else if pktReserved p then some stReservedNonzero
  else if pktCtx p != (s.pair pair).context then some stBadParam
  else none

/-- Commands that need the package's job (R471: the mark "job" of their rows). LAUNCH needs it when it uses a binding,
which its own checks see. -/
def opNeedsJob (op : Nat) : Bool :=
  [0x300, 0x301, 0x302, 0x303, 0x304, 0x308, 0x309, 0x318, 0x319, 0x400, 0x401, 0x408, 0x409, 0x40A, 0x40B, 0x40C,
   0x600, 0x601, 0x602, 0x603, 0x703, 0x708, 0x709].contains op

/-- Blocks of R539: uses bonded DRAM, the Felt, the Mould, or starts a launch. -/
def opNeedsDram (op : Nat) : Bool :=
  [0x100, 0x101, 0x103, 0x110, 0x111, 0x112, 0x118, 0x200, 0x300, 0x301, 0x302, 0x303, 0x304, 0x308, 0x309, 0x408,
   0x409, 0x500, 0x501, 0x600, 0x601, 0x602, 0x700, 0x702, 0x703].contains op
def opNeedsFelt (op : Nat) : Bool :=
  [0x300, 0x301, 0x302, 0x303, 0x304, 0x308, 0x309, 0x311, 0x318, 0x319].contains op
def opNeedsMould (op : Nat) : Bool := [0x500, 0x501, 0x502, 0x503, 0x504].contains op

/-- The blocks that the command needs are ready (R437, R539). -/
def State.blockReady (s : State) (op : Nat) : Bool :=
  (!opNeedsDram op || (s.host.dramReady && s.host.dramTested)) && (!opNeedsFelt op || s.host.feltReady)
  && (!opNeedsMould op || s.host.mouldReady) && (op != 0x200 || s.host.selftestPass) && s.host.adminReady

/-- R456: every command of its context read before it has completed; with overtake_ok, every FENCE of its context read
before it. A FENCE starts as a command without overtake_ok does (R460). -/
def State.inOrder (s : State) (id : Nat) (c : CmdRec) : Bool :=
  s.host.cmds.all (fun e => !(e.1 < id && e.2.ctx == c.ctx)
    || (pktOvertake c.packet && pktOp c.packet != 2 && pktOp e.2.packet != 2))

/-- A waiting command that R456 lets start is marked with the moment from which only its token or its block holds it
(R457). -/
def State.refreshReady (s : State) : State :=
  { s with host := { s.host with cmds := tmap s.host.cmds (fun id c =>
      if c.phase == .waiting && c.readyAt.isNone && s.inOrder id c then { c with readyAt := some s.time } else c) } }

/-- Everything that R456, R457 and R437 ask before the command starts. -/
def State.mayStart (s : State) (id : Nat) (c : CmdRec) : Bool :=
  c.phase == .waiting && s.inOrder id c && s.blockReady (pktOp c.packet)
  && (!pktWaits c.packet || decide (pktWaitVal c.packet ≤ s.token (pktWaitTok c.packet)))

/-- The completion record (Table 15), its phase bit 0 until it is written. -/
def completionRec (tag status op ctx t0 t1 counter detail : Nat) : BitVec 256 :=
  mkRec 256 [(0, 2, tag), (2, 2, status), (4, 2, op), (6, 2, ctx), (8, 8, t0), (16, 8, t1), (24, 4, counter),
    (28, 4, detail)]

/-- Statuses that let a command signal its token (R458). -/
def statusSignals (st : Nat) : Bool := st ≤ 2

/-- Operation counters of a context, words 4 to 30. -/
def State.opCounts (s : State) (ctx : Nat) : List Nat :=
  (List.range 27).map (fun i => tgetD s.ctr.ops (32 * ctx + 4 + i) 0)

/-- Records that the counter ring holds (R559). -/
def State.counterCap (s : State) : Nat := if s.mem.carve.countersInFw then 4096 else s.mem.carve.counters / 256

/-- The index after `i` (R558): 0xFFFF_FFFF is never used. -/
def nextIndex (i : Nat) : Nat := if i ≥ 0xFFFFFFFE then 0 else i + 1

/-- The counter record of a command that has started and ends (R556 to R558), written to the counter ring. -/
def State.counterRec (s : State) (c : CmdRec) (status : Nat) : State :=
  let now := s.opCounts c.ctx
  let r : BitVec 2048 := mkRec 2048 ([(0, 4, s.ctr.next), (4, 2, pktOp c.packet), (6, 2, c.ctx), (8, 2, status),
    (10, 1, c.flags.toNat), (12, 2, pktTag c.packet), (14, 2, c.pair), (16, 8, c.tStart), (24, 8, s.dk.now)]
    ++ ((now.zip c.latch).zipIdx.map (fun p => (32 + 8 * p.2, 8, p.1.1 - p.1.2))) ++ [(248, 8, c.place.toNat)])
  let recs := tset s.ctr.recs s.ctr.next r
  let isOver := decide (recs.length > s.counterCap)
  { s with ctr := { s.ctr with recs := if isOver then tdel recs s.ctr.oldest else recs, next := nextIndex s.ctr.next,
                               oldest := if isOver then nextIndex s.ctr.oldest else s.ctr.oldest } }

/-- A command leaves the table of commands. -/
def State.dropCmd (s : State) (id : Nat) : State :=
  { s with host := { s.host with cmds := tdel s.host.cmds id }, sheet := { s.sheet with launches := tdel s.sheet.launches id } }

/-- A command completes without starting (R450): both Deckle fields hold the time of completion, no counter record. -/
def State.endUnstarted (s : State) (id : Nat) (c : CmdRec) (st : Cause) : State :=
  let s := s.dropCmd id
  let s := s.post c.pair { bytes := completionRec (pktTag c.packet) st.1 (pktOp c.packet) (s.pair c.pair).context
                             s.dk.now s.dk.now 0xFFFFFFFF st.2,
                           atOnce := pktNotify c.packet, command := true }
  s.trace 3 c.ctx (pktOp c.packet) (pktTag c.packet) [(24, 2, st.1), (28, 4, st.2), (32, 4, 0xFFFFFFFF)]

/-- R462: a failed command of a pair with halt_on_error halts it; the commands read from the pair after it that have not
started complete with ST_ABORTED. -/
def State.haltAfter (s : State) (pair id status : Nat) : State :=
  let p := s.pair pair
  if p.haltOnError && decide (status ≥ 0x100) && !p.halted then
    let s := s.setPair pair { p with halted := true }
    s.host.cmds.foldl (fun s e =>
      if e.2.pair == pair && decide (id < e.1) && e.2.phase == .waiting then
        (s.endUnstarted e.1 e.2 (stAborted, 0)).bump slotHaltAbort 1
      else s) s
  else s

/-- A command that has not started completes with a failing status (R447 check 5, R457, R462). -/
def State.failCmd (s : State) (id : Nat) (st : Cause) : State :=
  match s.cmd id with
  | none => s
  | some c => ((s.endUnstarted id c st).haltAfter c.pair id st.1).refreshReady

/-- A command starts (R450, R557): its start latch is taken. -/
def State.startCmd (s : State) (id : Nat) : State :=
  match s.cmd id with
  | none => s
  | some c =>
    (s.setCmd id { c with phase := .started, tStart := s.dk.now, startAt := s.time, latch := s.opCounts c.ctx }).trace
      2 c.ctx (pktOp c.packet) (pktTag c.packet) [(24, 2, bits c.place 15 0)]

/-- A command that has started completes: counter record, then its signal, then its completion record (R450, R458,
R558), then the halt of R462. -/
def State.finish (s : State) (id : Nat) (st : Cause) : State :=
  match s.cmd id with
  | none => s
  | some c =>
    let idx := s.ctr.next
    let s := (s.dropCmd id).counterRec c st.1
    let s := if pktSignals c.packet && statusSignals st.1 then s.raiseToken (pktSigTok c.packet) (pktSigVal c.packet)
             else s
    let s := s.post c.pair { bytes := completionRec (pktTag c.packet) st.1 (pktOp c.packet) (s.pair c.pair).context
                               c.tStart s.dk.now idx st.2,
                             atOnce := pktNotify c.packet, command := true }
    let s := s.trace 3 c.ctx (pktOp c.packet) (pktTag c.packet) [(24, 2, st.1), (28, 4, st.2), (32, 4, idx)]
    -- from the completion of a MEM_CONFIG on, the records written before it are no longer held (R559)
    let s := if pktOp c.packet = 0x103 ∧ st.1 = stOk
      then { s with ctr := { s.ctr with recs := [], oldest := s.ctr.next } } else s
    (s.haltAfter c.pair id st.1).refreshReady

/-- Flags raised by a command's work join its flag summary (R166). -/
def State.cmdFlags (s : State) (id : Nat) (fl : Flags) : State :=
  { s with host := { s.host with cmds := tmod s.host.cmds id (fun c => { c with flags := c.flags ||| fl }) } }

/-- What the work of a started command comes to: it has ended with a status, or it goes on. -/
inductive Work where
  | done (st : Cause) (s : State)
  | busy (s : State)

/-- A command's own checks and work (R639, R447 check 5): a failed check with its status, or its work. -/
abbrev Body := Nat → CmdRec → State → Except Cause Work

/-- The command `id` starts, if it carries opcode `op` and may start (R456, R457, R437): R575 is seen to, its own
checks are made (R639, with R471 among those against device state), and its work is done or begun. -/
def jeisk (op : Nat) (body : Body) (id : Nat) (s : State) : Out' :=
  match s.cmd id with
  | none => .next s
  | some c =>
    if pktOp c.packet = op ∧ s.mayStart id c then
      let fail (st : Cause) : State := (s.bump slotCheckFail 1).failCmd id st
      if opNeedsJob op && s.fail.selfFenced.isSome && s.job.job.isSome then .next (fail (stFenced, 0))
      else match body id c (s.startCmd id) with
        | .error st => .next (fail st)
        | .ok (.done st t) => .next (t.finish id st)
        | .ok (.busy t) => .next t
    else .next s

/-! ### Reading commands (R441 to R447, R462) -/

/-- A ring error of cause 1 to 3 (R443): the record that it posts, or nothing but the count while ring_error is set. -/
def State.ringError (s : State) (n cause : Nat) : State :=
  let p := s.pair n
  let s := s.bump slotRingError 1
  if p.ringError then s else
  let s := s.setPair n { p with ringError := true }
  s.post n { bytes := completionRec 0xFFFF stBadParam 0xFFF p.context s.dk.now p.sqHead 0xFFFFFFFF cause,
             atOnce := false, command := false }

/-- One submission entry is read and checked (R447); a command that passes waits to start. -/
def State.readEntry (s : State) (n : Nat) (packet : BitVec 512) : State :=
  let p := s.pair n
  let id := s.host.nextSeq
  let c : CmdRec := { pair := n, ctx := p.context, packet := packet, phase := .waiting, readyAt := none, tStart := 0,
                      startAt := 0, flags := 0, latch := [], place := 0 }
  let s := s.setPair n { p with sqHead := (p.sqHead + 1) % p.sqSize }
  let s := ({ s with host := { s.host with nextSeq := id + 1 } }).bump (slotHostRead p.context) 1
  let s := s.trace 1 p.context (pktOp packet) (pktTag packet)
    [(24, 4, n), (28, 4, if pktOp packet = 1 then fld packet 28 4 else 0)]
  let s := s.setCmd id c
  if p.halted then ((s.endUnstarted id c (stAborted, 0)).bump slotHaltAbort 1)
  else match checkPacket s n packet with
    | some st => (s.bump slotCheckFail 1).failCmd id (st, 0)
    | none => s.refreshReady

/-- Entries of pair n are read up to its tail, within R444, until an error stops the pair (R443). -/
def State.readLoop (fuel : Nat) (s : State) (n : Nat) : State :=
  match fuel with
  | 0 => s
  | k + 1 =>
    let p := s.pair n
    if p.enable && !p.ringError && decide (p.sqHead ≠ p.tail) && s.host.adminReady && s.mgmt.sleep == 0
        && decide (s.outstanding n < 256) && decide (s.outstandingAll < 131072) then
      match s.hostRec 512 (p.sqBase + 64 * p.sqHead) with
      | some pk => readLoop k (s.readEntry n pk) n
      | none => s.ringError n 3
    else s

/-- The device reads what pair n's tail covers, unless a ring error has stopped it (R443). -/
def State.readPair (s : State) (n : Nat) : State :=
  let p := s.pair n
  if !p.enable || p.ringError then s else s.readLoop 257 n

/-- A new submission tail comes into force; one of 2^k or more is a ring error and has no other effect (R441, R443). -/
def State.takeTail (s : State) (n v : Nat) : State :=
  let p := s.pair n
  if v ≥ p.sqSize then s.ringError n 1 else s.setPair n { p with tail := v }

/-- A new completion head comes into force; one of 2^k or more is a ring error and has no other effect (R441, R443). -/
def State.takeHead (s : State) (n v : Nat) : State :=
  let p := s.pair n
  if v ≥ p.cqSize then s.ringError n 2 else (s.setPair n { p with head := v }).releaseNotices

/-- The pair is enabled, or commands or records of it are left: its configuration holds (R643). -/
def State.live (s : State) (n : Nat) : Bool := (s.pair n).enable || s.busy n

/-- Every pair is read (when admin_ready rises, or when R444 leaves room again). -/
def State.readAll (s : State) : State := s.host.pairs.foldl (fun s e => s.readPair e.1) s

/-- The ring control line of a pair in watch mode is read again (R440, R441): the tail and the head in it are taken. A
disabled pair takes the head alone (R643). -/
def State.readLine (s : State) (n : Nat) : State :=
  let p := s.pair n
  if s.live n && p.watch then
    match s.hostRead p.lineAddr 8 with
    | none => s.ringError n 3
    | some l =>
      let s := s.setPair n { p with lineHeld := true, lineReadAt := s.time }
      let s := if p.enable then s.takeTail n (leNat (l.take 2)) else s
      (s.takeHead n (leNat ((l.drop 4).take 2))).readPair n
  else s

/-! ### Writing records and MSI-X (R445, R451, R452) -/

/-- A vector's MSI-X message: sent, or made pending while the vector is masked (R452). Every ring that shares the vector
is covered by it. -/
def State.msix (s : State) (v : Nat) : State :=
  let e := tgetD s.host.vecs v Vec.atReset
  let e := if e.masked then { e with pend := true } else { e with sent := e.sent + 1 }
  { s with host := { s.host with
      vecs := tset s.host.vecs v e,
      pairs := tmap s.host.pairs (fun _ p => if p.vector == v && p.enable then { p with uncovered := 0, firstAt := 0 } else p) } }

/-- A record written at the completion tail (R445, R451): its phase, the tail, and the interrupt condition of R452. -/
def State.writeRec (s : State) (n : Nat) (r : Rec) (rest : List Rec) : State :=
  let p := s.pair n
  let bytes := recBytes (setBit r.bytes 46 p.phase)
  let s := s.hostWrite (p.cqBase + 32 * p.cqTail) bytes
  let wrap := decide (p.cqTail + 1 ≥ p.cqSize)
  let p := { p with waiting := rest, cqTail := if wrap then 0 else p.cqTail + 1, phase := if wrap then !p.phase else p.phase,
                    uncovered := p.uncovered + 1, firstAt := if p.uncovered = 0 then s.time else p.firstAt }
  let s := s.setPair n p
  if r.atOnce || decide (p.uncovered ≥ p.intCount) then s.msix p.vector else s

end Sys2Proof.Machine
end

