-- ==== Sys2Proof/Machine/Slice.lean ====
section
/-! DEFINITION. The geometry of a job's slice (ch. 10): members and coordinates (R385), role groups and their trees
(R396), rings and routing (R387, R390 to R393), circuit entries (R395 to R397). -/
namespace Sys2Proof.Machine

/-! ### Members -/

def Member.none_ : Member := { pkg := 0xFFFF, x := 0, y := 0, z := 0, hops := [] }

/-- The member at a place of the block, and the place of a package. -/
def Job.mem (j : Job) (i : Nat) : Member := (j.members[i]?).getD Member.none_
def Job.pos (j : Job) (pkg : Nat) : Option Nat := j.members.findIdx? (fun m => m.pkg == pkg)

/-- Coordinate on axis 0 X, 1 Y, 2 Z. -/
def Member.coord (m : Member) (a : Nat) : Nat :=
  match a with
  | 0 => m.x
  | 1 => m.y
  | _ => m.z

def Job.extent (j : Job) (a : Nat) : Nat := (j.extents[a]?).getD 1

/-- The place of the member at given coordinates. -/
def Job.at_ (j : Job) (x y z : Nat) : Option Nat := j.members.findIdx? (fun m => m.x == x && m.y == y && m.z == z)

/-- The place of the member whose coordinate on axis `a` is `c` and whose others are those of `m`. -/
def Job.along (j : Job) (m : Member) (a c : Nat) : Option Nat :=
  match a with
  | 0 => j.at_ c m.y m.z
  | 1 => j.at_ m.x c m.z
  | _ => j.at_ m.x m.y c

/-- The job and this package's place in it. -/
def State.me (s : State) : Option (Job × Nat) := s.job.job.bind (fun j => (j.pos s.pkgId).map (fun i => (j, i)))

/-! ### Role groups and trees (R396) -/

/-- The axes along which a role group extends; group 3 is the whole slice. -/
def Job.roleAxes (j : Job) (r : Nat) : List Nat := (List.range 3).filter (fun a => r == 3 || (j.axes[a]?).getD 3 == r)

/-- Every place in the order of ascending x, then y, then z, with x fastest. -/
def Job.order (j : Job) : List Nat :=
  (List.range (j.extent 2)).flatMap (fun z => (List.range (j.extent 1)).flatMap (fun y =>
    (List.range (j.extent 0)).filterMap (fun x => j.at_ x y z)))

/-- Role group r of the member at place `i`, by member index (R396). -/
def Job.group (j : Job) (i r : Nat) : List Nat :=
  let m := j.mem i
  let fixed := (List.range 3).filter (fun a => !(j.roleAxes r).contains a)
  j.order.filter (fun k => fixed.all (fun a => (j.mem k).coord a == m.coord a))

/-- The member index of a package in a group. -/
def Job.index (j : Job) (g : List Nat) (pkg : Nat) : Option Nat := g.findIdx? (fun i => (j.mem i).pkg == pkg)

/-- The tree number of role group r of a member: 4096 r + the place of the group's first member (log 19). -/
def Job.tree (j : Job) (i r : Nat) : Nat := 4096 * r + (j.group i r).headD 0

/-- The place across a member's edge toward the root of its tree; `none` at the root. The root is the group's first member,
and an edge leads one step down one of the group's axes; which one is the firmware's choice (log 19). -/
def Job.parent (j : Job) (r i : Nat) : Option Nat :=
  let m := j.mem i
  let as := (j.roleAxes r).filter (fun a => m.coord a != 0)
  if as.isEmpty then none else
  let a := (as[Config.treeParent j.digest (j.tree i r) i % as.length]?).getD 0
  j.along m a (m.coord a - 1)

/-- The places from a member to its tree's root. -/
def Job.rootPath (fuel : Nat) (j : Job) (r i : Nat) : List Nat :=
  match fuel with
  | 0 => [i]
  | k + 1 =>
    match j.parent r i with
    | none => [i]
    | some p => i :: rootPath k j r p

/-- The tree neighbours of a member: its parent and its children. -/
def Job.neighbours (j : Job) (r i : Nat) : List Nat :=
  let m := j.mem i
  (match j.parent r i with
   | some p => [p]
   | none => []) ++
  (j.roleAxes r).filterMap (fun a =>
    match j.along m a (m.coord a + 1) with
    | some k => if j.parent r k == some i then some k else none
    | none => none)

/-- The neighbour of `i` on the tree path to `dst`; `none` at `dst` itself. -/
def Job.toward (j : Job) (r i dst : Nat) : Option Nat :=
  if i = dst then none
  else
    let path := j.rootPath 48 r dst
    match path.findIdx? (· == i) with
    | some k => path[k - 1]?
    | none => j.parent r i

/-- The places of a group whose tree path to `dst` passes through `i`: the subtree of `i` (R234). -/
def Job.pathTo (fuel : Nat) (j : Job) (r i dst : Nat) : List Nat :=
  match fuel with
  | 0 => [i]
  | k + 1 =>
    match j.toward r i dst with
    | none => [i]
    | some n => i :: pathTo k j r n dst

def Job.subtree (j : Job) (r i dst : Nat) : List Nat := (j.group i r).filter (fun m => (j.pathTo 96 r m dst).contains i)

/-! ### Rings and next hops (R387, R392) -/

/-- A hop byte names a link: [2:0] port, [4:3] group, [5] present (Table 7 of ch. 12). -/
def hopPresent (b : Nat) : Bool := b.testBit 5
def hopLink (b : Nat) : Nat := 4 * (b % 8) + b / 8 % 4

/-- The hop byte of a member on axis `a`, plus or minus. -/
def Member.hop (m : Member) (a : Nat) (plus : Bool) : Nat := (m.hops[2 * a + (if plus then 0 else 1)]?).getD 0

/-- Axis `a` is a ring. -/
def Job.ring (j : Job) (a : Nat) : Bool :=
  decide (2 ≤ j.extent a) && j.members.all (fun m => m.coord a + 1 != j.extent a || hopPresent (m.hop a true))

/-- Cut b of an axis of extent e. -/
def cutB (e : Nat) : Nat := if e ≤ 4 then e / 2 else 4 * ((e + 4) / 8)

/-- `next_hop` of R392: plus or minus; `none` where the axis is done. -/
def nextHop (c t e : Nat) (ring : Bool) (cut : Nat) : Option Bool :=
  if c = t then none
  else if !ring then some (decide (c < t))
  else some (decide ((c + e - cut % e) % e < (t + e - cut % e) % e))

/-- The next place from `i` toward `t` under the cut that `b` names, with the axis and the direction. -/
def Job.hop (j : Job) (b : Bool) (i t : Nat) : Option (Nat × Nat × Bool) :=
  let c := j.mem i
  let d := j.mem t
  (List.range 3).findSome? (fun a =>
    let e := j.extent a
    (nextHop (c.coord a) (d.coord a) e (j.ring a) (if b then cutB e else 0)).bind (fun plus =>
      (j.along c a (if plus then (c.coord a + 1) % e else (c.coord a + e - 1) % e)).map (fun k => (k, a, plus))))

/-- The places from `i` to `t`. -/
def Job.route (fuel : Nat) (j : Job) (b : Bool) (i t : Nat) : List Nat :=
  match fuel with
  | 0 => [i]
  | k + 1 =>
    match j.hop b i t with
    | none => [i]
    | some (n, _, _) => i :: route k j b n t

/-! ### The random intermediate (R391) -/

/-- One coordinate of the intermediate from a 16-bit field of the generator word. -/
def midCoord (s d e f : Nat) : Nat :=
  let lo := if s / 4 = d / 4 then 4 * (s / 4) else 0
  let span := if s / 4 = d / 4 then Min.min 4 (e - lo) else e
  lo + f * span / 65536

/-- The place of the intermediate package, for the generator word of (step, element). -/
def Job.middle (j : Job) (src dst step element : Nat) : Nat :=
  let w := genWord j.seed 5 step element
  let f (a : Nat) := midCoord ((j.mem src).coord a) ((j.mem dst).coord a) (j.extent a) (bits w (16 * a + 15) (16 * a))
  (j.at_ (f 0) (f 1) (f 2)).getD dst

/-- The package id of the intermediate of a packet (R391); the destination where the intermediate is fenced. -/
def State.via (s : State) (src dst xfer o : Nat) : Nat :=
  match s.job.job with
  | none => dst
  | some j =>
    match j.pos src, j.pos dst with
    | some a, some b =>
      let p := (j.mem (j.middle a b (j.generation * 2 ^ 32 + src * 2 ^ 16 + dst) (xfer * 2 ^ 16 + o % 65536))).pkg
      if s.fail.fenced.any (fun f => f.1 == p) then dst else p
    | _, _ => dst

/-! ### Circuit entries (R395 to R397) -/

/-- The ends of a tree edge lie in different reams. -/
def Job.crossReam (j : Job) (p q : Nat) : Bool :=
  (List.range 3).any (fun a => (j.mem p).coord a / 4 != (j.mem q).coord a / 4)

/-- The places along a tree edge, ends included: direct, or through the relays of R397, from the end of lower package id. -/
def Job.edgePath (j : Job) (p q : Nat) : List Nat :=
  if !j.crossReam p q then [p, q] else
  let (lo, hi) := if (j.mem p).pkg < (j.mem q).pkg then (p, q) else (q, p)
  let mid := j.middle lo hi (j.generation * 2 ^ 32 + 0xFFFFFFFF) ((j.mem lo).pkg * 2 ^ 16 + (j.mem hi).pkg)
  let path := j.route 64 false lo mid ++ (j.route 64 true mid hi).drop 1
  if lo = p then path else path.reverse

/-- An entry of a package: the member entry of a role group, or a relay on the edge from member `v` to its parent, at
position `k` of the edge's path. -/
inductive Entry where
  | member (r : Nat)
  | relay (r v k : Nat)
deriving DecidableEq, Repr

/-- Every entry of the package at place `i`, in order of circuit id. -/
def Job.entries (j : Job) (i : Nat) : List Entry :=
  (List.range 4).map Entry.member ++
  (List.range 4).flatMap (fun r => (List.range j.members.length).flatMap (fun v =>
    match j.parent r v with
    | none => []
    | some p =>
      let path := j.edgePath v p
      (List.range path.length).filterMap (fun k =>
        if 0 < k ∧ k + 1 < path.length ∧ (path[k]?).getD 0 = i then some (Entry.relay r v k) else none)))

/-- The link byte from one place to a neighbouring one (Table 6: [2:0] port, [4:3] group, [5] valid). -/
def Job.linkByte (j : Job) (p q : Nat) : Nat :=
  let m := j.mem p
  ((List.range 3).findSome? (fun a => [true, false].findSome? (fun plus =>
    let e := j.extent a
    if hopPresent (m.hop a plus) ∧ j.along m a (if plus then (m.coord a + 1) % e else (m.coord a + e - 1) % e) = some q then
      some (m.hop a plus % 32 + 32) else none))).getD 0

/-- The circuit id that an entry has at the package at place `i`. -/
def Job.circuitId (j : Job) (i : Nat) (e : Entry) : Nat := ((j.entries i).findIdx? (· == e)).getD 0xFF

/-- The edges of a member entry: the neighbours, each with the first place on the way to it and the entry there. -/
def Job.memberEdges (j : Job) (r i : Nat) : List (Nat × Nat × Entry) :=
  (j.neighbours r i).map (fun n =>
    let up := j.parent r i == some n
    let path := if up then j.edgePath i n else (j.edgePath n i).reverse
    let first := (path[1]?).getD n
    (n, first, if path.length ≤ 2 then .member r else if up then .relay r i 1 else .relay r n (path.length - 2)))

/-- An entry in the layout of Table 6, with its direction map. `sink` is the sink edge byte of the lead, 0 for none. -/
def Job.circuit (j : Job) (i : Nat) (e : Entry) (sink : Nat) : BitVec 256 × List Nat :=
  let build (r : Nat) (memberBit : Bool) (index : Nat) (edges : List (Nat × Nat)) (dirs : List Nat) :=
    let edges := edges ++ (if memberBit ∧ sink.testBit 5 then [(sink % 32 + 32 + 64, 0)] else [])
    (mkRec 256 ([(0, 1, 1 + 2 * b2n memberBit), (1, 1, 5), (2, 2, j.tree (match e with
        | .member _ => i
        | .relay _ v _ => v) r)] ++
      edges.zipIdx.map (fun x => (4 + x.2, 1, x.1.1)) ++ edges.zipIdx.map (fun x => (10 + x.2, 1, x.1.2)) ++
      [(16, 2, index), (18, 2, (j.group (match e with
        | .member _ => i
        | .relay _ v _ => v) r).length), (24, 4, j.id)]), dirs)
  match e with
  | .member r =>
    let es := j.memberEdges r i
    let g := j.group i r
    build r true ((g.findIdx? (· == i)).getD 0xFFFF) (es.map (fun x => (j.linkByte i x.2.1, j.circuitId x.2.1 x.2.2)))
      (g.map (fun d => match j.toward r i d with
        | none => 7
        | some n => (es.findIdx? (fun x => x.1 == n)).getD 7))
  | .relay r v k =>
    let path := j.edgePath v ((j.parent r v).getD v)
    let back := (path[k - 1]?).getD i
    let fwd := (path[k + 1]?).getD i
    let name (k' at_ : Nat) := j.circuitId at_ (if k' = 0 ∨ k' + 1 = path.length then .member r else .relay r v k')
    build r false 0xFFFF [(j.linkByte i back, name (k - 1) back), (j.linkByte i fwd, name (k + 1) fwd)]
      ((j.group v r).map (fun d => if (j.pathTo 96 r v d).contains ((j.parent r v).getD v) then 1 else 0))

/-- The circuit table of the package at place `i` (R396). -/
def Job.circuits (j : Job) (i : Nat) : List (Nat × BitVec 256 × List Nat) :=
  let sink := if (j.mem i).pkg = j.lead then j.sinkLink else 0
  (j.entries i).zipIdx.map (fun e => (e.2, j.circuit i e.1 sink))

end Sys2Proof.Machine
end

