-- ==== Sys2Proof/Machine/Route.lean ====
section
/-! DEFINITION. Packets (R381 to R384), the links they leave on, and routing through the slice (R390 to R393). -/
namespace Sys2Proof.Machine

/-! ### Packet headers (Tables 2 to 4 of ch. 10) -/

def pktLead (p : Packet) : Unit16 := p.headD 0
def hDst (p : Packet) : Nat := fld (pktLead p) 4 2
def hSrc (p : Packet) : Nat := fld (pktLead p) 6 2
def hVia (p : Packet) : Nat := fld (pktLead p) 8 2
def hType (p : Packet) : Nat := bits (pktLead p) 83 80
def hLast (p : Packet) : Bool := bit (pktLead p) 84
def hPoison (p : Packet) : Bool := bit (pktLead p) 85
def hTransit (p : Packet) : Bool := bit (pktLead p) 88
def hTagged (p : Packet) : Bool := bit (pktLead p) 89
def hStable (p : Packet) : Bool := bit (pktLead p) 90
def hResume (p : Packet) : Nat := bits (pktLead p) 94 92
def hXfer (p : Packet) : Nat := fld (pktLead p) 12 4

/-- Codeword `i` of a packet. -/
def pktCw (p : Packet) (i : Nat) : Unit16 := (p[i]?).getD 0

def tOff (p : Packet) : Nat := fld (pktCw p 1) 0 6
def tArg (p : Packet) : Nat := fld (pktCw p 1) 6 6
def tTotal (p : Packet) : Nat := fld (pktCw p 1) 12 4

/-- The data units, and their bytes. -/
def pktUnits (p : Packet) : Nat := p.length - 2
def pktData (p : Packet) : List Byte := (p.drop 2).flatMap recBytes

def tyData : Nat := 0
def tyRead : Nat := 1
def tyRData : Nat := 2
def tyAck : Nat := 3
def tyPartial : Nat := 4
def tyReady : Nat := 5
def tyFrame : Nat := 6

/-- The header of a packet; bytes 0 to 3 are the link's (R349). -/
structure Hdr where
  dst : Nat
  src : Nat
  via : Nat
  type : Nat
  last : Bool
  poison : Bool
  tagged : Bool
  stable : Bool
  xfer : Nat

def Hdr.unit (h : Hdr) : Unit16 :=
  mkRec 128 [(4, 2, h.dst), (6, 2, h.src), (8, 2, h.via), (10, 1, h.type + 16 * b2n h.last + 32 * b2n h.poison),
    (11, 1, 2 * b2n h.tagged + 4 * b2n h.stable), (12, 4, h.xfer % 2 ^ 32)]

/-- The transfer header of Table 3. -/
def xferHdr (off arg total : Nat) : Unit16 := mkRec 128 [(0, 6, off), (6, 6, arg), (12, 4, total)]

/-- Bytes as units of 16; a last short unit is padded with zeros. -/
def toUnits (bs : List Byte) : List Unit16 := (chunks bs.length 16 bs).map (fun l => BitVec.ofNat 128 (leNat l))

/-- A packet with its via field rewritten (R398). -/
def setVia (p : Packet) (v : Nat) : Packet :=
  match p with
  | [] => []
  | l :: r => setBits l 79 64 v :: r

/-- A packet with transit and resume VC set or cleared (R422). -/
def setTransit (p : Packet) (on : Bool) (resume : Nat) : Packet :=
  match p with
  | [] => []
  | l :: r => setBits (setBits l 88 88 (b2n on)) 94 92 (if on then resume else 0) :: r

/-- The packet's length is one that its type allows, and no codeword after the lead holds a nonzero reserved field
(R384). -/
def pktLenOk (p : Packet) : Bool :=
  let n := p.length
  match hType p with
  | 0 | 2 | 4 | 6 => decide (2 ≤ n ∧ n ≤ 64)
  | 1 => n == 3
  | 3 | 5 => n == 2
  | _ => false

def pktFieldsOk (p : Packet) : Bool :=
  match hType p with
  | 0 | 2 => decide (tOff p % 16 = 0)
  | 1 => decide (fld (pktCw p 1) 12 4 = 0 ∧ fld (pktCw p 2) 6 10 = 0)
  | 3 => decide (fld (pktCw p 1) 6 10 = 0)
  | 4 => decide (tTotal p < 65536 ∧ tOff p % 16 = 0)
  | 5 => decide (fld (pktCw p 1) 4 12 = 0)
  | _ => true

/-! ### Links (R342 to R344, R370) -/

def State.link (s : State) (l : Nat) : Link := tgetD s.felt.links l Link.atReset

/-- Eight counts, one for each virtual channel. -/
def eight (l : List Nat) : List Nat := (List.range 8).map (fun i => (l[i]?).getD 0)

/-- The count of channel v changed. -/
def vcUpd (l : List Nat) (v : Nat) (f : Nat → Nat) : List Nat := lupd (eight l) v f

def State.setLink (s : State) (l : Nat) (k : Link) : State := { s with felt := { s.felt with links := tset s.felt.links l k } }

def State.onLink (s : State) (l : Nat) (f : Link → Link) : State := s.setLink l (f (s.link l))

/-- The logical link number of a physical link: exchanged with its partner's where a swap has been accepted (R370). -/
def Link.label (k : Link) (l : Nat) : Nat := if k.judged = 2 then k.logical else l

/-- The physical link of a logical one. -/
def State.physLink (s : State) (label : Nat) : Nat :=
  ((List.range 24).find? (fun l => (s.link l).label l == label)).getD label

/-- The link carries data (R372). -/
def Link.data (k : Link) : Bool := (k.judged == 1 || k.judged == 2) && k.step == 10 && k.on && k.retrainAt.isNone

/-- A packet waits on a virtual channel of a link for credit (R356). -/
def State.enqueue (s : State) (link vc : Nat) (p : Packet) : State :=
  s.onLink link (fun k => { k with txq := tupd k.txq vc [] (· ++ [p]) })

/-- The package across a hop of the member at place `i`. -/
def Job.hopPkg (j : Job) (i byte : Nat) : Option Nat :=
  (List.range 3).findSome? (fun a => [true, false].findSome? (fun plus =>
    let m := j.mem i
    let e := j.extent a
    if m.hop a plus % 64 = byte % 64 ∧ hopPresent byte then
      (j.along m a (if plus then (m.coord a + 1) % e else (m.coord a + e - 1) % e)).map (fun k => (j.mem k).pkg)
    else none))

/-- The link of a hop leads to a package that is not the next member: it enters a transit stretch (R387, R422). -/
def State.entersStretch (s : State) (byte : Nat) : Bool :=
  let k := s.link (s.physLink (hopLink byte))
  k.data && (match s.me with
    | some (j, i) => (j.hopPkg i byte).any (fun p => p != k.peerPkg)
    | none => false)

/-- A packet waits on the link of a hop: on its channel, or on VC 7 with that channel as its resume VC where the hop
crosses a stretch (R379, R422). -/
def State.enqueueHop (s : State) (byte vc : Nat) (p : Packet) : State :=
  let l := s.physLink (hopLink byte)
  if s.entersStretch byte then s.enqueue l 7 (setTransit p true vc) else s.enqueue l vc p

/-- This package is on a stretch of a grant at that link (R421). -/
def State.onStretch (s : State) (link : Nat) : Option (Nat × Grant) :=
  tfind s.xfer.grants (fun _ g => g.stretch.any (fun e =>
    e.1 == s.pkgId && (s.physLink (hopLink e.2.1) == link || s.physLink (hopLink e.2.2) == link)))

/-! ### Routed packets (R379, R390 to R393) -/

/-- The place that a routed packet makes for on its channel. -/
def legDst (vc : Nat) (p : Packet) : Nat := if vc = 1 ∨ vc = 3 then hVia p else hDst p

/-- Leg 1 ends here: the packet moves to the channel of leg 2 (R379). -/
def legVc (vc here : Nat) (p : Packet) : Nat := if (vc = 1 ∨ vc = 3) ∧ hVia p = here then vc + 1 else vc

/-- A packet whose place is here waits to be delivered; link 24 stands for the package itself. -/
def State.deliverHere (s : State) (vc : Nat) (p : Packet) : State :=
  { s with felt := { s.felt with rxq := s.felt.rxq ++ [(24, vc, p)] } }

/-- A packet of this package's job is passed on to its next hop; one that names no member of the slice goes
nowhere. -/
def State.forward (s : State) (vc : Nat) (p : Packet) : State :=
  match s.me with
  | none => s
  | some (j, i) =>
    let vc := legVc vc s.pkgId p
    match j.pos (legDst vc p) with
    | none => s
    | some t =>
      match j.hop (vc == 2 || vc == 4) i t with
      | none => s.deliverHere vc p
      | some (_, a, plus) =>
        let s := s.enqueueHop ((j.mem i).hop a plus) vc p
        if 1 ≤ vc ∧ vc ≤ 4 then s.bump (slotRoute 30) 1 else s

/-- A FRAME packet on VC 0 to a member (R379, R393). -/
def State.sendFrame (s : State) (dst : Nat) (words : List Unit16) : State :=
  s.forward 0 (({ dst := dst, src := s.pkgId, via := dst, type := tyFrame, last := false, poison := false, tagged := false,
                  stable := false, xfer := 0 } : Hdr).unit :: words)

/-- A FRAME packet to the neighbour on one link. -/
def State.linkFrame (s : State) (link vc : Nat) (words : List Unit16) : State :=
  let d := (s.link link).peerPkg
  s.enqueue link vc (({ dst := d, src := s.pkgId, via := d, type := tyFrame, last := false, poison := false, tagged := false,
                        stable := false, xfer := 0 } : Hdr).unit :: words)

/-- The intermediate and the channel of a packet of leg 1 (R390, R391): `base` is 1 for requests and 3 for responses. -/
def State.launchPkt (s : State) (base : Nat) (h : Hdr) (o : Nat) (rest : List Unit16) : State :=
  let i := s.via h.src h.dst h.xfer o
  s.forward (if i = s.pkgId then base + 1 else base) (({ h with via := i } : Hdr).unit :: rest)

/-! ### Packets that have arrived (R357, R380) -/

/-- The first packet received whole that `p` picks is taken from its buffer, whose codewords are free (R357). -/
def State.takeRx (s : State) (p : Nat → Nat → Packet → Bool) : Option ((Nat × Nat × Packet) × State) :=
  match s.felt.rxq.find? (fun x => p x.1 x.2.1 x.2.2) with
  | none => none
  | some x =>
    let n := x.2.2.length
    let s := { s with felt := { s.felt with rxq := s.felt.rxq.erase x } }
    let free (k : Link) : Link :=
      { k with
        freed := vcUpd k.freed x.2.1 (fun c => (c + n) % 4096)
        freedSince := vcUpd k.freedSince x.2.1 (· + n)
        changed := true }
    some (x, if x.1 = 24 then s else s.onLink x.1 free)

/-- A packet of this channel from and to members of this package's job (R389); management frames are not asked. -/
def State.ownJob (s : State) (vc : Nat) (p : Packet) : Bool :=
  vc == 0 || vc == 7 ||
  (match s.job.job with
   | none => false
   | some j => (j.pos (hSrc p)).isSome && (j.pos (hDst p)).isSome)

end Sys2Proof.Machine
end

