-- ==== Sys2Proof/Machine/Life.lean ====
section
/-! DEFINITION. The end of commands from outside: abort, Function Level Reset (R449), fencing of this package (R572,
R575). -/
namespace Sys2Proof.Machine

/-! ### Readiness and firmware state (Table 6 of ch. 11, Table 5 of ch. 13) -/

/-- ID_STATUS ready: bits 5 to 1 are all 1. -/
def State.ready (s : State) : Bool :=
  s.host.adminReady && s.host.dramReady && s.host.feltReady && s.host.mouldReady && s.host.selftestPass

/-- A restart under R487 or R490 happened within the last 10 s. -/
def State.degraded (s : State) : Bool :=
  [s.mgmt.restartAt, s.mgmt.sentinelAt].any (fun r =>
    match r with
    | some a => decide (s.time ≤ a + sec 10)
    | none => false)

/-- The firmware state that is reported (R492). -/
def State.fwNow (s : State) : Nat :=
  if s.mgmt.fwState = 2 then (if s.degraded then 4 else if s.ready then 3 else 2) else s.mgmt.fwState

/-- ID_STATUS (Table 6 of ch. 11). -/
def State.idStatus (s : State) : BitVec 64 :=
  let h := s.host
  BitVec.ofNat 64 (b2n h.cxlMode + 2 * b2n h.adminReady + 4 * b2n h.dramReady + 8 * b2n h.feltReady +
    16 * b2n h.mouldReady + 32 * b2n h.selftestPass + 64 * b2n s.ready + 128 * b2n h.session +
    256 * h.selftestCode.toNat)

/-- A SELFTEST has started and runs (R542). -/
def State.selftesting (s : State) : Bool :=
  s.host.cmds.any (fun e => e.2.phase == .started && pktOp e.2.packet == 0x905)

/-- A cluster given back: scratch and pages keep their bytes (R181), everything else of the launch is gone. -/
def Cluster.release (c : Cluster) : Cluster :=
  { Cluster.idle with scratch := c.scratch, pages := c.pages, uid := c.uid, copyFlags := c.copyFlags, matFlags := c.matFlags,
                      vecFlags := c.vecFlags }

/-- The clusters of a launch are given back and the launch is gone. -/
def State.dropLaunch (s : State) (id : Nat) : State :=
  { s with sheet := { s.sheet with
      clusters := tmap s.sheet.clusters (fun _ c => if c.launch == some id then c.release else c),
      launches := tdel s.sheet.launches id } }

/-- The work that a command holds is given up: its clusters, its transfers, its placement, its Press run, its Mould run,
its checkpoint save, its self-test, its part in POWER_SET. -/
def State.abortWork (s : State) (id : Nat) : State :=
  let s := s.dropLaunch id
  let test : Bool :=
    match s.cmd id with
    | some c => c.phase == .started && pktOp c.packet == 0x905 && s.mem.stackBy == some .selfTest
    | none => false
  { s with
    mem := if test then { s.mem with stackBy := none } else s.mem
    pwr := if s.pwr.cmd == some id then { s.pwr with cmd := none } else s.pwr
    job := { s.job with
      placing := match s.job.placing with
        | some p => if p.cmd = id then none else some p
        | none => none
      sparing := match s.job.sparing with
        | some p => if p.cmd = id then none else some p
        | none => none }
    press := { s.press with shards := tmap s.press.shards (fun _ p =>
      match p.run with
      | some r => if r.cmd = id then { p with run := none } else p
      | none => p) }
    mould := { s.mould with runs := s.mould.runs.filter (fun r => r.cmd != id) }
    xfer := { s.xfer with insts := tdel s.xfer.insts id, ones := tdel s.xfer.ones id } }

/-- A command that has been read ends with a status whatever its phase (R535, R571, R575, R578). -/
def State.endCmd (s : State) (id : Nat) (st : Cause) : State :=
  match s.cmd id with
  | none => s
  | some c => if c.phase == .started then (s.abortWork id).finish id st else s.failCmd id st

/-- Every command that `p` picks ends with a status, in the order of reading. -/
def State.endCmds (s : State) (p : CmdRec → Bool) (st : Cause) : State :=
  s.host.cmds.foldl (fun s e => if p e.2 then s.endCmd e.1 st else s) s

/-- A command of the job: one that R471 marks, or a LAUNCH that uses a binding. -/
def State.ofJob (s : State) (id : Nat) (c : CmdRec) : Bool :=
  opNeedsJob (pktOp c.packet) ||
    (match tget s.sheet.launches id with
     | some l => !l.bindings.isEmpty
     | none => false)

/-- Function Level Reset (R449). HN_COUNT, the notice sequence, open windows and waiting occurrences are kept, and so are
tokens, handles, carve-outs, Press attachments, Mould matrices and job membership. -/
def State.flr (s : State) : State :=
  let s := s.host.cmds.foldl (fun s e => s.abortWork e.1) s
  { s with host := { s.host with session := false, levelNow := 0, cmds := [], pairs := [], hnCtrl := 0, hnMask := 0 } }

/-- The lead of the job, as this package knows it. -/
def State.leadPkg (s : State) : Option Nat := s.job.job.map Job.lead

/-- A signature or a digest has failed: a black-box record of kind 13 with the command's completion record. -/
def State.signFail (s : State) (c : CmdRec) (st : Cause) : State :=
  s.bbPush 13 (completionRec (pktTag c.packet) st.1 (pktOp c.packet) c.ctx s.dk.now s.dk.now s.ctr.next st.2) []

/-- Data of N_FENCED (R574): package, reason, placement generation. -/
def fencedData (pkg reason gen : Nat) : BitVec 64 := BitVec.ofNat 64 (pkg % 2 ^ 16 + reason % 256 * 2 ^ 16 + gen * 2 ^ 32)

/-- The codewords of a fence list (Table 2 of ch. 16): codeword 1 and four entries a codeword. -/
def fenceListWords (job gen seq_ : Nat) (es : List (Nat × Nat)) : List Unit16 :=
  mkRec 128 [(0, 1, 2), (1, 1, es.length), (4, 4, job), (8, 4, gen), (12, 4, seq_)] ::
    (chunks 62 4 es).map (fun l => mkRec 128 (l.zipIdx.map (fun p => (4 * p.2, 4, p.1.1 % 2 ^ 16 + p.1.2 % 256 * 2 ^ 16))))

/-- The lead sends a fence list to every unfenced member (R573). -/
def State.sendFenceList (s : State) : State :=
  match s.job.job with
  | none => s
  | some j =>
    let seq := s.fail.fenceSeq + 1
    let s := { s with fail := { s.fail with fenceSeq := seq } }
    let ws := fenceListWords j.id j.generation seq s.fail.fenced
    (j.members.filter (fun m => m.pkg != s.pkgId && !s.fail.fenced.any (fun f => f.1 == m.pkg))).foldl
      (fun s m => s.sendFrame m.pkg ws) s

/-- This package is fenced (R575): every command of the job completes with ST_FENCED. -/
def State.becomeFenced (s : State) (reason : Nat) : State :=
  if s.fail.selfFenced.isSome then s else
  let s := { s with fail := { s.fail with selfFenced := some reason } }
  s.host.cmds.foldl (fun s e => if s.ofJob e.1 e.2 then s.endCmd e.1 (stFenced, 0) else s) s

/-- A package of a job fences itself (R572): it sends a fence request to the lead, or as the lead a fence list; it posts
N_FENCED naming itself (R574) and a black-box record of kind 6; its job commands end (R575). -/
def State.selfFence (s : State) (reason : Nat) : State :=
  match s.job.job with
  | none => s
  | some j =>
    if s.fail.selfFenced.isSome then s else
    let s := if j.lead = s.pkgId ∨ s.fail.actingLead
      then { s with fail := { s.fail with fenced := s.fail.fenced ++ [(s.pkgId, reason)] } }.sendFenceList
      else s.send (.fenceRequest j.lead s.pkgId reason)
    let data := fencedData s.pkgId reason j.generation
    let s := s.detect nFenced 0xFFFF data (BitVec.ofNat 32 j.id)
    let s := s.bbPush 6 (noticeRec 0 nFenced ⟨0xFFFF, s.dk.now, data, BitVec.ofNat 32 j.id⟩ 0) []
    s.becomeFenced reason

end Sys2Proof.Machine
end

