-- ==== Sys2Proof/Machine/Events.lean ====
section
/-! DEFINITION. The event controller of the management complex (ch. 13): sources, claim, completion, pending bits, its
registers, and sleep. -/
namespace Sys2Proof.Machine

/-- A level source (Table 6 of ch. 13); every other source that fires is an edge source. -/
def srcIsLevel (i : Nat) : Bool :=
  i == 4 || i == 7 || i == 8 || (32 ≤ i && i ≤ 175) || (192 ≤ i && i ≤ 221) || (224 ≤ i && i ≤ 230) ||
    (240 ≤ i && i ≤ 244)

/-- A source that hardware fires on a rising edge (Table 6). -/
def srcIsEdge (i : Nat) : Bool :=
  i ≤ 3 || i == 5 || i == 6 || i == 9 || (16 ≤ i && i ≤ 21) || (176 ≤ i && i ≤ 191) || i == 245

/-- A source as it stands. -/
def State.evcSrc (s : State) (i : Nat) : Source := (tget s.evc.sources i).getD (Source.atReset i)

def State.setSrc (s : State) (i : Nat) (x : Source) : State :=
  { s with evc := { s.evc with sources := tset s.evc.sources i x } }

/-- The controller's registers of a core. -/
def State.evcCore (s : State) (c : Nat) : EvCore := (tget s.evc.cores c).getD EvCore.atReset

def State.setEvCore (s : State) (c : Nat) (x : EvCore) : State :=
  { s with evc := { s.evc with cores := tset s.evc.cores c x } }

/-- The run priority of a core: the top of its run stack, 0 when that is empty. -/
def EvCore.run (c : EvCore) : Nat :=
  match c.stack with
  | [] => 0
  | e :: _ => e.2

/-- Source `i` is eligible for core `c` (R494). -/
def State.eligible (s : State) (c i : Nat) : Bool :=
  let x := s.evcSrc i
  let k := s.evcCore c
  x.pend && !x.active && x.targets.toNat.testBit c && decide (k.thresh < x.prio) && decide (k.run < x.prio)

/-- The better of two sources: the higher priority, the lower number among equals (R495). -/
def State.betterSrc (s : State) (a b : Nat) : Nat := if (s.evcSrc b).prio > (s.evcSrc a).prio then b else a

/-- The best eligible source of a core. -/
def State.bestSrc (s : State) (c : Nat) : Option Nat :=
  ((List.range 512).filter (s.eligible c)).foldl (fun r i =>
    match r with
    | none => some i
    | some b => some (s.betterSrc b i)) none

/-- The core's interrupt is raised (R494); the controller delivers nothing while the complex sleeps. -/
def State.coreIrq (s : State) (c : Nat) : Bool := s.mgmt.sleep == 0 && (s.bestSrc c).isSome

/-- The value of a claim read that finds nothing (R495). -/
def spuriousId : Nat := 0x3FF

/-- A read of EVC_CLAIM_c (R495). -/
def State.claim (s : State) (c : Nat) : State :=
  match if s.mgmt.sleep = 0 then s.bestSrc c else none with
  | none => { s with evc := { s.evc with claims := tset s.evc.claims c spuriousId } }
  | some i =>
    let x := s.evcSrc i
    let k := s.evcCore c
    let s := s.setSrc i { x with active := true, pend := false }
    let s := s.setEvCore c { k with stack := (i, x.prio) :: k.stack }
    { s with evc := { s.evc with claims := tset s.evc.claims c i } }

/-- A level source that is not active takes its input as its pending bit (R499). -/
def Source.follow (x : Source) (i : Nat) : Source :=
  if srcIsLevel i && !x.active && x.level then { x with pend := true } else x

/-- The group of a source is in retention mode (R503). -/
def State.retained (s : State) (i : Nat) : Bool := bit s.evc.sleepMode (i / 16)

/-- EVENT_SOURCE_EDGE (R499, R502, R503). -/
def execEventSourceEdge (i : Nat) (s : State) : Out' :=
  let x := s.evcSrc i
  whenThen (srcIsEdge i && (i != 6 || s.pins.ball != 0)) s
    (if s.mgmt.sleep = 0 then s.setSrc i { x with pend := true }
     else if !s.retained i then s.setSrc i { x with latch := true }
     else if s.mgmt.sleep = 1 then s.setSrc i { x with pend := true }
     else s)

/-- EVENT_SOURCE_LEVEL (R499, R502): while the complex sleeps only the latch of a group in latch mode sees the change. -/
def execEventSourceLevel (i : Nat) (level : Bool) (s : State) : Out' :=
  let x := s.evcSrc i
  let x' : Source := { x with level := level }
  whenThen (srcIsLevel i) s
    (if s.mgmt.sleep = 0 ∨ (s.mgmt.sleep = 1 ∧ s.retained i = true) then
       s.setSrc i (if x.active then x' else { x' with pend := level })
     else if !s.retained i && level && !x.level then s.setSrc i { x' with latch := true }
     else s.setSrc i x')

/-- EVC_CLAIM (R495, R496): the claims of one cycle take effect in ascending core number. -/
def execEvcClaim (cores : List Nat) (s : State) : Out' :=
  .next (((List.range 10).filter (cores.contains ·)).foldl State.claim s)

/-- EVC_COMPLETE (R497, R499). -/
def execEvcComplete (core source : Nat) (s : State) : Out' :=
  let k := s.evcCore core
  match k.stack with
  | (i, _) :: rest =>
    if i = source then
      let x := s.evcSrc i
      let s := s.setEvCore core { k with stack := rest }
      .next (s.setSrc i (Source.follow { x with active := false } i))
    else .next (s.setEvCore core { k with bad := true })
  | [] => .next (s.setEvCore core { k with bad := true })

/-- One source of a group of 32 after a software clear with a hardware set in the same cycle (R499, R500, R9). -/
def Source.clear (x : Source) (i : Nat) (clr hw : Bool) : Source :=
  let y := if clr then Source.follow { x with pend := false } i else x
  if hw then { y with pend := true } else y

/-- EVC_PEND_CLEAR (R499, R500). -/
def execEvcPendClear (k : Nat) (mask hwSet : BitVec 32) (s : State) : Out' :=
  .next ((List.range 32).foldl (fun t b =>
    if bit mask b || bit hwSet b then
      t.setSrc (32 * k + b) ((t.evcSrc (32 * k + b)).clear (32 * k + b) (bit mask b) (bit hwSet b))
    else t) s)

/-- EVC_PEND_SET (R499): on any source, reserved ones included. -/
def execEvcPendSet (k : Nat) (mask : BitVec 32) (s : State) : Out' :=
  .next ((List.range 32).foldl (fun t b =>
    if bit mask b then t.setSrc (32 * k + b) { t.evcSrc (32 * k + b) with pend := true } else t) s)

/-- EVC_CONFIG_WRITE (R498, R505, Table 8): EVC_SRC_i, EVC_SLEEP_MODE, EVC_THRESH_c and EVC_RUN_c; a write to any other
offset is dropped. -/
def execEvcConfigWrite (offset : Nat) (v : BitVec 32) (s : State) : Out' :=
  if offset < 0x800 then
    let i := offset / 4
    .next (s.setSrc i { s.evcSrc i with targets := v.extractLsb' 16 10, wake := bit v 7, prio := v.toNat % 16 })
  else if offset = 0x900 then .next { s with evc := { s.evc with sleepMode := v } }
  else if 0x1000 ≤ offset ∧ offset < 0x10A0 then
    let c := (offset - 0x1000) / 16
    if offset % 16 = 0 then .next (s.setEvCore c { s.evcCore c with thresh := v.toNat % 16 })
    else if offset % 16 = 12 ∧ bit v 8 = true then .next (s.setEvCore c { s.evcCore c with bad := false })
    else .next s
  else .next s

/-- The controller's part of a restart of a core (R501). -/
def State.evcRestart (s : State) (core : Nat) : State :=
  let k := s.evcCore core
  let s := k.stack.foldl (fun t e => t.setSrc e.1 (Source.follow { t.evcSrc e.1 with active := false } e.1)) s
  s.setEvCore core { k with stack := [], thresh := 15 }

/-- A clock of Table 3 of ch. 14. -/
def State.clk (s : State) (i : Nat) : Clk := (tget s.pwr.clks i).getD Clk.atReset

def State.setClk (s : State) (i : Nat) (c : Clk) : State := { s with pwr := { s.pwr with clks := tset s.pwr.clks i c } }

/-- The state of a source as PD01 goes off for S2: a group in latch mode keeps no pending or active bit, a group in
retention mode keeps both (R502, R503). -/
def State.srcIntoS2 (s : State) (i : Nat) (x : Source) : Source :=
  if s.retained i then x else { x with pend := false, active := false }

/-- The state of a source as the complex wakes (R502, R503): its latch sets its pending bit and clears, and an asserted
level sets the pending bit. -/
def Source.wakeUp (i : Nat) (x : Source) : Source :=
  let x := if x.latch then { x with pend := true, latch := false } else x
  x.follow i

/-- S1_ENTRY (R504): GCLK stops. -/
def execS1Entry (s : State) : Out' :=
  whenThen (s.mgmt.sleep == 0 && s.domOn 1 && !s.mgmt.restarting) s
    { s.setClk 0 { s.clk 0 with j := 0 } with mgmt := { s.mgmt with sleep := 1 } }

/-- S2_ENTRY (R503, R504): only while no session is open and no job is placed. PD01 goes off. -/
def execS2Entry (s : State) : Out' :=
  let t := (s.setClk 0 { s.clk 0 with locked := false, j := 0 }).setClk 10 { s.clk 10 with locked := false, j := 0 }
  whenThen (s.mgmt.sleep == 0 && s.domOn 1 && !s.mgmt.restarting && !s.host.session && s.job.job.isNone) s
    { t with
      mgmt := { t.mgmt with sleep := 2 }
      host := { t.host with adminReady := false }
      pwr := { t.pwr with on := t.pwr.on &&& ~~~(2 : BitVec 20) }
      evc := { t.evc with
        sources := tmap t.evc.sources s.srcIntoS2
        cores := tmap t.evc.cores (fun _ k => { k with stack := k.stack.filter (fun e => s.retained e.1) }) } }

/-- WAKE_EDGE (R502 to R504, Table 7): an edge of a source in latch mode whose wake bit is 1 wakes the complex. -/
def execWakeEdge (i : Nat) (s : State) : Out' :=
  let x := s.evcSrc i
  let s1 := s.setSrc i { x with latch := true }
  let t : State := { s1 with
    mgmt := { s1.mgmt with sleep := 0 }
    evc := { s1.evc with sources := tmap s1.evc.sources Source.wakeUp } }
  let t := t.setClk 0 { t.clk 0 with locked := true, j := 16 }
  whenThen (s.mgmt.sleep != 0 && !s.retained i && x.wake && (srcIsEdge i || (srcIsLevel i && x.level) || x.latch)) s
    (if s.mgmt.sleep = 1 then t.readAll else
      let t := t.setClk 10 { t.clk 10 with locked := true, j := 16 }
      State.readAll { t with
        host := { t.host with adminReady := decide (t.mgmt.fwState = 2) }
        pwr := { t.pwr with on := t.pwr.on ||| 2 }
        dk := { t.dk with acquiring := true } })

end Sys2Proof.Machine
end

