-- ==== Sys2Proof/Machine/HostOps.lean ====
section
/-! DEFINITION. Host accesses and the queues' own events: the rows from DB_SET_TAIL to HEARTBEAT_TICK, REGISTER_WRITE,
BAR2 and CXL.mem accesses, Function Level Reset, the CXL link (ch. 03, 11, 14, 15, 16, 18). -/
namespace Sys2Proof.Machine

/-! ### Doorbells and ring control lines (R440 to R442) -/

/-- An 8-byte write to DB_n takes effect (R440, R441). -/
def State.doorbell (s : State) (n : Nat) (v : BitVec 64) : State :=
  let p := s.pair n
  let setTail := bit v 32
  let setHead := bit v 33
  if s.live n && p.watch then (if setTail || setHead then s.readLine n else s)
  else
    let p := { p with dbTail := if setTail then bits v 15 0 else p.dbTail,
                      dbHead := if setHead then bits v 31 16 else p.dbHead }
    let s := s.setPair n p
    let s := if setTail && p.enable then s.takeTail n p.dbTail else s
    let s := if setHead && s.live n then s.takeHead n p.dbHead else s
    s.readPair n

/-- DB_SET_TAIL (R442): the host's entries are visible, then the tail moves and commands are read. -/
def execDbSetTail (pair : Nat) (value : BitVec 64) (writes : HostWrites) (s : State) : Out' :=
  inRange (pair < 8192) pair (whenThen (s.host.linkUp && bit value 32) s ((s.hostSees writes).doorbell pair value))

/-- DB_SET_HEAD (R440): the completion head moves. -/
def execDbSetHead (pair : Nat) (value : BitVec 64) (writes : HostWrites) (s : State) : Out' :=
  inRange (pair < 8192) pair (whenThen (s.host.linkUp && bit value 33) s ((s.hostSees writes).doorbell pair value))

/-- RING_LINE_SNOOP (R441): a host write invalidates the line, and the device reads it again. -/
def execRingLineSnoop (pair : Nat) (writes : HostWrites) (s : State) : Out' :=
  inRange (pair < 8192) pair
    (whenThen (s.host.linkUp && s.live pair && (s.pair pair).watch) s ((s.hostSees writes).readLine pair))

/-- RING_LINE_POLL_TIMER (R441): the device reads the line again without a snoop. -/
def execRingLinePollTimer (pair at_ : Nat) (s : State) : Out' :=
  inRange (pair < 8192) pair
    (whenThen (s.host.linkUp && s.live pair && (s.pair pair).watch) s ((s.advance at_).readLine pair))

/-! ### Queue configuration (R439, R443, R643) -/

/-- Bits of QCFG_CTL_n that a write always takes, and those that are taken only while the pair is disabled and not busy:
context and watch (R439, R643). -/
def ctlFree : BitVec 64 := 0xFFFFFFFF02000000
def ctlLocked : BitVec 64 := 0x00000000010003FF

/-- The tail and the head are taken from where they stand, the ring control line or DB_n (R441): at enable, and when resume
lets reading go on (R439, R443). -/
def State.takeIndices (s : State) (n : Nat) : State :=
  let p := s.pair n
  if p.watch then s.readLine n
  else ((s.takeTail n p.dbTail).takeHead n p.dbHead).readPair n

/-- A write of QCFG_CTL_n (R439, R443, R643). -/
def State.ctlWrite (s : State) (n : Nat) (v : BitVec 64) : State :=
  let p := s.pair n
  let locked := p.enable || s.busy n
  let keep := p.ctl &&& ((0x100000 : BitVec 64) ||| (if locked then ctlLocked else 0))
  let ctl := keep ||| (v &&& ctlFree) ||| (if locked then 0 else v &&& ctlLocked)
  let p := { p with ctl := ctl }
  let resume := bit v 28
  let p := if resume then { p with halted := false, ringError := false } else p
  if p.enable then
    if bit v 20 then (if resume then (s.setPair n p).takeIndices n else (s.setPair n p).readPair n)
    else s.setPair n { p with ctl := setBit p.ctl 20 false }
  else if bit v 20 && !s.busy n then
    let k := bits p.sq 4 0
    let j := bits p.cq 4 0
    if k < 4 ∨ 16 < k ∨ j < 4 ∨ 16 < j ∨ (p.watch ∧ ¬ s.host.cxlMode) then s.setPair n { p with ringError := true }
    else
      let p := { p with ctl := setBit p.ctl 20 true, sqHead := 0, cqTail := 0, phase := true, halted := false,
                        ringError := false, waiting := [], uncovered := 0, firstAt := 0,
                        tail := 0, head := 0, lineHeld := false }
      (s.setPair n p).takeIndices n
  else s.setPair n p

/-- QCFG_ENABLE (R439): a write of 1 to enable. -/
def execQcfgEnable (pair : Nat) (value : BitVec 64) (s : State) : Out' :=
  inRange (pair < 8192) pair (whenThen (s.host.linkUp && bit value 20) s (s.ctlWrite pair value))

/-- QCFG_DISABLE (R643): a write of 0 to enable. -/
def execQcfgDisable (pair : Nat) (value : BitVec 64) (s : State) : Out' :=
  inRange (pair < 8192) pair (whenThen (s.host.linkUp && !bit value 20) s (s.ctlWrite pair value))

/-- QCFG_RESUME (R443): a write of 1 to resume. -/
def execQcfgResume (pair : Nat) (value : BitVec 64) (s : State) : Out' :=
  inRange (pair < 8192) pair (whenThen (s.host.linkUp && bit value 28) s (s.ctlWrite pair value))

/-! ### Records and interrupts (R443, R445, R451, R452) -/

/-- The ring has room for the record at the front of those that wait (R445). -/
def Pair.canWrite (p : Pair) : Bool := !p.waiting.isEmpty && decide ((p.cqTail + 1) % p.cqSize ≠ p.head)

/-- CQ_RECORD_WRITE (R445, R451): the oldest waiting record is written and R452 applied; the room under R444 lets reading
go on. A write that the host rejects is a ring error that posts nothing and leaves a black-box record (R443). -/
def execCqRecordWrite (pair : Nat) (rejected : Bool) (s : State) : Out' :=
  inRange (pair < 8192) pair
    (match (s.pair pair).waiting with
     | [] => .next s
     | r :: rest =>
       whenThen (s.host.linkUp && (s.pair pair).canWrite) s
         (if rejected then
           let s := s.bump slotRingError 1
           let p := s.pair pair
           (s.setPair pair { p with waiting := rest, ringError := true }).bbPush 9 r.bytes []
         else (s.writeRec pair r rest).releaseNotices.readAll))

/-- MSIX_DELAY_EXPIRY (R452): int_delay has passed since the first record that no message has covered. -/
def execMsixDelayExpiry (pair at_ : Nat) (s : State) : Out' :=
  inRange (pair < 8192) pair
    (let t := s.advance at_
     let p := t.pair pair
     whenThen (decide (p.uncovered ≠ 0 ∧ p.firstAt + us p.intDelay ≤ t.time)) s (t.msix p.vector))

/-- A vector is unmasked: a pending message is sent (R452). -/
def State.unmask (s : State) (v : Nat) : State :=
  let e := tgetD s.host.vecs v Vec.atReset
  let e := { e with masked := false, sent := if e.pend then e.sent + 1 else e.sent, pend := false }
  { s with host := { s.host with vecs := tset s.host.vecs v e } }

/-- MSIX_VECTOR_UNMASK (R452). -/
def execMsixVectorUnmask (vector : Nat) (s : State) : Out' :=
  inRange (vector < 64) vector (whenThen s.host.linkUp s (s.unmask vector))

/-! ### Notices (R453 to R455) -/

def State.hnCtrlWrite (s : State) (v : BitVec 64) : State :=
  ({ s with host := { s.host with hnCtrl := v &&& 0x31FFF } }).releaseNotices

def State.hnMaskWrite (s : State) (v : BitVec 64) : State := { s with host := { s.host with hnMask := v &&& 0x1FFF } }

/-- HN_CTRL_WRITE (R453): waiting notices are posted if they now can be. -/
def execHnCtrlWrite (value : BitVec 64) (s : State) : Out' := whenThen s.host.linkUp s (s.hnCtrlWrite value)

/-- HN_MASK_WRITE (R453). -/
def execHnMaskWrite (value : BitVec 64) (s : State) : Out' := whenThen s.host.linkUp s (s.hnMaskWrite value)

/-- NOTICE_WINDOW_CLOSE (R454): the last suppressed occurrence is posted with the count of the others, and opens a new
window; with none suppressed the window only closes. -/
def execNoticeWindowClose (bit at_ : Nat) (s : State) : Out' :=
  inRange (bit < 13) bit
    (let t := s.advance at_
     match (t.win bit).until_ with
     | none => .next s
     | some u =>
       whenThen (decide (u ≤ t.time)) s
         (let w := t.win bit
          let t := t.setWin bit { w with until_ := none, last := none, others := 0 }
          match w.last with
          | none => t
          | some o => if t.canPost && w.wait.isNone then t.postNotice bit o w.others else t.waitNotice bit o w.others))

/-- Contexts with commands read and not completed (R455). -/
def State.busyContexts (s : State) : Nat := (s.host.cmds.map (fun e => e.2.ctx)).eraseDups.length

/-- HEARTBEAT_TICK (R455). -/
def execHeartbeatTick (at_ : Nat) (s : State) : Out' :=
  let t := s.advance at_
  whenThen (bit t.host.hnCtrl 17 && decide (t.host.lastBeat + 9900000 ≤ t.time)) s
    (let q := t.host.beatSeq + 1
     let data := mkRec 64 [(0, 4, q), (4, 2, t.busyContexts), (6, 1, t.fwNow)]
     ({ t with host := { t.host with beatSeq := q, lastBeat := t.time } }).detect nHeartbeat 0xFFFF data 0)

/-! ### BAR0 writes (R7 to R9, R434, R435, Tables of the register blocks) -/

/-- The clamp level of a die is written; a value outside 5 to 15 leaves it and is counted (R531, R536). -/
def State.clampWrite (s : State) (d : Nat) (v : BitVec 64) : State :=
  let c := bits v 19 16
  if 5 ≤ c ∧ c ≤ 15 then
    { s with pwr := { s.pwr with dies := tupd s.pwr.dies d Die.atReset (fun x => { x with clampLevel := c }) } }
  else s.bump slotBadAccess 1

/-- What the RW and RO fields of a BAR0 register that has writable fields read as, before a 4-byte write to one half of
it is merged in (R435). WO fields read 0, and W1C bits are merged as 0, so that the other half clears nothing (R9). -/
def State.regOld (s : State) (o : Nat) : BitVec 64 :=
  if o < 0x20000 then 0
  else if o < 0x60000 then
    let p := s.pair ((o - 0x20000) / 32)
    match o % 32 with
    | 0 => p.sq
    | 8 => p.cq
    | 16 => p.line
    | _ => p.ctl
  else if o = 0x80000 then s.host.hnCtrl
  else if o = 0x80008 then s.host.hnMask
  else if 0x88000 ≤ o ∧ o < 0x88400 then
    let e := tgetD s.host.vecs ((o - 0x88000) / 16) Vec.atReset
    if o % 16 = 0 then BitVec.ofNat 64 e.entry.toNat
    else BitVec.ofNat 64 (e.entry.toNat / 2 ^ 64 + b2n e.masked * 2 ^ 32)
  else if 0xA0100 ≤ o ∧ o < 0xA01C0 then BitVec.ofInt 64 (tgetD s.dk.asym ((o - 0xA0100) / 8) 0 % 2 ^ 32)
  else if 0xB0100 ≤ o ∧ o < 0xB0120 then
    BitVec.ofNat 64 ((tgetD s.pwr.dies ((o - 0xB0100) / 8) Die.atReset).clampLevel * 2 ^ 16)
  else if o = 0xC0000 then s.trc.win
  else 0

/-- A write of a whole register at the 8-byte offset `o`: each block's writable fields (R8, R9); a write to reserved space
or to a read-only register is dropped (R434). -/
def State.regWrite (s : State) (o : Nat) (v : BitVec 64) : State :=
  if o < 0x10000 then s
  else if o < 0x20000 then s.doorbell ((o - 0x10000) / 8) v
  else if o < 0x60000 then
    let n := (o - 0x20000) / 32
    let p := s.pair n
    let locked := p.enable || s.busy n
    match o % 32 with
    | 0 => if locked then s else s.setPair n { p with sq := v &&& 0xFFFFFFFFFFFFF01F }
    | 8 => if locked then s else s.setPair n { p with cq := v &&& 0xFFFFFFFFFFFFF7FF }
    | 16 => if locked then s else s.setPair n { p with line := v &&& 0xFFFFFFFFFFFFFFC0 }
    | _ => s.ctlWrite n v
  else if o = 0x80000 then s.hnCtrlWrite v
  else if o = 0x80008 then s.hnMaskWrite v
  else if 0x88000 ≤ o ∧ o < 0x88400 then
    let n := (o - 0x88000) / 16
    let e := tgetD s.host.vecs n Vec.atReset
    if o % 16 = 0 then
      let e := { e with entry := BitVec.ofNat 96 (e.entry.toNat / 2 ^ 64 * 2 ^ 64 + v.toNat) }
      { s with host := { s.host with vecs := tset s.host.vecs n e } }
    else
      let e := { e with entry := BitVec.ofNat 96 (e.entry.toNat % 2 ^ 64 + v.toNat % 2 ^ 32 * 2 ^ 64), masked := bit v 32 }
      let s := { s with host := { s.host with vecs := tset s.host.vecs n e } }
      if bit v 32 then s else s.unmask n
  else if o = 0xA0030 then { s with dk := { s.dk with events := s.dk.events &&& ~~~(BitVec.ofNat 5 v.toNat) } }
  else if 0xA0100 ≤ o ∧ o < 0xA01C0 then
    { s with dk := { s.dk with asym := tset s.dk.asym ((o - 0xA0100) / 8) (signed 32 v.toNat) } }
  else if o = 0xB0008 then { s with pwr := { s.pwr with events := s.pwr.events &&& ~~~(BitVec.ofNat 13 v.toNat) } }
  else if 0xB0100 ≤ o ∧ o < 0xB0120 then s.clampWrite ((o - 0xB0100) / 8) v
  else if o = 0xC0000 then { s with trc := { s.trc with win := v &&& 0x000000FFFC000003 } }
  else s

/-- REGISTER_WRITE (R8, R435): an aligned write of 4 or 8 bytes to BAR0. A 4-byte write changes its half alone; a write to
a doorbell of any size but 8 is dropped and counted. -/
def execRegisterWrite (offset size : Nat) (value : BitVec 64) (s : State) : Out' :=
  inRange (offset < 2 ^ 21) offset
    (whenThen (s.host.linkUp && (size == 4 || size == 8) && offset % size == 0) s
      (if size = 8 then s.regWrite offset value
       else if 0x10000 ≤ offset ∧ offset < 0x20000 then s.bump slotBadAccess 1
       else
         let o := offset / 8 * 8
         let old := s.regOld o
         s.regWrite o (if offset % 8 = 0 then setBits old 31 0 (bits value 31 0) else setBits old 63 32 (bits value 31 0))))

/-- DK_NOW_LOW_READ (R552): a 4-byte read of the low half latches the high half. -/
def execDkNowLowRead (s : State) : Out' :=
  whenThen s.host.linkUp s
    { s with dk := { s.dk with latch := s.dk.now / 2 ^ 32 % 2 ^ 32 },
             host := { s.host with resp := { value := s.dk.now % 2 ^ 32, poison := false } } }

/-- PT_MCLK_CLAMP_WRITE (R531). -/
def execPtMclkClampWrite (die : Nat) (value : BitVec 64) (s : State) : Out' :=
  inRange (die < 4) die (whenThen s.host.linkUp s (s.clampWrite die value))

/-! ### BAR2 and the host window (R129 to R134, R566) -/

/-- A device address lies in the firmware carve-out (R112). -/
def inFirmware (a : Nat) : Bool := decide (topOfCarve ≤ a % 2 ^ 30)

/-- A device address lies on a channel of an extent and within its bytes there (R86). -/
def Extent.covers (e : Extent) (a : Nat) : Bool :=
  let stack := a / 2 ^ 36 % 16
  let chan := a / 2 ^ 30 % 64
  let b := a % 2 ^ 30
  decide (e.base ≤ b ∧ b < e.base + e.size / stripeWidth e.stripe) &&
  (match e.stripe with
   | 0 => stack == e.place % 16 && chan / 8 == e.place / 16 % 8
   | 1 => stack == e.place % 16
   | 2 => stack / 4 == e.place % 4
   | _ => true)

/-- Handles of a shard that is attached to the Press (R302, R566). -/
def PShard.handles (p : PShard) : List Nat := [p.weight, p.state, p.landing]

/-- A device address lies in an extent attached to the Press. -/
def State.inPress (s : State) (a : Nat) : Bool :=
  s.press.shards.any (fun e => e.2.handles.any (fun h =>
    match s.handle h with
    | some sl => sl.ext.covers a
    | none => false))

/-- The host read what it asked for. -/
def State.respond (s : State) (bs : List Byte) (poison : Bool) : State :=
  { s with host := { s.host with resp := { value := leNat bs, poison := poison } } }

/-- The device addresses of `n` bytes of BAR2 from offset `o` on: base + o (R566). -/
def State.bar2Addrs (s : State) (o n : Nat) : List Nat := (List.range n).map (fun i => bits s.trc.win 39 26 * 2 ^ 26 + o + i)

/-- BAR2_READ (R566). -/
def execBar2Read (offset size : Nat) (s : State) : Out' :=
  inRange (offset + size ≤ 2 ^ 26) offset
    (whenThen s.host.linkUp s
      (if !bit s.trc.win 0 then s.respond (List.replicate size 0xFF) false
       else
         let as := s.bar2Addrs offset size
         let (bs, bad, t) := s.readBytes (as.filter (fun a => !s.inPress a))
         -- bytes of an extent attached to the Press read as zero
         let r := as.foldl (fun (acc : List Byte × List Byte) a =>
           if s.inPress a then (0 :: acc.1, acc.2) else (acc.2.headD 0 :: acc.1, acc.2.tail)) ([], bs)
         t.respond r.1.reverse bad))

/-- BAR2_WRITE (R566): performed, or dropped and counted. -/
def execBar2Write (offset : Nat) (data : List Byte) (s : State) : Out' :=
  inRange (offset + data.length ≤ 2 ^ 26) offset
    (whenThen s.host.linkUp s
      (let as := s.bar2Addrs offset data.length
       if !bit s.trc.win 0 || !bit s.trc.win 1 || as.any (fun a => inFirmware a || s.inPress a)
       then s.bump slotBadAccess 1 else s.writeBytes as data))

/-- The device address of byte `o` of the host window, if it lies in a valid host-visible extent (R129, R130). -/
def State.windowAddr (s : State) (o : Nat) : Option Nat :=
  match tfind s.mem.slots (fun _ sl => sl.live && sl.ext.hostVisible && decide (sl.ext.hdm ≤ o ∧ o < sl.ext.hdm + sl.ext.size)) with
  | some (_, sl) => some (sl.ext.addr (o - sl.ext.hdm))
  | none => none

/-- HOST_MEM_READ (R130, R94): data with poison for an uncorrectable word and for a byte in no host-visible extent. -/
def execHostMemRead (offset size : Nat) (s : State) : Out' :=
  inRange (offset + size ≤ s.mem.carve.window) offset
    (whenThen (s.host.linkUp && s.host.cxlMode) s
      (let as := (List.range size).map (fun i => s.windowAddr (offset + i))
       let (bs, bad, t) := s.readBytes (as.filterMap id)
       if as.any Option.isNone then t.respond (List.replicate size 0) true else t.respond bs bad))

/-- HOST_MEM_WRITE (R130): bytes of no host-visible extent are dropped and counted. -/
def execHostMemWrite (offset : Nat) (data : List Byte) (s : State) : Out' :=
  inRange (offset + data.length ≤ s.mem.carve.window) offset
    (whenThen (s.host.linkUp && s.host.cxlMode) s
      (let as := (data.zipIdx).map (fun p => (s.windowAddr (offset + p.2), p.1))
       let ok := as.filterMap (fun p => p.1.map (fun a => (a, p.2)))
       let s := s.writeBytes (ok.map Prod.fst) (ok.map Prod.snd)
       if as.any (fun p => p.1.isNone) then s.bump slotBadAccess 1 else s))

/-! ### Resets of the function and the link (R449, R569, R627) -/

/-- FUNCTION_LEVEL_RESET (R449). -/
def execFunctionLevelReset (s : State) : Out' := whenThen s.host.linkUp s s.flr

/-- The CXL link goes down. -/
def State.linkDown (s : State) : State :=
  if s.host.linkUp then { s with host := { s.host with linkUp := false, downAt := s.time } } else s

/-- CXL_PERST_ASSERT (R627). -/
def execCxlPerstAssert (at_ : Nat) (s : State) : Out' :=
  let t := s.advance at_
  .next ({ t with pins := { t.pins with perstLow := true } }).flr.linkDown

/-- CXL_PERST_RELEASE (R627): the link may train again; its coming up is CXL_LINK_STATE_CHANGE. -/
def execCxlPerstRelease (at_ : Nat) (s : State) : Out' :=
  let t := s.advance at_
  .next { t with pins := { t.pins with perstLow := false } }

/-- CXL_LINK_STATE_CHANGE (R432, R436, R537, R569): the link comes up in CXL or PCIe mode, once PD02 runs and neither
reset is asserted, or goes down. -/
def execCxlLinkStateChange (up cxl : Bool) (at_ : Nat) (s : State) : Out' :=
  let t := s.advance at_
  if up then
    whenThen (!t.pwr.resetLow && !t.pins.perstLow && t.domOn 2 && !t.host.linkUp) s
      { t with host := { t.host with linkUp := true, cxlMode := cxl } }
  else whenThen t.host.linkUp s t.linkDown

/-- HOST_LINK_LOSS_TIMEOUT (R569): the CXL link down for 1 s self-fences the package with reason 8. -/
def execHostLinkLossTimeout (at_ : Nat) (s : State) : Out' :=
  let t := s.advance at_
  whenThen (!t.host.linkUp && decide (t.host.downAt + sec 1 ≤ t.time) && t.job.job.isSome && t.fail.selfFenced.isNone) s
    (t.selfFence 8)

end Sys2Proof.Machine
end

