-- ==== Sys2Proof/Machine/Formats.lean ====
section
/-! DEFINITION. Rows of elements in storage: sizes, the planes of block-scaled rows (R139, R641), conversion of a row from
one format to another (R199 to R201), generator words of a rounding context (R154). -/
namespace Sys2Proof.Machine

/-- Where the scale plane of a block-scaled operand of n elements begins (R139). -/
def scaleOff (n : Nat) : Nat := roundUp (ceilDiv n 2) 256

/-- Bytes of n elements laid out as R139 gives. -/
def planeBytes (f n : Nat) : Nat := if fmtBlock f then scaleOff n + n / 32 else n * fmtBits f / 8

/-- Elements of a linear row of `b` bytes: for a block-scaled row, the largest multiple of 32 whose planes fit (log 14). -/
def planeElems (f b : Nat) : Nat :=
  if fmtBlock f then let q := (b + 15) / 272
                     32 * Min.min (16 * q) (b - 256 * q)
  else b * 8 / fmtBits f

/-- Bytes of a row of n elements in an indexed copy (R641). -/
def rowBytes (f n : Nat) : Nat := if fmtBlock f then 16 * ceilDiv (17 * n) 512 else n * fmtBits f / 8

/-- Elements of a row of `b` bytes in an indexed copy (R641). -/
def rowElems (f b : Nat) : Nat := if fmtBlock f then b / 16 * 512 / 17 / 32 * 32 else b * 8 / fmtBits f

/-- The storage format that a source format code reads as (R142, R200). -/
def srcFmt (f : Nat) : Nat := if f = fmtSPLIT32 then fmtBF16 else f

/-- Element codes of `bits`-bit elements packed from bit 0 upward. -/
def unpackBits (w : Nat) (bs : List Byte) (n : Nat) : List Nat :=
  if w = 4 then (bs.flatMap (fun b => [b.toNat % 16, b.toNat / 16])).take n
  else (chunks n (w / 8) bs).map leNat

/-- Bytes of element codes packed from bit 0 upward. -/
def packBits (w : Nat) (cs : List Nat) : List Byte :=
  if w = 4 then (chunks cs.length 2 cs).map (fun p => BitVec.ofNat 8 ((p.headD 0) % 16 + 16 * ((p.tail).headD 0 % 16)))
  else cs.flatMap (fun c => leBytes (w / 8) c)

/-- The n values of a data plane and a scale plane in format `f` (R138, R139). -/
def decodePlanes (f n : Nat) (data scales : List Byte) : List FVal :=
  let cs := unpackBits (fmtBits f) data n
  if fmtBlock f then
    ((chunks n 32 cs).zip scales).flatMap (fun p => p.1.map (fun c => blockDecode f c p.2.toNat))
  else cs.map (decodeAs (srcFmt f))

/-- Values in format `f`: data plane, scale plane, flags. `rnd` rounds element e (R151). -/
def encodePlanes (f : Nat) (rnd : Nat → Rnd) (vs : List FVal) : List Byte × List Byte × Flags :=
  if fmtBlock f then
    let bs := ((chunks vs.length 32 vs).zipIdx).map (fun p => blockEncode f (fun i => rnd (32 * p.2 + i)) p.1)
    (packBits 4 (bs.flatMap (fun b => b.2.1)), bs.map (fun b => BitVec.ofNat 8 b.1), bs.foldl (fun a b => a ||| b.2.2) 0)
  else
    let rs := vs.zipIdx.map (fun p => encodeAs f (rnd p.2) p.1)
    (packBits (fmtBits f) (rs.map Prod.fst), [], rs.foldl (fun a r => a ||| r.2) 0)

/-- The rounding of a conversion (R151, R153): stochastic rounding applies to narrowing conversions from FP32 only. -/
def convRnd (fa fd : Nat) (stoch : Option (Nat → Nat)) (e : Nat) : Rnd :=
  match stoch with
  | some r => if fa = fmtFP32 ∧ fd ≠ fmtFP32 then .stoch (r e) else .even
  | none => .even

/-- A piece of a stored row: where it begins in the row, and its bytes. -/
abbrev Piece := Nat × List Byte

/-- One row of a linear copy converted: `bs` holds the source row, the result the pieces of the destination row and the
flags; equal formats move bytes unchanged (R199). `e0` is the row's first element (R201). -/
def convertLinear (fa fd : Nat) (stoch : Option (Nat → Nat)) (bs : List Byte) (e0 : Nat) : List Piece × Flags :=
  if fa = fd then ([(0, bs)], 0) else
  let n := planeElems fa bs.length
  let vs := decodePlanes fa n bs (bs.drop (scaleOff n))
  let (d, sc, fl) := encodePlanes fd (fun i => convRnd fa fd stoch (e0 + i)) vs
  (if fmtBlock fd then [(0, d), (scaleOff n, sc)] else [(0, d)], fl)

/-- Bytes that a linear row of `b` bytes in `fa` takes in `fd`. -/
def linearBytes (fa fd b : Nat) : Nat := if fa = fd then b else planeBytes fd (planeElems fa b)

/-- One row of an indexed copy converted to `len` bytes (R641: planes follow directly, zero padding). -/
def convertRow (fa fd : Nat) (stoch : Option (Nat → Nat)) (n len : Nat) (bs : List Byte) (e0 : Nat) : List Byte × Flags :=
  if fa = fd then (bs.take len ++ List.replicate (len - bs.length) 0, 0) else
  let vs := decodePlanes fa n bs (bs.drop (n / 2))
  let (d, sc, fl) := encodePlanes fd (fun i => convRnd fa fd stoch (e0 + i)) vs
  let out := d ++ sc
  (out ++ List.replicate (len - out.length) 0, fl)

/-- A pair of formats that a copy may convert between (R199): no reserved code, nothing written as SPLIT32, floating with
floating and I8 with I4. -/
def copyPair (fa fd : Nat) : Bool := fa ≤ 8 && fd ≤ 7 && (fmtInt fa == fmtInt fd)

/-- Elements of a row and bytes of the row on the other side, for an indexed copy whose table row has `b` bytes in format
`known`; `none` where R199, R472 or R641 refuse the shape. -/
def rowShape (fa fd known b : Nat) : Option (Nat × Nat) :=
  if !copyPair fa fd then none else
  let n := rowElems known b
  let other := if known = fa then fd else fa
  if fa = fd then (if fmtBlock fa ∧ n < 32 then none else some (n, b))
  else if n = 0 ∨ ((fmtBlock other ∨ fmtBlock known) ∧ (n % 32 ≠ 0 ∨ n < 32)) then none
  else
    let ob := rowBytes other n
    if ob % 16 ≠ 0 then none else some (n, ob)

/-- The 16-bit random value of element e under a rounding context (R154, R201). -/
def ctxRandom (seed : BitVec 256) (rc : RndCtx) (e : Nat) : Nat := gen16 seed rc.stream rc.step ((rc.base + e) % 2 ^ 48)

/-- Generator words that n elements from the context's base on take (four elements a word, R154). -/
def genWords (base n : Nat) : Nat := if n = 0 then 0 else (base + n - 1) / 4 - base / 4 + 1

/-- Row indices of an index list (R122); `none` is the null index. -/
def indexList (idx64 : Bool) (count : Nat) (bs : List Byte) : List (Option Nat) :=
  let w := if idx64 then 8 else 4
  (chunks count w bs).map (fun l => let v := leNat l
                                    if v = 256 ^ w - 1 then none else some v)

/-- The list position of the first index that is neither null nor below the row count (R123). -/
def badIndex (rows : Nat) (ix : List (Option Nat)) : Option Nat :=
  ix.findIdx? (fun i => match i with
    | some v => decide (rows ≤ v)
    | none => false)

end Sys2Proof.Machine
end

