-- ==== Sys2Proof/Machine/Session.lean ====
section
/-! DEFINITION. Commands of the session group (ch. 12 Tables 2 and 3): HELLO, FENCE, TOKEN_SET, TOKEN_RESET, TOKEN_READ,
and TOKEN_WAIT_TIMEOUT (R457); helpers that every command's checks use. -/
namespace Sys2Proof.Machine

/-- A check of R639: the status where the condition fails. -/
def need (c : Bool) (st : Cause) : Except Cause Unit := if c then .ok () else .error st

/-- The package's job, which the command needs (R471). -/
def needJob (s : State) : Except Cause Unit := need s.job.job.isSome (stConflict, 0)

/-- The command has done its work. -/
def okDone (s : State) (detail : Nat := 0) : Except Cause Work := .ok (.done (stOk, detail) s)

/-- The command has started and ends with a failing status of its work. -/
def failDone (s : State) (st : Cause) : Except Cause Work := .ok (.done st s)

/-- A command that starts in one step and may complete in a later one: `fin` says whether its work is done, with the
status. -/
def jeiskWait (op : Nat) (body : Body) (fin : Nat → CmdRec → State → Option (Cause × State)) (id : Nat) (s : State) : Out' :=
  match s.cmd id with
  | none => .next s
  | some c =>
    if c.phase == .started then
      if pktOp c.packet = op then
        match fin id c s with
        | some (st, t) => .next (t.finish id st)
        | none => .next s
      else .next s
    else jeisk op (fun id c s => do
      match ← body id c s with
      | .done st t => return .done st t
      | .busy t =>
        match fin id c t with
        | some (st, t) => return .done st t
        | none => return .busy t) id s

/-! ### Handles named by commands (R100 to R102) -/

/-- A HANDLE_FREE of this handle would be refused (R102): a firmware handle, a handle of an attached shard, or one that a
PRESS_ATTACH read earlier and not completed names. -/
def State.freeRefused (s : State) (id h : Nat) : Bool :=
  (match s.handle h with
   | some sl => sl.firmware
   | none => false)
  || s.press.shards.any (fun e => [e.2.weight, e.2.state, e.2.landing].contains h)
  || s.host.cmds.any (fun e => e.1 < id && pktOp e.2.packet == 0x600
        && [fld e.2.packet 28 4, fld e.2.packet 32 4, fld e.2.packet 36 4].contains h)

/-- The handle as command `id` may use it: valid, and not named by a HANDLE_FREE that was read before the command and has
not been refused (R100, R102). -/
def State.handleFor (s : State) (id h : Nat) : Option HSlot :=
  if s.host.cmds.any (fun e => e.1 < id && pktOp e.2.packet == 0x101 && fld e.2.packet 24 4 == h
      && !s.freeRefused e.1 h) then none
  else s.handle h

/-- A byte range of a handle that command `id` names (R100). -/
def State.rangeFor (s : State) (id h off len : Nat) : Except Cause Extent :=
  match s.handleFor id h with
  | some sl => if off + len ≤ sl.ext.size then .ok sl.ext else .error (stBadParam, h)
  | none => .error (stBadParam, h)

/-- The shard that holds a handle, if any. -/
def State.shardOf (s : State) (h : Nat) : Option (Nat × PShard) :=
  tfind s.press.shards (fun _ p => [p.weight, p.state, p.landing].contains h)

/-- Rule, class and flags of an attached shard (Table 4 of ch. 07). -/
def PShard.rule (p : PShard) : Nat := bits p.config 1 0
def PShard.rounded (p : PShard) : Bool := bit p.config 2
def PShard.momentum (p : PShard) : Bool := bit p.config 3
def PShard.nesterov (p : PShard) : Bool := bit p.config 4
/-- Blocks of 128 elements (R272). -/
def PShard.nb (p : PShard) : Nat := p.rows * p.cols / 128

/-- R302: only the Press writes the handle, or only the reduce path; R479: the batch handle is no destination. -/
def State.writeGuarded (s : State) (h : Nat) : Bool :=
  (match s.vat.cfg with
   | some v => v.handle == h
   | none => false) ||
  (match s.shardOf h with
   | some (_, p) => h == p.weight || h == p.state || (h == p.landing && (p.rule == 1 || p.form == some false))
   | none => false)

/-- R143: the bytes of a range that fall in the low plane of an attached split-class weight handle. -/
def State.lowPlane (s : State) (h off len : Nat) : Bool :=
  match s.shardOf h with
  | some (_, p) => h == p.weight && !p.rounded && decide (0 < len ∧ 2 * (p.rows * p.cols) < off + len ∧ off < 4 * (p.rows * p.cols))
  | none => false

/-! ### The commands -/

/-- HELLO (R448). -/
def helloBody : Body := fun _ c s => do
  need (!s.host.session) (stConflict, 0)
  need (decide (fld c.packet 24 1 ≤ 1 ∧ 1 ≤ fld c.packet 25 1)) (stLevelMismatch, 1)
  okDone ({ s with host := { s.host with session := true, levelNow := 1 } }).releaseNotices 1

def execHello (id : Nat) (s : State) : Out' := jeisk 0x001 helloBody id s

/-- FENCE (R460): it starts in its context's order, and completes once every earlier command of its scope has completed;
the orderings of R133 hold of every step, because the model's host accesses and device work take effect one by one. -/
def fenceBody : Body := fun _ _ s => .ok (.busy s)

def fenceDone (id : Nat) (c : CmdRec) (s : State) : Option (Cause × State) :=
  let all := decide (fld c.packet 24 1 % 2 = 1)
  if s.host.cmds.all (fun e => !(e.1 < id && (all || e.2.ctx == c.ctx))) then some ((stOk, 0), s) else none

def execFence (id : Nat) (s : State) : Out' := jeiskWait 0x002 fenceBody fenceDone id s

/-- TOKEN_SET (R459). -/
def tokenSetBody : Body := fun _ c s => okDone (s.raiseToken (fld c.packet 24 2) (fld c.packet 26 6))

def execTokenSet (id : Nat) (s : State) : Out' := jeisk 0x003 tokenSetBody id s

/-- Some command waits on the token, or a Press attachment holds it (R459). -/
def State.tokenHeld (s : State) (t : Nat) : Bool :=
  s.host.cmds.any (fun e => e.2.phase == .waiting && pktWaits e.2.packet && pktWaitTok e.2.packet == t)
  || s.press.shards.any (fun e => e.2.token == t)

/-- TOKEN_RESET (R459). -/
def tokenResetBody : Body := fun _ c s => do
  need (!s.tokenHeld (fld c.packet 24 2)) (stConflict, 0)
  okDone (s.putToken (fld c.packet 24 2) 0)

def execTokenReset (id : Nat) (s : State) : Out' := jeisk 0x004 tokenResetBody id s

/-- TOKEN_READ (R459, Tables 2 and 3 of ch. 12). -/
def tokenReadBody : Body := fun _ c s => do
  let n := fld c.packet 24 1
  let out := fld c.packet 40 8
  need (decide (1 ≤ n ∧ n ≤ 64 ∧ out % 32 = 0)) (stBadParam, 0)
  match s.hostRead (fld c.packet 32 8) (2 * n) with
  | none => failDone s (stDataError, 0)
  | some l => okDone (s.hostWrite out ((chunks n 2 l).flatMap (fun t => leBytes 8 (s.token (leNat t))))) n

def execTokenRead (id : Nat) (s : State) : Out' := jeisk 0x005 tokenReadBody id s

/-- TOKEN_WAIT_TIMEOUT (R457): the wait is not met within wait_limit of the moment from which only the token, or a block
that is not ready (R437), holds the command. -/
def execTokenWaitTimeout (id at_ : Nat) (s : State) : Out' :=
  let t := s.advance at_
  match t.cmd id with
  | none => .next s
  | some c =>
    let lim := (t.pair c.pair).waitLimit
    match c.readyAt with
    | none => .next s
    | some r =>
      whenThen (c.phase == .waiting && (tget t.sheet.launches id).isNone && (pktWaits c.packet || !t.blockReady (pktOp c.packet))
          && decide (lim ≠ 0 ∧ r + ms lim ≤ t.time) && !t.mayStart id c) s
        ((t.bump slotWaitTimeout 1).failCmd id (stTimeout, 0))

end Sys2Proof.Machine
end

