-- ==== Sys2Proof/Machine/Handles.lean ====
section
/-! DEFINITION. Handles, carve-outs, the request tracker, the activation stack (ch. 03, 06; ch. 12 Tables 4 and 5):
HANDLE_ALLOC, HANDLE_FREE, HANDLE_QUERY, MEM_CONFIG, TRACK_CONFIG, STACK_OPEN, STACK_CLOSE, TRACKER_ENTRY_GRANT,
PATROL_SCRUB_READ. -/
namespace Sys2Proof.Machine

/-! ### Placement of extents (R86, R97, R104, R112) -/

/-- Two extents share a channel (Table 1 of ch. 03). -/
def chanOverlap (a b : Extent) : Bool :=
  let inStacks (e : Extent) : List Nat :=
    match e.stripe with
    | 0 | 1 => [e.place % 16]
    | 2 => (List.range 4).map (4 * (e.place % 4) + ·)
    | _ => List.range 16
  let group (e : Extent) : Option Nat := if e.stripe = 0 then some (e.place / 16 % 8) else none
  (inStacks a).any (fun x => (inStacks b).contains x) &&
    (match group a, group b with
     | some x, some y => x == y
     | _, _ => true)

/-- Bytes that an extent takes on each of its channels. -/
def Extent.perChannel (e : Extent) : Nat := e.size / stripeWidth e.stripe

/-- The extents of live handles. -/
def State.liveExtents (s : State) : List Extent := (s.mem.slots.filter (fun e => e.2.live)).map (fun e => e.2.ext)

/-- No live extent meets the extent on a channel of its own. -/
def State.extentFree (s : State) (e : Extent) : Bool :=
  s.liveExtents.all (fun x => !chanOverlap x e || decide (x.base + x.perChannel ≤ e.base ∨ e.base + e.perChannel ≤ x.base))

/-- The per-channel range that handles may take: the host window for host-visible ones, else everything below the
carve-outs (R112). -/
def State.handleRegion (s : State) (hostVisible : Bool) : Nat × Nat :=
  let lo := s.mem.carve.base 6
  if hostVisible then (lo, lo + s.mem.carve.window / 1024) else (0, lo)

/-- A free place for an extent (R97): the placement unit's preferred granule if it is free, else the first place that
is; `none` where none is large enough (log 9). -/
def State.placeExtent (s : State) (e : Extent) (draw : Nat) : Option Extent :=
  let (lo, hi) := s.handleRegion e.hostVisible
  let fits (b : Nat) : Bool := decide (lo ≤ b ∧ b + e.perChannel ≤ hi) && s.extentFree { e with base := b }
  let pref := lo + Config.extentGranule draw % ((hi - lo) / 2048 + 1) * 2048
  let ends := lo :: s.liveExtents.map (fun x => x.base + x.perChannel)
  (if fits pref then some pref else ends.find? fits).map (fun b =>
    { e with base := b, hdm := if e.hostVisible then (b - lo) * 1024 else 2 ^ 64 - 1 })

/-- The slot that the next handle takes and its generation (R99). -/
def State.nextSlot (s : State) : Option (Nat × Nat) :=
  if s.mem.fresh < 2 ^ 18 then some (s.mem.fresh, 1)
  else match s.mem.released with
    | [] => none
    | n :: _ =>
      let g := ((tget s.mem.slots n).map HSlot.gen).getD 0
      some (n, if g ≥ 16383 then 1 else g + 1)

/-- A handle is made in that slot. -/
def State.makeHandle (s : State) (slot gen : Nat) (firmware : Bool) (e : Extent) : State :=
  { s with mem := { s.mem with
      slots := tset s.mem.slots slot { gen := gen, live := true, firmware := firmware, ext := e },
      fresh := if slot = s.mem.fresh ∧ s.mem.fresh < 2 ^ 18 then s.mem.fresh + 1 else s.mem.fresh,
      released := if slot = s.mem.fresh ∧ s.mem.fresh < 2 ^ 18 then s.mem.released else s.mem.released.tail } }

/-- A handle is released: its slot is free, the extent may be reused (R99, R102). -/
def State.releaseHandle (s : State) (h : Nat) : State :=
  { s with mem := { s.mem with slots := tmod s.mem.slots (handleSlot h) (fun sl => { sl with live := false }),
                               released := s.mem.released ++ [handleSlot h] } }

/-! ### HANDLE_ALLOC, HANDLE_FREE, HANDLE_QUERY -/

/-- The stripe of a new handle and its place, by class, consumers field, place field, rounded size and host_visible
(R97, R98, R104; log 9). -/
def stripeFor (cls consumers place size : Nat) (visible : Bool) : Nat × Nat :=
  if visible || !(cls == 0 || cls == 1 || cls == 6 || cls == 7) then (3, 0)
  else if consumers = 1 ∧ size ≤ 64 * 2 ^ 20 then (0, 4 * (place / 32) + place % 32 / 8 + 16 * (place % 8))
  else if consumers = 1 then (2, place / 32)
  else if consumers = 2 then (2, place)
  else (3, 0)

/-- HANDLE_ALLOC (R96 to R99, R104, R131). -/
def handleAllocBody : Body := fun _ c s => do
  let p := c.packet
  let size := fld p 24 8
  let cls := fld p 32 1
  let consumers := fld p 34 1
  let place := fld p 36 2
  let visible := (fld p 33 1).testBit 0
  need (!(8 ≤ cls && cls < 16)) (stReservedNonzero, 0)
  need (decide (cls < 16)) (stBadParam, 0)
  need (decide (size ≠ 0 ∧ size ≤ 2 ^ 40)) (stBadParam, 0)
  need (decide (consumers ≤ 3)) (stBadParam, 0)
  need (decide ((consumers = 1 ∧ place < 128) ∨ (consumers = 2 ∧ place < 4) ∨ ((consumers = 0 ∨ consumers = 3) ∧ place = 0)))
    (stBadParam, 0)
  let size := roundUp size (2 ^ 21)
  let (stripe, at_) := stripeFor cls consumers place size visible
  need (!(visible && (s.mem.carve.window == 0 || !s.host.cxlMode))) (stNoResource, 0)
  match s.nextSlot with
  | none => .error (stNoResource, 0)
  | some (slot, gen) =>
    let (d, s) := s.draw
    match s.placeExtent { cls := cls, stripe := stripe, place := at_, hostVisible := visible,
                          fabricRead := (fld p 33 1).testBit 1, size := size, base := 0, hdm := 0 } d with
    | none => .error (stNoResource, 0)
    | some e => okDone (s.makeHandle slot gen false e) (mkHandle slot gen)

def execHandleAlloc (id : Nat) (s : State) : Out' := jeisk 0x100 handleAllocBody id s

/-- HANDLE_FREE (R102). -/
def handleFreeBody : Body := fun id c s => do
  let h := fld c.packet 24 4
  match s.handleFor id h with
  | none => .error (stBadParam, h)
  | some _ =>
    need (!s.freeRefused id h) (stConflict, 0)
    .ok (.busy s)

/-- It completes once every command read before it has completed, and only then is the extent reused. -/
def handleFreeDone (id : Nat) (c : CmdRec) (s : State) : Option (Cause × State) :=
  if s.host.cmds.all (fun e => !decide (e.1 < id)) then some ((stOk, 0), s.releaseHandle (fld c.packet 24 4)) else none

def execHandleFree (id : Nat) (s : State) : Out' := jeiskWait 0x101 handleFreeBody handleFreeDone id s

/-- The handle record (Table 5 of ch. 03). -/
def handleRecord (h : Nat) (e : Extent) : BitVec 256 :=
  mkRec 256 [(0, 4, h), (4, 1, e.cls), (5, 1, e.stripe), (6, 1, e.place), (7, 1, b2n e.hostVisible + 2 * b2n e.fabricRead),
    (8, 8, e.size), (16, 8, e.base), (24, 8, e.hdm)]

/-- HANDLE_QUERY (R103). -/
def handleQueryBody : Body := fun id c s => do
  let h := fld c.packet 24 4
  let out := fld c.packet 32 8
  need (decide (out % 32 = 0)) (stBadParam, 0)
  match s.handleFor id h with
  | none => .error (stBadParam, h)
  | some sl => okDone (s.hostWrite out (recBytes (handleRecord h sl.ext)))

def execHandleQuery (id : Nat) (s : State) : Out' := jeisk 0x102 handleQueryBody id s

/-! ### MEM_CONFIG (R111 to R113, R559) -/

def gib : Nat := 2 ^ 30

/-- Every statistic entry is freed, in the side memories and in the spill carve-out (R113, R261, R475): a freed spill
record loses its valid bit. -/
def State.freeStats (s : State) : State :=
  let e := s.mem.carve.extent 2
  let s := s.sheet.spilled.foldl (fun s p =>
    s.writeBytes (e.addrs (p.1 / 2 ^ 24 * (256 * 2 ^ 20) + 16 * (p.1 % 2 ^ 24) + 8) 1) [BitVec.ofNat 8 p.2.kind]) s
  { s with sheet := { s.sheet with homes := [], spilled := [] } }

/-- The carve-out sizes that a MEM_CONFIG packet names (Table 4 of ch. 12). -/
def Carve.named (p : BitVec 512) : Carve :=
  { vat := fld p 24 2 * gib, stack := fld p 26 1 * gib, spill := fld p 27 1 * 2 ^ 28, counters := fld p 28 1 * 2 ^ 24,
    trace := fld p 29 1 * 2 ^ 24, couch := fld p 30 1 * gib, window := fld p 32 2 * 2 ^ 28, countersInFw := false }

/-- The sizes lie in the ranges of Table 9 of ch. 03, and total at most 510 GiB (R111). -/
def carveFits (p : BitVec 512) : Bool :=
  decide ((fld p 24 2 = 0 ∨ (4 ≤ fld p 24 2 ∧ fld p 24 2 ≤ 384)) ∧ fld p 26 1 ≤ 128 ∧ 1 ≤ fld p 27 1 ∧ fld p 27 1 ≤ 64
    ∧ 1 ≤ fld p 28 1 ∧ fld p 28 1 ≤ 64 ∧ fld p 29 1 ≤ 64 ∧ fld p 30 1 ≤ 64 ∧ fld p 32 2 ≤ 1024)
  && decide ((Carve.named p).sizes.sum ≤ 510 * gib)

/-- Something lies in a carve-out that must not move (R113). -/
def State.carveInUse (s : State) : Bool :=
  s.mem.slots.any (fun e => e.2.live && !e.2.firmware) || s.vat.running || s.vat.cfg.isSome
    || s.mem.stackBy.isSome || s.mem.traceBy.isSome || s.mem.couchBy.isSome

def memConfigBody : Body := fun _ c s => do
  need (carveFits c.packet) (stBadParam, 0)
  need (!s.carveInUse) (stConflict, 0)
  let s := s.freeStats
  okDone { s with mem := { s.mem with carve := Carve.named c.packet } }

def execMemConfig (id : Nat) (s : State) : Out' := jeisk 0x103 memConfigBody id s

/-! ### The request tracker (R116 to R121) -/

/-- Defaults of R117, the cap in 1/1,024 of the pool. -/
def State.guarantee (s : State) (ctx : Nat) : Nat := tgetD s.trk.guarantee ctx 64
def State.poolCap (s : State) (ctx : Nat) : Nat := tgetD s.trk.cap ctx 64

/-- Sum of the guarantees of all 1,024 contexts. -/
def guaranteeSum (g : Tab Nat) : Nat := (g.map Prod.snd).sum + (1024 - g.length) * 64

/-- Entries of the common pool (Table 10 of ch. 03). -/
def State.poolSize (s : State) : Nat := 1048576 - 8192 - 4096 - 16384 - guaranteeSum s.trk.guarantee

def State.poolFree (s : State) : Nat := s.poolSize - (s.trk.used.map (fun e => e.2.pool)).sum

/-- The free entries of the pool lie below the threshold (R121). -/
def State.poolLow (s : State) : Bool := decide (s.poolFree * 1024 < s.trk.threshold * s.poolSize)

/-- N_POOL_PRESSURE is posted where the free entries have fallen below the threshold since `before` (R121). -/
def State.poolNotice (before s : State) : State :=
  if s.poolLow && !before.poolLow then s.detectOpen nPoolPressure 0xFFFF (BitVec.ofNat 64 s.poolFree) else s

/-- The source of an entry for a request of context c on virtual channel v (R119): 0 a guaranteed entry beyond the
reserved ones, 1 the pool, 2 the reserved entry of v; `none` where none is free. -/
def State.trkSource (s : State) (c v : Nat) : Option Nat :=
  let u := tgetD s.trk.used c { guar := 0, pool := 0, vcs := [] }
  if u.guar < s.guarantee c - 8 then some 0
  else if u.pool * 1024 < s.poolCap c * s.poolSize ∧ 0 < s.poolFree then some 1
  else if !u.vcs.contains v then some 2
  else none

/-- The entry is taken. -/
def State.trkTake (s : State) (c v src cmd : Nat) : State :=
  let f (u : TrkUse) : TrkUse :=
    match src with
    | 0 => { u with guar := u.guar + 1 }
    | 1 => { u with pool := u.pool + 1 }
    | _ => { u with vcs := u.vcs ++ [v] }
  State.poolNotice s { s with trk := { s.trk with
    used := tupd s.trk.used c { guar := 0, pool := 0, vcs := [] } f,
    entries := s.trk.entries ++ [{ ctx := c, vc := v, source := src, cmd := cmd }] } }

/-- The oldest entry of a command is freed: its response or acknowledgement has returned. -/
def State.trkFree (s : State) (cmd : Nat) : State :=
  match s.trk.entries.find? (fun e => e.cmd == cmd) with
  | none => s
  | some e =>
    let f (u : TrkUse) : TrkUse :=
      match e.source with
      | 0 => { u with guar := u.guar - 1 }
      | 1 => { u with pool := u.pool - 1 }
      | _ => { u with vcs := u.vcs.erase e.vc }
    { s with trk := { s.trk with used := tmod s.trk.used e.ctx f, entries := s.trk.entries.erase e } }

/-- TRACK_CONFIG (R117, R118, R121). -/
def trackConfigBody : Body := fun _ c s => do
  let p := c.packet
  let first := fld p 24 2
  let count := fld p 26 2
  let g := fld p 28 2
  let cap := fld p 30 2
  let thr := fld p 32 2
  let a0 := (fld p 34 1).testBit 0
  let a1 := (fld p 34 1).testBit 1
  let gs := if a0 then (List.range count).foldl (fun t i => tset t (first + i) g) s.trk.guarantee else s.trk.guarantee
  need (!a0 || decide (1 ≤ count ∧ count ≤ 1024 ∧ first + count ≤ 1024 ∧ 8 ≤ g ∧ g ≤ 4096 ∧ g % 8 = 0 ∧ 1 ≤ cap ∧ cap ≤ 1024))
    (stBadParam, 0)
  need (!a1 || decide (thr ≤ 1024)) (stBadParam, 0)
  need (!a0 || decide (guaranteeSum gs ≤ 524288)) (stBadParam, 0)
  let changes (x : Nat) : Bool := decide (first ≤ x ∧ x < first + count) && (s.guarantee x != g || s.poolCap x != cap)
  need (!(a0 && s.trk.entries.any (fun e => changes e.ctx))) (stConflict, 0)
  let t := { s.trk with
    guarantee := gs,
    cap := if a0 then (List.range count).foldl (fun t i => tset t (first + i) cap) s.trk.cap else s.trk.cap,
    threshold := if a1 then thr else s.trk.threshold }
  okDone (State.poolNotice s { s with trk := t })

def execTrackConfig (id : Nat) (s : State) : Out' := jeisk 0x104 trackConfigBody id s

/-- The waiting request that a freed entry serves: round-robin across contexts from the last one served, the oldest of its
context (R120). -/
def State.nextWaiter (s : State) : Option (TrkWait × Nat) :=
  let ok := s.trk.waiting.filter (fun w =>
    (s.trkSource w.ctx w.vc).isSome && ((s.trk.waiting.find? (fun x => x.ctx == w.ctx && x.vc == w.vc)) == some w))
  let key (w : TrkWait) : Nat := (w.ctx + 1024 - (s.trk.turn + 1) % 1024) % 1024
  match ok.foldl (fun (b : Option TrkWait) w =>
    match b with
    | none => some w
    | some x => if key w < key x then some w else some x) none with
  | none => none
  | some w => (s.trkSource w.ctx w.vc).map (fun src => (w, src))

/-! ### The activation stack (R263 to R267) -/

/-- Bytes of one sub-stack (R263). -/
def State.subStackSize (s : State) (ranks : Nat) : Nat := s.mem.carve.stack / ranks / 16 * 16

/-- STACK_OPEN (R114, R115, R263). -/
def stackOpenBody : Body := fun _ c s => do
  let ranks := fld c.packet 24 2
  need (decide (1 ≤ ranks ∧ ranks ≤ 2048)) (stBadParam, 0)
  need s.mem.stackBy.isNone (stConflict, 0)
  need (decide (s.mem.carve.stack ≠ 0)) (stNoResource, 0)
  okDone { s with mem := { s.mem with stackBy := some .stackOpen },
                  sheet := { s.sheet with stackRanks := some ranks, subStacks := [] } }

def execStackOpen (id : Nat) (s : State) : Out' := jeisk 0x118 stackOpenBody id s

/-- STACK_CLOSE (R263). -/
def stackCloseBody : Body := fun _ _ s => do
  need (!s.sheet.launches.any (fun l => l.2.usesStack && !l.2.held.isEmpty)) (stConflict, 0)
  okDone { s with mem := { s.mem with stackBy := if s.mem.stackBy = some .stackOpen then none else s.mem.stackBy },
                  sheet := { s.sheet with stackRanks := none, subStacks := [] } }

def execStackClose (id : Nat) (s : State) : Out' := jeisk 0x119 stackCloseBody id s

/-! ### Patrol scrub (R92 to R94) -/

/-- PATROL_SCRUB_READ (R93): a word is read; a correction is written back and counted, an uncorrectable word is recorded.
The scrub pauses while the word's die is off (R519). An uncorrectable word in the firmware carve-out self-fences the
package with reason 4 (R569). -/
def execPatrolScrubRead (word : Nat) (s : State) : Out' :=
  inRange (word < 2 ^ 36) word
    (whenThen (s.domOn (13 + word / 2 ^ 34 % 4)) s
      (let (_, bad, t) := s.readWord word
       if bad then
         let t := t.noteBad word
         if inFirmware' word then t.selfFence 4 else t
       else t))
where
  /-- the word lies in the firmware carve-out (R112) -/
  inFirmware' (w : Nat) : Bool := decide (topOfCarve ≤ 16 * w % 2 ^ 30)

end Sys2Proof.Machine
end

