-- ==== Sys2Proof/Machine/Indexed.lean ====
section
/-! DEFINITION. Indexed copies between rows (R122 to R128, R641) for the commands and the sheet operations, and the
commands INDEX_GATHER, INDEX_SCATTER and INDEX_SCATTER_ADD (R472). -/
namespace Sys2Proof.Machine

/-- A table of rows: where byte `o` of the table lies in DRAM, and the bytes of a row. -/
structure IdxTable where
  addr : Nat → Nat
  len : Nat

/-- The rows that a gather delivers, one after another, with poison and flags (R122: zeros for a null index). `n` and
`ob` are the elements and the bytes of a delivered row, `stoch` the random value of element e of the destination. -/
def gatherRows (s : State) (t : IdxTable) (fa fd n ob : Nat) (stoch : Option (Nat → Nat)) (ix : List (Option Nat)) :
    List Byte × Bool × Flags × State :=
  let r := ix.zipIdx.foldl (fun (acc : List (List Byte) × Bool × Flags × State) p =>
    match p.1 with
    | none => (List.replicate ob 0 :: acc.1, acc.2)
    | some i =>
      let (bs, bad, s) := acc.2.2.2.readBytes ((List.range t.len).map (fun k => t.addr (i * t.len + k)))
      let (out, fl) := convertRow fa fd stoch n ob bs (p.2 * n)
      (out :: acc.1, acc.2.1 || bad, acc.2.2.1 ||| fl, s)) ([], false, 0, s)
  (r.1.reverse.flatten, r.2.1, r.2.2.1, r.2.2.2)

/-- The source rows of a scatter converted to table rows, with flags. -/
def scatterImages (fa fd n len ob : Nat) (src : List Byte) (count : Nat) : List (List Byte) × Flags :=
  let rs := (chunks count ob src).map (fun r => convertRow fa fd none n len r 0)
  (rs.map Prod.fst, rs.foldl (fun a r => a ||| r.2) 0)

/-- A plain scatter (R124): each 16-byte word of a row that is named more than once takes the word of one of the rows
written to it; which one is a free value. -/
def scatterRows (s : State) (t : IdxTable) (ix : List (Option Nat)) (imgs : List (List Byte)) : State :=
  let (d, s) := s.draw
  let live := (ix.zip imgs).filterMap (fun p => p.1.map (fun i => (i, p.2)))
  (live.map Prod.fst).eraseDups.foldl (fun s i =>
    let cands := (live.filter (fun p => p.1 == i)).map Prod.snd
    let row := (List.range (t.len / 16)).flatMap (fun w =>
      let pick := Config.scatterWinner d (i * (t.len / 16) + w) % cands.length
      (((cands[pick]?).getD []).drop (16 * w)).take 16)
    s.writeBytes ((List.range t.len).map (fun k => t.addr (i * t.len + k))) row) s

/-- The near-memory adds of a scatter-add (R125): one for each 4-byte element of each row that is not null. -/
def scatterAdds (t : IdxTable) (fa n ob : Nat) (src : List Byte) (ix : List (Option Nat)) (who : AddIssuer) : List PendAdd :=
  (ix.zip (chunks ix.length ob src)).flatMap (fun p =>
    match p.1 with
    | none => []
    | some i =>
      ((decodePlanes fa n p.2 []).zipIdx).map (fun v =>
        { addr := t.addr (i * t.len + 4 * v.2), value := (toF32 (v.1, 0)).1, issuer := who }))

/-! ### The commands (ch. 12 Tables 4 and 5) -/

/-- The fields of an indexed command's packet. -/
structure IdxCmd where
  table : Nat
  tableOff : Nat
  rowLen : Nat
  list : Nat
  listOff : Nat
  fa : Nat
  fd : Nat
  idx64 : Bool
  data : Nat
  dataOff : Nat
  count : Nat

def idxCmd (p : BitVec 512) : IdxCmd :=
  { table := fld p 24 4, tableOff := fld p 28 6, rowLen := if fld p 34 2 = 0 then 4096 else fld p 34 2, list := fld p 36 4,
    listOff := fld p 40 6, fa := fld p 46 1 % 16, fd := fld p 46 1 / 16, idx64 := (fld p 47 1).testBit 0,
    data := fld p 48 4, dataOff := fld p 52 6, count := fld p 58 4 }

/-- What the checks of an indexed command give its work: table, elements and bytes of a packed row, the extent of the
packed rows, the index list. -/
structure IdxReady where
  tbl : IdxTable
  n : Nat
  ob : Nat
  ext : Extent
  ix : List (Option Nat)

/-- The checks of an indexed command (R100, R123, R135, R143, R302, R472); `none` where the list is poisoned. -/
def idxChecks (id : Nat) (k : IdxCmd) (gather add : Bool) (s : State) : Except Cause (Option IdxReady × State) := do
  need (!fmtReserved k.fa && !fmtReserved k.fd) (stReservedNonzero, 0)
  need (decide (k.rowLen ≤ 4096 ∧ k.count ≠ 0)) (stBadParam, 0)
  need (!add || (k.fd == fmtFP32 && (k.fa == fmtFP32 || k.fa == fmtBF16))) (stBadParam, 0)
  let len := 16 * k.rowLen
  match rowShape k.fa k.fd (if gather then k.fa else k.fd) len with
  | none => .error (stBadParam, 0)
  | some (n, ob) =>
    let tx ← s.rangeFor id k.table k.tableOff 0
    let lx ← s.rangeFor id k.list k.listOff (k.count * if k.idx64 then 8 else 4)
    let dx ← s.rangeFor id k.data k.dataOff (k.count * ob)
    need (!s.writeGuarded (if gather then k.data else k.table)) (stConflict, 0)
    need (!s.lowPlane k.list k.listOff (k.count * if k.idx64 then 8 else 4)) (stConflict, 0)
    need (gather || !s.lowPlane k.data k.dataOff (k.count * ob)) (stConflict, 0)
    let (bs, bad, t) := s.extRead lx k.listOff (k.count * if k.idx64 then 8 else 4)
    if bad then return (none, t) else
    let ix := indexList k.idx64 k.count bs
    match badIndex ((tx.size - k.tableOff) / len) ix with
    | some pos => .error (stBadParam, pos)
    | none =>
      need (!gather || ix.all (fun i =>
        match i with
        | some v => !s.lowPlane k.table (k.tableOff + v * len) len
        | none => true)) (stConflict, 0)
      return (some { tbl := { addr := fun o => tx.addr (k.tableOff + o), len := len }, n := n, ob := ob, ext := dx,
                     ix := ix }, t)

/-- Row indices that are not null. -/
def liveCount (ix : List (Option Nat)) : Nat := (ix.filter Option.isSome).length

/-- INDEX_GATHER (R122, R123). -/
def indexGatherBody : Body := fun id c s => do
  let k := idxCmd c.packet
  match ← idxChecks id k true false s with
  | (none, t) => failDone t (stDataError, 0)
  | (some r, t) =>
    let (out, bad, fl, t) := gatherRows t r.tbl k.fa k.fd r.n r.ob none r.ix
    let t := (t.cmdFlags id fl).addOp c.ctx wDramRead (liveCount r.ix * r.tbl.len)
    if bad then failDone t (stDataError, 0)
    else okDone ((t.extWrite r.ext k.dataOff out).addOp c.ctx wDramWrite out.length)

def execIndexGather (id : Nat) (s : State) : Out' := jeisk 0x110 indexGatherBody id s

/-- INDEX_SCATTER (R122 to R124). -/
def indexScatterBody : Body := fun id c s => do
  let k := idxCmd c.packet
  match ← idxChecks id k false false s with
  | (none, t) => failDone t (stDataError, 0)
  | (some r, t) =>
    let (src, bad, t) := t.extRead r.ext k.dataOff (k.count * r.ob)
    let t := t.addOp c.ctx wDramRead src.length
    if bad then failDone t (stDataError, 0)
    else
      let (imgs, fl) := scatterImages k.fa k.fd r.n r.tbl.len r.ob src k.count
      okDone (((scatterRows t r.tbl r.ix imgs).cmdFlags id fl).addOp c.ctx wDramWrite (liveCount r.ix * r.tbl.len))

def execIndexScatter (id : Nat) (s : State) : Out' := jeisk 0x111 indexScatterBody id s

/-- INDEX_SCATTER_ADD (R125, R127): its adds are issued; it completes once the last has been performed. -/
def indexScatterAddBody : Body := fun id c s => do
  let k := idxCmd c.packet
  match ← idxChecks id k false true s with
  | (none, t) => failDone t (stDataError, 0)
  | (some r, t) =>
    let (src, bad, t) := t.extRead r.ext k.dataOff (k.count * r.ob)
    let t := t.addOp c.ctx wDramRead src.length
    if bad then failDone t (stDataError, 0)
    else
      let adds := scatterAdds r.tbl k.fa r.n r.ob src r.ix (.command id)
      let t := (t.addOp c.ctx wDramRead (4 * adds.length)).addOp c.ctx wDramWrite (4 * adds.length)
      if adds.isEmpty then okDone t
      else .ok (.busy { t with mem := { t.mem with adds := t.mem.adds ++ adds } })

def execIndexScatterAdd (id : Nat) (s : State) : Out' := jeisk 0x112 indexScatterAddBody id s

end Sys2Proof.Machine
end

