-- ==== Sys2Proof/Machine/Operands.lean ====
section
/-! DEFINITION. The 128-bit sheet-program word: header (Table 2 of ch. 05), the operand fields of every operation (Tables
6, 7, 9, 12, 16 of ch. 05, Tables 4 and 11 of ch. 06), and the load check of R183. -/
namespace Sys2Proof.Machine

/-- A sheet-program word. -/
abbrev Word128 := BitVec 128

/-! ### Header (R184) -/
def wQueue (w : Word128) : Nat := bits w 127 126
def wOp (w : Word128) : Nat := bits w 125 120
def wWaitEn (w : Word128) : Bool := bit w 119
def wWaitTok (w : Word128) : Nat := bits w 118 114
/-- tokens taken, 1 to 4 -/
def wWaitCnt (w : Word128) : Nat := bits w 113 112 + 1
def wSigEn (w : Word128) : Bool := bit w 111
def wSigTok (w : Word128) : Nat := bits w 110 106
/-- tokens added, 1 to 4 -/
def wSigCnt (w : Word128) : Nat := bits w 105 104 + 1
def wFa (w : Word128) : Nat := bits w 103 100
def wFd (w : Word128) : Nat := bits w 99 96

/-- A field in which 0 stands for the value one above its greatest. -/
def orMax (v top : Nat) : Nat := if v = 0 then top else v

/-! ### Copies (Tables 6 and 7 of ch. 05, Table 11 of ch. 06) -/
def cpSlot (w : Word128) : Nat := bits w 95 92
def cpXd (w : Word128) : Nat := bits w 91 88
def cpOff (w : Word128) : Nat := bits w 87 64
/-- the source scratch address of CP_MOVE (R198) -/
def cpMoveSrc (w : Word128) : Nat := bits w 79 64
def cpSaddr (w : Word128) : Nat := bits w 63 48
def cpXs (w : Word128) : Nat := bits w 47 44
def cpRows (w : Word128) : Nat := orMax (bits w 43 32) 4096
def cpRowLen (w : Word128) : Nat := orMax (bits w 31 20) 4096
def cpStride (w : Word128) : Nat := bits w 19 4
def cpMark (w : Word128) : Nat := bits w 19 4
def cpRnd (w : Word128) : Bool := bit w 3
def cpRctx (w : Word128) : Nat := bits w 2 0
def ixIaddr (w : Word128) : Nat := bits w 91 76
def ixXi (w : Word128) : Nat := bits w 75 72
def ixSaddr (w : Word128) : Nat := bits w 71 56
def ixXs (w : Word128) : Nat := bits w 55 52
def ixCount (w : Word128) : Nat := orMax (bits w 51 40) 4096
def ixRowLen (w : Word128) : Nat := orMax (bits w 39 28) 4096
def ixIdx64 (w : Word128) : Bool := bit w 27

/-! ### Matrix operations (Table 9 of ch. 05) -/
def mPage (w : Word128) : Nat := bits w 95 90
def mDepth (w : Word128) : Nat := bits w 89 86
def mKeep (w : Word128) : Bool := bit w 85
def mmaA (w : Word128) : Nat := bits w 95 80
def mmaXa (w : Word128) : Nat := bits w 79 76
def mmaB (w : Word128) : Nat := bits w 75 60
def mmaXb (w : Word128) : Nat := bits w 59 56
def mmaPage (w : Word128) : Nat := bits w 55 50
def mmaNk (w : Word128) : Nat := orMax (bits w 49 42) 256
def mmaTa (w : Word128) : Bool := bit w 41
def mmaTb (w : Word128) : Bool := bit w 40
def mmaLda (w : Word128) : Nat := bits w 39 28
def mmaLdb (w : Word128) : Nat := bits w 27 16
def mmaFb (w : Word128) : Nat := bits w 15 12
def gcStream (w : Word128) : Bool := bit w 89
def gcAddr (w : Word128) : Nat := bits w 88 73
def gcXc (w : Word128) : Nat := bits w 72 69
def gcLdc (w : Word128) : Nat := bits w 68 57
def gcRnd (w : Word128) : Bool := bit w 56
def gcRctx (w : Word128) : Nat := bits w 55 53
def gcBinding (w : Word128) : Nat := bits w 88 86
def gcRow (w : Word128) : Nat := bits w 85 70
def gcXr (w : Word128) : Nat := bits w 69 66
def gcCol (w : Word128) : Nat := bits w 65 50
def plAddr (w : Word128) : Nat := bits w 89 74
def plXs (w : Word128) : Nat := bits w 73 70
def plLds (w : Word128) : Nat := bits w 69 58

/-! ### Vector and row-engine operations (Table 12 of ch. 05, Table 4 of ch. 06) -/
def vD (w : Word128) : Nat := bits w 95 80
def vXd (w : Word128) : Nat := bits w 79 76
def vS1 (w : Word128) : Nat := bits w 75 60
def vX1 (w : Word128) : Nat := bits w 59 56
def vS2 (w : Word128) : Nat := bits w 55 40
def vX2 (w : Word128) : Nat := bits w 39 36
def vS3 (w : Word128) : Nat := bits w 35 20
/-- the low six bits of s3: the width w of a segment reduction, the k of a top-k -/
def vW (w : Word128) : Nat := orMax (bits w 25 20) 64
def vN (w : Word128) : Nat := orMax (bits w 19 8) 4096
def vB2 (w : Word128) : Bool := bit w 7
def vB3 (w : Word128) : Bool := bit w 6
def vRnd (w : Word128) : Bool := bit w 5
def vRctx (w : Word128) : Nat := bits w 4 2
def vModeA (w : Word128) : Bool := bit w 1
def vModeB (w : Word128) : Bool := bit w 0
def rwN (w : Word128) : Nat := orMax (bits w 35 20) 65536
def rwRows (w : Word128) : Nat := orMax (bits w 19 12) 256
def rwXt (w : Word128) : Nat := bits w 11 8
def rwPrm (w : Word128) : Nat := bits w 7 4
def rwMask (w : Word128) : Nat := bits w 3 2
def rwKeep (w : Word128) : Bool := bit w 1

/-! ### Control operations (Table 16 of ch. 05) -/
def ctIx (w : Word128) : Nat := bits w 95 92
def ctSrc (w : Word128) : Bool := bit w 91
def ctParam (w : Word128) : Nat := bits w 87 84
def ctValue (w : Word128) : Nat := bits w 39 0
def ctInc (w : Word128) : Int := signed 40 (bits w 91 52)
def ctMod (w : Word128) : Nat := orMax (bits w 39 0) (2 ^ 40)
def ctCount (w : Word128) : Nat := bits w 23 0
def ctTarget (w : Word128) : Nat := bits w 15 0
def ctRctx (w : Word128) : Nat := bits w 95 93
def ctStream (w : Word128) : Nat := bits w 79 64
def ctBase (w : Word128) : Nat := bits w 47 0
def ctStepSrc (w : Word128) : Bool := bit w 92
def ctStepParam (w : Word128) : Nat := bits w 91 88
def ctStep (w : Word128) : Nat := bits w 63 0
def ctEngines (w : Word128) : Nat := bits w 95 93
def ctClear (w : Word128) : Bool := bit w 92
def ctSaddr (w : Word128) : Nat := bits w 79 64
def ctMark (w : Word128) : Nat := bits w 15 0

/-! ### The load check (R183) -/

/-- What an operation uses of its word: operand bits as [hi:lo], whether it reads formatted data and whether it writes
any. -/
structure OpUse where
  fields : List (Nat × Nat)
  fa : Bool
  fd : Bool

def usCopy : OpUse := ⟨[(95, 0)], true, true⟩
def usVec1 : OpUse := ⟨[(95, 76), (75, 56), (19, 8), (5, 2)], true, true⟩
def usVec2 : OpUse := ⟨[(95, 36), (19, 7), (5, 2)], true, true⟩
def usVec3 : OpUse := ⟨[(95, 20), (19, 2)], true, true⟩

/-- The use of each queue and operation pair; `none` is undefined (Tables 5, 8, 13, 16; Tables 3 and 11 of ch. 06). The
rounding context stays a used field where rnd is 0 (log 15). -/
def opUse (w : Word128) : Option OpUse :=
  match wQueue w, wOp w with
  | 0, 0 => some usCopy
  | 0, 1 => some usCopy
  | 0, 2 => some ⟨[(91, 88), (79, 48), (47, 20), (3, 0)], true, true⟩
  | 0, 3 => some ⟨[(63, 44), (31, 20)], false, false⟩
  | 0, 4 => some ⟨[(63, 4)], true, true⟩
  | 0, 5 => some ⟨[(63, 4)], true, true⟩
  | 0, 8 => some ⟨[(95, 27), (3, 0)], true, true⟩
  | 0, 9 => some ⟨[(95, 27)], true, true⟩
  | 0, 10 => some ⟨[(95, 27)], true, true⟩
  | 1, 0 => some ⟨[(95, 85)], false, false⟩
  | 1, 1 => some ⟨[(95, 12)], true, false⟩
  | 1, 2 => some (if gcStream w then ⟨[(95, 50)], false, true⟩ else ⟨[(95, 53)], false, true⟩)
  | 1, 3 => some ⟨[(95, 58)], false, false⟩
  | 2, o =>
    if o = 3 ∨ o = 0x26 then some usVec3
    else if o ≤ 6 then some usVec2
    else if o ≤ 0x0A then some usVec1
    else if 0x10 ≤ o ∧ o ≤ 0x18 then some usVec1
    else if 0x20 ≤ o ∧ o ≤ 0x25 then some ⟨[(95, 36), (19, 7)], true, false⟩
    else if o = 0x27 then some ⟨[(95, 76), (35, 8), (5, 2)], false, false⟩
    else if 0x30 ≤ o ∧ o ≤ 0x32 then some ⟨[(95, 56), (19, 8), (5, 1)], true, true⟩
    else if 0x34 ≤ o ∧ o ≤ 0x37 then some ⟨[(95, 36), (25, 8), (5, 2)], true, true⟩
    else if o = 0x38 then some ⟨[(95, 36), (19, 8), (5, 0)], true, true⟩
    else if o = 0x39 then some ⟨[(95, 36), (25, 8), (5, 2), (0, 0)], true, true⟩
    else if o = 0x3A then some ⟨[(95, 56), (35, 1)], true, true⟩
    else if o = 0x3B then some ⟨[(95, 1)], true, true⟩
    else if o = 0x3C ∨ o = 0x3E then some ⟨[(95, 56), (35, 4), (1, 1)], true, true⟩
    else if o = 0x3D ∨ o = 0x3F then some ⟨[(95, 4), (1, 1)], true, true⟩
    else none
  | 3, 0 => some ⟨[], false, false⟩
  | 3, 1 => some ⟨[(95, 91), (87, 84), (39, 0)], false, false⟩
  | 3, 2 => some ⟨[(95, 52), (39, 0)], false, false⟩
  | 3, 3 => some ⟨[(95, 92), (23, 0)], false, false⟩
  | 3, 4 => some ⟨[(95, 92), (15, 0)], false, false⟩
  | 3, 5 => some ⟨[(15, 0)], false, false⟩
  | 3, 6 => some ⟨[(95, 93), (79, 64), (47, 0)], false, false⟩
  | 3, 7 => some ⟨[(95, 88), (63, 0)], false, false⟩
  | 3, 8 => some ⟨[(95, 92), (79, 64)], false, false⟩
  | 3, 9 => some ⟨[(15, 0)], false, false⟩
  | 3, 10 => some ⟨[], false, false⟩
  | _, _ => none

/-- The bits of listed fields. -/
def fieldMask (fs : List (Nat × Nat)) : Nat := fs.foldl (fun m f => m ||| ((2 ^ (f.1 + 1 - f.2) - 1) <<< f.2)) 0

/-- A field that the word's operation does not use is nonzero (R184). -/
def wordReserved (u : OpUse) (w : Word128) : Bool :=
  decide ((w.toNat % 2 ^ 96) &&& ((2 ^ 96 - 1) ^^^ fieldMask u.fields) ≠ 0)
  || (!wWaitEn w && decide (bits w 118 112 ≠ 0)) || (!wSigEn w && decide (bits w 110 104 ≠ 0))
  || (!u.fa && decide (wFa w ≠ 0)) || (!u.fd && decide (wFd w ≠ 0))

/-- The formats of a linear copy row: R199 allows the pair, and a conversion to a block-scaled format has a row of a
multiple of 32 elements. -/
def copyRowOk (fa fd rowLen : Nat) : Bool :=
  copyPair fa fd && (fa == fd || !fmtBlock fd || decide ((16 * rowLen * 8 / fmtBits fa) % 32 = 0))

/-- The operand combinations and field values that R135, R142, R145, R148, R157, R199, R206, R209, R214, R641, R221, R243,
R244 and R264 ask for, with branch targets within `n` words. -/
def wordCombo (n : Nat) (w : Word128) : Bool :=
  let fa := wFa w
  let fd := wFd w
  !fmtReserved fa && !fmtReserved fd && fd != fmtSPLIT32 &&
  match wQueue w, wOp w with
  | 0, 0 => copyRowOk fa fd (cpRowLen w)
  | 0, 1 => copyRowOk fa fd (cpRowLen w)
  | 0, 2 => copyRowOk fa fd (cpRowLen w)
  | 0, 4 => fa == fd
  | 0, 5 => fa == fd
  | 0, 8 => (rowShape fa fd fa (16 * ixRowLen w)).isSome
  | 0, 9 => (rowShape fa fd fd (16 * ixRowLen w)).isSome
  | 0, 10 => fd == fmtFP32 && (fa == fmtFP32 || fa == fmtBF16)
      && (rowShape fa fd fd (16 * ixRowLen w)).isSome
  | 1, 1 => !fmtReserved (mmaFb w) && (fmtInt fa == fmtInt (mmaFb w))
      && !(fmtBlock fa && mmaTa w) && !(fmtBlock (mmaFb w) && !mmaTb w)
  | 1, 2 => !gcStream w || fd == fmtFP32
  | 2, o =>
    if o = 0x27 then vRnd w
    else if 0x3A ≤ o then decide (fa ≤ 2) && decide (fd ≤ 4) && rwMask w != 3
    else true
  | 3, 4 => decide (ctTarget w < n)
  | 3, 5 => decide (ctTarget w < n)
  | 3, 6 => decide (0x100 ≤ ctStream w)
  | _, _ => true

/-- The load check accepts a word of a program of `n` words (R183). -/
def wordOk (n : Nat) (w : Word128) : Bool :=
  match opUse w with
  | none => false
  | some u => !wordReserved u w && wordCombo n w

/-- The instruction index of the first word that the load check refuses. -/
def loadCheck (ws : List Word128) : Option Nat := ws.findIdx? (fun w => !wordOk ws.length w)

/-- The word draws from a rounding context: rnd is 1 in an operation that has the field (R157, R186). -/
def wordDraws (w : Word128) : Option Nat :=
  match wQueue w, wOp w with
  | 0, o => if (o ≤ 2 ∨ o = 8) ∧ cpRnd w then some (cpRctx w) else none
  | 1, 2 => if !gcStream w ∧ gcRnd w then some (gcRctx w) else none
  | 2, o => if vRnd w ∧ o < 0x3A ∧ !(0x20 ≤ o ∧ o ≤ 0x25) then some (vRctx w) else none
  | _, _ => none

/-- The slot that a copy names (R476). -/
def wordSlot (w : Word128) : Option Nat :=
  if wQueue w = 0 ∧ (wOp w ≤ 1 ∨ (8 ≤ wOp w ∧ wOp w ≤ 10)) then some (cpSlot w) else none

/-- The copy writes DRAM through its slot, or reads it. -/
def wordWrites (w : Word128) : Bool := wQueue w == 0 && (wOp w == 1 || wOp w == 9 || wOp w == 10)
def wordReads (w : Word128) : Bool := wQueue w == 0 && (wOp w == 0 || wOp w == 8)

/-- The binding that a word names. -/
def wordBinding (w : Word128) : Option Nat :=
  if wQueue w = 1 ∧ wOp w = 2 ∧ gcStream w then some (gcBinding w) else none

/-- CP_PUSH or CP_POP (R265). -/
def wordStack (w : Word128) : Bool := wQueue w == 0 && (wOp w == 4 || wOp w == 5)

end Sys2Proof.Machine
end

