-- ==== Sys2Proof/Machine/Flags.lean ====
section
/-! DEFINITION. The sticky flag words (R162, R165, R166): the copy, matrix and vector engines of each cluster, the row
engine of each quire, the Mould units and the Beater's output stage; the flags that an accumulation group keeps (R164). -/
namespace Sys2Proof.Machine

/-- A cluster (idle while no launch has used it). -/
def State.clus (s : State) (cl : Nat) : Cluster := tgetD s.sheet.clusters cl Cluster.idle

def State.setClus (s : State) (cl : Nat) (c : Cluster) : State :=
  { s with sheet := { s.sheet with clusters := tset s.sheet.clusters cl c } }

/-- The command that a cluster works for, and its context. -/
def State.clusCmd (s : State) (cl : Nat) : Nat := (s.clus cl).launch.getD 0
def State.clusCtx (s : State) (cl : Nat) : Nat :=
  match s.cmd (s.clusCmd cl) with
  | some c => c.ctx
  | none => 1024

/-- Flags raised by the copy engine of a cluster: its sticky word, and the flag summary of the command. -/
def State.copyFlag (s : State) (cl : Nat) (fl : Flags) : State :=
  (s.setClus cl { s.clus cl with copyFlags := (s.clus cl).copyFlags ||| fl }).cmdFlags (s.clusCmd cl) fl

/-- Flags raised by the matrix array. -/
def State.matFlag (s : State) (cl : Nat) (fl : Flags) : State :=
  (s.setClus cl { s.clus cl with matFlags := (s.clus cl).matFlags ||| fl }).cmdFlags (s.clusCmd cl) fl

/-- Flags raised by the vector engine. -/
def State.vecFlag (s : State) (cl : Nat) (fl : Flags) : State :=
  (s.setClus cl { s.clus cl with vecFlags := (s.clus cl).vecFlags ||| fl }).cmdFlags (s.clusCmd cl) fl

/-- Flags raised by the row engine for an operation of cluster `cl`: the row engine of its quire and the cluster's vector
engine (R251). Quire ⌊cl/16⌋ serves the cluster. -/
def State.rowFlag (s : State) (cl : Nat) (fl : Flags) : State :=
  let s := s.vecFlag cl fl
  { s with sheet := { s.sheet with rowFlags := tupd s.sheet.rowFlags (cl / 16) 0 (· ||| fl) } }

/-- Flags raised by a Mould unit. -/
def State.mouldFlag (s : State) (unit : Nat) (fl : Flags) : State :=
  { s with mould := { s.mould with units := tupd s.mould.units unit MouldUnit.atReset (fun u => { u with flags := u.flags ||| fl }) } }

/-- Flags raised by the Beater's output stage. -/
def State.beatFlag (s : State) (fl : Flags) : State := { s with vat := { s.vat with flags := s.vat.flags ||| fl } }

/-- What an addition or a conversion inside an accumulation group raises: overflow and invalid, never inexact or
underflow (R164). -/
def groupFlags (fl : Flags) : Flags := fl &&& 0xC

/-- FLAGS_RC's record (R222): the selected words in bytes 0 to 2. -/
def flagRecord (engines : Nat) (c : Cluster) : BitVec 128 :=
  mkRec 128 [(0, 1, if engines.testBit 0 then c.copyFlags.toNat else 0),
             (1, 1, if engines.testBit 1 then c.matFlags.toNat else 0),
             (2, 1, if engines.testBit 2 then c.vecFlags.toNat else 0)]

/-- The selected words cleared (R165). -/
def clearFlags (engines : Nat) (c : Cluster) : Cluster :=
  { c with copyFlags := if engines.testBit 0 then 0 else c.copyFlags,
           matFlags := if engines.testBit 1 then 0 else c.matFlags,
           vecFlags := if engines.testBit 2 then 0 else c.vecFlags }

end Sys2Proof.Machine
end

