-- ==== Sys2Proof/Machine/Sheet.lean ====
section
/-! DEFINITION. Running sheet programs (ch. 05): scratch, stops (R195), the distributor (R185 to R187), the queues (R188 to
R192), and the control operations (Table 16). -/
namespace Sys2Proof.Machine

/-! ### Scratch and pages (R180, R181) -/

def scratchUnits : Nat := 0xC000

/-- The bytes of scratch from unit `u` on; `none` where the operand extends beyond 0xBFFF. `d` is the draw that gives the
bytes nothing has written. -/
def State.sread (s : State) (d cl u n : Nat) : Option (List Byte) :=
  if 16 * u + n ≤ 16 * scratchUnits then
    some ((List.range n).map (fun i => (tget (s.clus cl).scratch (16 * u + i)).getD (Config.scratchByte d (16 * u + i))))
  else none

/-- A scratch range lies within scratch. -/
def scratchOk (u n : Nat) : Bool := decide (16 * u + n ≤ 16 * scratchUnits)

/-- Bytes written to scratch from unit `u` on. -/
def State.swrite (s : State) (cl u : Nat) (bs : List Byte) : State :=
  s.setClus cl { s.clus cl with scratch := memPut (s.clus cl).scratch (16 * u) bs }

/-- The 1,024 words of a page. -/
def State.page (s : State) (d cl p : Nat) : List (BitVec 32) :=
  let t := tgetD (s.clus cl).pages p []
  (List.range 1024).map (fun i => (tget t i).getD (Config.pageWord d (1024 * p + i)))

/-- A page written whole. -/
def State.setPage (s : State) (cl p : Nat) (ws : List (BitVec 32)) : State :=
  s.setClus cl { s.clus cl with pages := tset (s.clus cl).pages p (ws.zipIdx.map (fun w => (w.2, w.1))) }

/-- An index register of a word's snapshot (R180: ix0 reads as 0). -/
def QWord.reg (q : QWord) (i : Nat) : Nat := if i = 0 then 0 else (q.ix[i]?).getD 0

/-- A rounding context of a word's snapshot. -/
def QWord.ctx (q : QWord) (i : Nat) : RndCtx := (q.rc[i]?).getD ⟨0, 0, 0⟩

/-- Index register and loop counter of a cluster as they stand. -/
def Cluster.reg (c : Cluster) (i : Nat) : Nat := if i = 0 then 0 else tgetD c.ix i 0
def Cluster.setReg (c : Cluster) (i v : Nat) : Cluster := if i = 0 then c else { c with ix := tset c.ix i (v % 2 ^ 40) }
def Cluster.ctx (c : Cluster) (i : Nat) : RndCtx := tgetD c.rc i ⟨0, 0, 0⟩
def Cluster.token (c : Cluster) (t : Nat) : Nat := tgetD c.tokens t 0

def State.launchOf (s : State) (id : Nat) : Option Launch := tget s.sheet.launches id

def State.setLaunch (s : State) (id : Nat) (l : Launch) : State :=
  { s with sheet := { s.sheet with launches := tset s.sheet.launches id l } }

/-! ### Stopping (R195) -/

/-- Every word distributed has completed and distribution has ended, or the cluster has stopped (R224). -/
def Cluster.drained (c : Cluster) : Bool := c.copyQ.isEmpty && c.matQ.isEmpty && c.vecQ.isEmpty
def Cluster.finished (c : Cluster) : Bool := c.stopped || (c.ended && c.drained)

/-- A stopped cluster starts nothing more. -/
def Cluster.halt (c : Cluster) : Cluster := { c with stopped := true, copyQ := [], matQ := [], vecQ := [], groups := [] }

/-- A launch stops (R195): the first condition is kept, every cluster that has not finished stops and leaves a trace
record of kind 5. -/
def State.stopLaunch (s : State) (id : Nat) (cause : StopCause) : State :=
  match s.launchOf id with
  | none => s
  | some l =>
    let s := s.setLaunch id { l with stop := some (l.stop.getD cause) }
    l.held.foldl (fun s cl =>
      let c := s.clus cl
      if c.finished then s else
      let ctx := s.clusCtx cl
      let tag := ((s.cmd id).map (fun k => pktTag k.packet)).getD 0
      (s.setClus cl c.halt).trace 5 ctx 0x200 tag
        [(24, 2, cause.status), (26, 2, c.rank), (28, 4, cause.detail), (32, 4, if c.rank = cause.rank then cause.idx else c.pc)]) s

/-- The program of cluster `cl` meets a condition of Table 4 at a word. -/
def State.stopAt (s : State) (cl : Nat) (st : Cause) (idx : Nat) : State :=
  s.stopLaunch (s.clusCmd cl) { status := st.1, detail := st.2, rank := (s.clus cl).rank, idx := idx }

/-- An instruction error (R169): ST_BAD_PARAM with the instruction index. -/
def State.instrError (s : State) (cl idx : Nat) : State := s.stopAt cl (stBadParam, idx) idx

/-! ### The distributor (R185 to R187) -/

/-- The word at the distributor, if the cluster runs and its program goes on. -/
def State.nextWord (s : State) (cl : Nat) : Option Word128 :=
  let c := s.clus cl
  match c.launch with
  | none => none
  | some id =>
    if c.stopped || c.ended then none
    else (s.launchOf id).bind (fun l => l.words[c.pc]?)

def Cluster.queue (c : Cluster) (q : Nat) : List QWord :=
  match q with
  | 0 => c.copyQ
  | 1 => c.matQ
  | _ => c.vecQ

def Cluster.setQueue (c : Cluster) (q : Nat) (l : List QWord) : Cluster :=
  match q with
  | 0 => { c with copyQ := l }
  | 1 => { c with matQ := l }
  | _ => { c with vecQ := l }

/-- The word as it is appended, with its registers and contexts resolved (R186). -/
def Cluster.resolve (c : Cluster) (w : Word128) : QWord :=
  { uid := c.uid, idx := c.pc, word := w, ix := (List.range 16).map c.reg, rc := (List.range 8).map c.ctx,
    started := false, adding := false }

/-- The distributor appends words that are not control words while their queue has room (R185, R187); a word with rnd 1
whose context holds stream 0 is an instruction error (R157). -/
def State.distribute (fuel : Nat) (s : State) (cl : Nat) : State :=
  match fuel with
  | 0 => s
  | k + 1 =>
    match s.nextWord cl with
    | none => s
    | some w =>
      let c := s.clus cl
      let q := wQueue w
      if q = 3 ∨ 256 ≤ (c.queue q).length then s
      else
        let zero := match wordDraws w with
          | some r => (c.ctx r).stream == 0
          | none => false
        if zero then s.instrError cl c.pc
        else distribute k (s.setClus cl
          { c.setQueue q (c.queue q ++ [c.resolve w]) with pc := c.pc + 1, uid := c.uid + 1 }) cl

/-- STOP has been reached and every word distributed before it has completed with a group still open (R224). -/
def State.checkGroups (s : State) (cl : Nat) : State :=
  let c := s.clus cl
  if c.ended && !c.stopped && c.drained && !c.groups.isEmpty then s.instrError cl c.pc else s

/-- A signal adds to a local token (R190, R192). -/
def State.signal (s : State) (cl : Nat) (w : Word128) (idx : Nat) : State :=
  if wSigEn w then
    let c := s.clus cl
    let v := c.token (wSigTok w) + wSigCnt w
    if v > 65535 then s.instrError cl idx else s.setClus cl { c with tokens := tset c.tokens (wSigTok w) v }
  else s

/-- What follows the start or the completion of a word: the progress mark (R196), further distribution, the check of
R224. -/
def State.settle (s : State) (cl : Nat) : State :=
  let s := s.setClus cl { s.clus cl with progressAt := s.time }
  (s.distribute 770 cl).checkGroups cl

/-- The wait of a word is met (R189). -/
def waitMet (c : Cluster) (w : Word128) : Bool := !wWaitEn w || decide (wWaitCnt w ≤ c.token (wWaitTok w))

/-- The wait is taken from its token. -/
def Cluster.takeWait (c : Cluster) (w : Word128) : Cluster :=
  if wWaitEn w then { c with tokens := tset c.tokens (wWaitTok w) (c.token (wWaitTok w) - wWaitCnt w) } else c

/-! ### Queue words -/

/-- What running a word comes to: complete, started and waiting, or a condition of Table 4. -/
inductive Ran where
  | done (s : State)
  | hold (s : State)
  | stop (s : State) (st : Cause)

/-- The effect of an operation of cluster `cl` for a queue word. -/
abbrev OpFn := Nat → QWord → State → Ran

def setStarted (l : List QWord) (u : Nat) (adding : Bool) : List QWord :=
  l.map (fun q => if q.uid = u then { q with started := true, adding := adding } else q)

/-- A word has run: it leaves its queue and signals, or stays, or stops the launch. -/
def State.afterRun (q cl : Nat) (w : QWord) (r : Ran) : State :=
  match r with
  | .done s =>
    let c := s.clus cl
    ((s.setClus cl (c.setQueue q ((c.queue q).filter (fun x => x.uid != w.uid)))).signal cl w.word w.idx).settle cl
  | .hold s => s.settle cl
  | .stop s st => s.stopAt cl st w.idx

/-- The head of the matrix or the vector queue runs, if it is an operation `o` that `sel` accepts and its wait is met
(R188, R189). -/
def runQueue (q o : Nat) (sel : Word128 → Bool) (f : OpFn) (cl : Nat) (s : State) : Out' :=
  inRange (cl < 2048) cl
    (match ((s.clus cl).queue q).head? with
     | none => .next s
     | some w =>
       let c := s.clus cl
       if wOp w.word = o ∧ sel w.word ∧ c.launch.isSome ∧ !c.stopped ∧ (w.started ∨ waitMet c w.word) then
         let c' := if w.started then c else c.takeWait w.word
         let t := s.setClus cl (c'.setQueue q (setStarted (c'.queue q) w.uid false))
         .next (State.afterRun q cl w (f cl w t))
       else .next s)

/-! ### Control operations (R220 to R224) -/

/-- The control word at the distributor acts, if it is operation `o` and its wait is met. `f` gives the cluster after it,
with the index at which distribution continues, or `none` for an instruction error. -/
def runControl (o : Nat) (f : Nat → Word128 → State → Option State) (cl : Nat) (s : State) : Out' :=
  inRange (cl < 2048) cl
    (match s.nextWord cl with
     | none => .next s
     | some w =>
       let c := s.clus cl
       if wQueue w = 3 ∧ wOp w = o ∧ waitMet c w then
         let t := s.setClus cl { c.takeWait w with pc := c.pc + 1 }
         match f cl w t with
         | none => .next (t.instrError cl c.pc)
         | some t => .next ((t.signal cl w c.pc).settle cl)
       else .next s)

/-- The cluster changed. -/
def State.onClus (s : State) (cl : Nat) (f : Cluster → Cluster) : State := s.setClus cl (f (s.clus cl))

/-- The scalar parameter of the cluster's launch. -/
def State.param (s : State) (cl i : Nat) : BitVec 64 :=
  match s.launchOf (s.clusCmd cl) with
  | some l => (l.params[i]?).getD 0
  | none => 0

def execNop (cl : Nat) (s : State) : Out' := runControl 0x00 (fun _ _ s => some s) cl s

/-- SET_IX (Table 16). -/
def setIx : Nat → Word128 → State → Option State := fun cl w s =>
  some (s.onClus cl (fun c => c.setReg (ctIx w) (if ctSrc w then (s.param cl (ctParam w)).toNat else ctValue w)))

def execSetIx (cl : Nat) (s : State) : Out' := runControl 0x01 setIx cl s

/-- ADD_IX (Table 16). -/
def addIx : Nat → Word128 → State → Option State := fun cl w s =>
  some (s.onClus cl (fun c => c.setReg (ctIx w) (((c.reg (ctIx w) : Int) + ctInc w) % (ctMod w : Int)).toNat))

def execAddIx (cl : Nat) (s : State) : Out' := runControl 0x02 addIx cl s

/-- LOOP (R221). -/
def loopOp : Nat → Word128 → State → Option State := fun cl w s =>
  if ctCount w = 0 then none else some (s.onClus cl (fun c => { c with lc := tset c.lc (ctIx w) (ctCount w) }))

def execLoop (cl : Nat) (s : State) : Out' := runControl 0x03 loopOp cl s

/-- BRANCH_LOOP: the 24-bit counter counts down (Table 16). -/
def branchLoop : Nat → Word128 → State → Option State := fun cl w s =>
  some (s.onClus cl (fun c =>
    let v := (tgetD c.lc (ctIx w) 0 + (2 ^ 24 - 1)) % 2 ^ 24
    { c with lc := tset c.lc (ctIx w) v, pc := if v = 0 then c.pc else ctTarget w }))

def execBranchLoop (cl : Nat) (s : State) : Out' := runControl 0x04 branchLoop cl s

def jumpOp : Nat → Word128 → State → Option State := fun cl w s => some (s.onClus cl (fun c => { c with pc := ctTarget w }))

def execJump (cl : Nat) (s : State) : Out' := runControl 0x05 jumpOp cl s

/-- SET_RND_STREAM sets the context's stream and index base. -/
def setRndStream : Nat → Word128 → State → Option State := fun cl w s =>
  some (s.onClus cl (fun c => { c with rc := tset c.rc (ctRctx w) { c.ctx (ctRctx w) with stream := ctStream w, base := ctBase w } }))

def execSetRndStream (cl : Nat) (s : State) : Out' := runControl 0x06 setRndStream cl s

/-- SET_RND_STEP sets the context's step. -/
def setRndStep : Nat → Word128 → State → Option State := fun cl w s =>
  let v := if ctStepSrc w then (s.param cl (ctStepParam w)).toNat else ctStep w
  some (s.onClus cl (fun c => { c with rc := tset c.rc (ctRctx w) { c.ctx (ctRctx w) with step := v } }))

def execSetRndStep (cl : Nat) (s : State) : Out' := runControl 0x07 setRndStep cl s

/-- FLAGS_RC (R222): a 16-byte record to scratch, and the selected words cleared where clear is 1 (R165). -/
def flagsRc : Nat → Word128 → State → Option State := fun cl w s =>
  if scratchOk (ctSaddr w) 16 then
    let c := s.clus cl
    some ((s.swrite cl (ctSaddr w) (recBytes (flagRecord (ctEngines w) c))).onClus cl (fun c =>
      if ctClear w then clearFlags (ctEngines w) c else c))
  else none

def execFlagsRc (cl : Nat) (s : State) : Out' := runControl 0x08 flagsRc cl s

/-- LATCH (R223): a mark in the trace, when it is enabled. -/
def latchOp : Nat → Word128 → State → Option State := fun cl w s =>
  let c := s.clus cl
  let tag := ((s.cmd (s.clusCmd cl)).map (fun k => pktTag k.packet)).getD 0
  some (s.trace 4 (s.clusCtx cl) 0x200 tag [(24, 2, ctMark w), (26, 2, c.rank), (28, 4, c.pc - 1), (32, 8, c.kBlocks),
    (40, 8, c.elems), (48, 8, c.copyBytes), (56, 8, tgetD s.ctr.cnt (slotBusy cl) 0 - c.busy)])

def execLatch (cl : Nat) (s : State) : Out' := runControl 0x09 latchOp cl s

/-- STOP ends distribution (R224). -/
def stopOp : Nat → Word128 → State → Option State := fun cl _ s =>
  some (s.onClus cl (fun c => { c with ended := true, pc := c.pc - 1 }))

def execStop (cl : Nat) (s : State) : Out' := runControl 0x0A stopOp cl s

end Sys2Proof.Machine
end

