-- ==== Sys2Proof/Machine/CopyOps.lean ====
section
/-! DEFINITION. The copy queue (Table 5 of ch. 05, R264): its out-of-order completion (R188), CP_LOAD, CP_STORE, CP_MOVE,
CP_FILL, CP_PUSH, CP_POP, CP_GATHER, CP_SCATTER, CP_SCATTER_ADD; and NEAR_MEMORY_ADD (R125 to R127). -/
namespace Sys2Proof.Machine

/-! ### Slots -/

/-- The operand slot that a word names. -/
def State.slot (s : State) (cl i : Nat) : OpSlot :=
  (((s.launchOf (s.clusCmd cl)).map (fun l => l.slots)).getD [])[i]?.getD ⟨0, false, 0, 0⟩

/-- The extent of a slot's handle, if a byte range lies within the slot (Table 4). -/
def State.slotExt (s : State) (cl i off len : Nat) : Option Extent :=
  let k := s.slot cl i
  if off + len ≤ k.len then (s.handle k.handle).map HSlot.ext else none

/-- Units of 16 bytes that `b` bytes take. -/
def units16 (b : Nat) : Nat := ceilDiv b 16

/-- The random value of element e under a word's rounding context, if the word rounds stochastically. -/
def State.wordRandom (s : State) (q : QWord) (rnd : Bool) (r : Nat) : Option (Nat → Nat) :=
  if rnd then some (ctxRandom s.seed (q.ctx r)) else none

/-! ### What a copy touches (R188) -/

/-- A range of one space: 0 scratch, 1 the activation sub-stack, 2 + h the bytes of handle h; whether it is written. -/
structure Foot where
  space : Nat
  lo : Nat
  hi : Nat
  wr : Bool

def Foot.clash (a b : Foot) : Bool := a.space == b.space && (a.wr || b.wr) && decide (a.lo < b.hi ∧ b.lo < a.hi)

def footRows (space base stride len n : Nat) (wr : Bool) : List Foot :=
  (List.range n).map (fun r => ⟨space, base + r * stride, base + r * stride + len, wr⟩)

def scratchFoot (u n : Nat) (wr : Bool) : Foot := ⟨0, 16 * u, 16 * u + n, wr⟩

/-- DRAM offset of row 0 of CP_LOAD and CP_STORE from the slot's start. -/
def cpRow0 (q : QWord) : Nat := 16 * (cpOff q.word + q.reg (cpXd q.word))
/-- Scratch unit of row 0. -/
def cpUnit (q : QWord) : Nat := cpSaddr q.word + q.reg (cpXs q.word)
/-- Bytes of a source row and of a destination row. -/
def cpSrcBytes (q : QWord) : Nat := 16 * cpRowLen q.word
def cpDstBytes (q : QWord) : Nat := linearBytes (wFa q.word) (wFd q.word) (cpSrcBytes q)

/-- Elements and bytes of a packed row of an indexed copy; 0 where the shape is refused, which R183 rules out. -/
def ixShape (q : QWord) : Nat × Nat :=
  (rowShape (wFa q.word) (wFd q.word) (if wOp q.word = 8 then wFa q.word else wFd q.word) (16 * ixRowLen q.word)).getD (0, 0)

def ixListBytes (q : QWord) : Nat := ixCount q.word * if ixIdx64 q.word then 8 else 4

def State.footprint (s : State) (cl : Nat) (q : QWord) : List Foot :=
  let w := q.word
  let k := s.slot cl (cpSlot w)
  let dram (wr : Bool) (len : Nat) := footRows (2 + k.handle) (k.off + cpRow0 q) (16 * cpStride w) len (cpRows w) wr
  let packed (b : Nat) := 16 * units16 b * cpRows w
  match wOp w with
  | 0 => scratchFoot (cpUnit q) (packed (cpDstBytes q)) true :: dram false (cpSrcBytes q)
  | 1 => scratchFoot (cpUnit q) (packed (cpSrcBytes q)) false :: dram true (cpDstBytes q)
  | 2 => [scratchFoot (cpMoveSrc w + q.reg (cpXd w)) (packed (cpSrcBytes q)) false,
          scratchFoot (cpUnit q) (packed (cpDstBytes q)) true]
  | 3 => [scratchFoot (cpUnit q) (16 * cpRowLen w) true]
  | 4 => [scratchFoot (cpUnit q) (packed (cpSrcBytes q)) false, ⟨1, 0, 1, true⟩]
  | 5 => [scratchFoot (cpUnit q) (packed (cpSrcBytes q)) true, ⟨1, 0, 1, true⟩]
  | o => [scratchFoot (ixIaddr w + q.reg (ixXi w)) (ixListBytes q) false,
          scratchFoot (ixSaddr w + q.reg (ixXs w)) (ixCount w * (ixShape q).2) (o == 8),
          ⟨2 + k.handle, k.off, k.off + k.len, o != 8⟩]

/-- The words up to position `pos` have all started, or start now in program order (R188, R189). -/
def startUpTo (c : Cluster) (pos : Nat) : Option Cluster :=
  (c.copyQ.take (pos + 1)).foldl (fun (a : Option Cluster) q =>
    match a with
    | none => none
    | some c =>
      if q.started then some c
      else if waitMet c q.word then some ({ c.takeWait q.word with copyQ := setStarted c.copyQ q.uid false })
      else none) (some c)

/-- The word at position `pos` of the copy queue runs, if it is operation `o`: at most 16 words are in flight, all earlier
ones have started, and none of them touches what it touches (R188). -/
def runCopy (o : Nat) (f : OpFn) (cl pos : Nat) (s : State) : Out' :=
  inRange (cl < 2048) cl
    (let c := s.clus cl
     match c.copyQ[pos]? with
     | none => .next s
     | some w =>
       let mine := s.footprint cl w
       let free := (c.copyQ.take pos).all (fun q => (s.footprint cl q).all (fun a => mine.all (fun b => !a.clash b)))
       if wOp w.word = o ∧ pos < 16 ∧ c.launch.isSome ∧ !c.stopped ∧ !w.adding ∧ free then
         match startUpTo c pos with
         | none => .next s
         | some c' => let t := s.setClus cl c'
                      .next (State.afterRun 0 cl w (f cl w t))
       else .next s)

/-- Bytes copied into scratch and out of it (Table 7 of ch. 15; LATCH). -/
def State.countIn (s : State) (cl n : Nat) : State :=
  (s.onClus cl (fun c => { c with copyBytes := c.copyBytes + n })).addOp (s.clusCtx cl) wCopyIn n
def State.countOut (s : State) (cl n : Nat) : State :=
  (s.onClus cl (fun c => { c with copyBytes := c.copyBytes + n })).addOp (s.clusCtx cl) wCopyOut n

/-- Generator words that a stochastic conversion of `n` elements takes. -/
def State.countGen (s : State) (cl : Nat) (q : QWord) (stoch : Bool) (r n : Nat) : State :=
  if stoch then s.addOp (s.clusCtx cl) wGen (genWords (q.ctx r).base n) else s

/-- The conversion draws random values (R153: from FP32 only). -/
def cpStoch (q : QWord) : Bool := cpRnd q.word && wFa q.word == fmtFP32 && wFd q.word != fmtFP32

/-! ### Linear copies (R197 to R201) -/

/-- Rows of `len` bytes converted one after another: their pieces by row, and the flags. -/
def convertRows (fa fd : Nat) (stoch : Option (Nat → Nat)) (rows : List (List Byte)) : List (List Piece) × Flags :=
  let rs := rows.zipIdx.map (fun p => convertLinear fa fd stoch p.1 (p.2 * planeElems fa p.1.length))
  (rs.map Prod.fst, rs.foldl (fun a r => a ||| r.2) 0)

/-- Pieces of packed rows written to scratch, `w` units a row. -/
def State.writePacked (s : State) (cl u w : Nat) (rows : List (List Piece)) : State :=
  s.onClus cl (fun c => { c with scratch := rows.zipIdx.foldl (fun m r =>
    r.1.foldl (fun m p => memPut m (16 * (u + r.2 * w) + p.1) p.2) m) c.scratch })

def cpLoad : OpFn := fun cl q s =>
  let w := q.word
  let k := s.slot cl (cpSlot w)
  let last := cpRow0 q + (cpRows w - 1) * (16 * cpStride w)
  match s.slotExt cl (cpSlot w) last (cpSrcBytes q) with
  | none => .stop s (stBadParam, q.idx)
  | some e =>
    if !scratchOk (cpUnit q) (16 * units16 (cpDstBytes q) * cpRows w) then .stop s (stBadParam, q.idx) else
    let (bs, bad, s) := s.readBytes ((List.range (cpRows w)).flatMap (fun r =>
      e.addrs (k.off + cpRow0 q + r * (16 * cpStride w)) (cpSrcBytes q)))
    let s := s.addOp (s.clusCtx cl) wDramRead bs.length
    if bad then .stop s (stDataError, q.idx) else
    let (rows, fl) := convertRows (wFa w) (wFd w) (s.wordRandom q (cpStoch q) (cpRctx w)) (chunks (cpRows w) (cpSrcBytes q) bs)
    let s := (s.writePacked cl (cpUnit q) (units16 (cpDstBytes q)) rows).copyFlag cl fl
    .done ((s.countIn cl (cpRows w * cpDstBytes q)).countGen cl q (cpStoch q) (cpRctx w)
      (cpRows w * planeElems (wFa w) (cpSrcBytes q)))

def execCpLoad (cl pos : Nat) (s : State) : Out' := runCopy 0x00 cpLoad cl pos s

/-- Packed rows of scratch. -/
def State.readPacked (s : State) (d cl u w n : Nat) : Option (List (List Byte)) :=
  (s.sread d cl u (16 * w * n)).map (chunks n (16 * w))

def cpStore : OpFn := fun cl q s =>
  let w := q.word
  let k := s.slot cl (cpSlot w)
  let last := cpRow0 q + (cpRows w - 1) * (16 * cpStride w)
  let (d, s) := s.draw
  match s.slotExt cl (cpSlot w) last (cpDstBytes q), s.readPacked d cl (cpUnit q) (cpRowLen w) (cpRows w) with
  | some e, some src =>
    let (rows, fl) := convertRows (wFa w) (wFd w) (s.wordRandom q (cpStoch q) (cpRctx w)) src
    let s := rows.zipIdx.foldl (fun s r => r.1.foldl (fun s p =>
      s.extWrite e (k.off + cpRow0 q + r.2 * (16 * cpStride w) + p.1) p.2) s) s
    let n := cpRows w * cpDstBytes q
    .done (((s.copyFlag cl fl).countOut cl n).addOp (s.clusCtx cl) wDramWrite n |>.countGen cl q (cpStoch q) (cpRctx w)
      (cpRows w * planeElems (wFa w) (cpSrcBytes q)))
  | _, _ => .stop s (stBadParam, q.idx)

def execCpStore (cl pos : Nat) (s : State) : Out' := runCopy 0x01 cpStore cl pos s

def cpMove : OpFn := fun cl q s =>
  let w := q.word
  let (d, s) := s.draw
  match s.readPacked d cl (cpMoveSrc w + q.reg (cpXd w)) (cpRowLen w) (cpRows w) with
  | some src =>
    if !scratchOk (cpUnit q) (16 * units16 (cpDstBytes q) * cpRows w) then .stop s (stBadParam, q.idx) else
    let (rows, fl) := convertRows (wFa w) (wFd w) (s.wordRandom q (cpStoch q) (cpRctx w)) src
    .done (((s.writePacked cl (cpUnit q) (units16 (cpDstBytes q)) rows).copyFlag cl fl).countGen cl q (cpStoch q)
      (cpRctx w) (cpRows w * planeElems (wFa w) (cpSrcBytes q)))
  | none => .stop s (stBadParam, q.idx)

def execCpMove (cl pos : Nat) (s : State) : Out' := runCopy 0x02 cpMove cl pos s

/-- CP_FILL: the pattern is scalar parameters 14 and 15 (R198). -/
def cpFill : OpFn := fun cl q s =>
  let n := cpRowLen q.word
  if scratchOk (cpUnit q) (16 * n) then
    let pat := leBytes 8 (s.param cl 14).toNat ++ leBytes 8 (s.param cl 15).toNat
    .done (s.swrite cl (cpUnit q) (List.replicate n pat).flatten)
  else .stop s (stBadParam, q.idx)

def execCpFill (cl pos : Nat) (s : State) : Out' := runCopy 0x03 cpFill cl pos s

/-! ### The activation stack (R263 to R267) -/

/-- The sub-stack of a cluster's rank, and its size. -/
def State.subStack (s : State) (cl : Nat) : List StackRec := tgetD s.sheet.subStacks (s.clus cl).rank []
def State.subSize (s : State) : Nat :=
  match s.sheet.stackRanks with
  | some n => s.mem.carve.stack / n / 16 * 16
  | none => 0
/-- Bytes that records take, each with its 16-byte header. -/
def stackBytes (l : List StackRec) : Nat := (l.map (fun r => 16 + r.len)).sum
def State.setStack (s : State) (cl : Nat) (l : List StackRec) : State :=
  { s with sheet := { s.sheet with subStacks := tset s.sheet.subStacks (s.clus cl).rank l } }

/-- The stack carve-out is DRAM: a record's bytes with its header lie there. The model keeps records whole, and pushes and
pops count as DRAM traffic. -/
def cpPush : OpFn := fun cl q s =>
  let n := cpRows q.word * cpSrcBytes q
  let (d, s) := s.draw
  match s.sread d cl (cpUnit q) n with
  | none => .stop s (stBadParam, q.idx)
  | some bs =>
    if s.subSize < stackBytes (s.subStack cl) + 16 + n then .stop s (stNoResource, q.idx)
    else .done (((s.setStack cl ({ mark := cpMark q.word, len := n, data := bs } :: s.subStack cl)).countOut cl n).addOp
      (s.clusCtx cl) wDramWrite (n + 16))

def execCpPush (cl pos : Nat) (s : State) : Out' := runCopy 0x04 cpPush cl pos s

def cpPop : OpFn := fun cl q s =>
  let n := cpRows q.word * cpSrcBytes q
  if !scratchOk (cpUnit q) n then .stop s (stBadParam, q.idx) else
  match s.subStack cl with
  | r :: rest =>
    if r.mark = cpMark q.word ∧ r.len = n then
      .done ((((s.setStack cl rest).swrite cl (cpUnit q) r.data).countIn cl n).addOp (s.clusCtx cl) wDramRead (n + 16))
    else .stop s (stDataMismatch, q.idx)
  | [] => .stop s (stDataMismatch, q.idx)

def execCpPop (cl pos : Nat) (s : State) : Out' := runCopy 0x05 cpPop cl pos s

/-! ### Indexed copies (R202, R203) -/

/-- The table of an indexed copy and its index list, or the condition of Table 4 that stops it. -/
def ixReady (cl : Nat) (q : QWord) (d : Nat) (s : State) : Except Cause (IdxTable × List (Option Nat)) :=
  let w := q.word
  let k := s.slot cl (cpSlot w)
  match s.slotExt cl (cpSlot w) 0 0, s.sread d cl (ixIaddr w + q.reg (ixXi w)) (ixListBytes q) with
  | some e, some bs =>
    let ix := indexList (ixIdx64 w) (ixCount w) bs
    match badIndex (k.len / (16 * ixRowLen w)) ix with
    | some p => .error (stBadParam, p)
    | none => .ok ({ addr := fun o => e.addr (k.off + o), len := 16 * ixRowLen w }, ix)
  | _, _ => .error (stBadParam, q.idx)

def cpGather : OpFn := fun cl q s =>
  let w := q.word
  let (n, ob) := ixShape q
  let (d, s) := s.draw
  match ixReady cl q d s with
  | .error st => .stop s st
  | .ok (t, ix) =>
    let u := ixSaddr w + q.reg (ixXs w)
    if !scratchOk u (ixCount w * ob) then .stop s (stBadParam, q.idx) else
    let (out, bad, fl, s) := gatherRows s t (wFa w) (wFd w) n ob (s.wordRandom q (cpStoch q) (cpRctx w)) ix
    let s := s.addOp (s.clusCtx cl) wDramRead (liveCount ix * t.len)
    if bad then .stop s (stDataError, q.idx) else
    .done ((((s.swrite cl u out).copyFlag cl fl).countIn cl out.length).countGen cl q (cpStoch q) (cpRctx w) (ixCount w * n))

def execCpGather (cl pos : Nat) (s : State) : Out' := runCopy 0x08 cpGather cl pos s

def cpScatter : OpFn := fun cl q s =>
  let w := q.word
  let (n, ob) := ixShape q
  let (d, s) := s.draw
  match ixReady cl q d s, s.sread d cl (ixSaddr w + q.reg (ixXs w)) (ixCount w * ob) with
  | .error st, _ => .stop s st
  | .ok (t, ix), some src =>
    let (imgs, fl) := scatterImages (wFa w) (wFd w) n t.len ob src (ixCount w)
    .done ((((scatterRows s t ix imgs).copyFlag cl fl).countOut cl src.length).addOp (s.clusCtx cl) wDramWrite
      (liveCount ix * t.len))
  | _, none => .stop s (stBadParam, q.idx)

def execCpScatter (cl pos : Nat) (s : State) : Out' := runCopy 0x09 cpScatter cl pos s

/-- CP_SCATTER_ADD issues its adds; it is complete once the last has been performed (Table 3, R127). -/
def cpScatterAdd : OpFn := fun cl q s =>
  let w := q.word
  let (n, ob) := ixShape q
  let (d, s) := s.draw
  match ixReady cl q d s, s.sread d cl (ixSaddr w + q.reg (ixXs w)) (ixCount w * ob) with
  | .error st, _ => .stop s st
  | .ok (t, ix), some src =>
    let adds := scatterAdds t (wFa w) n ob src ix (.cluster cl q.uid)
    let s := (((s.countOut cl src.length).addOp (s.clusCtx cl) wDramRead (4 * adds.length)).addOp (s.clusCtx cl) wDramWrite
      (4 * adds.length))
    if adds.isEmpty then .done s
    else
      let s := s.onClus cl (fun c => { c with copyQ := setStarted c.copyQ q.uid true })
      .hold { s with mem := { s.mem with adds := s.mem.adds ++ adds } }
  | _, none => .stop s (stBadParam, q.idx)

def execCpScatterAdd (cl pos : Nat) (s : State) : Out' := runCopy 0x0A cpScatterAdd cl pos s

/-! ### Near-memory adds (R125 to R127) -/

/-- The issuer's last add has been acknowledged: its command or its word is complete. -/
def State.addDone (s : State) (who : AddIssuer) : State :=
  if s.mem.adds.any (fun a => a.issuer == who) then s else
  match who with
  | .command id => s.finish id (stOk, 0)
  | .cluster cl u =>
    match (s.clus cl).copyQ.find? (fun q => q.uid == u) with
    | some q => State.afterRun 0 cl q (.done s)
    | none => s

/-- The issuer of an add that met an uncorrectable word ends with ST_DATA_ERROR (R94, R125). -/
def State.addFailed (s : State) (who : AddIssuer) : State :=
  match who with
  | .command id => { s with mem := { s.mem with adds := s.mem.adds.filter (fun a => a.issuer != who) } }.finish id (stDataError, 0)
  | .cluster cl u =>
    match (s.clus cl).copyQ.find? (fun q => q.uid == u) with
    | some q => s.stopAt cl (stDataError, q.idx) q.idx
    | none => s

/-- NEAR_MEMORY_ADD: the DRAM controller performs one of the adds that have been issued (R125): their order is not
specified, so any of them may be next. -/
def execNearMemoryAdd (pos : Nat) (s : State) : Out' :=
  match s.mem.adds[pos]? with
  | none => .next s
  | some a =>
    let s := { s with mem := { s.mem with adds := s.mem.adds.eraseIdx pos } }
    let as := (List.range 4).map (a.addr + ·)
    let (bs, bad, s) := s.readBytes as
    if bad then .next ((s.addFailed a.issuer).addDone a.issuer) else
    let (v, fl) := f32Add (BitVec.ofNat 32 (leNat bs)) a.value
    let s := s.writeBytes as (leBytes 4 v.toNat)
    let s := match a.issuer with
      | .command id => s.cmdFlags id fl
      | .cluster cl _ => s.copyFlag cl fl
    .next (s.addDone a.issuer)

end Sys2Proof.Machine
end

