-- ==== Sys2Proof/Machine/MatrixOps.lean ====
section
/-! DEFINITION. The matrix queue (Tables 8 to 10 of ch. 05) and the accumulation groups (R145 to R150, R164, R167 to R172,
R204 to R210): GROUP_OPEN, MMA, GROUP_CLOSE to scratch, PAGE_LOAD. -/
namespace Sys2Proof.Machine

/-! ### Products (R147, R149, R150) -/

/-- The pieces hi and lo of an FP32 operand (R150). -/
def splitHi (w : BitVec 32) : FVal := fdecode fmtBF16 (w.toNat >>> 16)
def splitLo (w : BitVec 32) : FVal :=
  match f32 w with
  | .fin n m e => fdecode fmtBF16 (fencode fmtBF16 .even ((FVal.fin n m e).add (splitHi w).neg).1).1
  | _ => .zero

/-- An operand element of the array: what it multiplies with, and the low piece of an FP32 element. -/
structure MElem where
  hi : FVal
  lo : FVal

def FVal.isZero (v : FVal) : Bool :=
  match v with
  | .fin _ m _ => m == 0
  | _ => false

/-- One product, exact: hi·hi with the two cross terms; a pass whose low piece is 0 adds nothing (R147, R150). -/
def mProduct (a b : MElem) : FVal × Flags :=
  let p := a.hi.mul b.hi
  let x := if b.lo.isZero then (FVal.zero, 0) else a.hi.mul b.lo
  let y := if a.lo.isZero then (FVal.zero, 0) else a.lo.mul b.hi
  let s := p.1.add x.1
  let t := s.1.add y.1
  (t.1, p.2 ||| x.2 ||| y.2 ||| s.2 ||| t.2)

/-- An element code as the array reads it. -/
def mElem (f code : Nat) : MElem :=
  if f = fmtFP32 then ⟨splitHi (BitVec.ofNat 32 code), splitLo (BitVec.ofNat 32 code)⟩
  else if fmtBlock f then ⟨elemDecode f code, .zero⟩
  else ⟨decodeAs (srcFmt f) code, .zero⟩

/-- A balanced binary tree over a list: neighbours are combined level by level (R167, R217, R249). -/
def treeFold {α : Type} (fuel : Nat) (f : α → α → α) (l : List α) : List α :=
  match fuel with
  | 0 => l
  | k + 1 =>
    match l with
    | a :: b :: r => treeFold k f (pairUp (l.length) f (a :: b :: r))
    | _ => l
where
  /-- one level -/
  pairUp (fuel : Nat) (f : α → α → α) (l : List α) : List α :=
    match fuel, l with
    | k + 1, a :: b :: r => f a b :: pairUp k f r
    | _, l => l

/-- FP32 addition that carries flags. -/
def f32AddF (a b : BitVec 32 × Flags) : BitVec 32 × Flags :=
  let r := f32Add a.1 b.1
  (r.1, a.2 ||| b.2 ||| r.2)

/-- The sum of a K-block's 32 products with no block scale: each product to FP32 at the first adder, a tree of depth 5
(R147, R167). -/
def kSumTree (ps : List (FVal × Flags)) : BitVec 32 × Flags :=
  (treeFold 5 f32AddF (ps.map toF32)).headD (0, 0)

/-- The exact sum of a K-block, times 2^sc, rounded once (R149). -/
def kSumBlock (ps : List (FVal × Flags)) (sc : Option Int) : BitVec 32 × Flags :=
  match sc with
  | none => (BitVec.ofNat 32 (fmtNaN fmtFP32), 0)
  | some k =>
    let t := ps.foldl (fun a p => let r := a.1.add p.1
                                  (r.1, a.2 ||| p.2 ||| r.2)) (FVal.zero, 0)
    toF32 (t.1.scale k, t.2)

/-- The sum of a K-block of two I8 operands in INT32 (R149). -/
def kSumInt (ps : List (FVal × Flags)) : BitVec 32 :=
  ps.foldl (fun a p => match p.1 with
    | .fin n m e => a + BitVec.ofInt 32 (scaledInt n m e 0)
    | _ => a) 0

/-! ### Operands (R205 Table 10, R139) -/

/-- An operand: for each of its 32 rows (m of A, n of B) the elements along K, and the scale bytes of its K-blocks. -/
structure MOperand where
  rows : List (List MElem)
  scales : List (List Nat)

/-- Columns of a list of rows of 32. -/
def columns (rows : List (List MElem)) : List (List MElem) :=
  (List.range 32).map (fun i => rows.map (fun r => (r[i]?).getD ⟨.zero, .zero⟩))

/-- The operand at unit `u` with row stride `ld`: `alongK` where its stored rows run along K. The scale plane of a
block-scaled operand follows the 32 rows of `ld` units (log 17). -/
def State.mOperand (s : State) (d cl f u ld nk : Nat) (alongK : Bool) : Option MOperand :=
  let n := if alongK then 32 * nk else 32
  let count := if alongK then 32 else 32 * nk
  let b := n * fmtBits f / 8
  let rows := (List.range count).map (fun r => s.sread d cl (u + ld * r) b)
  let sc := if fmtBlock f then s.sread d cl (u + 32 * ld) (32 * nk) else some []
  match sc with
  | none => none
  | some sc =>
    if rows.any Option.isNone then none else
    let els := rows.map (fun r => (unpackBits (fmtBits f) (r.getD []) n).map (mElem f))
    some { rows := if alongK then els else columns els,
           scales := (chunks 32 nk sc).map (fun l => l.map BitVec.toNat) }

/-- The scale exponent of K-block `j` of row `r`; `none` for a NaN scale (R138). -/
def MOperand.scale (o : MOperand) (r j : Nat) : Option Int :=
  match o.scales[r]? with
  | none => some 0
  | some l => let b := (l[j]?).getD 127
              if b = 0xFF then none else some ((b : Int) - 127)

/-- The tile of K-block `j`: 1,024 words row by row, and the flags. -/
def kBlock (fa fb : Nat) (a b : MOperand) (j : Nat) : List (BitVec 32) × Flags :=
  let part (o : MOperand) := o.rows.map (fun r => (r.drop (32 * j)).take 32)
  let bs := part b
  let ts := (part a).zipIdx.flatMap (fun ra => bs.zipIdx.map (fun rb =>
    let ps := ra.1.zipWith mProduct rb.1
    if fa = fmtI8 ∧ fb = fmtI8 then (kSumInt ps, (0 : Flags))
    else if fmtBlock fa ∨ fmtBlock fb then
      kSumBlock ps (match a.scale ra.2 j, b.scale rb.2 j with
        | some x, some y => some (x + y)
        | _, _ => none)
    else kSumTree ps))
  (ts.map Prod.fst, ts.foldl (fun f t => f ||| t.2) 0)

/-! ### Accumulation groups (R168 to R172) -/

/-- The pages of a group. -/
def groupPages (p : Nat) (g : Group) : List Nat := (List.range (g.depth + 1)).map (p + ·)

/-- Some open group uses the page. -/
def Cluster.pageOpen (c : Cluster) (p : Nat) : Bool := c.groups.any (fun g => (groupPages g.1 g.2).contains p)

/-- One addition of two tiles (R170): FP32 or INT32 element by element, with the flags that R164 lets out. -/
def tileAdd (int : Bool) (a b : List (BitVec 32)) : List (BitVec 32) × Flags :=
  let r := a.zipWith (if int then i32Add else f32Add) b
  (r.map Prod.fst, groupFlags (r.foldl (fun f t => f ||| t.2) 0))

/-- add_block of R170 from level `i` on. -/
def State.addLevels (fuel : Nat) (s : State) (d cl p : Nat) (g : Group) (int : Bool) (i : Nat) (t : List (BitVec 32)) :
    State × Group :=
  match fuel with
  | 0 => (s, g)
  | k + 1 =>
    if i < g.depth then
      if (g.occupied[i]?).getD false then
        let (t', fl) := tileAdd int (s.page d cl (p + 1 + i)) t
        addLevels k (s.matFlag cl fl) d cl p { g with occupied := lupd g.occupied i (fun _ => false) } int (i + 1) t'
      else (s.setPage cl (p + 1 + i) t, { g with occupied := lupd g.occupied i (fun _ => true) })
    else if g.topValid then
      let (t', fl) := tileAdd int (s.page d cl p) t
      ((s.matFlag cl fl).setPage cl p t', g)
    else (s.setPage cl p t, { g with topValid := true })

/-- group_close of R170: the sum of the occupied levels in rising order and the top; a zero tile where nothing was added. -/
def State.groupSum (s : State) (d cl p : Nat) (g : Group) (int : Bool) : List (BitVec 32) × Flags :=
  let parts := ((List.range g.depth).filter (fun i => (g.occupied[i]?).getD false)).map (fun i => s.page d cl (p + 1 + i))
    ++ (if g.topValid then [s.page d cl p] else [])
  let r := parts.foldl (fun (a : Option (List (BitVec 32)) × Flags) t =>
    match a.1 with
    | none => (some t, a.2)
    | some x => let (y, fl) := tileAdd int t x
                (some y, a.2 ||| fl)) (none, 0)
  (r.1.getD (List.replicate 1024 0), r.2)

/-- GROUP_OPEN (R168, R169). -/
def groupOpen : OpFn := fun cl q s =>
  let w := q.word
  let c := s.clus cl
  let g : Group := { depth := mDepth w, occupied := List.replicate (mDepth w) false, topValid := mKeep w, kind := none }
  if mPage w + mDepth w > 63 ∨ c.groups.length ≥ 8 ∨ (groupPages (mPage w) g).any c.pageOpen then
    .stop s (stBadParam, q.idx)
  else .done (s.setClus cl { c with groups := tset c.groups (mPage w) g })

def execGroupOpen (cl : Nat) (s : State) : Out' := runQueue 1 0x00 (fun _ => true) groupOpen cl s

/-- The word of Table 7 of ch. 15 that counts products by the wider operand (R146, Table 3 of ch. 04). -/
def productWord (fa fb : Nat) : Nat :=
  let wide := Max.max (fmtBits fa) (fmtBits fb)
  if fmtInt fa then (if wide = 8 then 8 else 9)
  else if wide = 32 then 4 else if wide = 16 then 5 else if wide = 8 then 6 else 7

/-- MMA (R205 to R207, R171). -/
def mma : OpFn := fun cl q s =>
  let w := q.word
  let fa := wFa w
  let fb := mmaFb w
  let int := fa == fmtI8 && fb == fmtI8
  let nk := mmaNk w
  let (d, s) := s.draw
  match tget (s.clus cl).groups (mmaPage w) with
  | none => .stop s (stBadParam, q.idx)
  | some g =>
    if g.kind = some (!int) then .stop s (stBadParam, q.idx) else
    match s.mOperand d cl fa (mmaA w + q.reg (mmaXa w)) (mmaLda w) nk (!mmaTa w),
          s.mOperand d cl fb (mmaB w + q.reg (mmaXb w)) (mmaLdb w) nk (mmaTb w) with
    | some a, some b =>
      let r := (List.range nk).foldl (fun (st : State × Group) j =>
        let (t, fl) := kBlock fa fb a b j
        State.addLevels 17 (st.1.matFlag cl (groupFlags fl)) d cl (mmaPage w) st.2 int 0 t) (s, { g with kind := some int })
      let s := r.1.onClus cl (fun c => { c with groups := tset c.groups (mmaPage w) r.2, kBlocks := c.kBlocks + nk })
      .done (s.addOp (s.clusCtx cl) (productWord fa fb) (32768 * nk))
    | _, _ => .stop s (stBadParam, q.idx)

def execMma (cl : Nat) (s : State) : Out' := runQueue 1 0x01 (fun _ => true) mma cl s

/-- The value of a word of a group. -/
def accVal (int : Bool) (w : BitVec 32) : FVal := if int then ofScaled w.toInt 0 else f32 w

/-- The rows of a closed tile in format `fd`, each as its bytes; the scale plane; the flags (R208). -/
def closeRows (int : Bool) (fd : Nat) (stoch : Option (Nat → Nat)) (ws : List (BitVec 32)) :
    List (List Byte) × List Byte × Flags :=
  if int ∧ fd = fmtFP32 then ((chunks 32 32 ws).map (fun r => r.flatMap (fun w => leBytes 4 w.toNat)), [], 0) else
  let rnd (e : Nat) : Rnd := match stoch with
    | some r => if fd = fmtFP32 then .even else .stoch (r e)
    | none => .even
  let rs := (chunks 32 32 ws).zipIdx.map (fun r => encodePlanes fd (fun i => rnd (32 * r.2 + i)) (r.1.map (accVal int)))
  (rs.map (fun r => r.1), rs.flatMap (fun r => r.2.1), rs.foldl (fun f r => f ||| r.2.2) 0)

/-- Freeing a group's pages. -/
def State.closeGroup (s : State) (cl p : Nat) : State := s.onClus cl (fun c => { c with groups := tdel c.groups p })

/-- GROUP_CLOSE to scratch (R172, R208). -/
def groupCloseScratch : OpFn := fun cl q s =>
  let w := q.word
  let fd := wFd w
  let u := gcAddr w + q.reg (gcXc w)
  let (d, s) := s.draw
  match tget (s.clus cl).groups (mPage w) with
  | none => .stop s (stBadParam, q.idx)
  | some g =>
    if !scratchOk (u + 31 * gcLdc w) (32 * fmtBits fd / 8) || (fmtBlock fd && !scratchOk (u + 32 * gcLdc w) 32) then
      .stop s (stBadParam, q.idx) else
    let int := g.kind == some true
    let (ws, fl) := s.groupSum d cl (mPage w) g int
    let (rows, sc, fl2) := closeRows int fd (s.wordRandom q (gcRnd w) (gcRctx w)) ws
    let s := rows.zipIdx.foldl (fun s r => s.swrite cl (u + r.2 * gcLdc w) r.1) s
    let s := if sc.isEmpty then s else s.swrite cl (u + 32 * gcLdc w) sc
    let s := (s.closeGroup cl (mPage w)).matFlag cl (fl ||| fl2)
    .done (s.countGen cl q (gcRnd w && fd != fmtFP32) (gcRctx w) 1024)

def execGroupCloseScratch (cl : Nat) (s : State) : Out' := runQueue 1 0x02 (fun w => !gcStream w) groupCloseScratch cl s

/-- PAGE_LOAD (R210). -/
def pageLoad : OpFn := fun cl q s =>
  let w := q.word
  let (d, s) := s.draw
  let u := plAddr w + q.reg (plXs w)
  if (s.clus cl).pageOpen (mPage w) || !scratchOk (u + 31 * plLds w) 128 then .stop s (stBadParam, q.idx) else
  let rows := (List.range 32).flatMap (fun r => (s.sread d cl (u + r * plLds w) 128).getD [])
  .done (s.setPage cl (mPage w) ((chunks 1024 4 rows).map (fun b => BitVec.ofNat 32 (leNat b))))

def execPageLoad (cl : Nat) (s : State) : Out' := runQueue 1 0x03 (fun _ => true) pageLoad cl s

end Sys2Proof.Machine
end

