-- ==== Sys2Proof/Machine/Felt.lean ====
section
/-! DEFINITION. Felt links (ch. 09): codewords, replay and credit (R349 to R357), narrowing (R361 to R364), bring-up and
discovery (R365 to R369), judging (R370 to R373), FELT_PLAN, FELT_LINK, FELT_QUERY (R366, R376, R377). -/
namespace Sys2Proof.Machine

/-! ### Ports and widths (R343, R355) -/

def linkPort (l : Nat) : Nat := l / 4
def linkGroup (l : Nat) : Nat := l % 4

/-- The split mode of a link's port. -/
def State.modeOf (s : State) (l : Nat) : Nat := (s.felt.modes[linkPort l]?).getD 0

/-- The link exists in its port's mode. -/
def State.linkHas (s : State) (l : Nat) : Bool := decide (l < 24 ∧ linkGroup l < 2 ^ s.modeOf l)

/-- Lanes of a link. -/
def State.width (s : State) (l : Nat) : Nat := 32 / 2 ^ s.modeOf l

/-- Lit lanes. -/
def litCount (m : BitVec 32) : Nat := ((List.range 32).filter (fun i => m.toNat.testBit i)).length

/-- Port and group in a byte. -/
def portByte (l : Nat) : Nat := linkPort l + 8 * linkGroup l
def byteLink (b : Nat) : Nat := 4 * (b % 8) + b / 8 % 4

/-- Counters of Table 12 of ch. 09 by port. -/
def State.feltBump (s : State) (row l n : Nat) : State := s.bump (slotFelt row (linkPort l)) n

/-! ### Codewords (R349, Table 3) -/

def State.emit (s : State) (l : Nat) (cw : Unit16) : State := s.send (.codeword l cw)

def creditCw (ack seq : Nat) (freed : List Nat) : Unit16 :=
  BitVec.ofNat 128 (2 + 2 ^ 8 * (ack % 4096 + 4096 * (seq % 16)) +
    2 ^ 24 * (freed.zipIdx.foldl (fun a f => a + f.1 % 4096 * 4096 ^ f.2) 0))
def markerCw (lane width link : Nat) : Unit16 := mkRec 128 [(0, 1, 3), (1, 1, lane), (2, 1, width), (3, 1, portByte link)]
def replayCw (seq : Nat) : Unit16 := mkRec 128 [(0, 1, 4), (1, 2, seq % 4096)]
def laneMapCw (map : BitVec 32) (epoch : Nat) : Unit16 := mkRec 128 [(0, 1, 6), (1, 4, map.toNat), (5, 1, epoch % 256)]
def probeCw (t : Nat) (echo : Bool) : Unit16 := mkRec 128 [(0, 1, 7), (1, 8, t), (9, 1, b2n echo)]

/-- The lead of a packet with its link fields: kind, sequence, channel, length. -/
def stampLead (p : Packet) (seq vc : Nat) : Packet :=
  match p with
  | [] => []
  | l :: r => setBits l 31 0 (1 + 2 ^ 8 * (seq % 4096 + 4096 * vc) + 2 ^ 24 * (p.length - 1)) :: r

/-- A lead codeword that R349 treats as uncorrectable: a reserved kind or a nonzero reserved field. -/
def leadBad (l : Unit16) : Bool :=
  decide (fld l 0 1 ≠ 1) || bit l 23 || decide (bits l 31 30 ≠ 0) || decide (bits l 87 86 ≠ 0) || bit l 91 || bit l 95
  || (!bit l 88 && decide (bits l 94 92 ≠ 0))
  || ((bits l 22 20 == 5 || bits l 22 20 == 6) && decide (bits l 79 72 ≠ 0))

/-! ### Sending (R353, R356) -/

def dedicated (w : Nat) : Nat := 16 * w
def poolOf (w : Nat) : Nat := 1536 * w - 128 * w

/-- R356: credit for n codewords on channel v. -/
def creditOk (w : Nat) (held : List Nat) (v n : Nat) : Bool :=
  let d := dedicated w
  let h := (held[v]?).getD 0
  decide ((h + n - d) - (h - d) ≤ poolOf w - (held.map (· - d)).sum)

/-- Codewords sent in the current millisecond (R427). -/
def State.noteSent (s : State) (l vc n : Nat) : State :=
  let c := tupd s.xfer.congest.sent (2 * l) 0 (· + n)
  let c := if vc = 7 then tupd c (2 * l + 1) 0 (· + n) else c
  { s with xfer := { s.xfer with congest := { s.xfer.congest with sent := c } } }

/-- LINK_PACKET_SEND (R353, R356, R424): the oldest packet of a channel goes out once credit, the replay buffer and the
limit of 2,048 packets allow, and onto a stretch only against the stretch's credit. -/
def execLinkPacketSend (link vc : Nat) (s : State) : Out' :=
  inRange (link < 24 && vc < 8) link
    (let k := s.link link
     match tgetD k.txq vc [] with
     | [] => .next s
     | p :: rest =>
       let n := p.length
       let inBuffer := ((List.range 4).map (fun g =>
         ((s.link (4 * linkPort link + g)).unacked.map (fun x => x.2.2.length)).sum)).sum
       let enters := vc == 7 && hTransit p && (s.onStretch link).isNone
       let key := 8 * link + hResume p
       whenThen (k.data && creditOk (s.width link) (eight k.heldCw) vc n && decide (k.unacked.length < 2048)
           && decide (inBuffer + n ≤ 49152) && (!enters || decide (n ≤ tgetD s.xfer.stretchCredit key 0))) s
         (let q := stampLead p k.txSeq vc
          let k' := { k with txq := tset k.txq vc rest, unacked := k.unacked ++ [(k.txSeq, vc, q)],
                             txSeq := (k.txSeq + 1) % 4096, heldCw := vcUpd k.heldCw vc (· + n) }
          let s := ((s.setLink link k').bump (slotRoute (6 + link)) (if vc = 7 then n else 0)).noteSent link vc n
          let s := if enters
            then { s with xfer := { s.xfer with stretchCredit := tupd s.xfer.stretchCredit key 0 (· - n) } } else s
          q.foldl (fun s cw => s.emit link cw) s))

/-! ### Retraining (R354, R357, R361) -/

/-- The link retrains through the bring-up steps. -/
def State.retrain (s : State) (l : Nat) : State :=
  (s.onLink l (fun k => { k with retrainAt := some s.time, step := 1, again := true, settled := false, idFailed := false,
                                 laneMap := 0, sendMap := 0, nextMap := none, peerKey := none,
                                 replays := 0, rejoin := [], outType := 0, partialCw := [] })).feltBump 4 l 1

/-- The receiver asks for a replay of its oldest incomplete packet (R352, R361). -/
def State.askReplay (s : State) (l : Nat) : State :=
  ((s.onLink l (fun k => { k with partialCw := [] })).feltBump 2 l 1).emit l (replayCw (s.link l).rxSeq)

/-! ### Receiving (R349, R352, R357) -/

/-- Whole packets at the head of the codewords received. A lead of a wrong sequence belongs to no packet that is due: it
is dropped, and the replay of R353 brings the due one. -/
def State.parseRx (fuel : Nat) (s : State) (l : Nat) (cws : List Unit16) : State :=
  match fuel, cws with
  | 0, _ => s
  | _, [] => s.onLink l (fun k => { k with partialCw := [] })
  | f + 1, lead :: rest =>
    if leadBad lead then (s.feltBump 1 l 1).askReplay l
    else
      let n := fld lead 3 1 % 64 + 1
      if rest.length + 1 < n then s.onLink l (fun k => { k with partialCw := cws })
      else
        let p := lead :: rest.take (n - 1)
        let k := s.link l
        let s := if bits lead 19 8 = k.rxSeq
          then { s.setLink l { k with rxSeq := (k.rxSeq + 1) % 4096, changed := true } with
                 felt := { (s.setLink l { k with rxSeq := (k.rxSeq + 1) % 4096, changed := true }).felt with
                           rxq := s.felt.rxq ++ [(l, bits lead 22 20, p)] } }
          else s
        parseRx f s l (rest.drop (n - 1))

/-- LINK_PACKET_RECEIVE (R352): the codewords of a unit arrive; each is corrected and counted; at an uncorrectable one the
receiver discards from the lead of its oldest incomplete packet on and asks for it again. -/
def execLinkPacketReceive (link : Nat) (cws : List (BitVec 144)) (s : State) : Out' :=
  inRange (link < 24) link
    (whenThen (s.link link).data s
      (let r := cws.foldl (fun (a : List Unit16 × Bool × Nat) c =>
         if a.2.1 then a else
         match s144Decode c with
         | .clean d => (d :: a.1, false, a.2.2)
         | .corrected d => (d :: a.1, false, a.2.2 + 1)
         | .bad _ => (a.1, true, a.2.2)) ([], false, 0)
       let s := s.feltBump 0 link r.2.2
       let s := s.parseRx (cws.length + 64) link ((s.link link).partialCw ++ r.1.reverse)
       if r.2.1 then (s.feltBump 1 link 1).askReplay link else s))

/-- CREDIT_CODEWORD_RECEIVE (R353, R356, R357). -/
def execCreditCodewordReceive (link : Nat) (cw : BitVec 128) (s : State) : Out' :=
  inRange (link < 24) link
    (let k := s.link link
     let ack := bits cw 19 8
     let seq := bits cw 23 20
     let freed := (List.range 8).map (fun v => bits cw (24 + 12 * v + 11) (24 + 12 * v))
     whenThen (k.data && fld cw 0 1 == 2 && fld cw 15 1 == 0) s
       (if 3 ≤ (seq + 15 - k.creditSeen) % 16 then s.retrain link
        else
          let passed := k.unacked.findIdx? (fun x => x.1 == ack)
          let held := (eight k.heldCw).zipIdx.map (fun h =>
            h.1 - ((freed[h.2]?).getD 0 + 4096 - ((eight k.freedSeen)[h.2]?).getD 0) % 4096)
          s.setLink link { k with
            unacked := match passed with
              | some i => k.unacked.drop (i + 1)
              | none => k.unacked
            replays := if passed.isSome then 0 else k.replays
            heldCw := held, freedSeen := freed, creditSeen := seq }))

/-- CREDIT_SEND_TIMER (R357): 64 ns after the last credit codeword, or once a channel has freed 1,024 codewords since it,
if something has changed. -/
def execCreditSendTimer (link at_ : Nat) (s : State) : Out' :=
  inRange (link < 24) link
    (let t := s.advance at_
     let k := t.link link
     whenThen (k.data && k.changed && (decide (k.creditAt + 64 ≤ t.time) || (eight k.freedSince).any (1024 ≤ ·))) s
       (let q := (k.creditSeq + 1) % 16
        (t.setLink link { k with creditSeq := q, creditAt := t.time, changed := false, freedSince := [] }).emit link
          (creditCw (k.rxSeq + 4095) q (eight k.freed))))

/-- REPLAY_REQUEST_RECEIVE (R353, R354, R361): markers on every lit lane, then every packet from the requested sequence
on; a lane map received since takes effect. The eighth request of one sequence without an ack passing it retrains. -/
def execReplayRequestReceive (link : Nat) (cw : BitVec 128) (s : State) : Out' :=
  inRange (link < 24) link
    (let k := s.link link
     let seq := bits cw 19 8
     whenThen (k.data && fld cw 0 1 == 4 && bits cw 127 20 == 0) s
       (let n := if k.replaySeq = seq ∧ k.replays ≠ 0 then k.replays + 1 else 1
        if 8 ≤ n then s.retrain link
        else
          let map := k.nextMap.getD k.sendMap
          let s := s.setLink link { k with replays := n, replaySeq := seq, sendMap := map, nextMap := none }
          let s := ((List.range 32).filter (fun i => map.toNat.testBit i)).foldl
            (fun s i => s.emit link (markerCw i (s.width link) link)) s
          match k.unacked.findIdx? (fun x => x.1 == seq) with
          | none => s
          | some i => (k.unacked.drop i).foldl (fun s x => x.2.2.foldl (fun s c => s.emit link c) s) s))

/-- Links that this package's slice uses. -/
def State.sliceLinks (s : State) : List Nat :=
  match s.me with
  | none => []
  | some (j, i) => ((j.mem i).hops.filter hopPresent).map (fun b => s.physLink (hopLink b))

/-- The link is down (R354): what it had not delivered is lost, and a slice link's loss is the lead's to fence: the end
with the higher package id, reason 3 (R569). -/
def State.linkLost (s : State) (l : Nat) : State :=
  let k := s.link l
  let n := k.unacked.length
  let uses := s.sliceLinks.contains l
  let s := (s.setLink l { k with step := 0, retrainAt := none, oldSerial := 0, unacked := [], laneMap := 0, sendMap := 0 }).feltBump 6 l n
  let s := s.bbPush 7 0 (leBytes 1 (portByte l))
  match s.job.job with
  | some j =>
    if uses then s.send (.fenceRequest j.lead (Max.max s.pkgId k.peerPkg) 3) else s
  | none => s

/-- LINK_RETRAIN_TIMEOUT (R354): 500 ms without training again. -/
def execLinkRetrainTimeout (link at_ : Nat) (s : State) : Out' :=
  inRange (link < 24) link
    (let t := s.advance at_
     match (t.link link).retrainAt with
     | none => .next s
     | some b => whenThen (decide (b + ms 500 ≤ t.time)) s (t.linkLost link))

/-! ### Narrowing (R348, R361 to R364) -/

/-- The receive lanes of a link change: a new lane map under a new epoch goes out, and N_LINK_DEGRADE is posted (R364). -/
def State.newLanes (s : State) (l : Nat) (map : BitVec 32) : State :=
  let k := s.link l
  let e := (k.epoch + 1) % 256
  let before := litCount k.laneMap
  let s := (s.setLink l { k with laneMap := map, epoch := e }).emit l (laneMapCw map e)
  s.detectOpen nLinkDegrade 0xFFFF
    (BitVec.ofNat 64 (portByte l + before * 2 ^ 8 + litCount map * 2 ^ 16 + map.toNat * 2 ^ 32))

/-- Lanes leave a link together (R361, R362): the receiver requests a replay, or retrains with no lane left. -/
def State.loseLanes (s : State) (l : Nat) (lanes : BitVec 32) : State :=
  let k := s.link l
  let map := k.laneMap &&& ~~~lanes
  if map = k.laneMap then s else
  let s := s.onLink l (fun k => { k with rejoin := tfilter k.rejoin (fun i _ => !lanes.toNat.testBit i) })
  let s := (s.feltBump 3 l (litCount k.laneMap - litCount map)).newLanes l map
  if map = 0 then s.retrain l else s.askReplay l

/-- LANE_LOSS (R361). -/
def execLaneLoss (link : Nat) (lanes : BitVec 32) (s : State) : Out' :=
  inRange (link < 24) link (whenThen (decide (5 ≤ (s.link link).step)) s (s.loseLanes link lanes))

/-- LANE_MARKER_RECEIVE (R348, R363): a marker of another lane drops this lane and those of its bus above it, which search
again; a right marker on a lane that is not lit begins its 100 ms. -/
def execLaneMarkerReceive (link lane : Nat) (cw : BitVec 128) (s : State) : Out' :=
  inRange (link < 24 && lane < s.width link) lane
    (let k := s.link link
     whenThen (decide (5 ≤ k.step) && fld cw 0 1 == 3) s
       (let lit := k.laneMap.toNat.testBit lane
        if fld cw 1 1 ≠ lane then
          if lit then
            let up := (List.range 8).foldl (fun m i => if lane % 8 ≤ i then m + 2 ^ (lane / 8 * 8 + i) else m) 0
            s.loseLanes link (BitVec.ofNat 32 up)
          else s.setLink link { k with rejoin := tdel k.rejoin lane }
        else if !lit && (tget k.rejoin lane).isNone then s.setLink link { k with rejoin := tset k.rejoin lane s.time }
        else s))

/-- LANE_MAP_RECEIVE (R361, R362): it takes effect at the next replay restart. -/
def execLaneMapReceive (link : Nat) (cw : BitVec 128) (s : State) : Out' :=
  inRange (link < 24) link
    (whenThen (decide (5 ≤ (s.link link).step) && fld cw 0 1 == 6 && fld cw 6 10 == 0) s
      (s.onLink link (fun k => { k with nextMap := some (BitVec.ofNat 32 (fld cw 1 4)) })))

/-- LANE_REJOIN (R363): 100 ms of clean lane markers. -/
def execLaneRejoin (link lane at_ : Nat) (s : State) : Out' :=
  inRange (link < 24 && lane < s.width link) lane
    (let t := s.advance at_
     let k := t.link link
     match tget k.rejoin lane with
     | none => .next s
     | some b => whenThen (decide (b + ms 100 ≤ t.time)) s
         ((t.setLink link { k with rejoin := tdel k.rejoin lane }).newLanes link (k.laneMap ||| BitVec.ofNat 32 (2 ^ lane))))

/-- LOOP_PROBE_RECEIVE (R358): a probe is echoed; an echo gives T, the round trip plus 584 ns. -/
def execLoopProbeReceive (link : Nat) (cw : BitVec 128) (at_ : Nat) (s : State) : Out' :=
  inRange (link < 24) link
    (let t := s.advance at_
     whenThen (decide (5 ≤ (t.link link).step) && fld cw 0 1 == 7 && bits cw 127 73 == 0) s
       (if bit cw 72 then t.onLink link (fun k => { k with loopNs := t.time - fld cw 1 8 + 584 })
        else t.emit link (probeCw (fld cw 1 8) true)))

/-- The lit lanes of a port's trained groups, lowest group first, as lanes of the port (R344, R359). -/
def State.portLanes (s : State) (port : Nat) : List Nat :=
  (List.range 4).flatMap (fun g =>
    let l := 4 * port + g
    if decide (6 ≤ (s.link l).step) then
      ((List.range 32).filter (fun i => (s.link l).laneMap.toNat.testBit i)).map (g * s.width l + ·)
    else [])

/-- FCLK_LANE_SWITCH (R359): FCLK's lane has lost lock: FCLK moves to the next such lane, or to the local reference. -/
def execFclkLaneSwitch (port : Nat) (s : State) : Out' :=
  inRange (port < 6) port
    (let now := (s.felt.fclk[port]?).getD none
     .next { s with felt := { s.felt with
       fclk := lupd s.felt.fclk port (fun _ => (s.portLanes port).find? (fun i => some i != now)) } })

/-! ### Bring-up and discovery (R365, R368, R369) -/

/-- The plan's entry for a link. -/
def State.planOf (s : State) (l : Nat) : Option PlanEntry :=
  match s.felt.plan with
  | none => none
  | some p => p.entries.find? (fun e => e.link == l)

/-- felt_ready (R436, R538): PD18 is on and no plan is loaded or every planned link is judged. -/
def State.feltCheck (s : State) : State :=
  let r := s.domOn 18 && (match s.felt.plan with
    | none => true
    | some p => p.entries.all (fun e => (s.link e.link).judged != 0))
  { s with host := { s.host with feltReady := r } }

/-- Link b is the other of a swapped pair with a (R370); whether both entries tolerate it. -/
def State.swapOf (s : State) (a : Nat) : Option (Nat × Bool) :=
  match s.planOf a with
  | none => none
  | some pa =>
    let seen (l : Nat) (p : PlanEntry) : Bool :=
      (s.link l).peerSerial == p.serial && (s.link l).peerPhys == p.expected && decide (8 ≤ (s.link l).step)
    if seen a pa then none else
    (List.range 24).findSome? (fun b =>
      match s.planOf b with
      | none => none
      | some pb => if b ≠ a ∧ s.width b = s.width a ∧ seen a pb ∧ seen b pa then some (b, pa.swapTol && pb.swapTol) else none)

/-- The logical label of a link: its partner's where this package exchanges the labels of a swapped pair (R370, R371). -/
def State.labelOf (s : State) (l : Nat) : Nat :=
  match s.swapOf l with
  | some (b, true) =>
    if (s.link l).peerSerial = (s.link b).peerSerial ∧ (s.link l).peerSerial.toNat < Config.serial.toNat then l else b
  | _ => l

/-- The bytes 0 to 47 of a discovery record of this package (Table 8). -/
def State.discHead (s : State) (l type certLen : Nat) : List Byte :=
  let k := s.link l
  recBytes (mkRec 384 [(0, 1, 1), (1, 1, type), (2, 1, portByte l + 32 * s.modeOf l),
    (3, 1, portByte (if type = 3 then s.labelOf l else l)), (4, 2, s.pkgId), (6, 2, certLen), (8, 8, Config.serial.toNat),
    (16, 16, k.nonce.toNat), (32, 16, if type = 1 then 0 else k.peerNonce.toNat)] : BitVec 384)

/-- A record goes out in discovery codewords of 14 bytes, in chunk order. -/
def State.sendRecord (s : State) (l type : Nat) : State :=
  let cert := Config.watermark
  let head := s.discHead l type (if type = 1 then cert.length else 0)
  let (d, s) := s.draw
  let sig : List Byte := if type = 1 then List.replicate 64 0 else recBytes (Config.sm2Sign 0 (sm3 head) d)
  let cs := chunks 128 14 (head ++ sig ++ (if type = 1 then cert else []))
  let s := s.onLink l (fun k => { k with outType := type, sentAt := s.time })
  cs.zipIdx.foldl (fun s c => s.emit l (mkRec 128 [(0, 1, 5), (1, 1, c.2 + (if c.2 + 1 = cs.length then 128 else 0)),
    (2, 14, leNat c.1)])) s

/-- DISCOVERY_REPEAT_TIMER (R368). -/
def execDiscoveryRepeatTimer (link at_ : Nat) (s : State) : Out' :=
  inRange (link < 24) link
    (let t := s.advance at_
     let k := t.link link
     whenThen (k.outType != 0 && decide (k.sentAt + ms 1 ≤ t.time)) s (t.sendRecord link k.outType))

/-- LINK_TRAINING_STEP (R365): the link completes the next step of Table 5 in time order; step 7 ends with the peer's proof
and step 9 with LINK_JUDGE. Step 9 waits for every planned link to pass step 7 or be judged missing. -/
def execLinkTrainingStep (link : Nat) (nonce : BitVec 128) (at_ : Nat) (s : State) : Out' :=
  inRange (link < 24) link
    (let t := s.advance at_
     let k := t.link link
     let all : BitVec 32 := BitVec.ofNat 32 (2 ^ t.width link - 1)
     if !t.domOn 18 || !k.on || !t.linkHas link then .next s
     else match k.step with
       | 4 => .next (t.setLink link { k with step := 5, laneMap := all, sendMap := all })
       | 5 => .next ((t.setLink link { k with step := 6 }).emit link (probeCw t.time false))
       | 6 => .next ((t.setLink link { k with step := 7, nonce := nonce, peerKey := none, idFailed := false, settled := false }).sendRecord
                link 1)
       | 7 => .next s
       | 8 =>
         let ready := match t.felt.plan with
           | none => false
           | some p => p.entries.all (fun e => decide (8 ≤ (t.link e.link).step) || (t.link e.link).judged == 5
               || (t.link e.link).idFailed)
         whenThen ready s ((t.setLink link { k with step := 9 }).sendRecord link 3)
       | n => if n < 4 then .next (t.setLink link { k with step := n + 1 }) else .next s)

/-- The checks of R369 on a record: the certificate of a hello; signature and echo of proof and settle. -/
def recordOk (k : Link) (r : List Byte) : Bool :=
  let type := leNat ((r.drop 1).take 1)
  let len := leNat ((r.drop 6).take 2)
  if type = 1 then
    (Config.certKey ((r.drop 112).take len)).isSome && decide (Config.certSerial ((r.drop 112).take len) =
      BitVec.ofNat 64 (leNat ((r.drop 8).take 8)))
  else
    match k.peerKey with
    | none => false
    | some key => decide (leNat ((r.drop 32).take 16) = k.nonce.toNat)
        && Config.sm2Verify key 0 (sm3 (r.take 48)) (BitVec.ofNat 512 (leNat ((r.drop 48).take 64)))

/-- DISCOVERY_RECORD_RECEIVE (R369): a hello is answered with a proof, a proof completes step 7, a settle record is what
the link is judged from. -/
def execDiscoveryRecordReceive (link : Nat) (record : List Byte) (s : State) : Out' :=
  inRange (link < 24) link
    (let k := s.link link
     let at2 (o n : Nat) : Nat := leNat ((record.drop o).take n)
     let type := at2 1 1
     if k.step < 7 ∨ record.length < 112 ∨ at2 0 1 ≠ 1 then .next s
     else if !recordOk k record then .next (s.setLink link { k with idFailed := true, outType := 0 })
     else if type = 1 then
       .next ((s.setLink link { k with
         peerSerial := BitVec.ofNat 64 (at2 8 8), peerPkg := at2 4 2, peerPhys := byteLink (at2 2 1),
         peerMode := at2 2 1 / 32 % 4, peerNonce := BitVec.ofNat 128 (at2 16 16),
         peerKey := Config.certKey ((record.drop 112).take (at2 6 2)) }).sendRecord link 2)
     else if type = 2 then
       .next (if k.step = 7 then s.setLink link { k with step := 8, outType := if k.outType = 1 then 1 else 0 } else s)
     else .next (s.setLink link { k with peerLogical := byteLink (at2 3 1), peerPkg := at2 4 2, settled := true,
                                         outType := if k.outType = 3 then 3 else k.outType }))

/-! ### Judging (R365, R370 to R373) -/

/-- Table 9: the code of a link. -/
def State.judgement (s : State) (l : Nat) : Nat :=
  let k := s.link l
  let e := s.planOf l
  if k.idFailed then 6
  else if (match s.swapOf l with
    | some (_, tol) => !tol
    | none => false) then 3
  else if !k.settled then (if e.isSome then 5 else 7)
  else
    match e with
    | none => 4
    | some _ =>
      match s.planOf (s.labelOf l) with
      | none => 4
      | some p =>
        if k.peerSerial = p.serial ∧ k.peerLogical = p.expected ∧ k.peerMode = s.modeOf l then
          (if s.labelOf l = l then 1 else 2)
        else 4

/-- N_CABLE_MISMATCH (R373). -/
def State.cableNotice (s : State) (l kind : Nat) : State :=
  let k := s.link l
  let saw := decide (8 ≤ k.step)
  s.detect nCableMismatch 0xFFFF (if saw then k.peerSerial else 0)
    (BitVec.ofNat 32 (portByte l + 32 * kind + (if saw then 256 * portByte k.peerLogical else 0)))

/-- The link is judged (R372): its code, its notice, and its data path. A matched link begins with fresh sequences and
credit, unless it carried data with the same neighbour and has not gone down since: then replay resumes (R354, R367). -/
def State.judge (s : State) (l : Nat) : State :=
  let c := s.judgement l
  let k := s.link l
  let label := s.labelOf l
  let gen := BitVec.ofNat 32 ((s.felt.plan.map Plan.generation).getD 0)
  let swap (acc : Nat) : BitVec 64 :=
    let b := ((s.swapOf l).map Prod.fst).getD 0
    BitVec.ofNat 64 (portByte l + 32 * portByte b + 1024 * acc)
  let resume := k.again && k.oldSerial == k.peerSerial && (c == 1 || c == 2)
  let k := { k with judged := c, logical := label, step := if c = 5 ∨ c = 7 then k.step else 10, again := true, retrainAt := none,
                    oldSerial := if c = 1 ∨ c = 2 then k.peerSerial else 0, outType := 0 }
  let k := if resume then k
    else { k with txSeq := 0, heldCw := [], freedSeen := [], creditSeen := 0, rxSeq := 0, freed := [], creditSeq := 0,
                  freedSince := [], creditAt := s.time, changed := true, unacked := [], partialCw := [], replays := 0 }
  let lost := if resume then 0 else (s.link l).unacked.length
  let s := (s.setLink l k).feltBump 6 l lost
  let s := if resume then k.unacked.foldl (fun s x => x.2.2.foldl (fun s c => s.emit l c) s) s else s
  let s := match c with
    | 6 => s.cableNotice l 3
    | 5 => s.cableNotice l 2
    | 4 => s.cableNotice l 1
    | 3 => s.detect nCableSwap 0xFFFF (swap 0) gen
    | 2 => s.detect nCableSwap 0xFFFF (swap 1) gen
    | _ => s
  s.feltCheck

/-- LINK_JUDGE (R372): after step 9, or for a link on which nothing has trained. A link that identity has failed is judged
as soon as that is known. -/
def execLinkJudge (link : Nat) (s : State) : Out' :=
  inRange (link < 24) link
    (let k := s.link link
     whenThen (s.linkHas link && s.felt.plan.isSome && k.step != 10
         && (k.step == 9 || (k.idFailed && decide (7 ≤ k.step)) || (decide (k.step ≤ 5) && (s.planOf link).isNone))) s (s.judge link))

/-- LINK_MISSING_TIMEOUT (R365): 2,000 ms after PD18 was switched on, a planned link has not completed step 5. It keeps
training. -/
def execLinkMissingTimeout (link at_ : Nat) (s : State) : Out' :=
  inRange (link < 24) link
    (let t := s.advance at_
     let k := t.link link
     whenThen (t.domOn 18 && (t.planOf link).isSome && decide (k.step < 5 ∧ t.felt.litAt + ms 2000 ≤ t.time) && k.judged != 5) s
       ((t.setLink link { k with judged := 5 }).cableNotice link 2).feltCheck)

/-! ### FELT_PLAN, FELT_LINK, FELT_QUERY -/

def planEntry (e : BitVec 128) : PlanEntry :=
  { link := byteLink (fld e 0 1), swapTol := bit e 8, expected := byteLink (fld e 2 1), serial := BitVec.ofNat 64 (fld e 4 8),
    pkg := fld e 12 2 }

/-- A plan takes effect (R367, R436, R538): every link is to be judged again, and a port whose mode changes retrains. -/
def State.loadPlan (s : State) (p : Plan) : State :=
  let modes := (List.range 6).map (fun i => p.modes / 4 ^ i % 4)
  let changed (l : Nat) : Bool := modes[linkPort l]? != s.felt.modes[linkPort l]?
  let links := tmap s.felt.links (fun l k =>
    if changed l then { k with step := if k.step = 0 then 0 else 1, judged := 0, settled := false, laneMap := 0, sendMap := 0,
                               again := true, retrainAt := none, oldSerial := 0, unacked := [], txq := [], idFailed := false,
                               outType := 0 }
    else { k with judged := 0, settled := false, step := if 8 ≤ k.step then 8 else k.step })
  ({ s with felt := { s.felt with plan := some p, modes := modes, links := links },
            host := { s.host with idPkg := BitVec.ofNat 16 p.pkg } }).feltCheck

/-- R367: the plan leaves the judgement and the mode of every link that the slice of the running job uses. A link's
neighbour is the one seen when it was last judged, though it trains again. -/
def State.keepsSlice (s : State) (p : Plan) : Bool :=
  let modes := (List.range 6).map (fun i => p.modes / 4 ^ i % 4)
  let seen (k : Link) : Link := { k with settled := k.settled || k.judged == 1 || k.judged == 2 }
  let t : State := { s with felt := { s.felt with plan := some p, modes := modes, links := tmap s.felt.links (fun _ k => seen k) } }
  s.sliceLinks.all (fun l => t.judgement l == (s.link l).judged && t.modeOf l == s.modeOf l)

/-- FELT_PLAN (R366, R367). -/
def feltPlanBody : Body := fun _ c s => do
  let a := fld c.packet 24 8
  let bad := (stBadParam, 0)
  match s.hostRec 256 a with
  | none => need (decide (a % 64 = 0)) bad; failDone s (stDataError, 0)
  | some h =>
    let count := fld h 20 1
    let modes := fld h 18 2
    match (List.range (if count ≤ 24 then count else 0)).mapM (fun i => s.hostRec 128 (a + 32 + 16 * i)) with
    | none => failDone s (stDataError, 0)
    | some es =>
      need (decide (fld h 21 11 = 0 ∧ modes < 4096)
        && es.all (fun e => decide (fld e 0 1 < 32 ∧ fld e 1 1 < 2 ∧ fld e 2 1 < 32 ∧ fld e 3 1 = 0 ∧ fld e 14 2 = 0)))
        (stReservedNonzero, 0)
      need (decide (a % 64 = 0 ∧ count ≤ 24)) bad
      need (decide (BitVec.ofNat 64 (fld h 8 8) = Config.serial)) bad
      need ((List.range 6).all (fun i => modes / 4 ^ i % 4 != 3)) bad
      let ps := es.map planEntry
      need (ps.all (fun p => decide (p.link < 24 ∧ p.expected < 24 ∧ linkGroup p.link < 2 ^ (modes / 4 ^ linkPort p.link % 4)))) bad
      need (noDup (ps.map PlanEntry.link)) bad
      let plan : Plan := { id := fld h 0 4, generation := fld h 4 4, pkg := fld h 16 2, modes := modes, entries := ps }
      need (s.keepsSlice plan) (stConflict, 0)
      okDone ((s.loadPlan plan).setMeasure 4 (sm3 (recBytes h ++ es.flatMap recBytes)))

def execFeltPlan (id : Nat) (s : State) : Out' := jeisk 0x310 feltPlanBody id s

/-- FELT_LINK (R376). -/
def feltLinkBody : Body := fun _ c s => do
  let b := fld c.packet 24 1
  let act := fld c.packet 25 1
  let l := byteLink b
  need (decide (act ≤ 2) && s.linkHas l) (stBadParam, 0)
  if act = 0 then
    need (!s.sliceLinks.contains l) (stConflict, 0)
    .ok (.busy (s.onLink l (fun k => { k with on := false })))
  else
    okDone (s.onLink l (fun k => { k with on := true, step := 1, again := k.judged != 0, settled := false, idFailed := false,
                                          laneMap := 0, sendMap := 0, peerKey := none, outType := 0 }))

/-- Down waits for the acks of the packets sent, then turns the lasers off. -/
def feltLinkDone (_ : Nat) (c : CmdRec) (s : State) : Option (Cause × State) :=
  let l := byteLink (fld c.packet 24 1)
  if (s.link l).unacked.isEmpty then
    some ((stOk, 0), s.onLink l (fun k => { k with step := 0, oldSerial := 0, laneMap := 0, sendMap := 0, settled := false }))
  else none

def execFeltLink (id : Nat) (s : State) : Out' := jeiskWait 0x311 feltLinkBody feltLinkDone id s

/-- The state field of Table 11. -/
def State.linkState (s : State) (l : Nat) : Nat :=
  let k := s.link l
  if k.step = 10 then (if k.judged = 1 ∨ k.judged = 2 then 3 else 4)
  else if k.judged = 7 then 6
  else if k.step = 0 then 0
  else if k.again && k.judged != 5 then 5
  else if k.step ≤ 6 then 1 else 2

/-- One-VC sustainable rate in 1/65,536 of the lit line rate (R358), rounded down and at most 65,535 (log 21). -/
def vcShare (w lit loop : Nat) : Nat :=
  if loop = 0 ∨ lit = 0 then 0 else Min.min 65535 ((dedicated w + poolOf w) * 72 * 65536 / (100 * lit * loop))

/-- The link record (Table 11). -/
def State.linkRecord (s : State) (l : Nat) : BitVec 256 :=
  let k := s.link l
  if !s.linkHas l then 0
  else mkRec 256 [(0, 1, s.linkState l), (1, 1, s.width l), (2, 1, litCount k.laneMap), (3, 1, k.judged), (4, 4, k.laneMap.toNat),
    (8, 8, k.peerSerial.toNat), (16, 2, k.peerPkg), (18, 1, portByte k.peerLogical), (20, 4, k.loopNs),
    (24, 2, vcShare (s.width l) (litCount k.laneMap) k.loopNs)]

/-- FELT_QUERY (R377). -/
def feltQueryBody : Body := fun _ c s => do
  let out := fld c.packet 24 8
  need (decide (out % 32 = 0)) (stBadParam, 0)
  okDone (s.hostWrite out ((List.range 24).flatMap (fun l => recBytes (s.linkRecord l))))

def execFeltQuery (id : Nat) (s : State) : Out' := jeisk 0x312 feltQueryBody id s

end Sys2Proof.Machine
end

