-- ==== Sys2Proof/Machine/OneSided.lean ====
section
/-! DEFINITION. One-sided transfers (R413, R414, R418): PUT, GET, READ_RECEIVE, ACK_RECEIVE; the tracker entries of their
requests (R119, R120) and TRACKER_ENTRY_GRANT; PACKET_FORWARD. -/
namespace Sys2Proof.Machine

/-! ### Requests and the tracker (R119, R120) -/

/-- A request packet of context `c` for command `id` takes a tracker entry and leaves, or waits for one. -/
def State.issue (s : State) (c id vc : Nat) (p : Packet) : State :=
  let behind := s.trk.waiting.any (fun w => w.ctx == c && w.vc == vc)
  match if behind then none else s.trkSource c vc with
  | some src => (s.trkTake c vc src id).forward vc p
  | none =>
    let s := s.bump slotPoolStall 1
    { s with trk := { s.trk with waiting := s.trk.waiting ++ [{ ctx := c, vc := vc, pkt := p, since := s.time }] } }

/-- The command whose record a transfer id names. -/
def State.oneOf (s : State) (xfer : Nat) : Option (Nat × OneSided) := tfind s.xfer.ones (fun k _ => k % 2 ^ 32 == xfer)

/-- TRACKER_ENTRY_GRANT (R120). -/
def execTrackerEntryGrant (s : State) : Out' :=
  match s.nextWaiter with
  | none => .next s
  | some (w, src) =>
    let id := ((s.oneOf (hXfer w.pkt)).map Prod.fst).getD 0
    let s := { s with trk := { s.trk with waiting := s.trk.waiting.erase w, turn := w.ctx } }
    .next ((s.trkTake w.ctx w.vc src id).forward w.vc w.pkt)

/-- Requests of a command that wait for an entry are given up, and its entries are freed. -/
def State.dropRequests (s : State) (id : Nat) : State :=
  let s := { s with trk := { s.trk with waiting := s.trk.waiting.filter (fun w => hXfer w.pkt != id % 2 ^ 32) } }
  (s.trk.entries.filter (fun e => e.cmd == id)).foldl (fun s _ => s.trkFree id) s

/-- A PUT or GET ends. -/
def State.endOne (s : State) (id : Nat) (st : Cause) : State :=
  ({ s with xfer := { s.xfer with ones := tdel s.xfer.ones id } }).dropRequests id |>.finish id st

def State.setOne (s : State) (id : Nat) (o : OneSided) : State :=
  { s with xfer := { s.xfer with ones := tset s.xfer.ones id o } }

/-! ### PUT and GET -/

/-- A request of leg 1 with its own intermediate (R390, R391). -/
def State.issueReq (s : State) (c id : Nat) (h : Hdr) (o : Nat) (rest : List Unit16) : State :=
  let v := s.via h.src h.dst h.xfer o
  s.issue c id (if v = s.pkgId then 2 else 1) (({ h with via := v } : Hdr).unit :: rest)

/-- The named package is an unfenced member of the job (R471; R418 for a fenced one). -/
def needMember (s : State) (pkg : Nat) : Except Cause Unit := do
  match s.me with
  | none => .error (stConflict, 0)
  | some (j, _) =>
    need (j.pos pkg).isSome (stBadParam, 0)
    need (!s.fail.fenced.any (fun f => f.1 == pkg)) (stFenced, 0)

/-- PUT (R413): its bytes leave in DATA packets of at most 62 units. -/
def putBody : Body := fun id c s => do
  let k := c.packet
  let pkg := fld k 24 2
  let off := fld k 32 6
  let len := fld k 38 6
  need (decide (len % 16 = 0 ∧ off % 16 = 0)) (stBadParam, 0)
  needJob s
  needMember s pkg
  let e ← s.rangeFor id (fld k 44 4) (fld k 48 6) len
  need (!s.lowPlane (fld k 44 4) (fld k 48 6) len) (stConflict, 0)
  let (bs, bad, s) := s.extRead e (fld k 48 6) len
  let s := (s.addOp c.ctx wDramRead len).addOp c.ctx wFeltTx len
  if len = 0 then okDone s
  else
    let parts := (chunks (len / 16) 62 (toUnits bs)).zipIdx
    let s := s.setOne id { get_ := false, pkg := pkg, units := len / 16, acked := 0, status := if bad then stDataError else 0 }
    .ok (.busy (parts.foldl (fun s p =>
      let last := decide (p.2 + 1 = parts.length)
      let o := off + 992 * p.2
      s.issueReq c.ctx id { dst := pkg, src := s.pkgId, via := pkg, type := tyData, last := last, poison := bad,
                            tagged := false, stable := false, xfer := id % 2 ^ 32 } (o / 16)
        (xferHdr o (fld k 28 4 + fld k 26 2 * 2 ^ 32) (if last then len / 16 else 0) :: p.1)) s))

def execPut (id : Nat) (s : State) : Out' := jeisk 0x308 putBody id s

/-- GET (R414): READ packets of at most 62 units; a landing offset counts from the start of the local destination. -/
def getBody : Body := fun id c s => do
  let k := c.packet
  let pkg := fld k 24 2
  let off := fld k 32 6
  let len := fld k 38 6
  need (decide (len % 16 = 0)) (stBadParam, 0)
  needJob s
  needMember s pkg
  let _ ← s.rangeFor id (fld k 44 4) (fld k 48 6) len
  need (!s.writeGuarded (fld k 44 4)) (stConflict, 0)
  if len = 0 then okDone s
  else
    let s := s.setOne id { get_ := true, pkg := pkg, units := len / 16, acked := 0, status := 0 }
    .ok (.busy ((List.range (ceilDiv (len / 16) 62)).foldl (fun s i =>
      let n := Min.min 62 (len / 16 - 62 * i)
      s.issueReq c.ctx id { dst := pkg, src := s.pkgId, via := pkg, type := tyRead, last := false, poison := false,
                            tagged := false, stable := false, xfer := id % 2 ^ 32 } (62 * i)
        [mkRec 128 [(0, 6, off + 992 * i), (6, 2, n), (8, 4, fld k 28 4)], mkRec 128 [(0, 6, 992 * i)]]) s))

def execGet (id : Nat) (s : State) : Out' := jeisk 0x309 getBody id s

/-! ### Arrivals (R384, R389) -/

/-- What the checks of R384 and R389 make of a packet at its destination: `none` where it is good. -/
def State.refusePkt (s : State) (vc : Nat) (p : Packet) : Option State :=
  if !pktLenOk p || !pktFieldsOk p then some (s.bump (slotRoute 0) 1)
  else if !s.ownJob vc p then some (s.bump (slotRoute 1) 1)
  else none

/-- The packet `p` of a type, received whole or delivered by a circuit, at its destination. -/
def State.arrival (s : State) (types : List Nat) (p : Packet) : Option ((Nat × Nat × Packet) × State) :=
  s.takeRx (fun l vc q => q == p && types.contains (hType q) && (l == 24 || (vc ≤ 4 && hDst q == s.pkgId)))

/-- An ACK for units of a transfer (R413, R414). -/
def State.ack (s : State) (dst xfer units status : Nat) : State :=
  s.launchPkt 3 { dst := dst, src := s.pkgId, via := dst, type := tyAck, last := false, poison := false, tagged := false,
                  stable := false, xfer := xfer } 0 [mkRec 128 [(0, 4, units), (4, 2, status)]]

/-- READ_RECEIVE (R414): RDATA, or an ACK with a status. A unit count outside 1 to 62 is no READ's (R384). -/
def execReadReceive (pkt : Packet) (s : State) : Out' :=
  match s.arrival [tyRead] pkt with
  | none => .next s
  | some ((_, vc, p), s) =>
    match s.refusePkt vc p with
    | some t => .next t
    | none =>
      let off := fld (pktCw p 1) 0 6
      let n := fld (pktCw p 1) 6 2
      let h := fld (pktCw p 1) 8 4
      let land := fld (pktCw p 2) 0 6
      if n = 0 ∨ 62 < n then .next (s.bump (slotRoute 0) 1)
      else
        match s.range h off (16 * n) with
        | .error _ => .next (s.ack (hSrc p) (hXfer p) n stBadParam)
        | .ok e =>
          if !e.fabricRead then .next (s.ack (hSrc p) (hXfer p) n stBadParam)
          else if s.lowPlane h off (16 * n) then .next (s.ack (hSrc p) (hXfer p) n stConflict)
          else
            let (bs, bad, s) := s.extRead e off (16 * n)
            let s := (s.addOp 1024 wDramRead (16 * n)).addOp 1024 wFeltTx (16 * n)
            .next (s.launchPkt 3 { dst := hSrc p, src := s.pkgId, via := hSrc p, type := tyRData, last := false, poison := bad,
                                   tagged := false, stable := false, xfer := hXfer p } (land / 16)
              (xferHdr land 0 0 :: toUnits bs))

/-- ACK_RECEIVE (R413, R414): a PUT counts its units and keeps the highest status; an ACK ends a GET with its status. -/
def execAckReceive (pkt : Packet) (s : State) : Out' :=
  match s.arrival [tyAck] pkt with
  | none => .next s
  | some ((_, vc, p), s) =>
    match s.refusePkt vc p with
    | some t => .next t
    | none =>
      match s.oneOf (hXfer p) with
      | none => .next (s.bump (slotRoute 4) 1)
      | some (id, o) =>
        let s := s.trkFree id
        let st := fld (pktCw p 1) 4 2
        if o.get_ then .next (s.endOne id (st, 0))
        else
          let o := { o with acked := o.acked + fld (pktCw p 1) 0 4, status := Max.max o.status st }
          if o.units ≤ o.acked then .next (s.endOne id (o.status, 0)) else .next (s.setOne id o)

/-- A DATA packet of a PUT at its target (R413). -/
def State.putArrival (s : State) (p : Packet) : State :=
  let h := tArg p % 2 ^ 32
  let tok := tArg p / 2 ^ 32
  let n := pktUnits p
  match s.range h (tOff p) (16 * n) with
  | .error _ => s.ack (hSrc p) (hXfer p) n stBadParam
  | .ok e =>
    if s.writeGuarded h then s.ack (hSrc p) (hXfer p) n stConflict
    else
      let s := (s.extWrite e (tOff p) (pktData p)).addOp 1024 wDramWrite (16 * n)
      let s := s.addOp 1024 wFeltRx (16 * n)
      let s := if tok = 0xFFFF then s else s.addToken tok n
      s.ack (hSrc p) (hXfer p) n stOk

/-- RDATA of a GET (R402, R414). -/
def State.getArrival (s : State) (p : Packet) : State :=
  match s.oneOf (hXfer p) with
  | none => s.bump (slotRoute 4) 1
  | some (id, o) =>
    let s := s.trkFree id
    match s.cmd id with
    | none => s
    | some c =>
      let k := c.packet
      let n := pktUnits p
      if !o.get_ ∨ fld k 38 6 < tOff p + 16 * n ∨ o.units < o.acked + n then
        s.endOne id (stDataMismatch, (s.me.bind (fun m => m.1.index (m.1.group m.2 3) (hSrc p))).getD 0xFFFF)
      else
        match s.range (fld k 44 4) (fld k 48 6) (fld k 38 6) with
        | .error _ => s
        | .ok e =>
          let s := (s.extWrite e (fld k 48 6 + tOff p) (pktData p)).addOp c.ctx wDramWrite (16 * n)
          let s := s.addOp c.ctx wFeltRx (16 * n)
          let o := { o with acked := o.acked + n, status := if hPoison p then stDataError else o.status }
          if o.acked = o.units then s.endOne id (o.status, 0) else s.setOne id o

/-! ### Forwarding (R380, R390 to R393) -/

/-- PACKET_FORWARD (R390, R392, R393): a routed packet that is not at its destination goes on to its next hop; a FRAME at
its destination has been handed to the firmware. A packet of another job is discarded (R389). -/
def execPacketForward (vc : Nat) (pkt : Packet) (s : State) : Out' :=
  match s.takeRx (fun l v q => l != 24 && v == vc && vc ≤ 4 && q == pkt && (hDst q != s.pkgId || hType q == tyFrame)) with
  | none => .next s
  | some ((_, _, p), s) =>
    if hDst p = s.pkgId then .next s
    else if !s.ownJob vc p then .next (s.bump (slotRoute 1) 1)
    else .next (s.forward vc p)

end Sys2Proof.Machine
end

