-- ==== Sys2Proof/Machine/Collective.lean ====
section
/-! DEFINITION. Circuits and collectives (R395 to R412, R416, R417): GATHER_JIT, BROADCAST, REDUCE_SCATTER, ALL_REDUCE,
ALL_TO_ALL, their sending, landing and timeouts; CIRCUIT_PACKET_RECEIVE, DATA_RECEIVE, PARTIAL_RECEIVE, READY_RECEIVE. -/
namespace Sys2Proof.Machine

/-! ### Parameters of a collective (Table 12 of ch. 12) -/

def instGroup (i : Inst) : Nat := fld i.packet 24 1
def instId (i : Inst) : Nat := fld i.packet 28 4
def instTimeout (i : Inst) : Nat := fld i.packet 26 2
def instCouch (i : Inst) : Bool := i.kind == 0 && (fld i.packet 25 1).testBit 0

/-- Element size of a reduction's formats: 4 bytes of FP32, 2 of BF16. -/
def redSize (f : Nat) : Nat := if f = fmtFP32 then 4 else 2

def instIn (i : Inst) : Nat := fld i.packet 33 1 % 16
def instOut (i : Inst) : Nat := fld i.packet 33 1 / 16
def instN (i : Inst) : Nat := fld i.packet 36 4

/-- The handle and the offset at which the instance lands. -/
def instDst (i : Inst) : Nat × Nat :=
  match i.kind with
  | 0 | 1 => (fld i.packet 40 4, fld i.packet 44 6)
  | 2 | 3 => (fld i.packet 50 4, fld i.packet 54 6)
  | _ => (fld i.packet 46 4, fld i.packet 50 6)

/-- Bytes of a shard that a gather moves: 2 for each parameter (R407). -/
def Job.shardBytes (j : Job) (sh : Nat) : Nat := 2 * ((j.shards[sh]?).getD (0, 0)).1

/-- Bytes of the target of an instance with k members. -/
def Job.instBytes (j : Job) (i : Inst) (k : Nat) : Nat :=
  match i.kind with
  | 0 => (i.shards.map j.shardBytes).sum
  | 1 => 16 * fld i.packet 36 4
  | 2 => instN i / k * redSize (instOut i)
  | 3 => instN i * redSize (instOut i)
  | _ => k * fld i.packet 32 4

/-- The place of a shard's owner. -/
def Job.shardOwner (j : Job) (sh : Nat) : Option Nat := (j.owners[sh]?).bind j.pos

/-- Member indices that send in an instance. -/
def Job.senders (j : Job) (g : List Nat) (i : Inst) : List Nat :=
  match i.kind with
  | 0 => (i.shards.filterMap (fun sh => (j.shardOwner sh).bind (fun o => g.findIdx? (· == o)))).eraseDups
  | 1 => [fld i.packet 32 2]
  | _ => List.range g.length

/-! ### Circuits (R395, R398, R399) -/

def State.circuit (s : State) (c : Nat) : Circuit := tgetD s.job.circuits c { entry := 0, dirs := [] }
def Circuit.valid (c : Circuit) : Bool := bit c.entry 0
def Circuit.member (c : Circuit) : Bool := bit c.entry 1
def Circuit.edge (c : Circuit) (k : Nat) : Nat := fld c.entry (4 + k) 1
def Circuit.next (c : Circuit) (k : Nat) : Nat := fld c.entry (10 + k) 1

/-- The edge leads to a fenced member of the tree (R416). -/
def State.edgeFenced (s : State) (id k : Nat) : Bool :=
  match s.me with
  | none => false
  | some (j, i) =>
    let far : Option Nat := match (j.entries i)[id]? with
      | some (.member r) => (j.neighbours r i)[k]?
      | some (.relay r v _) => if k = 0 then some v else j.parent r v
      | none => none
    match far with
    | none => false
    | some m => s.fail.fenced.any (fun f => f.1 == (j.mem m).pkg)

/-- A packet copied to an edge of circuit `id` (R398, R399, R416, R580). A sink edge takes it, as `sink` rewrites it, only
where it has credit at once. -/
def State.toEdge (s : State) (id k : Nat) (p : Packet) (sink : Option Packet) : State :=
  let c := s.circuit id
  let b := c.edge k
  if !b.testBit 5 then s
  else
    let l := s.physLink (byteLink (b % 32))
    if b.testBit 6 then
      match sink with
      | none => s
      | some q =>
        let link := s.link l
        if link.data && (tgetD link.txq 6 []).isEmpty && creditOk (s.width l) (eight link.heldCw) 6 q.length then
          s.enqueue l 6 (setVia q (c.next k))
        else s.bump (slotRoute 2) 1
    else if s.edgeFenced id k then s.bump (slotRoute 3) 1
    else s.enqueueHop (b % 32 + 32) 5 (setVia p (c.next k))

/-- A packet copied to every valid edge of a circuit but the one it came in on. -/
def State.toEdges (s : State) (id : Nat) (skip : Option Nat) (p : Packet) (sink : Option Packet) : State :=
  (List.range 6).foldl (fun s k => if skip = some k then s else s.toEdge id k p sink) s

/-- A packet sent on the edge that the direction map gives for a member (R398). -/
def State.toMember (s : State) (id member : Nat) (p : Packet) : State :=
  let d := ((s.circuit id).dirs[member]?).getD 7
  if d = 7 then s else s.toEdge id d p none

/-! ### Instances -/

def State.inst (s : State) (id : Nat) : Option Inst := tget s.xfer.insts id

def State.setInst (s : State) (id : Nat) (i : Inst) : State :=
  { s with xfer := { s.xfer with insts := tset s.xfer.insts id i } }

/-- The instance that a packet's xfer names. -/
def State.instOf (s : State) (xfer : Nat) : Option (Nat × Inst) := tfind s.xfer.insts (fun _ i => instId i == xfer)

/-- The packet as the lead's sink edge carries it (R409, R580): its offset counts from the start of its shard, arg holds
the shard and the low bits of the step tag. Only a gather with the couch flag has one, while a sink is attached. -/
def State.sinkCopy (s : State) (p : Packet) : Option Packet :=
  match s.job.job, s.instOf (hXfer p) with
  | some j, some (_, i) =>
    if s.job.sinkOn && instCouch i && j.lead == s.pkgId then
      let r := i.shards.foldl (fun (a : Nat × Option (Nat × Nat)) sh =>
        match a.2 with
        | some _ => a
        | none => if tOff p < a.1 + j.shardBytes sh then (a.1, some (sh, a.1)) else (a.1 + j.shardBytes sh, none)) (0, none)
      match r.2, p with
      | some (sh, base), l :: _ :: rest =>
        some (l :: xferHdr (tOff p - base) (sh % 2 ^ 32 + tArg p % 2 ^ 16 * 2 ^ 32) (tTotal p) :: rest)
      | _, _ => none
    else none
  | _, _ => none

/-- Every place on the way from `a` to `b` in a tree, relays included. -/
def Job.fullPath (j : Job) (r a b : Nat) : List Nat :=
  let ps := j.pathTo 96 r a b
  a :: (ps.zip ps.tail).flatMap (fun e => j.edgePath e.1 e.2)

/-- Some place between members `a` and `b` (ends included) is fenced. -/
def State.pathFenced (s : State) (j : Job) (r a b : Nat) : Bool :=
  (j.fullPath r a b).any (fun p => s.fail.fenced.any (fun f => f.1 == (j.mem p).pkg))

/-! ### READY (R403) -/

/-- READY counts received for a sender from a neighbour. -/
def readyFrom (i : Inst) (sender pkg : Nat) : Nat :=
  ((i.ready.filter (fun r => r.1 == sender && r.2.1 == pkg)).map (fun r => r.2.2)).foldl Max.max 0

/-- This member reports toward every sender for which its subtree is ready. -/
def State.reportReady (s : State) (id : Nat) : State :=
  match s.me, s.inst id with
  | some (j, me), some i =>
    let r := instGroup i
    let g := j.group me r
    (j.senders g i).foldl (fun s sd =>
      match s.inst id, g[sd]? with
      | some i, some so =>
        match j.toward r me so with
        | none => s
        | some up =>
          if i.readySent.contains sd then s else
          let kids := (j.neighbours r me).filter (· != up)
          let ok := kids.all (fun n =>
            let sub := j.subtree r n so
            let out := (sub.filter (fun m => s.fail.fenced.any (fun f => f.1 == (j.mem m).pkg))).length
            decide (sub.length ≤ readyFrom i sd (j.mem n).pkg + out))
          if !ok then s else
          let total := 1 + (kids.map (fun n => readyFrom i sd (j.mem n).pkg)).sum
          let d := (j.mem up).pkg
          (s.setInst id { i with readySent := i.readySent ++ [sd] }).forward 0
            [({ dst := d, src := s.pkgId, via := d, type := tyReady, last := false, poison := false, tagged := false,
                stable := false, xfer := instId i } : Hdr).unit, mkRec 128 [(0, 2, sd), (2, 2, total)]]
      | _, _ => s) s
  | _, _ => s

/-- Every member that this sender serves has reported READY or is fenced. -/
def State.mayStart' (s : State) (j : Job) (me : Nat) (i : Inst) : Bool :=
  let r := instGroup i
  let g := j.group me r
  match g.findIdx? (· == me) with
  | none => false
  | some ix =>
    let counts := ((j.neighbours r me).map (fun n => readyFrom i ix (j.mem n).pkg)).sum
    let out := (g.filter (fun m => m != me && s.fail.fenced.any (fun f => f.1 == (j.mem m).pkg))).length
    (j.senders g i).contains ix && decide (g.length ≤ counts + out + 1)

/-! ### Completion (R400, R401, R410) -/

def Landing.complete (l : Landing) : Bool := l.lasts.length == l.expect && l.units == l.totals

/-- The segment size of a reduction in units (R401). -/
def segUnits (i : Inst) (k : Nat) : Nat := instN i / k / 4

/-- The instance has ended; one that still passes on partials of others stays until the last (R401). -/
def State.endInst (s : State) (id : Nat) (st : Cause) : State :=
  match s.me, s.inst id with
  | some (j, me), some i =>
    let k := (j.group me (instGroup i)).length
    let keep := (i.kind == 2 || i.kind == 3) && st.1 == stOk && decide (i.passed < (k - 1) * segUnits i k)
    let s := if keep then s.setInst id { i with isOver := true }
             else { s with xfer := { s.xfer with insts := tdel s.xfer.insts id } }
    s.finish id st
  | _, _ => s.finish id st

/-- Completes the instance if all that R400, R401 and R410 ask has happened. -/
def State.checkInst (s : State) (id : Nat) : State :=
  match s.me, s.inst id with
  | some (j, me), some i =>
    let g := j.group me (instGroup i)
    let k := g.length
    let ix := (g.findIdx? (· == me)).getD 0
    let weighed := i.weight == k * segUnits i k
    let done := match i.kind with
      | 0 => i.land.complete && i.left.isEmpty
      | 1 => if fld i.packet 32 2 = ix then i.sent else i.land.complete
      | 2 => i.sent && weighed
      | 3 => i.sent && weighed && i.land.complete
      | _ => i.sent && i.land.complete
    if i.isOver then
      (if (k - 1) * segUnits i k ≤ i.passed then { s with xfer := { s.xfer with insts := tdel s.xfer.insts id } } else s)
    else if !done then s
    else
      let s := if i.kind = 4 then
          s.hostWrite (fld i.packet 56 8 + 4 * k) ((List.range k).flatMap (fun m => leBytes 4 (tgetD i.counts m 0)))
        else s
      s.endInst id (if i.poison then stDataError else stOk, 0)
  | _, _ => s

/-- What fenced members make of an instance (R416, R417). -/
def State.fenceInst (s : State) (id : Nat) : State :=
  match s.me, s.inst id with
  | some (j, me), some i =>
    let r := instGroup i
    let g := j.group me r
    let ix := (g.findIdx? (· == me)).getD 0
    let out (m : Nat) : Bool := s.fail.fenced.any (fun f => f.1 == (j.mem m).pkg)
    if i.isOver then s
    else if 2 ≤ i.kind then (if g.any out then s.endInst id (stFenced, 0) else s)
    else
      let sd := j.senders g i
      let unserved := if sd.contains ix then g.filter (fun m => m != me && s.pathFenced j r m me) else []
      if !unserved.isEmpty then
        let at_ := if i.kind = 0 then fld i.packet 56 8 + 256 else fld i.packet 56 8
        (s.hostWrite at_ (unserved.flatMap (fun m => leBytes 2 (j.mem m).pkg))).endInst id (stPartial, unserved.length)
      else if sd.any (fun x => match g[x]? with
          | some so => so != me && s.pathFenced j r me so
          | none => false) then s.endInst id (stFenced, 0)
      else s
  | _, _ => s

/-- A collective that has started. -/
def State.beginInst (s : State) (id : Nat) (i : Inst) : State :=
  (((s.setInst id i).fenceInst id).reportReady id).checkInst id

/-! ### Reductions (R401, R411) -/

/-- One element of a reduction: sum, max or min, with its flags. -/
def redOp (op : Nat) (a b : BitVec 32) : BitVec 32 × Flags :=
  match op with
  | 0 => f32Add a b
  | 1 => (toF32 (FVal.max (f32 a) (f32 b), 0))
  | _ => (toF32 (FVal.min (f32 a) (f32 b), 0))

/-- The four FP32 words of a unit. -/
def unitWords (u : Unit16) : List (BitVec 32) := (List.range 4).map (fun k => BitVec.ofNat 32 (fld u (4 * k) 4))
def wordsUnit (ws : List (BitVec 32)) : Unit16 := BitVec.ofNat 128 (leNat (ws.flatMap (fun w => leBytes 4 w.toNat)))

/-- Units of a segment combine into an instance's sums (R401): the instance, its flags and the elements added. -/
def combineUnits (i : Inst) (own : Bool) (seg u0 count : Nat) (us : List Unit16) : Inst × Flags × Nat :=
  us.zipIdx.foldl (fun (a : Inst × Flags × Nat) x =>
    let key := seg * 2 ^ 32 + u0 + x.2
    let ws := unitWords x.1
    let i := a.1
    match tget i.sums key with
    | none => ({ i with sums := tset i.sums key (count, ws), weight := i.weight + (if own then count else 0) }, a.2)
    | some (c, old) =>
      let rs := old.zipWith (redOp (fld i.packet 32 1)) ws
      ({ i with sums := tset i.sums key (c + count, rs.map Prod.fst), weight := i.weight + (if own then count else 0) },
        rs.foldl (fun f r => f ||| r.2) a.2.1, a.2.2 + 4)) (i, 0, 0)

/-- Units of a segment that have the contributors of this member's whole subtree go on toward their member. -/
def State.passUnits (s : State) (id : Nat) (j : Job) (me seg u0 n : Nat) : State :=
  match s.inst id with
  | none => s
  | some i =>
    let r := instGroup i
    let g := j.group me r
    match g[seg]? with
    | none => s
    | some dst =>
      if dst = me then s else
      let need := (j.subtree r me dst).length
      (List.range n).foldl (fun s x =>
        match s.inst id with
        | none => s
        | some i =>
          let key := seg * 2 ^ 32 + u0 + x
          match tget i.sums key with
          | none => s
          | some (c, ws) =>
            if c < need then s
            else
              let d := (j.mem dst).pkg
              let p : Packet := [({ dst := d, src := s.pkgId, via := 0, type := tyPartial, last := false, poison := false,
                                    tagged := false, stable := false, xfer := instId i } : Hdr).unit,
                                 xferHdr (16 * (u0 + x)) 0 c, wordsUnit ws]
              ((s.setInst id { i with sums := tdel i.sums key, passed := i.passed + 1 }).toMember r seg p).addOp i.ctx wFeltTx 16) s

/-- The reduction's own segment is whole: it is rounded once and written, and an ALL_REDUCE multicasts it (R411). -/
def State.landSegment (s : State) (id : Nat) (j : Job) (me : Nat) : State :=
  match s.inst id with
  | none => s
  | some i =>
    let r := instGroup i
    let g := j.group me r
    let k := g.length
    let ix := (g.findIdx? (· == me)).getD 0
    let u := segUnits i k
    if i.weight ≠ k * u ∨ i.isOver ∨ (tget i.sums (ix * 2 ^ 32)).isNone then s else
    let ws := (List.range u).flatMap (fun x => ((tget i.sums (ix * 2 ^ 32 + x)).elim [] Prod.snd))
    let rs := ws.map (fun w => fencode (instOut i) .even (f32 w))
    let bs := rs.flatMap (fun x => leBytes (redSize (instOut i)) x.1)
    let (h, off) := instDst i
    let off := if i.kind = 3 then ix * bs.length + off else off
    let s := s.setInst id { i with sums := tfilter i.sums (fun key _ => decide (key / 2 ^ 32 ≠ ix)) }
    let s := s.cmdFlags id (rs.foldl (fun f x => f ||| x.2) 0)
    let s := match s.range h off bs.length with
      | .ok e => (s.extWrite e off bs).addOp i.ctx wDramWrite bs.length
      | .error _ => s
    if i.kind = 3 then
      let parts := (chunks (bs.length / 16) 62 (toUnits bs)).zipIdx
      let s := s.addOp i.ctx wFeltTx bs.length
      parts.foldl (fun s p =>
        let last := decide (p.2 + 1 = parts.length)
        s.toEdges r none (({ dst := s.pkgId, src := s.pkgId, via := 0, type := tyData, last := last, poison := i.poison,
                             tagged := false, stable := false, xfer := instId i } : Hdr).unit ::
          xferHdr (ix * bs.length + 992 * p.2) 0 (if last then bs.length / 16 else 0) :: p.1) none) s
    else s

/-- Input bytes of a segment as FP32 units (R411: the conversion is exact). -/
def toFP32Units (f : Nat) (bs : List Byte) : List Unit16 :=
  toUnits ((chunks bs.length (redSize f) bs).flatMap (fun b =>
    if f = fmtFP32 then b else leBytes 4 (leNat b * 65536)))

/-! ### Sending (R403, R405, R407, R412) -/

/-- Packets of one sender's bytes, each to be sent by `out`. `off` is where they land. -/
def sendParts (s : State) (h : Hdr) (off arg : Nat) (bs : List Byte) (out : State → Packet → State) : State :=
  let parts := if bs.isEmpty then [([], 0)] else (chunks bs.length 62 (toUnits bs)).zipIdx
  parts.foldl (fun s p =>
    let last := decide (p.2 + 1 = parts.length)
    out s (({ h with last := last } : Hdr).unit :: xferHdr (off + 992 * p.2) arg (if last then ceilDiv bs.length 16 else 0)
      :: p.1)) s

/-- The header of what an instance sends. -/
def State.instHdr (s : State) (i : Inst) (dst : Nat) (bad : Bool) : Hdr :=
  { dst := dst, src := s.pkgId, via := 0, type := tyData, last := false, poison := bad, tagged := false, stable := false,
    xfer := instId i }

/-- A broadcast's root sends its bytes to every edge of its circuit. -/
def State.sendCopies (s : State) (id : Nat) (i : Inst) : State :=
  let n := 16 * fld i.packet 36 4
  match s.range (fld i.packet 40 4) (fld i.packet 44 6) n with
  | .error _ => s
  | .ok e =>
    let (bs, bad, s) := s.extRead e (fld i.packet 44 6) n
    let s := (s.addOp i.ctx wDramRead n).addOp i.ctx wFeltTx n
    let s := s.setInst id { i with sent := true, poison := i.poison || bad }
    sendParts s (s.instHdr i s.pkgId bad) 0 0 bs (fun s p => s.toEdges (instGroup i) none p none)

/-- An all-to-all's bytes for member m of the group, this member's own kept here. -/
def State.sendMemberPart (s : State) (id : Nat) (j : Job) (me : Nat) (i : Inst) (m : Nat) : State :=
  let g := j.group me (instGroup i)
  let k := g.length
  let ix := (g.findIdx? (· == me)).getD 0
  let cap := fld i.packet 32 4
  let (dh, doff) := instDst i
  let c := (i.left[m]?).getD 0
  match s.range (fld i.packet 36 4) (fld i.packet 40 6) (k * cap), s.inst id with
  | .ok e, some i =>
    let (bs, bad, s) := s.extRead e (fld i.packet 40 6 + m * cap) c
    let s := s.addOp i.ctx wDramRead c
    if m = ix then
      let s := s.setInst id { i with counts := tset i.counts ix c, poison := i.poison || bad }
      match s.range dh doff (k * cap) with
      | .ok d => (s.extWrite d (doff + ix * cap) bs).addOp i.ctx wDramWrite c
      | .error _ => s
    else
      let s := (s.setInst id { i with poison := i.poison || bad }).addOp i.ctx wFeltTx c
      sendParts s (s.instHdr i (j.mem ((g[m]?).getD 0)).pkg bad) (ix * cap) 0 bs (fun s p => s.toMember (instGroup i) m p)
  | _, _ => s

/-- A reduction's segment x.2, converted, combined here and passed on (R401). -/
def State.sendSegment (s : State) (id : Nat) (j : Job) (me : Nat) (x : List Byte × Nat) : State :=
  match s.inst id with
  | none => s
  | some i =>
    let g := j.group me (instGroup i)
    let (i, fl, adds) := combineUnits i (x.2 == (g.findIdx? (· == me)).getD 0) x.2 0 1 (toFP32Units (instIn i) x.1)
    (((s.setInst id i).cmdFlags id fl).addOp i.ctx wCombine adds).passUnits id j me x.2 0 (segUnits i g.length)

/-- What a member that is not a gather's owner sends. -/
def State.sendInst (s : State) (id : Nat) (j : Job) (me : Nat) (i : Inst) : State :=
  let k := (j.group me (instGroup i)).length
  let s := s.setInst id { i with sent := true }
  match i.kind with
  | 1 => s.sendCopies id i
  | 4 => (List.range k).foldl (fun s m => s.sendMemberPart id j me i m) s
  | _ =>
    let n := instN i * redSize (instIn i)
    match s.range (fld i.packet 40 4) (fld i.packet 44 6) n with
    | .error _ => s
    | .ok e =>
      let (bs, bad, s) := s.extRead e (fld i.packet 44 6) n
      let s := s.addOp i.ctx wDramRead n
      let s := s.setInst id { i with sent := true, poison := i.poison || bad }
      ((chunks k (n / k) bs).zipIdx.foldl (fun s x => s.sendSegment id j me x) s).landSegment id j me

/-- COLLECTIVE_SEND_START (R403): every member that this sender serves has reported READY or is fenced. -/
def execCollectiveSendStart (id : Nat) (s : State) : Out' :=
  match s.me, s.inst id with
  | some (j, me), some i =>
    whenThen (i.kind != 0 && !i.sent && !i.isOver && s.mayStart' j me i) s ((s.sendInst id j me i).checkInst id)
  | _, _ => .next s

/-- Piece q of a shard of n bytes that a gather reads out: copied into this member's own destination and sent, tagged with
the step; the last piece of the last shard carries the units in all. Whether any was poisoned is kept beside the state. -/
def State.gatherPiece (i : Inst) (tag before : Nat) (total : Option Nat) (n : Nat) (w d : Extent) (a : State × Bool) (q : Nat) :
    State × Bool :=
  let m := Min.min 992 (n - 992 * q)
  let (bs, bad, s) := a.1.extRead w (992 * q) m
  let s := s.extWrite d ((instDst i).2 + before + 992 * q) bs
  let fin := decide (q + 1 = ceilDiv n 992)
  let last := fin && total.isSome
  let p : Packet := ({ s.instHdr i s.pkgId bad with last := last, tagged := true, stable := fin } : Hdr).unit ::
    xferHdr (before + 992 * q) tag (if last then total.getD 0 else 0) :: toUnits bs
  (s.toEdges (instGroup i) none p (s.sinkCopy p), a.2 || bad)

/-- GATHER_READOUT_START (R407, R408, R410): the owner reads its next listed shard once the shard's step token has reached
n, and sends it tagged. A shard detached before it is read ends the instance with ST_ABORTED. -/
def execGatherReadoutStart (id : Nat) (s : State) : Out' :=
  match s.me, s.inst id with
  | some (j, me), some i =>
    match i.left with
    | [] => .next s
    | pos :: rest =>
      let sh := (i.shards[pos]?).getD 0
      if i.kind != 0 then .next s else
      match tget s.press.shards sh with
      | none => .next (s.endInst id (stAborted, 0))
      | some p =>
        let tag := s.token p.token
        let n := j.shardBytes sh
        match s.range p.weight 0 n, s.range (instDst i).1 (instDst i).2 (j.instBytes i 1) with
        | .ok w, .ok d =>
          if tag < fld i.packet 32 6 || !s.mayStart' j me i then .next s
          else
            let before := ((i.shards.take pos).map j.shardBytes).sum
            let total := ((i.shards.filter (fun x => j.shardOwner x == some me)).map j.shardBytes).sum / 16
            let out := (List.range (ceilDiv n 992)).foldl (fun a q =>
              State.gatherPiece i tag before (if rest.isEmpty then some total else none) n w d a q) (s, false)
            let s := ((out.1.addOp i.ctx wDramRead n).addOp i.ctx wDramWrite n).addOp i.ctx wFeltTx n
            let s := s.setInst id { i with left := rest, poison := i.poison || out.2 }
            let ro := fld i.packet 50 2
            let s := if rest.isEmpty ∧ ro ≠ 0xFFFF then s.addToken ro 1 else s
            .next (s.checkInst id)
        | _, _ => .next s
  | _, _ => .next s

/-- COLLECTIVE_TIMEOUT (R404). -/
def execCollectiveTimeout (id at_ : Nat) (s : State) : Out' :=
  let t := s.advance at_
  match t.inst id with
  | none => .next s
  | some i => whenThen (!i.isOver && decide (instTimeout i ≠ 0 ∧ i.since + ms (instTimeout i) ≤ t.time)) s
      (t.endInst id (stTimeout, 0))

/-! ### Landing (R400 to R402) -/

/-- DATA of a collective at a receiving instance. -/
def State.landData (s : State) (p : Packet) : State :=
  match s.me, s.instOf (hXfer p) with
  | some (j, me), some (id, i) =>
    let g := j.group me (instGroup i)
    let k := g.length
    let src := (j.index g (hSrc p)).getD 0xFFFF
    let n := pktUnits p
    let (h, off) := instDst i
    let size := j.instBytes i k
    if i.isOver then s.bump (slotRoute 4) 1
    else if size < tOff p + 16 * n ∨ (i.land.lasts.length = i.land.expect ∧ i.land.totals < i.land.units + n) then
      s.endInst id (stDataMismatch, src)
    else
      match s.range h off size with
      | .error _ => s
      | .ok e =>
        let s := (s.extWrite e (off + tOff p) (pktData p)).addOp i.ctx wDramWrite (16 * n)
        let s := s.addOp i.ctx wFeltRx (16 * n)
        let l := i.land
        let l := { l with units := l.units + n, lasts := if hLast p then l.lasts ++ [src] else l.lasts,
                          totals := l.totals + (if hLast p then tTotal p else 0) }
        let i := { i with land := l, poison := i.poison || hPoison p,
                          counts := if i.kind = 4 ∧ hLast p then tset i.counts src (16 * tTotal p) else i.counts }
        (s.setInst id i).checkInst id
  | _, _ => s.bump (slotRoute 4) 1

/-- DATA_RECEIVE (R400, R413, R414): DATA of a PUT or of a collective, or RDATA, at its destination. -/
def execDataReceive (pkt : Packet) (s : State) : Out' :=
  match s.arrival [tyData, tyRData] pkt with
  | none => .next s
  | some ((_, vc, p), s) =>
    match s.refusePkt vc p with
    | some t => .next t
    | none => .next (if 5 ≤ vc then s.landData p else if hType p = tyRData then s.getArrival p else s.putArrival p)

/-- PARTIAL_RECEIVE (R401): the units are combined; those that are whole here go on, and the member's own segment lands. A
PARTIAL that would raise a count above k is discarded, with ST_DATA_MISMATCH. -/
def execPartialReceive (pkt : Packet) (s : State) : Out' :=
  match s.arrival [tyPartial] pkt with
  | none => .next s
  | some ((_, vc, p), s) =>
    match s.refusePkt vc p with
    | some t => .next t
    | none =>
      match s.me, s.instOf (hXfer p) with
      | some (j, me), some (id, i) =>
        let g := j.group me (instGroup i)
        let k := g.length
        let c := tTotal p
        let u0 := tOff p / 16
        let n := pktUnits p
        match j.index g (hDst p) with
        | none => .next (s.bump (slotRoute 4) 1)
        | some seg =>
          let isOver := (List.range n).any (fun x =>
            decide (k < (tget i.sums (seg * 2 ^ 32 + u0 + x)).elim 0 Prod.fst + c))
          if i.kind ≠ 2 ∧ i.kind ≠ 3 then .next (s.bump (slotRoute 4) 1)
          else if isOver || decide (segUnits i k < u0 + n) then
            .next (if i.isOver then s else s.endInst id (stDataMismatch, (j.index g (hSrc p)).getD 0xFFFF))
          else
            let own := (g[seg]?) == some me
            let (i, fl, adds) := combineUnits i own seg u0 c (p.drop 2)
            let s := ((s.setInst id i).cmdFlags id fl).addOp i.ctx wCombine adds
            let s := s.addOp i.ctx wFeltRx (16 * n)
            let s := if own then s.landSegment id j me else s.passUnits id j me seg u0 n
            .next (s.checkInst id)
      | _, _ => .next (s.bump (slotRoute 4) 1)

/-- READY_RECEIVE (R403): a READY waits in its buffer until the instance has started here. -/
def execReadyReceive (pkt : Packet) (s : State) : Out' :=
  match s.arrival [tyReady] pkt with
  | none => .next s
  | some ((_, vc, p), t) =>
    match t.refusePkt vc p with
    | some t => .next t
    | none =>
      match t.instOf (hXfer p) with
      | none => .next s
      | some (id, i) =>
        let t := t.setInst id { i with ready := i.ready ++ [(fld (pktCw p 1) 0 2, hSrc p, fld (pktCw p 1) 2 2)] }
        .next (t.reportReady id)

/-- CIRCUIT_PACKET_RECEIVE (R389, R398): a packet that came in on edge `edge` of its circuit. DATA whose dst is its own
source is multicast (log 20); a PARTIAL stops at every member, where it is combined (R411); any other packet is
directed. -/
def execCircuitPacketReceive (edge : Nat) (pkt : Packet) (s : State) : Out' :=
  inRange (edge < 6) edge
    (match s.takeRx (fun l vc q => l != 24 && (vc == 5 || vc == 6) && q == pkt &&
        s.physLink (byteLink ((s.circuit (hVia q % 256)).edge edge % 32)) == l && ((s.circuit (hVia q % 256)).edge edge).testBit 5) with
     | none => .next s
     | some ((_, vc, p), t) =>
       let id := hVia p % 256
       let c := t.circuit id
       if !c.valid then .next t
       else if !t.ownJob vc p then .next (t.bump (slotRoute 1) 1)
       else
         match t.me with
         | none => .next t
         | some (j, me) =>
           if hType p = tyData ∧ hDst p = hSrc p then
             let t := if c.member then t.deliverHere 5 p else t
             .next (t.toEdges id (some edge) p (t.sinkCopy p))
           else if hType p = tyPartial ∧ c.member then .next (t.deliverHere 5 p)
           else
             let g := match (j.entries me)[id]? with
               | some (.member r) => j.group me r
               | some (.relay r v _) => j.group v r
               | none => []
             match j.index g (hDst p) with
             | none => .next t
             | some m => if (c.dirs[m]?).getD 7 = 7 then .next (t.deliverHere 5 p) else .next (t.toMember id m p))

/-! ### The commands (R405 to R412) -/

/-- A collective as it starts. -/
def Inst.start (c : CmdRec) (kind since expect : Nat) (shards left : List Nat) : Inst :=
  { packet := c.packet, ctx := c.ctx, kind := kind, since := since, shards := shards, left := left,
    land := { expect := expect, lasts := [], totals := 0, units := 0 }, ready := [], readySent := [], sent := false,
    poison := false, weight := 0, sums := [], passed := 0, isOver := false, counts := [] }

/-- Checks on a byte range that an instance writes, or reads (R100, R143, R302). -/
def State.needDst (s : State) (id h off len : Nat) : Except Cause Unit := do
  let _ ← s.rangeFor id h off len
  need (!s.writeGuarded h) (stConflict, 0)

def State.needSrc (s : State) (id h off len : Nat) : Except Cause Unit := do
  let _ ← s.rangeFor id h off len
  need (!s.lowPlane h off len) (stConflict, 0)

/-- GATHER_JIT (R407). -/
def gatherJitBody : Body := fun id c s => do
  let k := c.packet
  let count := fld k 38 1
  need (decide ((fld k 25 1) < 2)) (stReservedNonzero, 0)
  need (decide (fld k 24 1 ≤ 3 ∧ 1 ≤ count ∧ count ≤ 64)) (stBadParam, 0)
  match s.hostRead (fld k 56 8) (4 * count) with
  | none => failDone s (stDataError, 0)
  | some bs =>
    let shards := (chunks count 4 bs).map leNat
    needJob s
    match s.me with
    | none => .error (stConflict, 0)
    | some (j, me) =>
      need (shards.all (fun x => decide (x < j.shards.length))) (stBadParam, 0)
      let mine := shards.filter (fun x => j.shardOwner x == some me)
      need (mine.all (fun x => (tget s.press.shards x).isSome)) (stBadParam, 0)
      s.needDst id (fld k 40 4) (fld k 44 6) ((shards.map j.shardBytes).sum)
      let g := j.group me (fld k 24 1)
      let places := (List.range count).filter (fun p => ((shards[p]?).bind j.shardOwner) == some me)
      let i := Inst.start c 0 s.time 0 shards places
      let others := (j.senders g i).filter (fun x => g[x]? != some me)
      .ok (.busy (s.beginInst id { i with land := { i.land with expect := others.length } }))

def execGatherJit (id : Nat) (s : State) : Out' := jeisk 0x300 gatherJitBody id s

/-- BROADCAST (R405). -/
def broadcastBody : Body := fun id c s => do
  let k := c.packet
  let n := 16 * fld k 36 4
  need (decide (fld k 24 1 ≤ 3)) (stBadParam, 0)
  needJob s
  match s.me with
  | none => .error (stConflict, 0)
  | some (j, me) =>
    let g := j.group me (fld k 24 1)
    let root := fld k 32 2
    need (decide (root < g.length)) (stBadParam, 0)
    let isRoot := g[root]? == some me
    if isRoot then s.needSrc id (fld k 40 4) (fld k 44 6) n else s.needDst id (fld k 40 4) (fld k 44 6) n
    .ok (.busy (s.beginInst id (Inst.start c 1 s.time (if isRoot then 0 else 1) [] [])))

def execBroadcast (id : Nat) (s : State) : Out' := jeisk 0x301 broadcastBody id s

/-- Checks of R411 and the start of a reduction. -/
def reduceBody (kind : Nat) : Body := fun id c s => do
  let k := c.packet
  let fi := fld k 33 1 % 16
  let fo := fld k 33 1 / 16
  let n := fld k 36 4
  need (decide (fld k 24 1 ≤ 3 ∧ fld k 32 1 ≤ 2 ∧ fi ≤ 1 ∧ fo ≤ 1)) (stBadParam, 0)
  needJob s
  match s.me with
  | none => .error (stConflict, 0)
  | some (j, me) =>
    let g := j.group me (fld k 24 1)
    need (decide (n % (32 * g.length) = 0)) (stBadParam, 0)
    s.needSrc id (fld k 40 4) (fld k 44 6) (n * redSize fi)
    let i := Inst.start c kind s.time (if kind = 3 then g.length - 1 else 0) [] []
    s.needDst id (fld k 50 4) (fld k 54 6) (j.instBytes i g.length)
    .ok (.busy (s.beginInst id i))

/-- REDUCE_SCATTER (R411). -/
def execReduceScatter (id : Nat) (s : State) : Out' := jeisk 0x302 (reduceBody 2) id s

/-- ALL_REDUCE (R411). -/
def execAllReduce (id : Nat) (s : State) : Out' := jeisk 0x303 (reduceBody 3) id s

/-- ALL_TO_ALL (R412). -/
def allToAllBody : Body := fun id c s => do
  let k := c.packet
  let cap := fld k 32 4
  need (decide (fld k 24 1 ≤ 3 ∧ cap % 16 = 0)) (stBadParam, 0)
  needJob s
  match s.me with
  | none => .error (stConflict, 0)
  | some (j, me) =>
    let n := (j.group me (fld k 24 1)).length
    match s.hostRead (fld k 56 8) (4 * n) with
    | none => failDone s (stDataError, 0)
    | some bs =>
      let cs := (chunks n 4 bs).map leNat
      need (cs.all (fun x => decide (x ≤ cap))) (stBadParam, 0)
      s.needSrc id (fld k 36 4) (fld k 40 6) (n * cap)
      s.needDst id (fld k 46 4) (fld k 50 6) (n * cap)
      .ok (.busy (s.beginInst id (Inst.start c 4 s.time (n - 1) [] cs)))

def execAllToAll (id : Nat) (s : State) : Out' := jeisk 0x304 allToAllBody id s

/-- What a fence list makes of the transfers in flight (R416 to R418). -/
def State.fenceXfers (s : State) : State :=
  let s := s.xfer.ones.foldl (fun s o => s.endOne o.1 (stFenced, 0)) s
  s.xfer.insts.foldl (fun s i => (s.fenceInst i.1).reportReady i.1) s

end Sys2Proof.Machine
end

