-- ==== Sys2Proof/Machine/Reduce.lean ====
section
/-! DEFINITION. The reduce path (R209, R231 to R241, R642): GROUP_CLOSE to a stream, partial tiles, credit, refusal,
abandonment; REDUCE_CREDIT_REQUEST, REDUCE_CREDIT_GRANT, REDUCE_CREDIT_RECEIVE, PARTIAL_TILE_ARRIVAL, REDUCE_REFUSAL,
REDUCE_WATCHDOG_EXPIRY, REDUCE_ABANDON. -/
namespace Sys2Proof.Machine

/-! ### The tree of a shard (R233) -/

def redKey (shard step : Nat) : Nat := shard * 2 ^ 48 + step

/-- The step of a shard as this member keeps it; one of which nothing is known is fresh. -/
def State.redStep (s : State) (shard step : Nat) : RedStep :=
  (tget s.red.steps (redKey shard step)).getD (RedStep.fresh 0 0 s.time)

def State.setRed (s : State) (shard step : Nat) (r : RedStep) : State :=
  { s with red := { s.red with steps := tset s.red.steps (redKey shard step) r } }

/-- The place of a shard's owner. -/
def Job.ownerPlace (j : Job) (shard : Nat) : Option Nat := (j.owners[shard]?).bind j.pos

/-- The job, this member's place and the owner's place, where this package is in the shard's reduce tree: the tree of the
owner's data-parallel group (log 19). -/
def State.redPath (s : State) (shard : Nat) : Option (Job × Nat × Nat) :=
  s.me.bind (fun m => (m.1.ownerPlace shard).bind (fun o =>
    if (m.1.group o 0).contains m.2 then some (m.1, m.2, o) else none))

/-- Packages that contribute to the shard (R228). -/
def Job.replicas (j : Job) (o : Nat) : Nat := (j.group o 0).length

/-- The children of place `i` in the tree rooted at place `o`. -/
def Job.redChildren (j : Job) (i o : Nat) : List Nat := (j.neighbours 0 i).filter (fun n => j.toward 0 i o != some n)

/-- A message to the children, or to the parent. -/
def State.toChildren (s : State) (shard : Nat) (msg : Nat → Out) : State :=
  match s.redPath shard with
  | none => s
  | some (j, i, o) => (j.redChildren i o).foldl (fun s n => s.send (msg (j.mem n).pkg)) s

def State.toParent (s : State) (shard : Nat) (msg : Nat → Out) : State :=
  match s.redPath shard with
  | none => s
  | some (j, i, o) =>
    match j.toward 0 i o with
    | none => s
    | some p => s.send (msg (j.mem p).pkg)

/-- Every launch with clusters that streams under a binding of the shard and step stops (R241, R642). -/
def State.stopStreams (s : State) (shard step status : Nat) : State :=
  s.sheet.launches.foldl (fun s e =>
    if !e.2.held.isEmpty && e.2.bindings.any (fun b => b.shard == shard && b.step == step) then
      s.stopLaunch e.1 { status := status, detail := 0, rank := 0, idx := 0 }
    else s) s

/-- A shard's record changed. -/
def State.modShard (s : State) (shard : Nat) (f : PShard → PShard) : State :=
  { s with press := { s.press with shards := tmod s.press.shards shard f } }

/-! ### The owner's side (R236 to R238) -/

/-- The shard's weight matrix and landing buffers on its owner: the extent of the landing handle and L (R276). -/
def State.landing (s : State) (p : PShard) : Option (Extent × Nat) :=
  (s.handle p.landing).map (fun sl => (sl.ext, sl.ext.size / (128 * p.cols)))

/-- The owner's conditions of R230 for a grid. -/
def State.ownerMeets (s : State) (shard rows cols : Nat) : Bool :=
  match tget s.press.shards shard with
  | none => false
  | some p => decide (p.rows = 32 * rows ∧ p.cols = 32 * cols) && p.form != some true && p.rule != 3 &&
    (match s.landing p with
     | some (_, l) => decide (1 ≤ l)
     | none => false)

/-- Buffer t mod L is free for slice t of the step (R236): for t < L once the Press command of the step has started, else
once the Press has consumed slice t − L. -/
def bufferFree (run : Option PressRun) (r : RedStep) (step l t : Nat) : Bool :=
  if t < l then (match run with
    | some x => x.step == step
    | none => false)
  else (r.complete.take r.consumed).contains (t - l)

/-- Offset in the landing area of row `rr` of tile (row, col) (R229, R236). -/
def tileOff (p : PShard) (l row col rr : Nat) : Nat := row % l * (128 * p.cols) + rr * (4 * p.cols) + 128 * col

/-- A partial lands at the owner (R234, R238): the first is written, a later one is added. -/
def State.ownerCombine (s : State) (shard step row col count : Nat) (ws : List (BitVec 32)) (fl : Flags) : State :=
  match tget s.press.shards shard, s.redPath shard with
  | some p, some (j, _, o) =>
    match s.landing p with
    | none => s
    | some (e, l) =>
      let r := s.redStep shard step
      let key := row * 65536 + col
      let had := tgetD r.counts key 0
      let addrs := (List.range 32).flatMap (fun rr => e.addrs (tileOff p l row col rr) 128)
      let (old, bad, s) := if had = 0 then ([], false, s) else s.readBytes addrs
      let sum := if had = 0 then ws.map (fun w => (w, (0 : Flags)))
        else ((chunks 1024 4 old).map (fun b => BitVec.ofNat 32 (leNat b))).zipWith f32Add ws
      let flags := sum.foldl (fun f x => f ||| x.2) fl
      let s := s.writeBytes addrs (sum.flatMap (fun x => leBytes 4 x.1.toNat))
      let ctx := (p.run.bind (fun x => s.cmd x.cmd)).elim 1024 CmdRec.ctx
      let s := if had = 0 then s else (s.addOp ctx wCombine 1024).addOp ctx wDramRead 4096
      let s := s.addOp ctx wDramWrite 4096
      let s := s.modShard shard (fun q => { q with run := q.run.map (fun x => { x with poison := x.poison || bad }) })
      let n := tgetD r.sliceCount row 0 + count
      let whole := decide (n = j.replicas o * (p.cols / 32))
      let r := { r with
        counts := tset r.counts key (had + count), sliceCount := tset r.sliceCount row n,
        complete := if whole then r.complete ++ [row] else r.complete,
        movedAt := s.time, flags := r.flags ||| flags }
      s.setRed shard step r
  | _, _ => s

/-- A partial at a member that is not the owner: it is added, and goes to the parent once its count is that of the
member's subtree and credit has come (R234, R237). -/
def State.memberCombine (s : State) (j : Job) (i o shard step row col count : Nat) (ws : List (BitVec 32)) (fl : Flags) :
    State :=
  let r := s.redStep shard step
  let key := row * 65536 + col
  let sum := match tget r.partials key with
    | none => ws.map (fun w => (w, (0 : Flags)))
    | some x => x.2.zipWith f32Add ws
  let n := ((tget r.partials key).elim 0 Prod.fst) + count
  let flags := r.flags ||| sum.foldl (fun f x => f ||| x.2) fl
  let s := if (tget r.partials key).isSome then s.addOp 1024 wCombine 1024 else s
  let words := sum.map Prod.fst
  if n = (j.subtree 0 i o).length ∧ r.credit.contains row then
    (s.setRed shard step { r with partials := tdel r.partials key, flags := 0 }).toParent shard
      (fun d => .tile d shard step row col n words flags)
  else s.setRed shard step { r with partials := tset r.partials key (n, words), flags := flags }

/-- A partial at this member; tiles of a refused or abandoned step are discarded (R241, R642). -/
def State.combine (s : State) (shard step row col count : Nat) (ws : List (BitVec 32)) (fl : Flags) : State :=
  match s.redPath shard with
  | none => s
  | some (j, i, o) =>
    let r := s.redStep shard step
    if r.refused || r.abandoned then s
    else if i = o then s.ownerCombine shard step row col count ws fl
    else s.memberCombine j i o shard step row col count ws fl

/-- PARTIAL_TILE_ARRIVAL (R234, R238): a partial of one tile arrives from a child, with the flags of the adds it holds. At
the owner a tile row that no credit covers cannot arrive. -/
def execPartialTileArrival (shard step row col count : Nat) (tile : List (BitVec 32)) (flags : BitVec 4) (s : State) : Out' :=
  match s.redPath shard with
  | none => .next s
  | some (_, i, o) =>
    let r := s.redStep shard step
    whenThen (decide (tile.length = 1024 ∧ 1 ≤ count) && (i != o || r.credit.contains row || r.abandoned || r.refused)) s
      (s.combine shard step row col count tile flags)

/-! ### Credit (R237, R642) -/

/-- The refusal of a step on this member: its launches stop, its tiles are discarded, and it goes down the tree. -/
def State.refuse (s : State) (shard step : Nat) (later : Bool) : State :=
  let r := s.redStep shard step
  let s := s.setRed shard step { r with refused := true, partials := [], waiters := [] }
  (s.stopStreams shard step (if later then stAborted else stBadParam)).toChildren shard (fun d => .refusal d shard step later)

/-- A credit request reaches this member (R642): the owner keeps it while its conditions hold and refuses it otherwise;
another member passes it up. -/
def State.creditRequest (s : State) (shard step rows cols member : Nat) : State :=
  match s.redPath shard with
  | none => s
  | some (_, i, o) =>
    if i ≠ o then s.toParent shard (fun d => .creditRequest d shard step rows cols)
    else if s.ownerMeets shard rows cols then
      let r := s.redStep shard step
      s.setRed shard step { r with rows := rows, cols := cols, waiters := r.waiters ++ [member] }
    else s.refuse shard step false

def execReduceCreditRequest (shard step rows cols member : Nat) (s : State) : Out' :=
  .next (s.creditRequest shard step rows cols member)

/-- Partials of a tile row that waited for credit leave. -/
def State.releaseRow (s : State) (j : Job) (i o shard step row : Nat) : State :=
  (s.redStep shard step).partials.foldl (fun s e =>
    if e.1 / 65536 = row ∧ e.2.1 = (j.subtree 0 i o).length then
      let r := s.redStep shard step
      (s.setRed shard step { r with partials := tdel r.partials e.1, flags := 0 }).toParent shard
        (fun d => .tile d shard step row (e.1 % 65536) e.2.1 e.2.2 r.flags)
    else s) s

/-- Credit for a tile row at this member, passed on to its children. -/
def State.takeCredit (s : State) (shard step row : Nat) : State :=
  match s.redPath shard with
  | none => s
  | some (j, i, o) =>
    let r := s.redStep shard step
    let s := s.setRed shard step { r with credit := r.credit ++ [row] }
    let s := if i = o then s else s.releaseRow j i o shard step row
    s.toChildren shard (fun d => .credit d shard step row)

/-- REDUCE_CREDIT_GRANT (R236, R237): the owner grants credit for a tile row of the Press command's step while its buffer
is free. -/
def execReduceCreditGrant (shard row : Nat) (s : State) : Out' :=
  match tget s.press.shards shard with
  | none => .next s
  | some p =>
    match p.run, s.landing p with
    | some run, some (_, l) =>
      let r := s.redStep shard run.step
      whenThen (decide (1 ≤ l ∧ 32 * row < p.rows) && !r.credit.contains row && !r.refused && !r.abandoned
          && bufferFree p.run r run.step l row) s
        (s.takeCredit shard run.step row)
    | _, _ => .next s

/-- REDUCE_CREDIT_RECEIVE (R237): credit arrives from the parent. -/
def execReduceCreditReceive (shard step row : Nat) (s : State) : Out' :=
  match s.redPath shard with
  | none => .next s
  | some (_, i, o) =>
    let r := s.redStep shard step
    whenThen (i != o && !r.credit.contains row && !r.refused && !r.abandoned) s (s.takeCredit shard step row)

/-- REDUCE_REFUSAL (R642): a refusal arrives from the parent; `later` says that the shard stopped meeting the conditions
after the request. -/
def execReduceRefusal (shard step : Nat) (later : Bool) (s : State) : Out' :=
  match s.redPath shard with
  | none => .next s
  | some (_, i, o) => whenThen (i != o) s (s.refuse shard step later)

/-- The steps of a shard for which closes wait for the owner's credit are refused: the shard has stopped meeting the
owner's conditions (R642). -/
def State.refuseWaiters (s : State) (shard : Nat) : State :=
  s.red.steps.foldl (fun s e =>
    if e.1 / 2 ^ 48 = shard ∧ !e.2.waiters.isEmpty ∧ !e.2.refused ∧ !e.2.abandoned then s.refuse shard (e.1 % 2 ^ 48) true
    else s) s

/-! ### Abandonment (R241) -/

/-- A member learns that a step is abandoned. -/
def State.abandonHere (s : State) (shard step : Nat) : State :=
  let r := s.redStep shard step
  let s := s.setRed shard step { r with abandoned := true, partials := [], waiters := [] }
  (s.stopStreams shard step stAborted).toChildren shard (fun d => .abandon d shard step)

/-- The owner abandons the step of a running Press command: no token is signalled, the command ends. -/
def State.ownerAbandon (s : State) (shard status : Nat) : State :=
  match (tget s.press.shards shard).bind PShard.run with
  | none => s
  | some run =>
    let fl := (s.redStep shard run.step).flags
    let s := (s.bump (slotRow 6) 1).abandonHere shard run.step
    let s := s.modShard shard (fun q => { q with run := none })
    (s.cmdFlags run.cmd fl).finish run.cmd (status, 0)

/-- REDUCE_ABANDON (R241): the owner's abandonment arrives. -/
def execReduceAbandon (shard step : Nat) (s : State) : Out' :=
  match s.redPath shard with
  | none => .next s
  | some (_, i, o) => whenThen (i != o) s (s.abandonHere shard step)

/-- REDUCE_WATCHDOG_EXPIRY (R241): while a slice is incomplete, 1 s has passed since the Press command started, the latest
partial came and the latest slice was complete. -/
def execReduceWatchdogExpiry (shard at_ : Nat) (s : State) : Out' :=
  let t := s.advance at_
  match tget t.press.shards shard with
  | none => .next s
  | some p =>
    match p.run with
    | none => .next s
    | some run =>
      let r := t.redStep shard run.step
      whenThen (decide (32 * r.complete.length < p.rows ∧ r.movedAt + sec 1 ≤ t.time)) s (t.ownerAbandon shard stTimeout)

/-- A contributing package has been fenced (R241): the steps of running Press commands to whose shard it contributes are
abandoned. -/
def State.abandonFenced (s : State) (pkg : Nat) : State :=
  s.press.shards.foldl (fun s e =>
    match e.2.run, s.redPath e.1 with
    | some _, some (j, i, o) =>
      if i = o ∧ (j.group o 0).any (fun k => (j.mem k).pkg == pkg) then s.ownerAbandon e.1 stFenced else s
    | _, _ => s) s

/-! ### GROUP_CLOSE to a stream (R209, R231, R642) -/

/-- The first streaming close of a shard and step on this member sends a credit request (R642). -/
def State.firstClose (s : State) (b : Binding) : State :=
  let r := s.redStep b.shard b.step
  if r.requested then s
  else (s.setRed b.shard b.step { r with rows := b.rows, cols := b.cols, requested := true }).creditRequest
    b.shard b.step b.rows b.cols s.pkgId

/-- A tile of this package enters the reduce path. -/
def State.streamTile (s : State) (b : Binding) (row col : Nat) (ws : List (BitVec 32)) : State :=
  let r := s.redStep b.shard b.step
  (s.setRed b.shard b.step { r with streamed := r.streamed ++ [row * 65536 + col] }).combine b.shard b.step row col 1 ws 0

def groupCloseStream : OpFn := fun cl q s =>
  let w := q.word
  let bad := Ran.stop s (stBadParam, q.idx)
  let (d, s) := s.draw
  match tget (s.clus cl).groups (mPage w), (s.launchOf (s.clusCmd cl)).bind (fun l => l.bindings[gcBinding w]?) with
  | some g, some b =>
    let row := gcRow w + q.reg (gcXr w)
    let col := gcCol w
    let r := s.redStep b.shard b.step
    if g.kind == some true || decide (b.rows ≤ row ∨ b.cols ≤ col) || r.streamed.contains (row * 65536 + col) then bad
    else if r.abandoned then .stop s (stAborted, 0)
    else
      let s := s.firstClose b
      let r := s.redStep b.shard b.step
      if r.refused then .stop s (stBadParam, 0)
      else if !r.credit.contains row then .hold s
      else
        let (ws, fl) := s.groupSum d cl (mPage w) g false
        .done (((s.matFlag cl fl).streamTile b row col ws).closeGroup cl (mPage w))
  | _, _ => bad

def execGroupCloseStream (cl : Nat) (s : State) : Out' := runQueue 1 0x02 gcStream groupCloseStream cl s

end Sys2Proof.Machine
end

