-- ==== Sys2Proof/Machine/Real.lean ====
section
/-! DEFINITION. Real functions in fixed point, far more exact than any bound of the spec needs, and the choice of an FP32
result within the bound that a rule states (R215, R250). -/
namespace Sys2Proof.Machine

/-- Fraction bits of a fixed-point number: the integer i stands for i / 2^1000. -/
def fxBits : Nat := 1000
def fxOne : Int := ((2 ^ fxBits : Nat) : Int)

/-- A finite value, exact for exponents of -1000 or more; 0 for what is not finite. -/
def toFx (v : FVal) : Int :=
  match v with
  | .fin n m e =>
    let k := e + (fxBits : Int)
    let a : Nat := if 0 ≤ k then m <<< k.toNat else m >>> (-k).toNat
    if n then -(a : Int) else (a : Int)
  | _ => 0

def ofFx (x : Int) : FVal := ofScaled x (-(fxBits : Int))

def fxMul (a b : Int) : Int := a * b / fxOne
def fxDiv (a b : Int) : Int := if b = 0 then 0 else a * fxOne / b
def fxSqrt (a : Int) : Int := ((isqrt (a.toNat <<< fxBits) : Nat) : Int)

/-- Σ of x^n / n! from the term `t` at index `n` on. -/
def expSeries (fuel : Nat) (x t : Int) (n : Nat) : Int :=
  match fuel with
  | 0 => 0
  | k + 1 => if t = 0 then 0 else t + expSeries k x (fxMul t x / ((n + 1 : Nat) : Int)) (n + 1)

/-- Σ of y^(2n+1) / (2n+1) with sign `s` alternating by factor: atanh for s = 1, atan for s = -1. -/
def atanSeries (fuel : Nat) (y2 t s : Int) (n : Nat) : Int :=
  match fuel with
  | 0 => 0
  | k + 1 => if t = 0 then 0 else t / ((2 * n + 1 : Nat) : Int) + atanSeries k y2 (s * fxMul t y2) s (n + 1)

def fxAtanh (y : Int) : Int := atanSeries 600 (fxMul y y) y 1 0
def fxAtan (y : Int) : Int := atanSeries 600 (fxMul y y) y (-1) 0

def fxLn2 : Int := 2 * fxAtanh (fxOne / 3)
def fxPi : Int := 16 * fxAtan (fxOne / 5) - 4 * fxAtan (fxOne / 239)

/-- e^x for |x| up to 1,000; beyond that 0 or e^1000, which every caller treats as a limit. -/
def fxExp (x : Int) : Int :=
  if x < -1000 * fxOne then 0 else
  let x := Min.min x (1000 * fxOne)
  let k := x / fxLn2
  let e := expSeries 300 (x - k * fxLn2) fxOne 0
  if 0 ≤ k then e * ((2 ^ k.toNat : Nat) : Int) else e / ((2 ^ (-k).toNat : Nat) : Int)

/-- ln of a positive fixed-point number. -/
def fxLn (x : Int) : Int :=
  let l : Int := (Nat.log2 x.toNat : Int) - (fxBits : Int)
  let y := if 0 ≤ l then x / ((2 ^ l.toNat : Nat) : Int) else x * ((2 ^ (-l).toNat : Nat) : Int)
  2 * fxAtanh (fxDiv (y - fxOne) (y + fxOne)) + l * fxLn2

/-- 1 / (1 + e^-x). -/
def fxSigmoid (x : Int) : Int :=
  if 1000 * fxOne < x then fxOne else if x < -1000 * fxOne then 0
  else fxDiv fxOne (fxOne + fxExp (-x))

def fxTanh (x : Int) : Int := 2 * fxSigmoid (2 * x) - fxOne

/-- The normal density. -/
def fxPhi (x : Int) : Int :=
  if 40 * fxOne < x ∨ x < -40 * fxOne then 0
  else fxDiv (fxExp (-(fxMul x x) / 2)) (fxSqrt (2 * fxPi))

/-- Σ of x^(2n+1) / (1·3·…·(2n+1)). -/
def oddSeries (fuel : Nat) (x2 t : Int) (n : Nat) : Int :=
  match fuel with
  | 0 => 0
  | k + 1 => if t = 0 then 0 else t + oddSeries k x2 (fxMul t x2 / ((2 * n + 3 : Nat) : Int)) (n + 1)

/-- The normal distribution function; beyond 16 its distance from 0 or 1 is below 2^-180. -/
def fxCdf (x : Int) : Int :=
  if 16 * fxOne < x then fxOne else if x < -16 * fxOne then 0
  else fxOne / 2 + fxMul (fxPhi x) (if x < 0 then -(oddSeries 1300 (fxMul x x) (-x) 0) else oddSeries 1300 (fxMul x x) x 0)

/-! ### The result of an approximated function -/

/-- Finite FP32 codes on a line: sign and magnitude as an integer. -/
def f32Ord (w : Nat) : Int := if w < 2 ^ 31 then (w : Int) else -((w - 2 ^ 31 : Nat) : Int)
def ordF32 (o : Int) : Nat := if 0 ≤ o then o.toNat else 2 ^ 31 + (-o).toNat

/-- The unit in the last place of an FP32 code, in fixed point. -/
def f32Ulp (w : Nat) : Int :=
  let ex := (w % 2 ^ 31) >>> 23
  ((2 ^ (fxBits - 149 + (if ex = 0 then 0 else ex - 1)) : Nat) : Int)

/-- The FP32 code `c` lies within `bound` units in the last place of `x`, or within 2 × 2^-149 where |x| is below 2^-126
(R215, R250). What the fixed-point computation of `x` can be off by, below 2^-160, is allowed besides. -/
def withinUlp (x : Int) (c bound : Nat) : Bool :=
  let d := (toFx (fdecode 0 c) - x).natAbs
  let tol : Int := if x.natAbs < 2 ^ (fxBits - 126) then ((2 ^ (fxBits - 148) : Nat) : Int) else (bound : Int) * f32Ulp c
  decide (c % 2 ^ 31 < fmtTop 0) && decide ((d : Int) ≤ tol + ((2 ^ (fxBits - 160) : Nat) : Int))

/-- The FP32 result of a function whose exact value is `x` (`exact` says that the fixed-point number is that value), with
an error of `err` units in the last place where that stays within the bound; the flags of the result (R163). -/
def pickF32 (x : Int) (exact : Bool) (bound : Nat) (err : Int) : BitVec 32 × Flags :=
  let (base, fl) := fencode 0 .even (ofFx x)
  if fl &&& flagOverflow ≠ 0 then (BitVec.ofNat 32 base, fl) else
  let b : Int := (bound : Int) + 1
  let cand := ordF32 (f32Ord base + (err % (2 * b + 1) - b))
  let c := if withinUlp x cand bound then cand else base
  let changed := !(exact && decide (toFx (fdecode 0 c) = x))
  (BitVec.ofNat 32 (if c = 2 ^ 31 then 0 else c), mkFlags changed (changed && decide (c % 2 ^ 31 < 2 ^ 23)) false false)

/-! ### The function table (R215, R216) -/

/-- c / 10^k in fixed point. -/
def fxDec (c k : Nat) : Int := (c : Int) * fxOne / ((10 ^ k : Nat) : Int)

/-- The functions of Table 14: operation, error bound. -/
def funcBound (op : Nat) : Nat :=
  match op with
  | 0x10 => 2 | 0x11 => 1 | 0x12 => 1 | 0x13 => 2 | 0x14 => 2 | 0x15 => 4 | 0x16 => 4 | 0x17 => 4 | _ => 1

/-- The exact value of the function at a finite input that Table 15 does not list, and whether fixed point holds it
exactly. -/
def funcExact (op : Nat) (x : FVal) : Int × Bool :=
  let a := toFx x
  let z := decide (a = 0)
  match op with
  | 0x10 => (fxExp a, z)
  | 0x11 => (fxLn a, decide (a = fxOne))
  | 0x12 =>
    let r := fxSqrt (fxDiv fxOne a)
    (r, decide (fxMul (fxMul r r) a = fxOne))
  | 0x13 => (fxTanh a, z)
  | 0x14 => (fxSigmoid a, z)
  | 0x15 => (fxMul a (fxCdf a), z)
  | 0x16 =>
    let u := fxMul (fxDec 797884561 9) (a + fxMul (fxDec 44715 6) (fxMul a (fxMul a a)))
    (fxMul a (fxSigmoid (2 * u)), z)
  | 0x17 => (fxCdf a + fxMul a (fxPhi a), z)
  | _ =>
    let r := fxDiv fxOne a
    (r, decide (r * a = fxOne * fxOne))

/-- The result of a function of Table 14 for an FP32 input: Table 15 at special and limiting inputs, else a value within
the bound. -/
def funcResult (op : Nat) (w : BitVec 32) : BitVec 32 × Flags :=
  let inf : BitVec 32 := 0x7F800000
  let one : BitVec 32 := 0x3F800000
  let v := f32 w
  let pick := let r := funcExact op v
              pickF32 r.1 r.2 (funcBound op) (Config.funcError op w)
  let below (c k : Nat) : Bool := decide (toFx v < -(fxDec c k))
  let above (c k : Nat) : Bool := decide (fxDec c k < toFx v)
  match v with
  | .nan => (BitVec.ofNat 32 (fmtNaN 0), 0)
  | .inf neg =>
    match op with
    | 0x10 => (if neg then 0 else inf, 0)
    | 0x11 => if neg then (BitVec.ofNat 32 (fmtNaN 0), flagInvalid) else (inf, 0)
    | 0x12 => if neg then (BitVec.ofNat 32 (fmtNaN 0), flagInvalid) else (0, 0)
    | 0x13 => (if neg then 0xBF800000 else one, 0)
    | 0x14 => (if neg then 0 else one, 0)
    | 0x15 => (if neg then 0 else inf, 0)
    | 0x16 => (if neg then 0 else inf, 0)
    | 0x17 => (if neg then 0 else one, 0)
    | _ => (0, 0)
  | .fin neg m _ =>
    match op with
    | 0x10 =>
      if below 10398 2 then (0, mkFlags true true false false)
      else if above 88723 3 then (inf, mkFlags true false true false) else pick
    | 0x11 => if m = 0 then (0xFF800000, flagOverflow) else if neg then (BitVec.ofNat 32 (fmtNaN 0), flagInvalid) else pick
    | 0x12 => if m = 0 then (inf, flagOverflow) else if neg then (BitVec.ofNat 32 (fmtNaN 0), flagInvalid) else pick
    | 0x13 =>
      if fxDec 9011 3 ≤ ((toFx v).natAbs : Int) then (if neg then 0xBF800000 else one, mkFlags true false false false) else pick
    | 0x18 => if m = 0 then (inf, flagOverflow) else pick
    | _ => pick

end Sys2Proof.Machine
end

