-- ==== Sys2Proof/Machine/VectorOps.lean ====
section
/-! DEFINITION. The vector queue (Table 13 of ch. 05): elementwise operations (R212, R213), the function table (R215,
R216), comparisons and masks (R213, R214), reductions (R217), segment reductions (R218), sort and top-k (R219). -/
namespace Sys2Proof.Machine

/-! ### Operands (R212, R213) -/

/-- An element of an operand in FP32, with the flags of reading it: a block-scaled value beyond FP32 becomes an infinity. -/
abbrev VElem := BitVec 32 × Flags

/-- The first `n` elements of an operand of `total` elements at unit `u` in format `f`. -/
def State.vRead (s : State) (d cl f u total n : Nat) : Option (List VElem) :=
  match s.sread d cl u (ceilDiv (n * fmtBits f) 8), (if fmtBlock f then s.sread d cl (u + scaleOff total / 16) (ceilDiv n 32) else some []) with
  | some data, some sc => some ((decodePlanes f n data sc).map (fun v => toF32 (v, 0)))
  | _, _ => none

/-- An operand of `n` elements; a broadcast operand reads its first element for every position. -/
def State.vOperand (s : State) (d cl f u n : Nat) (bcast : Bool) : Option (List VElem) :=
  if bcast then (s.vRead d cl f u 64 1).map (fun l => List.replicate n (l.headD (0, 0))) else s.vRead d cl f u n n

/-- A mask of `n` bits (R213): element 8j + b is bit b of byte j. -/
def State.vMask (s : State) (d cl u n : Nat) (bcast : Bool) : Option (List Bool) :=
  if bcast then (s.sread d cl u 1).map (fun l => List.replicate n ((l.headD 0).toNat.testBit 0))
  else (s.sread d cl u (ceilDiv n 8)).map (fun l => (l.flatMap (fun b => (List.range 8).map b.toNat.testBit)).take n)

/-- Bits packed as a mask. -/
def packMask (bs : List Bool) : List Byte :=
  (chunks bs.length 8 bs).map (fun l => BitVec.ofNat 8 (l.foldr (fun b a => 2 * a + b2n b) 0))

/-- Results written in fmt_d under the word's rounding (R212), with the flags of the operation. -/
def vWrite (cl : Nat) (q : QWord) (rs : List VElem) (s : State) : Ran :=
  let w := q.word
  let fd := wFd w
  let u := vD w + q.reg (vXd w)
  let stoch := s.wordRandom q (vRnd w && fd != fmtFP32) (vRctx w)
  let (data, sc, fl) := encodePlanes fd (convRnd fmtFP32 fd stoch) (rs.map (fun r => f32 r.1))
  if scratchOk u data.length && (sc.isEmpty || scratchOk (u + scaleOff rs.length / 16) sc.length) then
    let s := s.swrite cl u data
    let s := if sc.isEmpty then s else s.swrite cl (u + scaleOff rs.length / 16) sc
    .done ((s.vecFlag cl (rs.foldl (fun a r => a ||| r.2) fl)).countGen cl q (vRnd w && fd != fmtFP32) (vRctx w) rs.length)
  else .stop s (stBadParam, q.idx)

/-- `n` elements counted in word `k` of Table 7 of ch. 15, and among the cluster's vector elements. -/
def State.countVec (s : State) (cl k n : Nat) : State :=
  (s.onClus cl (fun c => { c with elems := c.elems + n })).addOp (s.clusCtx cl) k n

/-- Units of the sources. -/
def vU1 (q : QWord) : Nat := vS1 q.word + q.reg (vX1 q.word)
def vU2 (q : QWord) : Nat := vS2 q.word + q.reg (vX2 q.word)

/-! ### Elementwise operations -/

/-- An operation of one source. -/
def vUnary (k : Nat) (f : BitVec 32 → VElem) : OpFn := fun cl q s =>
  let n := 64 * vN q.word
  let (d, s) := s.draw
  match s.vRead d cl (wFa q.word) (vU1 q) n n with
  | none => .stop s (stBadParam, q.idx)
  | some a => vWrite cl q (a.map (fun x => let r := f x.1
                                           (r.1, x.2 ||| r.2))) (s.countVec cl k n)

/-- An operation of two sources. -/
def vBinary (k : Nat) (f : FVal → FVal → FVal × Flags) : OpFn := fun cl q s =>
  let n := 64 * vN q.word
  let (d, s) := s.draw
  match s.vRead d cl (wFa q.word) (vU1 q) n n, s.vOperand d cl (wFa q.word) (vU2 q) n (vB2 q.word) with
  | some a, some b => vWrite cl q (a.zipWith (fun x y => let r := toF32 (f (f32 x.1) (f32 y.1))
                                                         (r.1, x.2 ||| y.2 ||| r.2)) b) (s.countVec cl k n)
  | _, _ => .stop s (stBadParam, q.idx)

def execVAdd (cl : Nat) (s : State) : Out' := runQueue 2 0x00 (fun _ => true) (vBinary wVecElem FVal.add) cl s
def execVSub (cl : Nat) (s : State) : Out' :=
  runQueue 2 0x01 (fun _ => true) (vBinary wVecElem (fun a b => a.add b.neg)) cl s
def execVMul (cl : Nat) (s : State) : Out' := runQueue 2 0x02 (fun _ => true) (vBinary wVecElem FVal.mul) cl s

/-- V_FMA: a × b + c rounded once. -/
def vFma : OpFn := fun cl q s =>
  let n := 64 * vN q.word
  let fa := wFa q.word
  let (d, s) := s.draw
  match s.vRead d cl fa (vU1 q) n n, s.vOperand d cl fa (vU2 q) n (vB2 q.word), s.vOperand d cl fa (vS3 q.word) n (vB3 q.word) with
  | some a, some b, some c =>
    let rs := (a.zip (b.zip c)).map (fun x =>
      let p := (f32 x.1.1).mul (f32 x.2.1.1)
      let t := p.1.add (f32 x.2.2.1)
      let r := toF32 (t.1, p.2 ||| t.2)
      (r.1, x.1.2 ||| x.2.1.2 ||| x.2.2.2 ||| r.2))
    vWrite cl q rs (s.countVec cl wVecElem n)
  | _, _, _ => .stop s (stBadParam, q.idx)

def execVFma (cl : Nat) (s : State) : Out' := runQueue 2 0x03 (fun _ => true) vFma cl s
def execVMax (cl : Nat) (s : State) : Out' :=
  runQueue 2 0x04 (fun _ => true) (vBinary wVecElem (fun a b => (FVal.max a b, 0))) cl s
def execVMin (cl : Nat) (s : State) : Out' :=
  runQueue 2 0x05 (fun _ => true) (vBinary wVecElem (fun a b => (FVal.min a b, 0))) cl s
def execVDiv (cl : Nat) (s : State) : Out' := runQueue 2 0x06 (fun _ => true) (vBinary wVecDiv FVal.div) cl s
def execVSqrt (cl : Nat) (s : State) : Out' :=
  runQueue 2 0x07 (fun _ => true) (vUnary wVecDiv (fun a => toF32 (f32 a).sqrt)) cl s
def execVConvert (cl : Nat) (s : State) : Out' := runQueue 2 0x08 (fun _ => true) (vUnary wVecElem (fun a => (a, 0))) cl s
def execVAbs (cl : Nat) (s : State) : Out' :=
  runQueue 2 0x09 (fun _ => true) (vUnary wVecElem (fun a => toF32 ((f32 a).abs, 0))) cl s
def execVNeg (cl : Nat) (s : State) : Out' :=
  runQueue 2 0x0A (fun _ => true) (vUnary wVecElem (fun a => toF32 ((f32 a).neg, 0))) cl s

/-! ### The function table (Tables 14 and 15) -/

def execVExp (cl : Nat) (s : State) : Out' := runQueue 2 0x10 (fun _ => true) (vUnary wVecFunc (funcResult 0x10)) cl s
def execVLog (cl : Nat) (s : State) : Out' := runQueue 2 0x11 (fun _ => true) (vUnary wVecFunc (funcResult 0x11)) cl s
def execVRsqrt (cl : Nat) (s : State) : Out' := runQueue 2 0x12 (fun _ => true) (vUnary wVecFunc (funcResult 0x12)) cl s
def execVTanh (cl : Nat) (s : State) : Out' := runQueue 2 0x13 (fun _ => true) (vUnary wVecFunc (funcResult 0x13)) cl s
def execVSigmoid (cl : Nat) (s : State) : Out' := runQueue 2 0x14 (fun _ => true) (vUnary wVecFunc (funcResult 0x14)) cl s
def execVGeluErf (cl : Nat) (s : State) : Out' := runQueue 2 0x15 (fun _ => true) (vUnary wVecFunc (funcResult 0x15)) cl s
def execVGeluTanh (cl : Nat) (s : State) : Out' := runQueue 2 0x16 (fun _ => true) (vUnary wVecFunc (funcResult 0x16)) cl s
def execVGeluErfD (cl : Nat) (s : State) : Out' := runQueue 2 0x17 (fun _ => true) (vUnary wVecFunc (funcResult 0x17)) cl s
def execVRecip (cl : Nat) (s : State) : Out' := runQueue 2 0x18 (fun _ => true) (vUnary wVecFunc (funcResult 0x18)) cl s

/-! ### Comparisons and masks -/

/-- Mask bytes written at the destination. -/
def vWriteMask (cl : Nat) (q : QWord) (bs : List Bool) (fl : Flags) (s : State) : Ran :=
  let u := vD q.word + q.reg (vXd q.word)
  let out := packMask bs
  if scratchOk u out.length then .done ((s.swrite cl u out).vecFlag cl fl) else .stop s (stBadParam, q.idx)

/-- A comparison: `f` judges the order of the two elements, `none` if either is NaN (R161). -/
def vCompare (f : Option Ordering → Bool) : OpFn := fun cl q s =>
  let n := 64 * vN q.word
  let (d, s) := s.draw
  match s.vRead d cl (wFa q.word) (vU1 q) n n, s.vOperand d cl (wFa q.word) (vU2 q) n (vB2 q.word) with
  | some a, some b =>
    vWriteMask cl q (a.zipWith (fun x y => f (FVal.cmp (f32 x.1) (f32 y.1))) b)
      ((a ++ b).foldl (fun g x => g ||| x.2) 0) (s.countVec cl wVecElem n)
  | _, _ => .stop s (stBadParam, q.idx)

def execVCmpEq (cl : Nat) (s : State) : Out' := runQueue 2 0x20 (fun _ => true) (vCompare (· == some .eq)) cl s
def execVCmpNe (cl : Nat) (s : State) : Out' := runQueue 2 0x21 (fun _ => true) (vCompare (· != some .eq)) cl s
def execVCmpLt (cl : Nat) (s : State) : Out' := runQueue 2 0x22 (fun _ => true) (vCompare (· == some .lt)) cl s
def execVCmpLe (cl : Nat) (s : State) : Out' :=
  runQueue 2 0x23 (fun _ => true) (vCompare (fun o => o == some .lt || o == some .eq)) cl s
def execVCmpGt (cl : Nat) (s : State) : Out' := runQueue 2 0x24 (fun _ => true) (vCompare (· == some .gt)) cl s
def execVCmpGe (cl : Nat) (s : State) : Out' :=
  runQueue 2 0x25 (fun _ => true) (vCompare (fun o => o == some .gt || o == some .eq)) cl s

/-- V_SELECT: a where the mask at source 3 is 1, else b. -/
def vSelect : OpFn := fun cl q s =>
  let n := 64 * vN q.word
  let (d, s) := s.draw
  match s.vRead d cl (wFa q.word) (vU1 q) n n, s.vOperand d cl (wFa q.word) (vU2 q) n (vB2 q.word),
        s.vMask d cl (vS3 q.word) n (vB3 q.word) with
  | some a, some b, some m =>
    vWrite cl q ((a.zip (b.zip m)).map (fun x => if x.2.2 then (x.1.1, x.1.2 ||| x.2.1.2) else (x.2.1.1, x.1.2 ||| x.2.1.2)))
      (s.countVec cl wVecElem n)
  | _, _, _ => .stop s (stBadParam, q.idx)

def execVSelect (cl : Nat) (s : State) : Out' := runQueue 2 0x26 (fun _ => true) vSelect cl s

/-- V_MASK_RAND (R214): bit e is 1 exactly when r < thr. -/
def vMaskRand : OpFn := fun cl q s =>
  let n := 64 * vN q.word
  let rc := q.ctx (vRctx q.word)
  vWriteMask cl q ((List.range n).map (fun e => decide (ctxRandom s.seed rc e < vS3 q.word))) 0
    ((s.countVec cl wVecElem n).addOp (s.clusCtx cl) wGen (genWords rc.base n))

def execVMaskRand (cl : Nat) (s : State) : Out' := runQueue 2 0x27 (fun _ => true) vMaskRand cl s

/-! ### Reductions (R217) -/

/-- add_block of R170 over a stack of `depth` levels with any combining function. -/
def levelAdd {α : Type} (f : α → α → α) (ls : List (Option α)) (top : Option α) (x : α) : List (Option α) × Option α :=
  match ls with
  | [] => ([], some (match top with
    | some t => f t x
    | none => x))
  | none :: r => (some x :: r, top)
  | some y :: r =>
    let (r', t') := levelAdd f r top (f y x)
    (none :: r', t')

/-- Items combined in order by add_block and group_close of R170. -/
def levelFold {α : Type} (depth : Nat) (f : α → α → α) (items : List α) : Option α :=
  let r := items.foldl (fun (st : List (Option α) × Option α) x => levelAdd f st.1 st.2 x) (List.replicate depth none, none)
  (r.1 ++ [r.2]).foldl (fun a x =>
    match a, x with
    | none, x => x
    | some a, some x => some (f x a)
    | some a, none => some a) none

/-- Combining functions of elements with their flags. -/
def vMaxF (a b : VElem) : VElem := ((toF32 (FVal.max (f32 a.1) (f32 b.1), 0)).1, a.2 ||| b.2)
def vMinF (a b : VElem) : VElem := ((toF32 (FVal.min (f32 a.1) (f32 b.1), 0)).1, a.2 ||| b.2)

def vReduce (f : VElem → VElem → VElem) : OpFn := fun cl q s =>
  let n := 64 * vN q.word
  let (d, s) := s.draw
  match s.vRead d cl (wFa q.word) (vU1 q) n n with
  | none => .stop s (stBadParam, q.idx)
  | some a =>
    let rows := (chunks (vN q.word) 64 a).map (fun r => (treeFold 6 f r).headD (0, 0))
    let out := if vModeA q.word then [(levelFold 12 f rows).getD (0, 0)] else rows
    vWrite cl q out (s.countVec cl wVecReduce n)

def execVRedSum (cl : Nat) (s : State) : Out' := runQueue 2 0x30 (fun _ => true) (vReduce f32AddF) cl s
def execVRedMax (cl : Nat) (s : State) : Out' := runQueue 2 0x31 (fun _ => true) (vReduce vMaxF) cl s
def execVRedMin (cl : Nat) (s : State) : Out' := runQueue 2 0x32 (fun _ => true) (vReduce vMinF) cl s

/-! ### Segment reductions (R218) -/

/-- The position of the first offset that is less than the one before it, or of o_0 where it is not 0. -/
def badOffset (os : List Nat) : Option Nat :=
  if os.headD 0 ≠ 0 then some 0
  else ((os.zip os.tail).findIdx? (fun p => decide (p.2 < p.1))).map (· + 1)

/-- The reduction of one segment, element by element: `empty` where it holds no row, `last` applied to the combined value
and the row count. -/
def segRow (f : VElem → VElem → VElem) (empty : BitVec 32) (last : VElem → Nat → VElem) (width : Nat)
    (rows : List (List VElem)) : List VElem :=
  if rows.isEmpty then List.replicate width (empty, 0)
  else (List.range width).map (fun e => last ((levelFold 12 f (rows.map (fun r => (r[e]?).getD (0, 0)))).getD (0, 0)) rows.length)

def vSegment (f : VElem → VElem → VElem) (empty : BitVec 32) (last : VElem → Nat → VElem) : OpFn := fun cl q s =>
  let n := vN q.word
  let width := 64 * vW q.word
  let (d, s) := s.draw
  match s.sread d cl (vU2 q) (4 * (n + 1)) with
  | none => .stop s (stBadParam, q.idx)
  | some ob =>
    let os := (chunks (n + 1) 4 ob).map leNat
    match badOffset os with
    | some p => .stop s (stBadParam, p)
    | none =>
      let total := (os.getLastD 0) * width
      match s.vRead d cl (wFa q.word) (vU1 q) total total with
      | none => .stop s (stBadParam, q.idx)
      | some a =>
        let rows := chunks (os.getLastD 0) width a
        let out := (os.zip os.tail).flatMap (fun p => segRow f empty last width ((rows.drop p.1).take (p.2 - p.1)))
        let unread := a.foldl (fun g x => g ||| x.2) 0
        vWrite cl q out ((s.countVec cl wVecReduce total).vecFlag cl unread)

/-- A mean: the sum divided by the row count, correctly rounded. -/
def segMean (x : VElem) (n : Nat) : VElem :=
  let r := toF32 ((f32 x.1).div (ofScaled (n : Int) 0))
  (r.1, x.2 ||| r.2)

def execVSegSum (cl : Nat) (s : State) : Out' :=
  runQueue 2 0x34 (fun _ => true) (vSegment f32AddF 0 (fun x _ => x)) cl s
def execVSegMax (cl : Nat) (s : State) : Out' :=
  runQueue 2 0x35 (fun _ => true) (vSegment vMaxF 0xFF800000 (fun x _ => x)) cl s
def execVSegMin (cl : Nat) (s : State) : Out' :=
  runQueue 2 0x36 (fun _ => true) (vSegment vMinF 0x7F800000 (fun x _ => x)) cl s
def execVSegMean (cl : Nat) (s : State) : Out' :=
  runQueue 2 0x37 (fun _ => true) (vSegment f32AddF 0 segMean) cl s

/-! ### Sort and top-k (R219) -/

/-- A key put into a list sorted by `lt`, after every key that is not above it. -/
def sortInsert (lt : FVal → FVal → Bool) (x : BitVec 32 × Nat) (l : List (BitVec 32 × Nat)) : List (BitVec 32 × Nat) :=
  match l with
  | [] => [x]
  | y :: r => if lt (f32 x.1) (f32 y.1) then x :: y :: r else y :: sortInsert lt x r

/-- The keys of a row in the total order of R161, with their lanes; equal keys keep ascending source index. -/
def sortRow (desc : Bool) (r : List (BitVec 32)) : List (BitVec 32 × Nat) :=
  r.zipIdx.foldl (fun l x => sortInsert (fun a b => if desc then FVal.totLt b a else FVal.totLt a b) x l) []

/-- The `k` first keys of each sorted row, and with mode_b 1 their 32-bit indices at source 2's address. -/
def vSort (desc : Bool) (k : Nat) : OpFn := fun cl q s =>
  let rows := vN q.word
  let (d, s) := s.draw
  match s.vRead d cl (wFa q.word) (vU1 q) (64 * rows) (64 * rows) with
  | none => .stop s (stBadParam, q.idx)
  | some a =>
    let srt := (chunks rows 64 a).zipIdx.flatMap (fun r =>
      ((sortRow desc (r.1.map Prod.fst)).take k).map (fun x => (x.1, 64 * r.2 + x.2)))
    let s := ((s.onClus cl (fun c => { c with elems := c.elems + 64 * rows })).addOp (s.clusCtx cl) wVecSort rows).vecFlag cl (a.foldl (fun g x => g ||| x.2) 0)
    if vModeB q.word ∧ !scratchOk (vU2 q) (4 * rows * k) then .stop s (stBadParam, q.idx) else
    match vWrite cl q (srt.map (fun x => ((toF32 (f32 x.1, 0)).1, 0))) s with
    | .done s => .done (if vModeB q.word then s.swrite cl (vU2 q) (srt.flatMap (fun x => leBytes 4 x.2)) else s)
    | r => r

def execVSort64 (cl : Nat) (s : State) : Out' :=
  runQueue 2 0x38 (fun _ => true) (fun cl q s => vSort (vModeA q.word) 64 cl q s) cl s
def execVTopk64 (cl : Nat) (s : State) : Out' :=
  runQueue 2 0x39 (fun _ => true) (fun cl q s => vSort true (vW q.word) cl q s) cl s

end Sys2Proof.Machine
end

