-- ==== Sys2Proof/Machine/Press.lean ====
section
/-! DEFINITION. The Press (ch. 07): FP32 arithmetic with flags (R289), the state handle (R275), blocks (R277 to R283),
the four rules (R290 to R293), PRESS_ATTACH, PRESS_APPLY, PRESS_SLICE_CONSUME, PRESS_FREEZE, PRESS_DETACH. -/
namespace Sys2Proof.Machine

/-! ### FP32 operations (R289) -/

/-- A value with the flags that its computation has raised. -/
abbrev Num := FVal × Flags

/-- One operation's exact result rounded to FP32, nearest even. -/
def nRound (r : FVal × Flags) (fl : Flags) : Num :=
  let w := toF32 r
  (f32 w.1, fl ||| w.2)

def nAdd (a b : Num) : Num := nRound (a.1.add b.1) (a.2 ||| b.2)
def nSub (a b : Num) : Num := nRound (a.1.add b.1.neg) (a.2 ||| b.2)
def nMul (a b : Num) : Num := nRound (a.1.mul b.1) (a.2 ||| b.2)
def nDiv (a b : Num) : Num := nRound (a.1.div b.1) (a.2 ||| b.2)
def nSqrt (a : Num) : Num := nRound a.1.sqrt a.2
def nNat (n : Nat) : Num := nRound (.fin false n 0, 0) 0
def nZero : Num := (.zero, 0)
def nOne : Num := nNat 1

/-- sign(x) of R289. -/
def nSign (a : Num) : Num :=
  match a.1 with
  | .nan => a
  | .inf n => (.fin n 1 0, a.2)
  | .fin n m _ => if m = 0 then (.zero, a.2) else (.fin n 1 0, a.2)

/-- max(1.0, x) (R161). -/
def nMax1 (a : Num) : Num := (FVal.max nOne.1 a.1, a.2)

/-- powk of R279. -/
def powkLoop (fuel : Nat) (k : Nat) (r x : Num) : Num :=
  match fuel with
  | 0 => r
  | f + 1 => if k = 0 then r else powkLoop f (k / 2) (if k % 2 = 1 then nMul r x else r) (nMul x x)

def powk (b : Num) (k : Nat) : Num := powkLoop 34 k nOne b

/-- The mean of R289: the sum by R170 at depth 12 in ascending index, then one division. -/
def nMean (l : List Num) : Num := nDiv ((levelFold 12 nAdd l).getD nZero) (nNat l.length)

/-- The FP32 encoding of a value (R137, R144, R159: NaN canonical, zero positive). -/
def nBits (a : Num) : Nat := (toF32 (a.1, 0)).1.toNat

def nFlags (l : List Num) : Flags := l.foldl (fun f a => f ||| a.2) 0

/-! ### Hyperparameters (R280, R281) -/

structure Hp where
  eta : Num
  lam : Num
  b1 : Num
  b2 : Num
  eps1 : Num
  eps2 : Num
  d : Num
  gScale : Num

def Hp.read (r : BitVec 512) : Hp :=
  let v (i : Nat) : Num := (f32 (BitVec.ofNat 32 (fld r (4 * i) 4)), 0)
  { eta := v 0, lam := v 1, b1 := v 2, b2 := v 3, eps1 := v 4, eps2 := v 5, d := v 6, gScale := v 7 }

def fin0 (a : Num) : Bool := a.1.isFinite && !FVal.lt a.1 .zero
def finPos (a : Num) : Bool := a.1.isFinite && FVal.lt .zero a.1
def unitRange (a : Num) : Bool := fin0 a && !FVal.lt nOne.1 a.1

/-- The limits of Table 5 that every rule uses. -/
def Hp.common (h : Hp) : Bool :=
  fin0 h.eta && fin0 h.lam && FVal.lt (h.eta.1.mul h.lam.1).1 nOne.1 && h.gScale.1.isFinite

/-- The limits of Table 5 that the shard's rule uses. -/
def Hp.limits (h : Hp) (p : PShard) : Bool :=
  h.common && (!p.momentum || unitRange h.b1) &&
  (match p.rule with
   | 0 => true
   | 1 => unitRange h.b2 && FVal.lt h.b2.1 nOne.1 && finPos h.eps1 && finPos h.d
   | 2 => unitRange h.b2
   | _ => unitRange h.b2 && finPos h.eps2)

/-! ### The state handle (R275, Tables 3 and 4 of ch. 07) -/

structure Regions where
  scales : Nat
  frozen : Nat
  mom : Nat
  row : Nat
  ema : Nat
  prof : Nat
  acc : Nat
  fin_ : Nat

def stampsOff : Nat := 256

def PShard.regions (p : PShard) : Regions :=
  let nb := p.nb
  let scales := roundUp (stampsOff + 4 * nb) 256
  let frozen := roundUp (scales + nb) 256
  let e1 := frozen + ceilDiv nb 8
  let mom := roundUp e1 256
  let e2 := if p.momentum then mom + 128 * nb else e1
  let row := roundUp e2 256
  let e3 := if p.rule = 1 ∨ p.rule = 3 then row + 4 * p.rows else e2
  let ema := roundUp e3 256
  let prof := roundUp (ema + 4 * p.cols) 256
  let acc := roundUp (prof + 4 * p.cols) 256
  { scales := scales, frozen := frozen, mom := mom, row := row, ema := ema, prof := prof, acc := acc,
    fin_ := if p.rule = 1 then acc + 4 * p.cols else e3 }

/-- Bytes of the weight image (R272). -/
def PShard.weightBytes (p : PShard) : Nat := p.rows * p.cols * (if p.rounded then 2 else 4)

/-- The state header (Table 4). -/
def pressHeader (shard : Nat) (p : PShard) (last : Nat) : List Byte :=
  recBytes (mkRec 512 [(0, 1, p.config.toNat), (4, 4, p.rows), (8, 4, p.cols), (12, 4, p.nb), (16, 8, p.s0), (24, 8, last),
    (32, 4, shard)] : BitVec 512)

/-- The extent of one of the shard's handles. -/
def State.pressExt (s : State) (h : Nat) : Extent :=
  ((s.handle h).map HSlot.ext).getD { cls := 0, stripe := 0, place := 0, hostVisible := false, fabricRead := false,
                                      size := 0, base := 0, hdm := 0 }

/-- The header's last step, and whether the read was poisoned. -/
def State.pressLast (s : State) (p : PShard) : Nat × Bool × State :=
  let (bs, bad, s) := s.extRead (s.pressExt p.state) 24 6
  (leNat bs, bad, s)

/-! ### Work in progress -/

/-- The Press at work on a shard: the state, the flags, and what it counts. `poison` stops it (R94). -/
structure PressAcc where
  s : State
  fl : Flags
  frozen : Nat
  guard : Nat
  updated : Nat
  catchup : Nat
  reads : Nat
  writes : Nat
  poison : Bool

def PressAcc.start (s : State) : PressAcc :=
  { s := s, fl := 0, frozen := 0, guard := 0, updated := 0, catchup := 0, reads := 0, writes := 0, poison := false }

/-- Bytes of a handle. -/
def PressAcc.read (a : PressAcc) (e : Extent) (off n : Nat) : List Byte × PressAcc :=
  let (bs, bad, s) := a.s.extRead e off n
  (bs, { a with s := s, poison := a.poison || bad, reads := a.reads + n })

def PressAcc.write (a : PressAcc) (e : Extent) (off : Nat) (bs : List Byte) : PressAcc :=
  if a.poison then a else { a with s := a.s.extWrite e off bs, writes := a.writes + bs.length }

/-- FP32 values of a handle. -/
def PressAcc.readF (a : PressAcc) (e : Extent) (off n : Nat) : List Num × PressAcc :=
  let (bs, a) := a.read e off (4 * n)
  ((chunks n 4 bs).map (fun b => (f32 (BitVec.ofNat 32 (leNat b)), 0)), a)

/-- FP32 values written; their flags join the Press's. -/
def PressAcc.writeF (a : PressAcc) (e : Extent) (off : Nat) (vs : List Num) : PressAcc :=
  let a := { a with fl := a.fl ||| nFlags vs }
  a.write e off (vs.flatMap (fun v => leBytes 4 (nBits v)))

/-- Block b is frozen (Table 3). -/
def PressAcc.isFrozen (a : PressAcc) (p : PShard) (b : Nat) : Bool × PressAcc :=
  let (bs, a) := a.read (a.s.pressExt p.state) (p.regions.frozen + b / 8) 1
  ((leNat bs).testBit (b % 8), a)

/-- Δ of R277 for block b. -/
def PressAcc.delta (a : PressAcc) (p : PShard) (b n : Nat) : Nat × PressAcc :=
  let (bs, a) := a.read (a.s.pressExt p.state) (stampsOff + 4 * b) 4
  let d := (n % 2 ^ 32 + 2 ^ 32 - leNat bs) % 2 ^ 32
  (if d = 0 then 2 ^ 32 else d, a)

/-- The weights of block b (R272). -/
def PressAcc.weights (a : PressAcc) (p : PShard) (b : Nat) : List Num × PressAcc :=
  let e := a.s.pressExt p.weight
  let (hi, a) := a.read e (256 * b) 256
  let his := (chunks 128 2 hi).map leNat
  if p.rounded then (his.map (fun h => (f32 (BitVec.ofNat 32 (h * 65536)), 0)), a)
  else
    let (lo, a) := a.read e (2 * (p.rows * p.cols) + 256 * b) 256
    (his.zipWith (fun h l => (f32 (BitVec.ofNat 32 (h * 65536 + leNat l)), 0)) (chunks 128 2 lo), a)

/-- R294. -/
def PressAcc.putWeights (a : PressAcc) (shard : Nat) (p : PShard) (b n : Nat) (ws : List Num) : PressAcc :=
  let e := a.s.pressExt p.weight
  let a := { a with fl := a.fl ||| nFlags ws }
  if p.rounded then
    let rs : List (Nat × Flags) := ws.zipIdx.map (fun w =>
      fencode fmtBF16 (.stoch (gen16 a.s.seed 4 n (shard * 2 ^ 32 + 128 * b + w.2))) w.1.1)
    let fl := rs.foldl (fun (f : Flags) (r : Nat × Flags) => f ||| r.2) a.fl
    let a := { a with fl := fl }
    a.write e (256 * b) (rs.flatMap (fun (r : Nat × Flags) => leBytes 2 r.1))
  else
    let a := a.write e (256 * b) (ws.flatMap (fun w => leBytes 2 (nBits w / 65536)))
    a.write e (2 * (p.rows * p.cols) + 256 * b) (ws.flatMap (fun w => leBytes 2 (nBits w % 65536)))

/-- The momentum of block b, zeros where the shard has none (R278, R289). -/
def PressAcc.momentum (a : PressAcc) (p : PShard) (b : Nat) : List Num × PressAcc :=
  if !p.momentum then (List.replicate 128 nZero, a)
  else
    let e := a.s.pressExt p.state
    let (sc, a) := a.read e (p.regions.scales + b) 1
    let (ms, a) := a.read e (p.regions.mom + 128 * b) 128
    let k := leNat sc
    (ms.map (fun c => if k = 0xFF then (.nan, 0) else ((fdecode fmtE4M3 c.toNat).scale ((k : Int) - 127), 0)), a)

/-- The scale byte and the codes of a block of momentum, with the flags (R278). -/
def momentumCodes (vs : List FVal) : Nat × List Nat × Flags :=
  if vs.any FVal.isNaN then (0xFF, vs.map (fun _ => 0), flagInvalid) else
  let e : Int := match maxFinite vs with
    | .fin _ m e => if m = 0 then -127 else Max.max (-127) (Min.min 127 (blockExp 448 m e))
    | _ => -127
  let rs : List (Nat × Flags) := vs.map (fun v => match v with
    | .inf neg => (if neg then 0xFE else 0x7E, flagOverflow)
    | v => fencode fmtE4M3 .even (v.scale (-e)))
  ((e + 127).toNat, rs.map Prod.fst, rs.foldl (fun f r => f ||| r.2) 0)

def PressAcc.putMomentum (a : PressAcc) (p : PShard) (b : Nat) (ms : List Num) : PressAcc :=
  let e := a.s.pressExt p.state
  let (sc, cs, fl) := momentumCodes (ms.map Prod.fst)
  let a := { a with fl := a.fl ||| nFlags ms ||| fl }
  (a.write e (p.regions.scales + b) [BitVec.ofNat 8 sc]).write e (p.regions.mom + 128 * b) (cs.map (BitVec.ofNat 8))

/-! ### Blocks (R289 to R293) -/

/-- The block is discarded: frozen (R295), or skipped by the guard (R283). -/
def PressAcc.skip (a : PressAcc) (p : PShard) (b : Nat) (guard : Bool) (g : List Num) : Bool × PressAcc :=
  let (fz, a) := a.isFrozen p b
  if fz then (true, { a with frozen := a.frozen + 1 })
  else if guard && g.any (fun x => !x.1.isFinite) then (true, { a with guard := a.guard + 1, fl := a.fl ||| nFlags g })
  else (false, a)

/-- The new momentum and the direction of one element (R290 to R293). `x` is the gradient, or u under U1 and U3. -/
def elementRule (p : PShard) (h : Hp) (delta : Nat) (m x w : Num) : Num × Num :=
  let step (d : Num) : Num := nSub w (nMul h.eta (nAdd d (nMul h.lam w)))
  match p.rule with
  | 0 =>
    let m := nAdd (nMul (powk h.b1 delta) m) x
    (m, step (if p.nesterov then nAdd x (nMul h.b1 m) else m))
  | 2 =>
    let m := nMul (powk h.b2 (delta - 1)) m
    let c := nAdd (nMul h.b1 m) (nMul (nSub nOne h.b1) x)
    (nAdd (nMul h.b2 m) (nMul (nSub nOne h.b2) x), step (nSign c))
  | _ =>
    if p.momentum then
      let m := nAdd (nMul (powk h.b1 delta) m) (nMul (nSub nOne h.b1) x)
      (m, step m)
    else (nZero, step x)

/-- The results of press_block written: weights, momentum, stamp, counts (R289). -/
def PressAcc.blockPut (a : PressAcc) (shard : Nat) (p : PShard) (n b delta : Nat) (rs : List (Num × Num)) : PressAcc :=
  let a := a.putWeights shard p b n (rs.map Prod.snd)
  let a := if p.momentum then a.putMomentum p b (rs.map Prod.fst) else a
  let a := a.write (a.s.pressExt p.state) (stampsOff + 4 * b) (leBytes 4 (n % 2 ^ 32))
  { a with updated := a.updated + 1, catchup := a.catchup + b2n (decide (1 < delta)) }

/-- press_block of R289 for a block that is not discarded. -/
def PressAcc.block (a : PressAcc) (shard : Nat) (p : PShard) (h : Hp) (n b : Nat) (xs : List Num) : PressAcc :=
  if a.poison then a else
  let (delta, a) := a.delta p b n
  let (ws, a) := a.weights p b
  let (ms, a) := a.momentum p b
  if a.poison then a else
  let f := powk (nSub nOne (nMul h.eta h.lam)) (delta - 1)
  a.blockPut shard p n b delta ((xs.zip (ms.zip ws)).map (fun t => elementRule p h delta t.2.1 t.1 (nMul t.2.2 f)))

/-! ### Slice form (R284, R292) -/

/-- The 32 rows of a slice under U1: the row statistics, u, and the column accumulator. -/
def PressAcc.factoredRows (a : PressAcc) (p : PShard) (h : Hp) (n last t : Nat) (g : List (List Num)) :
    List (List Num) × PressAcc :=
  let e := a.s.pressExt p.state
  let r := p.regions
  let (chat, a) := a.readF e r.prof p.cols
  let (rs, a) := a.readF e (r.row + 128 * t) 32
  let (acc, a) := a.readF e r.acc p.cols
  let one (row : List Num) (rr : Num) : List Num × Num :=
    let q := nAdd (nMean (row.map (fun x => nMul x x))) h.eps1
    let rr := nAdd (nMul (powk h.b2 (n - last)) rr) (nMul (nSub nOne h.b2) q)
    let rh := nDiv rr (nSub nOne (powk h.b2 (n - p.s0)))
    let u := row.zipWith (fun x c => nDiv x (nSqrt (nMul rh c))) chat
    let rho := nSqrt (nMean (u.map (fun x => nMul x x)))
    let sc := nMax1 (nDiv rho h.d)
    (u.map (fun x => nDiv x sc), rr)
  let us := g.zipWith one rs
  let acc := g.foldl (fun ac row => ac.zipWith (fun x y => nAdd x (nMul y y)) row) acc
  (us.map Prod.fst, (a.writeF e (r.row + 128 * t) (us.map Prod.snd)).writeF e r.acc acc)

/-- The commit of U1's column statistics (R292), without the header. -/
def PressAcc.commit (a : PressAcc) (p : PShard) (h : Hp) (n last : Nat) : PressAcc :=
  let e := a.s.pressExt p.state
  let r := p.regions
  let (cs, a) := a.readF e r.ema p.cols
  let (acc, a) := a.readF e r.acc p.cols
  let cs := cs.zipWith (fun c x => nAdd (nMul (powk h.b2 (n - last)) c)
    (nMul (nSub nOne h.b2) (nAdd (nDiv x (nNat p.rows)) h.eps1))) acc
  let ch := cs.map (fun c => nDiv c (nSub nOne (powk h.b2 (n - p.s0))))
  let mc := nMean ch
  ((a.writeF e r.ema cs).writeF e r.acc (List.replicate p.cols nZero)).writeF e r.prof (ch.map (fun c => nDiv c mc))

/-- Which of the blocks from `b0` on are discarded, in order. -/
def PressAcc.skips (a : PressAcc) (p : PShard) (guard : Bool) (b0 : Nat) (blocks : List (List Num × Nat)) :
    List Bool × PressAcc :=
  blocks.foldl (fun (r : List Bool × PressAcc) x =>
    let (k, a) := r.2.skip p (b0 + x.2) guard x.1
    (r.1 ++ [k], a)) ([], a)

/-- The blocks from `b0` on that are not discarded, in order. -/
def PressAcc.blocks (a : PressAcc) (shard : Nat) (p : PShard) (h : Hp) (n b0 : Nat) (skipped : Nat → Bool)
    (l : List (List Num × Nat)) : PressAcc :=
  l.foldl (fun a x => if skipped x.2 then a else a.block shard p h n (b0 + x.2) x.1) a

/-- One slice: its rows of gradient from the landing buffer, then its cols/4 blocks. -/
def PressAcc.slice (a : PressAcc) (shard : Nat) (p : PShard) (h : Hp) (guard : Bool) (n last t l : Nat) : PressAcc :=
  let (xs, a) := a.readF (a.s.pressExt p.landing) (t % l * (128 * p.cols)) (32 * p.cols)
  if a.poison then a else
  let g := xs.map (nMul h.gScale)
  let b0 := t * (p.cols / 4)
  let blocks := (chunks (p.cols / 4) 128 g).zipIdx
  let (skips, a) := a.skips p guard b0 blocks
  let skipped (i : Nat) : Bool := (skips[i]?).getD false
  let (us, a) :=
    if p.rule = 1 then
      let gz := blocks.flatMap (fun x => if skipped x.2 then x.1.map (fun _ => nZero) else x.1)
      let (rows, a) := a.factoredRows p h n last t (chunks 32 p.cols gz)
      (rows.flatten, a)
    else (g, a)
  a.blocks shard p h n b0 skipped (chunks (p.cols / 4) 128 us).zipIdx

/-! ### Row-list form (R286, R287, R293) -/

/-- The gradient of block b: elements of no listed row take 0 (R287). -/
def listBlock (p : PShard) (rows : Tab (List Num)) (b : Nat) : List Num :=
  (List.range 128).map (fun i =>
    let k := 128 * b + i
    match tget rows (k / p.cols) with
    | some l => (l[k % p.cols]?).getD nZero
    | none => nZero)

/-- U3's statistics of every listed row, and u (R293). -/
def PressAcc.sparseRows (a : PressAcc) (p : PShard) (h : Hp) (n : Nat) (skipped : List Nat) (rows : Tab (List Num)) :
    Tab (List Num) × PressAcc :=
  let e := a.s.pressExt p.state
  rows.foldl (fun (r : Tab (List Num) × PressAcc) x =>
    let row := x.2.zipIdx.map (fun y => if skipped.contains ((x.1 * p.cols + y.2) / 128) then nZero else y.1)
    let (delta, a) := r.2.delta p (x.1 * p.cols / 128) n
    let (vs, a) := a.readF e (p.regions.row + 4 * x.1) 1
    let v := vs.headD nZero
    let q := nMean (row.map (fun y => nMul y y))
    let v := if FVal.cmp h.b2.1 nOne.1 == some .eq then nAdd v q
             else nAdd (nMul (powk h.b2 delta) v) (nMul (nSub nOne h.b2) q)
    let den := nAdd (nSqrt v) h.eps2
    (tset r.1 x.1 (row.map (fun y => nDiv y den)), a.writeF e (p.regions.row + 4 * x.1) [v])) ([], a)

/-- Which of the touched blocks are discarded. -/
def PressAcc.skipRows (a : PressAcc) (p : PShard) (guard : Bool) (rows : Tab (List Num)) (touched : List Nat) :
    List Nat × PressAcc :=
  touched.foldl (fun (r : List Nat × PressAcc) b =>
    let (k, a) := r.2.skip p b guard (listBlock p rows b)
    (if k then r.1 ++ [b] else r.1, a)) ([], a)

/-- The touched blocks that are not discarded, in order. -/
def PressAcc.blocksOf (a : PressAcc) (shard : Nat) (p : PShard) (h : Hp) (n : Nat) (skipped : List Nat)
    (us : Tab (List Num)) (touched : List Nat) : PressAcc :=
  touched.foldl (fun a b => if skipped.contains b then a else a.block shard p h n b (listBlock p us b)) a

/-- The listed rows applied, rows in rising order. -/
def PressAcc.rowList (a : PressAcc) (shard : Nat) (p : PShard) (h : Hp) (guard : Bool) (n : Nat) (rows : Tab (List Num)) :
    PressAcc :=
  let rows := tmap rows (fun _ l => l.map (nMul h.gScale))
  let touched := (rows.flatMap (fun r =>
    let b := r.1 * p.cols / 128
    (List.range (((r.1 + 1) * p.cols - 1) / 128 + 1 - b)).map (b + ·))).eraseDups
  let (skipped, a) := a.skipRows p guard rows touched
  let (us, a) := if p.rule = 3 then a.sparseRows p h n skipped rows else (rows, a)
  a.blocksOf shard p h n skipped us touched

/-! ### Order at the shard (R299, R586) -/

/-- The shard that a command works on through the Press. -/
def pressWork (c : CmdRec) : Option Nat :=
  match pktOp c.packet with
  | 0x601 | 0x602 | 0x603 | 0x703 => some (fld c.packet 24 4)
  | 0x702 => if fld c.packet 30 1 = 1 then some (fld c.packet 32 4) else none
  | _ => none

/-- No Press work on the shard that was read earlier is still to complete, and the Press does not hold the shard for a
checkpoint (R299, R586). A CKPT_SAVE that waits for a round does no Press work until its shard is held (R587). -/
def State.pressFree (s : State) (id shard : Nat) : Bool :=
  s.host.cmds.all (fun e => !(e.1 < id && pktOp e.2.packet != 0x702 && pressWork e.2 == some shard)) && (tget s.ckpt.holds shard).isNone

/-- The command runs once `gate` holds. -/
def jeiskIf (gate : Nat → CmdRec → State → Bool) (op : Nat) (body : Body) (id : Nat) (s : State) : Out' :=
  match s.cmd id with
  | none => .next s
  | some c => if gate id c s then jeisk op body id s else .next s

def pressGate : Nat → CmdRec → State → Bool := fun id c s => s.pressFree id (fld c.packet 24 4)

/-- The Press holds the shard once its last step is the one that an open round calls (R586). -/
def State.holdAfter (s : State) (shard last : Nat) : State :=
  if s.ckpt.called = some last then { s with ckpt := { s.ckpt with holds := tset s.ckpt.holds shard s.time } } else s

/-! ### Attaching (R269 to R276) -/

/-- Table 2. -/
def PShard.allowed (p : PShard) : Bool :=
  match p.rule with
  | 0 => p.momentum
  | 1 => !p.rounded && !p.nesterov
  | 2 => p.momentum && !p.nesterov
  | _ => !p.nesterov

/-- The initial state of init mode 0 (R273). -/
def State.pressInit (s : State) (shard : Nat) (p : PShard) (vInit : Nat) : State :=
  let e := s.pressExt p.state
  let r := p.regions
  let zeros (n : Nat) : List Byte := List.replicate n 0
  let words (n w : Nat) : List Byte := (List.range n).flatMap (fun _ => leBytes 4 w)
  let s := s.extWrite e 0 (pressHeader shard p p.s0)
  let s := s.extWrite e stampsOff (words p.nb (p.s0 % 2 ^ 32))
  let s := s.extWrite e r.scales (zeros p.nb)
  let s := s.extWrite e r.frozen (zeros (ceilDiv p.nb 8))
  let s := if p.momentum then s.extWrite e r.mom (zeros (128 * p.nb)) else s
  let s := if p.rule = 3 then s.extWrite e r.row (words p.rows vInit)
           else if p.rule = 1 then s.extWrite e r.row (zeros (4 * p.rows)) else s
  if p.rule = 1 then
    ((s.extWrite e r.ema (zeros (4 * p.cols))).extWrite e r.prof (words p.cols 0x3F800000)).extWrite e r.acc (zeros (4 * p.cols))
  else s

/-- The shard is attached; its token takes the header's last step (R276). -/
def State.attachShard (s : State) (shard : Nat) (p : PShard) (last : Nat) : State :=
  ({ s with press := { s.press with shards := tset s.press.shards shard p } }).raiseToken p.token last

/-- PRESS_ATTACH. -/
def pressAttachBody : Body := fun id c s => do
  let k := c.packet
  let shard := fld k 24 4
  let p : PShard := { weight := fld k 28 4, state := fld k 32 4, landing := fld k 36 4, config := BitVec.ofNat 8 (fld k 40 1),
                      rows := fld k 44 4, cols := fld k 48 4, s0 := fld k 52 6, token := fld k 42 2, form := none,
                      resident := [], run := none, later := false }
  let n := p.rows * p.cols
  let bad := (stBadParam, 0)
  need (decide (p.rows ≠ 0 ∧ p.cols ≠ 0 ∧ p.cols % 32 = 0 ∧ n % 128 = 0 ∧ n ≤ 2 ^ 32 ∧ (128 ≤ p.cols ∨ p.cols = 32 ∨ p.cols = 64)))
    bad
  need (p.allowed && decide (fld k 41 1 ≤ 1)) bad
  need (p.rule != 1 || decide (p.rows % 32 = 0)) bad
  needJob s
  match s.me with
  | none => .error bad
  | some (j, i) =>
    need (decide (shard < j.shards.length) && j.ownerPlace shard == some i && j.shards[shard]? == some (n, b2n p.rounded)) bad
    match s.handleFor id p.weight, s.handleFor id p.state, s.handleFor id p.landing with
    | some w, some t, some l =>
      need ((w.ext.cls == 2 || w.ext.cls == 5) && t.ext.cls == 3 && l.ext.cls == 4) bad
      need (!w.ext.hostVisible && !t.ext.hostVisible && !l.ext.hostVisible) bad
      need (decide (p.weightBytes ≤ w.ext.size ∧ p.regions.fin_ ≤ t.ext.size)) bad
      need (p.rule != 1 || decide (128 * p.cols ≤ l.ext.size)) bad
      need ((tget s.press.shards shard).isNone) (stConflict, 0)
      need (!(s.shardOf p.weight).isSome && !(s.shardOf p.state).isSome && !(s.shardOf p.landing).isSome) (stConflict, 0)
      let p := { p with form := if p.rule = 1 then some false else if p.rule = 3 then some true else none }
      if fld k 41 1 = 0 then
        need (decide (s.token p.token ≤ p.s0)) bad
        okDone ((s.pressInit shard p (fld k 58 4)).attachShard shard p p.s0)
      else
        let (bs, poison, s) := s.extRead t.ext 0 64
        let last := leNat ((bs.drop 24).take 6)
        if poison then failDone s (stDataError, 0) else
        need (bs == pressHeader shard p last) (stDataMismatch, 0)
        need (decide (s.token p.token ≤ last)) bad
        okDone (s.attachShard shard p last)
    | none, _, _ => .error (stBadParam, p.weight)
    | _, none, _ => .error (stBadParam, p.state)
    | _, _, none => .error (stBadParam, p.landing)

def execPressAttach (id : Nat) (s : State) : Out' := jeisk 0x600 pressAttachBody id s

/-! ### Applying (R280 to R287, R293, R296, R300, R305, R307) -/

/-- What the Press has counted joins the counters and the command's flag summary. -/
def State.pressCount (a : PressAcc) (id ctx : Nat) (p : PShard) : State :=
  let s := a.s.cmdFlags id a.fl
  let s := s.bump (slotPressElems p.rule (b2n p.rounded)) (128 * a.updated)
  let s := ((s.bump (slotPress 1) a.frozen).bump slotFrozenSkips a.frozen).bump (slotPress 2) a.guard
  let s := (s.bump (slotPress 3) a.catchup).addOp ctx wPress (128 * a.updated)
  let s := s.addOp ctx wGen (if p.rounded then 32 * a.updated else 0)
  (s.addOp ctx wDramRead a.reads).addOp ctx wDramWrite a.writes

/-- The step is complete: header, step token (R29), N_FROZEN_SKIP, and the status (R296). -/
def State.pressEnd (s : State) (id ctx shard : Nat) (p : PShard) (n frozen guard : Nat) : State :=
  let s := s.extWrite (s.pressExt p.state) 24 (leBytes 8 n)
  let s := (s.raiseToken p.token n).holdAfter shard n
  let s := if frozen = 0 then s
    else s.detectOpen nFrozenSkip ctx (BitVec.ofNat 64 (shard + frozen * 2 ^ 32))
  let s := s.modShard shard (fun q => { q with run := none, later := false })
  s.finish id (if frozen = 0 ∧ guard = 0 then (stOk, 0) else (stOkSkipped, frozen))

/-- The first position of a list that breaks R286. -/
def badRow (rows : Nat) (l : List Nat) : Option Nat :=
  (List.range l.length).find? (fun i =>
    decide (rows ≤ (l[i]?).getD 0) || (i != 0 && decide ((l[i]?).getD 0 ≤ (l[i - 1]?).getD 0)))

/-- The shard's form is fixed by its first step (R285), and a step is under way. -/
def State.stepForm (s : State) (shard : Nat) (list : Bool) : State :=
  s.modShard shard (fun q => { q with form := some list, later := true })

/-- A step of the slice form begins (R284); a step whose shard a fenced package contributes to is abandoned (R241). -/
def State.sliceStart (s : State) (id shard : Nat) (p : PShard) (n : Nat) (hp : BitVec 512) (guard : Bool) : State :=
  let run : PressRun := { cmd := id, step := n, hp := hp, guard := guard, frozen := 0, skips := 0, slices := 0, poison := false }
  let s := s.modShard shard (fun q => { q with run := some run })
  let rs := s.redStep shard n
  let s := s.setRed shard n { rs with rows := p.rows / 32, cols := p.cols / 32, movedAt := s.time }
  let gone := match s.redPath shard with
    | some (j, _, o) => (j.group o 0).any (fun m => s.fail.fenced.any (fun f => f.1 == (j.mem m).pkg))
    | none => false
  if gone then s.ownerAbandon shard stFenced else s

/-- A step of the row-list form (R286, R287): rows `ix` of the landing buffer. -/
def pressListForm (id ctx shard : Nat) (p : PShard) (h : Hp) (guard : Bool) (n : Nat) (ix : List Nat) (s : State) :
    Except Cause Work :=
  let s := if p.form.isNone then s.refuseWaiters shard else s
  let (vs, a) := (PressAcc.start s).readF (s.pressExt p.landing) 0 (ix.length * p.cols)
  let rows : Tab (List Num) := ix.zip (chunks ix.length p.cols vs)
  let a := if a.poison then a else a.rowList shard p h guard n rows
  let a := { a with reads := a.reads + 4 * ix.length }
  let s := (State.pressCount a id ctx p).bump (slotPress 4) ix.length
  if a.poison then failDone s (stDataError, 0)
  else .ok (.busy (s.pressEnd id ctx shard p n a.frozen a.guard))

/-- PRESS_APPLY. -/
def pressApplyBody : Body := fun id c s => do
  let k := c.packet
  let shard := fld k 24 4
  let n := fld k 28 6
  let list := (fld k 34 1).testBit 0
  let guard := (fld k 34 1).testBit 1
  let hpAt := fld k 36 8
  let count := fld k 56 4
  let bad := (stBadParam, 0)
  match s.hostRec 512 hpAt with
  | none => need (decide (hpAt % 64 = 0)) bad; failDone s (stDataError, 0)
  | some r =>
    need (decide (fld r 32 32 = 0)) (stReservedNonzero, 0)
    need (decide (hpAt % 64 = 0)) bad
    need (list || decide (fld k 44 4 = 0 ∧ fld k 48 6 = 0 ∧ count = 0)) bad
    need (Hp.read r).common bad
    needJob s
    match tget s.press.shards shard with
    | none => .error bad
    | some p =>
      let h := Hp.read r
      need (h.limits p) bad
      need (p.form != some (!list)) bad
      let le := s.pressExt p.landing
      need (list || decide (p.rows % 32 = 0 ∧ 128 * p.cols ≤ le.size)) bad
      let (last, poison, s) := s.pressLast p
      if poison then failDone s (stDataError, 0) else
      need (decide (last < n)) bad
      if !list then .ok (.busy ((s.stepForm shard list).sliceStart id shard p n r guard))
      else
        let ie ← (if count = 0 then .ok le else s.rangeFor id (fld k 44 4) (fld k 48 6) (4 * count))
        need (count == 0 || !s.lowPlane (fld k 44 4) (fld k 48 6) (4 * count)) (stConflict, 0)
        let (ib, bad1, s) := s.extRead ie (fld k 48 6) (4 * count)
        if bad1 then failDone s (stDataError, 0) else
        let ix := (chunks count 4 ib).map leNat
        match badRow p.rows ix with
        | some pos => .error (stBadParam, pos)
        | none =>
          need (decide (4 * count * p.cols ≤ le.size)) (stBadParam, 0xFFFFFFFF)
          pressListForm id c.ctx shard p h guard n ix (s.stepForm shard list)

def execPressApply (id : Nat) (s : State) : Out' := jeiskIf pressGate 0x601 pressApplyBody id s

/-- The step's next slice done by the Press, the last with the commit of U1's statistics (R292). -/
def PressAcc.sliceRun (a : PressAcc) (shard : Nat) (p : PShard) (run : PressRun) (last t l : Nat) : PressAcc :=
  let h := Hp.read run.hp
  let a := a.slice shard p h run.guard run.step last t l
  if 32 * (run.slices + 1) = p.rows ∧ p.rule = 1 ∧ !a.poison then a.commit p h run.step last else a

/-- The slice is consumed; after the last the step completes; a poisoned one gives it up (R94, R296). -/
def PressAcc.sliceTaken (a : PressAcc) (shard : Nat) (p : PShard) (run : PressRun) (r : RedStep) (ctx : Nat) (bad : Bool) :
    State :=
  let s := State.pressCount a run.cmd ctx p
  if a.poison || bad || run.poison then s.ownerAbandon shard stDataError
  else
    let s := (s.bump (slotPress 0) 1).setRed shard run.step { r with consumed := r.consumed + 1 }
    let run := { run with frozen := run.frozen + a.frozen, skips := run.skips + a.guard, slices := run.slices + 1 }
    if 32 * run.slices = p.rows then
      (s.cmdFlags run.cmd r.flags).pressEnd run.cmd ctx shard p run.step run.frozen run.skips
    else s.modShard shard (fun q => { q with run := some run })

/-- PRESS_SLICE_CONSUME (R284): the Press takes the next complete slice of its step; after the last it commits and
completes. A poisoned word ends the command with ST_DATA_ERROR and gives the step up (R94, R296). -/
def execPressSliceConsume (shard : Nat) (s : State) : Out' :=
  match tget s.press.shards shard with
  | none => .next s
  | some p =>
    match p.run, s.landing p with
    | some run, some (_, l) =>
      let r := s.redStep shard run.step
      match r.complete[r.consumed]? with
      | none => .next s
      | some t =>
        let (last, bad, s1) := s.pressLast p
        .next (((PressAcc.start s1).sliceRun shard p run last t l).sliceTaken shard p run r
          ((s.cmd run.cmd).elim 1024 CmdRec.ctx) bad)
    | _, _ => .next s

/-! ### Freezing and detaching (R297, R298, R304, R481) -/

/-- PRESS_FREEZE. -/
def pressFreezeBody : Body := fun _ c s => do
  let shard := fld c.packet 24 4
  let first := fld c.packet 28 4
  let count := fld c.packet 32 4
  let set := (fld c.packet 36 1).testBit 0
  needJob s
  match tget s.press.shards shard with
  | none => .error (stBadParam, 0)
  | some p =>
    need (decide (first + count ≤ p.nb)) (stBadParam, 0)
    let e := s.pressExt p.state
    let (last, bad, s) := s.pressLast p
    let b0 := first / 8
    let len := (first + count + 7) / 8 - b0
    let (map, bad2, s) := s.extRead e (p.regions.frozen + b0) len
    if bad || bad2 then failDone s (stDataError, 0) else
    let frozen (b : Nat) : Bool := (leNat map).testBit (b - 8 * b0)
    let range := (List.range count).map (first + ·)
    need (set || p.resident.isEmpty || !range.any frozen) (stConflict, 0)
    let new := (List.range (8 * len)).foldl (fun v i =>
      let b := 8 * b0 + i
      v + (if (if first ≤ b ∧ b < first + count then set else frozen b) then 2 ^ i else 0)) 0
    let s := (s.extWrite e (p.regions.frozen + b0) (leBytes len new)).modShard shard (fun q => { q with later := true })
    okDone (if set then s
      else (range.filter frozen).foldl (fun s b => s.extWrite e (stampsOff + 4 * b) (leBytes 4 (last % 2 ^ 32))) s)

def execPressFreeze (id : Nat) (s : State) : Out' := jeiskIf pressGate 0x602 pressFreezeBody id s

/-- A launch holds a stream binding to the shard, or a checkpoint operation on it waits (R304). -/
def State.detachBlocked (s : State) (shard : Nat) : Bool :=
  s.sheet.launches.any (fun l => !l.2.held.isEmpty && l.2.bindings.any (fun b => b.shard == shard))
  || s.host.cmds.any (fun e => (pktOp e.2.packet == 0x702 || pktOp e.2.packet == 0x703) && pressWork e.2 == some shard)

/-- The shard is no longer attached; closes that wait for its credit are refused (R642). -/
def State.detachShard (s : State) (shard : Nat) : State :=
  let s := { s with press := { s.press with shards := tdel s.press.shards shard } }
  s.refuseWaiters shard

/-- PRESS_DETACH. -/
def pressDetachBody : Body := fun _ c s => do
  let shard := fld c.packet 24 4
  needJob s
  need (tget s.press.shards shard).isSome (stBadParam, 0)
  need (!s.detachBlocked shard) (stConflict, 0)
  okDone (s.detachShard shard)

def execPressDetach (id : Nat) (s : State) : Out' :=
  jeiskIf (fun id c s => pressGate id c s || s.detachBlocked (fld c.packet 24 4)) 0x603 pressDetachBody id s

end Sys2Proof.Machine
end

