-- ==== Sys2Proof/Machine/Place.lean ====
section
/-! DEFINITION. Placing a job (R107 to R110, R155, R374, R386 to R388, R396, R419, R473 to R475, R578): JOB_PLACE, JOB_END,
PLACEMENT_DIGEST_RECEIVE, PLACEMENT_DECISION_RECEIVE, JOB_PLACE_TIMEOUT, JOB_SPARE, JOB_SPARE_TIMEOUT, REDRAW_INSTALL. -/
namespace Sys2Proof.Machine

/-! ### The placement block (R473, Tables 6 to 8 of ch. 12) -/

def blockMember (e : BitVec 128) : Member :=
  { pkg := fld e 0 2, x := fld e 2 1, y := fld e 3 1, z := fld e 4 1, hops := (List.range 6).map (fun i => fld e (6 + i) 1) }

/-- The lowest package id of a list of members: the lead (R107). -/
def leadOf (ms : List Member) : Nat := ms.foldl (fun a m => Min.min a m.pkg) 0xFFFF

/-- The job that a block of header `h`, member entries `me` and shard entries `se` names. -/
def blockJob (h : BitVec 1024) (me se : List (BitVec 128)) (bytes : List Byte) : Job :=
  let ms := me.map blockMember
  { id := fld h 0 4, extents := [fld h 4 1, fld h 5 1, fld h 6 1], members := ms,
    shards := se.map (fun e => (fld e 0 8, fld e 8 1)), seed := BitVec.ofNat 256 (fld h 16 32), report := fld h 48 8,
    sinkLink := fld h 10 1, block := bytes, digest := sm3 bytes, generation := 0, lead := leadOf ms, owners := [], axes := [],
    ranks := [], rankCount := 0 }

/-- No reserved field of the block is nonzero. -/
def placeReservedOk (h : BitVec 1024) (me se : List (BitVec 128)) : Bool :=
  decide (fld h 7 1 = 0 ∧ fld h 10 1 < 64 ∧ fld h 11 1 = 0 ∧ fld h 56 72 = 0)
  && me.all (fun e => decide (fld e 5 1 = 0 ∧ fld e 12 4 = 0) && (List.range 6).all (fun i => decide (fld e (6 + i) 1 < 64)))
  && se.all (fun e => decide (fld e 9 7 = 0))

/-- The limits of R473. -/
def Job.limits (j : Job) (members shards : Nat) : Bool :=
  decide (j.id ≠ 0 ∧ 1 ≤ shards ∧ shards ≤ 262144 ∧ members = j.extent 0 * j.extent 1 * j.extent 2)
  && j.extents.all (fun e => decide (1 ≤ e ∧ e ≤ 16))
  && j.members.all (fun m => decide (m.x < j.extent 0 ∧ m.y < j.extent 1 ∧ m.z < j.extent 2))
  && noDup (j.members.map Member.pkg) && noDup (j.members.map (fun m => (m.x, m.y, m.z)))
  && j.shards.all (fun p => decide (p.1 ≠ 0 ∧ p.1 % 128 = 0 ∧ p.2 ≤ 1))

/-- The links of this package as its settle records show them (R372). -/
def State.seenLinks (s : State) : List LinkSeen :=
  (List.range 24).filterMap (fun l =>
    let k := s.link l
    if s.linkHas l then some { link := k.label l, data := k.data, pkg := k.peerPkg, peer := k.peerLogical } else none)

/-! ### The lead's checks (R374, R386, R474) -/

def State.heardOf (s : State) (pkg : Nat) : Option Heard := s.job.heard.find? (fun h => h.pkg == pkg)

def seenOf (links : List LinkSeen) (label : Nat) : Option LinkSeen := links.find? (fun l => l.link == label)

/-- The detail that names a link of a member (R374). -/
def hopDetail (pkg hop : Nat) : Nat := pkg + hop % 32 * 2 ^ 16

/-- The first hop whose link is missing or dark for data (R374). -/
def State.darkHop (s : State) (j : Job) : Option Nat :=
  j.members.findSome? (fun m => (m.hops.filter hopPresent).findSome? (fun b =>
    match (s.heardOf m.pkg).bind (fun h => seenOf h.links (hopLink b)) with
    | some l => if l.data then none else some (hopDetail m.pkg b)
    | none => some (hopDetail m.pkg b)))

/-- The hop byte `b` of a member, as its links show it, leads to `to_` and arrives there on the link of `back`. -/
def hopLeads (links : List LinkSeen) (b to_ back : Nat) : Bool :=
  hopPresent b && hopPresent back &&
  (match seenOf links (hopLink b) with
   | some l => l.pkg == to_ && l.peer == hopLink back
   | none => false)

/-- The + hop of a member on an axis passes R386, by the links of the member. -/
def Job.plusOk (j : Job) (links : List LinkSeen) (m : Member) (a : Nat) : Bool :=
  let e := j.extent a
  (m.coord a + 1 == e && !hopPresent (m.hop a true)) ||
  (match j.along m a ((m.coord a + 1) % e) with
   | some t => hopLeads links (m.hop a true) (j.mem t).pkg ((j.mem t).hop a false)
   | none => false)

/-- The − hop of a member leads back to the member before it where that one's + hop leads here. -/
def Job.minusOk (j : Job) (links : List LinkSeen) (m : Member) (a : Nat) : Bool :=
  let e := j.extent a
  match j.along m a ((m.coord a + e - 1) % e) with
  | some t => (m.coord a == 0 && !hopPresent ((j.mem t).hop a true)) || hopLeads links (m.hop a false) (j.mem t).pkg ((j.mem t).hop a true)
  | none => false

/-- The first hop that fails R386. -/
def State.badHop (s : State) (j : Job) : Option Nat :=
  j.members.findSome? (fun m => (List.range 3).findSome? (fun a =>
    if j.plusOk ((s.heardOf m.pkg).elim [] Heard.links) m a then none else some (hopDetail m.pkg (m.hop a true))))

/-- The first package that needs more than 256 circuit entries (R396). -/
def Job.overfull (j : Job) : Option Nat :=
  (List.range j.members.length).findSome? (fun i => if 256 < (j.entries i).length then some (j.mem i).pkg else none)

/-! ### The decisions (R107, R108, R18) -/

/-- Places sorted by a key. -/
def sortPlaces (key : Nat → Nat) (l : List Nat) : List Nat :=
  let ins (i : Nat) (r : List Nat) : List Nat := r.takeWhile (fun x => key x ≤ key i) ++ i :: r.dropWhile (fun x => key x ≤ key i)
  l.foldr ins []

/-- The lead's decisions: each member owns one run of consecutive shards (Table 8 of ch. 03); at most one axis splits
layers (R18); every rank below D has a member. The rest is the firmware's choice, the same for the same block. -/
def Job.decide_ (j : Job) : Job :=
  let k := j.members.length
  let n := j.shards.length
  let cuts := (List.range (k - 1)).map (fun i => Config.ownerPick j.digest i % (n + 1))
  let order := sortPlaces (fun i => Config.ownerPick j.digest (2 ^ 20 + i)) (List.range k)
  let owners := (List.range n).map (fun sh => (j.mem ((order[(cuts.filter (· ≤ sh)).length]?).getD 0)).pkg)
  let axes := (List.range 3).foldl (fun (l : List Nat) a =>
    let r := Config.axisRole j.digest a % 4
    l ++ [if r = 1 ∧ l.contains 1 then 3 else r]) []
  let d := 1 + Config.rankCount j.digest % k
  let ranks := (List.range k).map (fun i =>
    let p := (order.findIdx? (· == i)).getD 0
    if p < d then p else Config.rankPick j.digest i % d)
  { j with owners := owners, axes := axes, ranks := ranks, rankCount := d }

/-- The decision as it goes to the member at place `i`. -/
def Job.decision (j : Job) (i : Nat) (replaced : Option (Nat × Nat)) : Decision :=
  { status := 0, detail := 0, generation := j.generation, owners := j.owners, axes := j.axes, ranks := j.ranks,
    rankCount := j.rankCount, circuits := j.circuits i, seed := j.seed, digest := j.digest, replaced := replaced }

/-- A decision that places nothing. -/
def Decision.fails (st : Cause) : Decision :=
  { status := st.1, detail := st.2, generation := 0, owners := [], axes := [], ranks := [], rankCount := 0, circuits := [],
    seed := 0, digest := 0, replaced := none }

/-- The placement report (R110). -/
def Job.reportBytes (j : Job) : List Byte :=
  let role (a : Nat) := (j.axes[a]?).getD 3
  recBytes (mkRec 256 [(0, 4, j.id), (4, 2, j.lead), (6, 2, j.members.length), (8, 2, j.rankCount),
    (10, 1, role 0 + 4 * role 1 + 16 * role 2), (12, 4, j.generation)] : BitVec 256) ++
  j.members.zipIdx.flatMap (fun x =>
    let mine := (List.range j.shards.length).filter (fun sh => j.owners[sh]? == some x.1.pkg)
    recBytes (mkRec 128 [(0, 2, x.1.pkg), (2, 1, x.1.x), (3, 1, x.1.y), (4, 1, x.1.z), (5, 1, b2n (x.1.pkg == j.lead)),
      (6, 2, (j.ranks[x.2]?).getD 0), (8, 4, mine.headD 0), (12, 4, mine.length)] : BitVec 128))

/-- The ring bits of R387. -/
def Job.ringBits (j : Job) : Nat := b2n (j.ring 0) + 2 * b2n (j.ring 1) + 4 * b2n (j.ring 2)

/-! ### Installing -/

/-- Circuit entries as the table holds them. -/
def circuitTab (cs : List (Nat × BitVec 256 × List Nat)) : Tab Circuit :=
  cs.foldl (fun t c => if c.1 < 256 then tset t c.1 { entry := c.2.1, dirs := c.2.2 } else t) []

/-- Every declared Mould matrix is released (R315, R475). -/
def State.freeMatrices (s : State) : State :=
  { s with mould := { s.mould with mats := [], units := tmap s.mould.units (fun _ u => { u with loaded := none }) },
           press := { s.press with shards := tmap s.press.shards (fun _ p => { p with resident := [] }) } }

/-- A new job is placed here (R107, R261, R315, R617): nothing of an earlier one is left, and every member counts as heard
now. -/
def State.placeHere (s : State) (j : Job) (cs : List (Nat × BitVec 256 × List Nat)) : State :=
  let s := (s.freeStats).freeMatrices
  let heard : Tab Nat := j.members.foldl (fun t m => tset t m.pkg s.time) []
  let s := { s with
    job := { s.job with job := some j, placing := none, heard := [], circuits := circuitTab cs }
    red := { steps := [] }
    fail := { s.fail with fenced := [], selfFenced := none, actingLead := false, heard := heard, beatAt := s.time } }
  s.setMeasure 5 j.digest

/-- A redraw takes effect here (R109, R419, R578): the fenced package is no member any more, and the lead is again the
member with the lowest package id. -/
def State.redrawHere (s : State) (j : Job) (cs : List (Nat × BitVec 256 × List Nat)) (gone new : Nat) : State :=
  { s with
    job := { s.job with job := some j, heard := [], circuits := circuitTab cs }
    fail := { s.fail with fenced := s.fail.fenced.filter (fun f => f.1 != gone), actingLead := false,
                          heard := tset (tdel s.fail.heard gone) new s.time } }

/-- Decisions go to every other member. -/
def State.sendDecisions (s : State) (j : Job) (f : Nat → Decision) : State :=
  j.members.zipIdx.foldl (fun s m => if m.1.pkg = s.pkgId then s else s.send (.decision m.1.pkg (f m.2))) s

/-- The placement comes to nothing on every member (R474). -/
def State.placeFails (s : State) (p : Placing) (st : Cause) : State :=
  let s := s.sendDecisions p.job (fun _ => Decision.fails st)
  ({ s with job := { s.job with placing := none, heard := [] } }).finish p.cmd st

/-- What the lead makes of the blocks once every member's digest has come. -/
def State.judgePlace (s : State) (j : Job) : Except Cause Job := do
  need (j.members.all (fun m => (s.heardOf m.pkg).any (fun h => h.digest == j.digest))) (stDataMismatch, 0)
  match s.darkHop j with
  | some d => .error (stNoResource, d)
  | none =>
    match s.badHop j with
    | some d => .error (stBadParam, d)
    | none =>
      let j := j.decide_
      match j.overfull with
      | some p => .error (stNoResource, p)
      | none => return j

/-- The lead places the job once every member has issued JOB_PLACE (R107, R110, R474). -/
def State.tryPlace (s : State) : State :=
  match s.job.placing with
  | none => s
  | some p =>
    if p.job.lead ≠ s.pkgId ∨ !(p.job.members.all (fun m => (s.heardOf m.pkg).isSome)) then s
    else
      match s.judgePlace p.job with
      | .error st => s.placeFails p st
      | .ok j =>
        let s := s.sendDecisions j (fun i => j.decision i none)
        let s := s.placeHere j (j.circuits ((j.pos s.pkgId).getD 0))
        (s.hostWrite j.report j.reportBytes).finish p.cmd (stOk, j.ringBits)

/-! ### JOB_PLACE -/

/-- JOB_PLACE (R388, R473, R474): the block is checked, and its digest goes to the lead with what this package's links
show. -/
def jobPlaceBody : Body := fun id c s => do
  let a := fld c.packet 24 8
  let bad := (stBadParam, 0)
  match s.hostRead a 128 with
  | none => need (decide (a % 64 = 0)) bad; failDone s (stDataError, 0)
  | some hb =>
    let h : BitVec 1024 := BitVec.ofNat 1024 (leNat hb)
    let nm := fld h 8 2
    let ns := fld h 12 4
    let n1 := if nm ≤ 4096 then nm else 0
    let n2 := if 1 ≤ n1 ∧ ns ≤ 262144 then ns else 0
    match s.hostRead (a + 128) (16 * (n1 + n2)) with
    | none => need (decide (a % 64 = 0)) bad; failDone s (stDataError, 0)
    | some bs =>
      let es := (chunks (n1 + n2) 16 bs).map (fun l => BitVec.ofNat 128 (leNat l))
      let j := blockJob h (es.take n1) (es.drop n1) (hb ++ bs)
      need (placeReservedOk h (es.take n1) (es.drop n1)) (stReservedNonzero, 0)
      need (decide (a % 64 = 0 ∧ j.report % 32 = 0)) bad
      need (j.limits nm ns && (j.pos s.pkgId).isSome) bad
      need (s.job.job.isNone && s.job.placing.isNone) (stConflict, 0)
      let s := { s with job := { s.job with placing := some { cmd := id, job := j, since := s.time } } }
      let links := s.seenLinks
      if j.lead = s.pkgId then
        let me : Heard := { pkg := s.pkgId, digest := j.digest, links := links, serial := Config.serial }
        .ok (.busy ({ s with job := { s.job with heard := me :: s.job.heard.filter (fun x => x.pkg != s.pkgId) } }).tryPlace)
      else .ok (.busy (s.send (.digest j.lead j.digest links Config.serial)))

def execJobPlace (id : Nat) (s : State) : Out' := jeisk 0x108 jobPlaceBody id s

/-- JOB_PLACE_TIMEOUT (R474): on the lead, 10 s after its start, some member's digest has not come. -/
def execJobPlaceTimeout (id at_ : Nat) (s : State) : Out' :=
  let t := s.advance at_
  match t.job.placing with
  | none => .next s
  | some p =>
    whenThen (p.cmd == id && p.job.lead == t.pkgId && decide (p.since + sec 10 ≤ t.time)
        && !p.job.members.all (fun m => (t.heardOf m.pkg).isSome)) s (t.placeFails p (stTimeout, 0))

/-! ### JOB_SPARE (R109, R578) -/

/-- The bytes of a block with package `gone` replaced by `new` in its member entries. -/
def amendBytes (bs : List Byte) (members gone new : Nat) : List Byte :=
  (List.range members).foldl (fun bs i =>
    let o := 128 + 16 * i
    if leNat ((bs.drop o).take 2) = gone then bs.take o ++ leBytes 2 new ++ bs.drop (o + 2) else bs) bs

/-- The job with a fenced package replaced (R109): the spare takes its rank and its shards. -/
def Job.amend (j : Job) (gone new : Nat) : Job :=
  let ms := j.members.map (fun m => if m.pkg = gone then { m with pkg := new } else m)
  let bs := amendBytes j.block j.members.length gone new
  { j with members := ms, block := bs, digest := sm3 bs, lead := leadOf ms,
           owners := j.owners.map (fun o => if o = gone then new else o) }

/-- JOB_SPARE and the spare's JOB_PLACE end with a failing status. -/
def State.spareFails (s : State) (sp : Sparing) (st : Cause) : State :=
  ({ s with job := { s.job with sparing := none, heard := [] } }.send (.decision sp.spare (Decision.fails st))).finish sp.cmd st

/-- The lead's checks once the spare's digest has come (R578): the serial on the spare's links, the hops of the amended
block at the spare's place, the digest. -/
def State.trySpare (s : State) : State :=
  match s.job.sparing, s.job.job with
  | some sp, some j =>
    match if sp.ready then none else s.heardOf sp.spare with
    | none => s
    | some h =>
      let n := j.amend sp.fenced sp.spare
      match n.pos sp.spare with
      | none => s.spareFails sp (stBadParam, 0)
      | some i =>
        let m := n.mem i
        let hops := (List.range 3).all (fun a => n.plusOk h.links m a && n.minusOk h.links m a)
        if h.serial ≠ sp.serial ∨ !hops then s.spareFails sp (stBadParam, 0)
        else if h.digest ≠ n.digest then s.spareFails sp (stDataMismatch, 0)
        else { s with job := { s.job with sparing := some { sp with ready := true } } }
  | _, _ => s

/-- This package is the lead of its job, or acts as it (R576). -/
def State.isLead (s : State) : Bool :=
  match s.job.job with
  | some j => j.lead == s.pkgId || s.fail.actingLead
  | none => false

def jobSpareBody : Body := fun id c s => do
  let gone := fld c.packet 24 2
  let new := fld c.packet 26 2
  needJob s
  need s.isLead (stBadParam, 0)
  need (s.fail.fenced.any (fun f => f.1 == gone)) (stConflict, 0)
  need ((s.me.bind (fun m => m.1.pos new)).isNone && (s.me.bind (fun m => m.1.pos gone)).isSome) (stConflict, 0)
  let sp : Sparing := { cmd := id, fenced := gone, spare := new, serial := BitVec.ofNat 64 (fld c.packet 32 8),
                        since := s.time, ready := false }
  .ok (.busy ({ s with job := { s.job with sparing := some sp } }).trySpare)

/-- JOB_SPARE: one at a time, in the order in which the lead reads them. -/
def execJobSpare (id : Nat) (s : State) : Out' :=
  jeiskIf (fun id _ s => s.host.cmds.all (fun e => !(e.1 < id && pktOp e.2.packet == 0x709))) 0x709 jobSpareBody id s

/-- JOB_SPARE_TIMEOUT (R578): the spare's digest has not come within 10 s. -/
def execJobSpareTimeout (id at_ : Nat) (s : State) : Out' :=
  let t := s.advance at_
  match t.job.sparing with
  | none => .next s
  | some sp =>
    whenThen (sp.cmd == id && !sp.ready && decide (sp.since + sec 10 ≤ t.time)) s
      (({ t with job := { t.job with sparing := none } }).finish id (stTimeout, 0))

/-- REDRAW_INSTALL (R109, R110, R419, R578): no collective, PUT or GET of the job is in flight here, and none on another
member (which the command's arrival says); the lead redraws, installs and reports. -/
def execRedrawInstall (s : State) : Out' :=
  match s.job.sparing, s.job.job with
  | some sp, some j =>
    if !sp.ready || !s.xfer.insts.isEmpty || !s.xfer.ones.isEmpty then .next s
    else
      let n := { j.amend sp.fenced sp.spare with generation := (j.generation + 1) % 2 ^ 32 }
      match n.overfull with
      | some p => .next (s.spareFails sp (stNoResource, p))
      | none =>
        let s := s.sendDecisions n (fun i => n.decision i (some (sp.fenced, sp.spare)))
        let s := s.redrawHere n (n.circuits ((n.pos s.pkgId).getD 0)) sp.fenced sp.spare
        let s := { s with job := { s.job with sparing := none } }
        .next ((s.hostWrite n.report n.reportBytes).finish sp.cmd (stOk, n.generation))
  | _, _ => .next s

/-! ### What reaches the lead and the members -/

/-- PLACEMENT_DIGEST_RECEIVE (R474, R578): a member's digest reaches this package. -/
def execPlacementDigestReceive (pkg : Nat) (digest : BitVec 256) (links : List LinkSeen) (serial : BitVec 64) (s : State) :
    Out' :=
  let h : Heard := { pkg := pkg, digest := digest, links := links, serial := serial }
  let s := { s with job := { s.job with heard := h :: s.job.heard.filter (fun x => x.pkg != pkg) } }
  .next s.tryPlace.trySpare

/-- A decision fits the job that it is for. -/
def Job.fits (j : Job) (d : Decision) : Bool :=
  d.owners.length == j.shards.length && d.ranks.length == j.members.length && d.axes.length == 3
  && d.owners.all (fun o => (j.pos o).isSome) && d.axes.all (· < 4) && d.ranks.all (· < d.rankCount)

/-- The job with a decision's part in it. -/
def Job.take (j : Job) (d : Decision) : Job :=
  { j with generation := d.generation, owners := d.owners, axes := d.axes, ranks := d.ranks, rankCount := d.rankCount,
           seed := d.seed, digest := d.digest }

/-- PLACEMENT_DECISION_RECEIVE (R107, R109, R155, R396): the lead's decisions are installed and JOB_PLACE completes; a
later generation redraws a job that is placed. -/
def execPlacementDecisionReceive (dec : Decision) (s : State) : Out' :=
  match s.job.placing, s.job.job with
  | some p, _ =>
    if dec.status ≠ 0 then
      .next (({ s with job := { s.job with placing := none, heard := [] } }).finish p.cmd (dec.status, dec.detail))
    else
      let j := p.job.take dec
      whenThen (p.job.fits dec && dec.digest == p.job.digest) s ((s.placeHere j dec.circuits).finish p.cmd (stOk, j.ringBits))
  | none, some j =>
    match dec.replaced with
    | none => .next s
    | some (gone, new) =>
      let n := (j.amend gone new).take dec
      whenThen (dec.status == 0 && decide (j.generation < dec.generation) && gone != s.pkgId && n.fits dec
          && s.fail.selfFenced.isNone) s (s.redrawHere n dec.circuits gone new)
  | none, none => .next s

/-! ### JOB_END (R475, R575) -/

/-- A PUT, GET or collective of the job has started and not completed. -/
def State.fabricBusy (s : State) : Bool := s.xfer.insts.any (fun e => !e.2.isOver) || !s.xfer.ones.isEmpty

/-- The job's Vat, its batch handle and its sources are gone (R475, R479). -/
def State.endVat (s : State) : State :=
  let s := match s.vat.cfg with
    | some v => s.releaseHandle v.handle
    | none => s
  { s with vat := { Vat.idle with flags := s.vat.flags } }

/-- The membership ends (R475, R617). -/
def State.leaveJob (s : State) : State :=
  let s := (s.freeStats).freeMatrices.endVat
  let s := { s with
    job := { s.job with job := none, circuits := [], heard := [], sinkOn := false }
    red := { steps := [] }
    xfer := { s.xfer with insts := [], ones := [] }
    fail := { s.fail with fenced := [], selfFenced := none, actingLead := false, heard := [] }
    ckpt := { s.ckpt with called := none, holds := [], late := [] } }
  s.setMeasure 5 0

/-- The other members see a package that has left as fenced, reason 7 (R475, Table 3 of ch. 16). -/
def State.sayLeft (s : State) : State :=
  match s.job.job with
  | none => s
  | some j =>
    if s.isLead then ({ s with fail := { s.fail with fenced := s.fail.fenced ++ [(s.pkgId, 7)] } }).sendFenceList
    else s.send (.fenceRequest j.lead s.pkgId 7)

/-- JOB_END: on a fenced package it completes at once, stops the Vat and detaches the shards (R575). -/
def jobEndBody : Body := fun _ c s => do
  match s.job.job with
  | none => .error (stBadParam, 0)
  | some j =>
    need (decide (j.id = fld c.packet 24 4)) (stBadParam, 0)
    if s.fail.selfFenced.isSome then
      okDone (s.press.shards.foldl (fun s e => s.detachShard e.1) s).leaveJob
    else
      need (!s.vat.running && s.press.shards.isEmpty && !s.fabricBusy && s.xfer.grants.isEmpty) (stConflict, 0)
      okDone s.sayLeft.leaveJob

def execJobEnd (id : Nat) (s : State) : Out' := jeisk 0x109 jobEndBody id s

end Sys2Proof.Machine
end

