-- ==== Sys2Proof/Machine/Ingest.lean ====
section
/-! DEFINITION. Sources, the Vat and the Beater (R22 to R25, R34 to R43, R59 to R82, R478 to R480): SRC_REGISTER,
SRC_RELEASE, VAT_CONFIG, VAT_START, VAT_STOP, VAT_GET_POSITION, VAT_SET_POSITION, CHUNK_FETCH, CHUNK_DECODE_DONE,
WINDOW_DRAW_START, VAT_DRAW, BATCH_HANDOVER, BATCH_REGION_REUSE. What a codec makes of a chunk's bytes (R44 to R58, R62 to
R66) is the operand of CHUNK_DECODE_DONE. -/
namespace Sys2Proof.Machine

/-! ### Sources (R34 to R39, R42, R43, R478) -/

def srcBase (d : BitVec 512) : Nat := fld d 48 5
def srcCount (d : BitVec 512) : Nat := fld d 40 4

/-- Reserved fields of a descriptor (Table 1). -/
def srcReservedOk (d : BitVec 512) : Bool :=
  decide (fld d 44 4 = 0 ∧ fld d 53 3 = 0 ∧ fld d 56 2 < 64 ∧ fld d 58 6 = 0)

/-- The values that Table 1 lists for a container and a caption kind. -/
def srcLimitsOk (d : BitVec 512) : Bool :=
  let con := fld d 4 1
  let cap := fld d 7 1
  let raw := con == 4
  let ts := decide (con ≤ 1)
  let o := fld d 56 2
  let sel := fld d 14 2
  decide (con ≤ 4 ∧ 1 ≤ fld d 5 1 ∧ fld d 5 1 ≤ 4 ∧ fld d 6 1 ≤ 3 ∧ cap ≤ 3 ∧ o % 4 ≠ 3 ∧ o / 16 % 4 ≠ 3 ∧ 1 ≤ srcCount d
    ∧ fld d 32 8 % 32 = 0 ∧ fld d 10 2 ≤ (if ts then 0x1FFF else 0))
  && (!ts || decide (fld d 12 2 ≤ 0x1FFF))
  && (!raw || decide (fld d 6 1 = 0 ∧ cap = 0 ∧ fld d 8 2 = 0 ∧ fld d 12 2 = 0))
  && (match cap with
      | 1 => decide (1 ≤ sel ∧ sel ≤ 4)
      | 2 => decide (1 ≤ sel ∧ sel ≤ 63)
      | 3 => decide (sel ≤ 0x1FFF)
      | _ => sel == 0)

/-- Every chunk_base is the sum of the counts before it (R36); answers the job's chunk count. -/
def basesOk (n : Nat) (ds : List (BitVec 512)) : Option Nat :=
  match ds with
  | [] => some n
  | d :: r => if srcBase d = n then basesOk (n + srcCount d) r else none

def State.chunkCount (s : State) : Nat := (s.vat.sources.map srcCount).sum

/-- SRC_REGISTER. -/
def srcRegisterBody : Body := fun _ c s => do
  let n := fld c.packet 32 4
  need (decide (1 ≤ n)) (stBadParam, 0)
  need (decide (n ≤ 2 ^ 20)) (stNoResource, 0)
  match s.hostRead (fld c.packet 24 8) (64 * n) with
  | none => failDone s (stDataError, 0)
  | some bs =>
    let ds : List (BitVec 512) := (chunks n 64 bs).map (fun l => BitVec.ofNat 512 (leNat l))
    need (ds.all srcReservedOk) (stReservedNonzero, 0)
    need (ds.all srcLimitsOk) (stBadParam, 0)
    needJob s
    need (!s.vat.running) (stConflict, 0)
    let all := s.vat.sources ++ ds
    need (decide (all.length ≤ 2 ^ 20 ∧ (all.map srcCount).sum ≤ 2 ^ 40)) (stNoResource, 0)
    need ((basesOk s.chunkCount ds).isSome && noDup (all.map (fun d => fld d 0 4))) (stBadParam, 0)
    okDone { s with vat := { s.vat with sources := all } } n

def execSrcRegister (id : Nat) (s : State) : Out' := jeisk 0x400 srcRegisterBody id s

/-- SRC_RELEASE: the sources registered last, or all; a stopped Vat has no chunk in flight (R42, R79). -/
def srcReleaseBody : Body := fun _ c s => do
  needJob s
  need (!s.vat.running) (stConflict, 0)
  let have_ := s.vat.sources.length
  let n := if fld c.packet 24 4 = 0 then have_ else Min.min (fld c.packet 24 4) have_
  okDone { s with vat := { s.vat with sources := s.vat.sources.take (have_ - n) } } n

def execSrcRelease (id : Nat) (s : State) : Out' := jeisk 0x401 srcReleaseBody id s

/-! ### The sample profile (R60, R72, R479, Table 15 of ch. 12) -/

/-- The fields of a profile that the Vat uses. -/
structure Profile where
  w : Nat
  h : Nat
  p : Nat
  t : Nat
  stride : Nat
  clip : Nat
  fmt : Nat
  classLimit : Nat
  captions : Nat
  lostLimit : Nat
  subtitles : Nat
  slot : Nat
  concealLimit : Nat
  streams : Nat
  win : Nat
  batch : Nat
  regions : Nat
  batchToken : Nat
  releaseToken : Nat

def readProfile (r : BitVec 1024) : Profile :=
  { w := fld r 0 2, h := fld r 2 2, p := fld r 4 1, t := fld r 5 1, stride := fld r 6 1, clip := fld r 7 1, fmt := fld r 8 1,
    classLimit := fld r 11 1, captions := fld r 16 2, lostLimit := fld r 18 2, subtitles := fld r 20 4, slot := fld r 24 4,
    concealLimit := fld r 28 2, streams := fld r 30 2, win := fld r 56 4, batch := fld r 60 4, regions := fld r 64 1,
    batchToken := fld r 66 2, releaseToken := fld r 68 2 }

/-- Bytes of header, video, caption and subtitle areas (R66, Table 7). The audio area has no size that the profile
fixes. -/
def Profile.areas (p : Profile) : Nat :=
  64 + p.w / p.p * (p.h / p.p) * (p.clip / p.t) * (3 * p.p * p.p * p.t) * (if p.fmt = 1 then 2 else 1) + 2 * p.captions
    + p.subtitles

/-- Table 7 and the limits of R72. -/
def profileOk (r : BitVec 1024) : Bool :=
  let p := readProfile r
  let crop := f32 (BitVec.ofNat 32 (fld r 12 4))
  [8, 14, 16, 32].contains p.p
  && decide (8 ≤ p.w ∧ p.w ≤ 1024 ∧ p.w % p.p = 0 ∧ 8 ≤ p.h ∧ p.h ≤ 1024 ∧ p.h % p.p = 0)
  && [1, 2, 4].contains p.t
  && decide (1 ≤ p.stride ∧ p.stride ≤ 16 ∧ 1 ≤ p.clip ∧ p.clip ≤ 64 ∧ p.clip % p.t = 0 ∧ (p.fmt = 1 ∨ p.fmt = 3)
      ∧ fld r 9 1 ≤ 2 ∧ fld r 10 1 ≤ 2)
  && (fld r 9 1 != 2 || (crop.isFinite && !FVal.lt crop (f32 0x3E800000) && !FVal.lt (f32 0x3F800000) crop))
  && decide (p.captions ≤ 4096 ∧ p.subtitles ≤ 65536 ∧ p.slot % 4096 = 0 ∧ p.areas ≤ p.slot)
  && decide (1 ≤ p.classLimit ∧ p.classLimit ≤ 15 ∧ p.lostLimit ≤ 4095 ∧ 64 ≤ p.streams ∧ p.streams ≤ 512
      ∧ p.streams % 64 = 0 ∧ 2 ≤ p.regions ∧ p.regions ≤ 16 ∧ 1 ≤ p.batch ∧ p.batch ≤ p.win)

/-- Table 10: where the windows and the batch regions begin in the carve-out. -/
def Profile.workBytes (p : Profile) : Nat := p.streams * 32 * 2 ^ 20
def Profile.batchOff (p : Profile) : Nat := p.workBytes + 2 * p.win * p.slot
def Profile.windowOff (p : Profile) (w i : Nat) : Nat := p.workBytes + (w % 2 * p.win + i) * p.slot
def Profile.regionOff (p : Profile) (n i : Nat) : Nat := p.batchOff + (n % p.regions * p.batch + i) * p.slot

/-- VAT_CONFIG. -/
def vatConfigBody : Body := fun _ c s => do
  let a := fld c.packet 24 8
  match s.hostRec 1024 a with
  | none => need (decide (a % 64 = 0)) (stBadParam, 0); failDone s (stDataError, 0)
  | some r =>
    need (decide (fld r 65 1 = 0 ∧ fld r 70 58 = 0)) (stReservedNonzero, 0)
    need (decide (a % 64 = 0) && profileOk r) (stBadParam, 0)
    let p := readProfile r
    needJob s
    need (!s.vat.running) (stConflict, 0)
    need (decide (s.mem.carve.vat ≠ 0)) (stNoResource, 0)
    need (decide (p.batchOff + p.regions * p.batch * p.slot ≤ s.mem.carve.vat)) (stBadParam, 0)
    let s := match s.vat.cfg with
      | some v => s.releaseHandle v.handle
      | none => s
    match s.nextSlot with
    | none => .error (stNoResource, 0)
    | some (slot, gen) =>
      let e : Extent := { cls := 7, stripe := 3, place := 0, hostVisible := false, fabricRead := false,
                          size := p.regions * p.batch * p.slot, base := s.mem.carve.base 0, hdm := 2 ^ 64 - 1,
                          skip := p.batchOff }
      let kept := (match s.vat.cfg with
        | some v => decide ((readProfile v.profile).win = p.win)
        | none => true)
      let s := s.makeHandle slot gen true e
      okDone { s with vat := { s.vat with cfg := some { profile := r, handle := mkHandle slot gen },
                                          position := if kept then s.vat.position else ⟨0, 0, 0, 0, 0⟩ } } (mkHandle slot gen)

def execVatConfig (id : Nat) (s : State) : Out' := jeisk 0x408 vatConfigBody id s

/-! ### Starting and stopping (R43, R69, R79, R82) -/

/-- Data rank d of this package and rank count D (R69). -/
def State.dataRank (s : State) : Nat × Nat :=
  match s.me with
  | some (j, i) => ((j.ranks[i]?).getD 0, j.rankCount)
  | none => (0, 1)

/-- The region of batch n may be filled (R25, R479). -/
def State.regionFree (s : State) (p : Profile) (n : Nat) : Bool :=
  decide (n < p.regions ∨ n + 1 ≤ s.token p.releaseToken + p.regions)

def vatStartBody : Body := fun _ c s => do
  needJob s
  need (!s.vat.running) (stConflict, 0)
  match s.vat.cfg with
  | none => .error (stConflict, 0)
  | some v =>
    need (decide (s.dataRank.2 ≤ s.chunkCount)) (stBadParam, 0)
    let p := readProfile v.profile
    let pos := s.vat.position
    let w := pos.g / p.win
    let n := pos.g / p.batch
    let vat : Vat := { s.vat with
      running := true, stopping := none, ctx := c.ctx, chunks := s.chunkCount, epoch := pos.epoch, k := pos.k, skip := pos.i,
      fetches := [], nextQ := w * p.win, held := [], window := none, copied := pos.g, drawn := pos.g, inBatch := 0,
      batches := n, stalled := false, regionWait := !s.regionFree p n, starts := [] }
    okDone { s with vat := vat }

def execVatStart (id : Nat) (s : State) : Out' := jeisk 0x409 vatStartBody id s

/-- The Vat stops: the batch under way is given up, a computed draw is discarded (R79). -/
def State.vatHalt (s : State) : State :=
  { s with vat := { s.vat with running := false, stopping := none, fetches := [], held := [], window := none, inBatch := 0,
                               stalled := false, regionWait := false, drawn := s.vat.copied,
                               position := { s.vat.position with c := s.vat.position.g } } }

/-- VAT_STOP: it completes once no fill is in flight; draws and copies are single steps. -/
def vatStopBody : Body := fun id _ s => do
  needJob s
  if s.vat.running then .ok (.busy { s with vat := { s.vat with stopping := some id } }) else okDone s

def vatStopDone (_ : Nat) (_ : CmdRec) (s : State) : Option (Cause × State) :=
  if !s.vat.running then some ((stOk, 0), s)
  else if s.vat.fetches.all (fun f => f.done.isSome) then some ((stOk, 0), s.vatHalt) else none

def execVatStop (id : Nat) (s : State) : Out' := jeiskWait 0x40A vatStopBody vatStopDone id s

/-! ### Positions (R77, R79 to R81, R480) -/

/-- The data position record and the draw counter (Table 12 of ch. 2, R480). -/
def State.positionRec (s : State) (pos : VatPos) : BitVec 320 :=
  let (d, n) := s.dataRank
  let win := match s.vat.cfg with
    | some v => (readProfile v.profile).win
    | none => 0
  mkRec 320 [(0, 4, pos.epoch), (4, 2, d), (6, 2, n), (8, 8, n * pos.g), (16, 5, pos.k), (23, 1, pos.i), (24, 4, win),
    (32, 8, pos.c)]

def vatGetPositionBody : Body := fun _ c s => do
  let out := fld c.packet 24 8
  need (decide (out % 32 = 0)) (stBadParam, 0)
  needJob s
  okDone (s.hostWrite out (recBytes (s.positionRec s.vat.position)))

def execVatGetPosition (id : Nat) (s : State) : Out' := jeisk 0x40B vatGetPositionBody id s

/-- VAT_SET_POSITION (R80, R81): the notice of a rewound counter follows the completion (Table 14 of ch. 2). -/
def vatSetPositionBody : Body := fun id c s => do
  match s.hostRec 320 (fld c.packet 24 8) with
  | none => failDone s (stDataError, 0)
  | some r =>
    need (decide (fld r 28 4 = 0 ∧ fld r 21 2 = 0)) (stReservedNonzero, 0)
    needJob s
    need (!s.vat.running) (stConflict, 0)
    let (d, n) := s.dataRank
    let win := match s.vat.cfg with
      | some v => some (readProfile v.profile).win
      | none => none
    let gg := fld r 8 8
    let g := gg / n
    let cnt := fld r 32 8
    need (decide (fld r 4 2 = d ∧ fld r 6 2 = n ∧ win = some (fld r 24 4) ∧ gg % n = 0 ∧ (cnt = g ∨ cnt = g + 1)))
      (stDataMismatch, 0)
    let pos : VatPos := ⟨fld r 0 4, fld r 16 5, fld r 23 1, g, g⟩
    let t := { s with vat := { s.vat with position := pos } }
    if cnt = g then okDone t
    else
      .ok (.busy (((t.bump (slotBeat 9) 1).finish id (stOk, 0)).detectOpen nRestoreAligned c.ctx (BitVec.ofNat 64 g)))

def execVatSetPosition (id : Nat) (s : State) : Out' := jeisk 0x40C vatSetPositionBody id s

/-! ### Fetching and decoding (R34, R37, R41, R46, R49, R59, R61, R70, R71, R73) -/

/-- Chunks of the share of rank d in one epoch (R70). -/
def shareLen (n d dd : Nat) : Nat := (n + dd - 1 - d) / dd

/-- The source of a chunk (R37). -/
def sourceOf (ds : List (BitVec 512)) (c : Nat) : Option (BitVec 512) :=
  ds.find? (fun d => decide (srcBase d ≤ c ∧ c < srcBase d + srcCount d))

/-- An index entry that yields no samples before any decoding (R41). -/
def entrySkipped (e : BitVec 256) : Bool := decide (fld e 12 4 ≠ 0 ∧ fld e 12 4 ≠ 2) || decide (fld e 16 8 / 2 ^ 33 ≠ 0 ∨ fld e 24 8 ≠ 0)

/-- The Vat is running and not being stopped. -/
def Vat.active (v : Vat) : Bool := v.running && v.stopping.isNone

/-- CHUNK_FETCH: the next chunk of the share is fetched, while a stream unit is free and the windows have room. -/
def execChunkFetch (s : State) : Out' :=
  match s.vat.cfg with
  | none => .next s
  | some v =>
    let (d, n) := s.dataRank
    let wrap := decide (shareLen s.vat.chunks d n ≤ s.vat.k)
    let e := if wrap then s.vat.epoch + 1 else s.vat.epoch
    let k := if wrap then 0 else s.vat.k
    let c := permute (d + k * n) s.vat.chunks (epochKeys s.seed e)
    match if s.vat.active && s.vat.held.isEmpty && decide (s.vat.fetches.length < (readProfile v.profile).streams)
        && s.domOn 3 then sourceOf s.vat.sources c else none with
    | none => .next s
    | some src =>
      let next : State := { s with vat := { s.vat with epoch := e, k := k + 1, skip := 0 } }
      match s.hostRec 256 (fld src 32 8 + 32 * (c - srcBase src)) with
      | none => .next (next.bump (slotBeat 0) 1)
      | some x =>
        if entrySkipped x then .next (next.bump (slotBeat 0) 1)
        else
          let f : Fetch := { epoch := e, k := k, chunk := c, skip := s.vat.skip, source := fld src 0 4, entry := x, done := none }
          .next { next with vat := { next.vat with fetches := next.vat.fetches ++ [f] } }

/-- The window that the Vat draws from, or is to draw from next. -/
def Vat.drawWindow (v : Vat) (p : Profile) : Nat := v.copied / p.win

/-- The bytes of a sample's slot: header (Table 11) and areas. -/
def slotBytes (p : Profile) (f : Fetch) (i q : Nat) (x : Sample) : List Byte :=
  let quality := x.errClass % 16 * 2 ^ 28 + Min.min x.lost 4095 * 2 ^ 16 + Min.min x.concealed 65535
  recBytes (mkRec 512 [(0, 8, q), (8, 5, f.chunk), (13, 1, i), (16, 4, f.epoch), (20, 4, quality), (24, 8, x.pts % 2 ^ 33),
    (32, 4, x.videoTokens), (36, 2, x.audioFrames), (38, 2, x.captionTokens), (40, 4, x.subtitleBytes), (44, 4, f.source)]
    : BitVec 512) ++ x.payload.take (p.slot - 64)

/-- Samples that wait go to their slots as far as the window ahead reaches (R73). -/
def State.fillSlots (fuel : Nat) (p : Profile) (s : State) : State :=
  match fuel, s.vat.held with
  | k + 1, (q, bs) :: rest =>
    let w := q / p.win
    if s.vat.drawWindow p + 1 < w then s
    else
      let s := (s.extWrite (s.mem.carve.extent 0) (p.windowOff w (q % p.win)) bs).addOp s.vat.ctx wDramWrite bs.length
      fillSlots k p { s with vat := { s.vat with held := rest } }
  | _, _ => s

/-- Window w is full: every sample of it has been numbered and none of them waits for a slot (R75). -/
def Vat.full (v : Vat) (p : Profile) (w : Nat) : Bool :=
  decide ((w + 1) * p.win ≤ (match v.held with
    | (q, _) :: _ => q
    | [] => v.nextQ))

/-- The Vat drops the sample (R59). -/
def dropped (p : Profile) (undecodable : Bool) (x : Sample) : Bool :=
  undecodable || decide (x.errClass = 15 ∨ p.classLimit ≤ x.errClass ∨ p.lostLimit < Min.min x.lost 4095
    ∨ p.concealLimit < Min.min x.concealed 65535)

/-- A chunk larger than 2,228,224 luma samples needs four stream units of one engine (R49). -/
def undecodable (p : Profile) (r : DecodeResult) : Bool := r.undecodable || (decide (2228224 < r.area) && decide (p.streams / 64 < 4))

/-- The samples of a decoded chunk are numbered in time order (R71). -/
def State.numberChunk (s : State) (p : Profile) (f : Fetch) (r : DecodeResult) : State :=
  r.samples.zipIdx.foldl (fun s x =>
    if x.2 < f.skip then s
    else if dropped p (undecodable p r) x.1 then s.bump (slotBeat 6) 1
    else
      let q := s.vat.nextQ
      let starts := if q % p.win = 0 then tset s.vat.starts (q / p.win) (f.epoch, f.k, x.2) else s.vat.starts
      let held := s.vat.held ++ [(q, slotBytes p f x.2 q x.1)]
      { s with vat := { s.vat with nextQ := q + 1, starts := starts, held := held } }) s

/-- Chunks whose decode is done are numbered in share order (R71). -/
def State.retireChunks (fuel : Nat) (p : Profile) (s : State) : State :=
  match fuel, s.vat.fetches with
  | k + 1, f :: rest =>
    match f.done with
    | none => s
    | some r => retireChunks k p (({ s with vat := { s.vat with fetches := rest } }).numberChunk p f r)
  | _, _ => s

/-- The number of samples of a chunk (R46, R61). -/
def samplesOf (p : Profile) (r : DecodeResult) : Nat := if r.noKeyframe then 0 else Min.min 255 (r.pictures / (p.stride * p.clip))

/-- What a decoded chunk adds to the counters and to the operations done. -/
def State.countChunk (s : State) (res : DecodeResult) : State :=
  let s := if res.noKeyframe then s.bump (slotBeat 0) 1
    else s.bump (slotBeat 4) (if res.samples.isEmpty then 1 else 0)
  let s := (((s.bump (slotBeat 1) res.lostPackets).bump (slotBeat 2) res.concealedUnits).bump (slotBeat 3) res.leading).bump
    (slotBeat 5) res.subtitleTrunc
  ((s.addOp s.vat.ctx wLuma res.luma).addOp s.vat.ctx wBits res.bits).beatFlag res.flags

/-- A chunk whose decode ends after VAT_STOP fills nothing (R79); the command completes once it can. -/
def State.stoppedChunk (s : State) : State :=
  match s.vat.stopping.bind (fun id => (s.cmd id).map (fun c => (id, c))) with
  | some (id, c) => (match vatStopDone id c s with
    | some (st, t) => t.finish id st
    | none => s)
  | none => if s.vat.fetches.all (fun f => f.done.isSome) then s.vatHalt else s

/-- CHUNK_DECODE_DONE: the decode of the chunk at a place of those in flight ends with `res`. -/
def execChunkDecodeDone (pos : Nat) (res : DecodeResult) (s : State) : Out' :=
  match s.vat.cfg, s.vat.fetches[pos]? with
  | some v, some f =>
    let p := readProfile v.profile
    whenThen (s.vat.running && f.done.isNone && res.samples.length == samplesOf p res) s
      (let s := ({ s with vat := { s.vat with fetches := lupd s.vat.fetches pos (fun f => { f with done := some res }) } }).countChunk res
       if s.vat.stopping.isSome then s.stoppedChunk
       else
         let s := s.retireChunks (s.vat.fetches.length + 1) p
         s.fillSlots (s.vat.held.length + 1) p)
  | _, _ => .next s

/-! ### Drawing (R74 to R76, R78, R25) -/

/-- WINDOW_DRAW_START: every slot of the window is filled. `cycles` is how long the Vat has stalled for it, in BCLK cycles
(R75, R83). -/
def execWindowDrawStart (cycles : Nat) (s : State) : Out' :=
  match s.vat.cfg with
  | none => .next s
  | some v =>
    let p := readProfile v.profile
    let w := s.vat.drawWindow p
    whenThen (s.vat.active && s.vat.window.isNone && s.vat.full p w) s
      (let s := s.bump (slotBeat 7) (if s.vat.stalled then cycles else 0)
       { s with vat := { s.vat with window := some w, stalled := false } })

/-- The computed draw is copied to its place in the batch (R74, R76). -/
def State.copyDraw (s : State) (p : Profile) (w : Nat) : State :=
  let v := s.vat
  let i := permute (v.copied % p.win) p.win (windowKeys s.seed w s.dataRank.1)
  let e := s.mem.carve.extent 0
  let (bs, _, s) := s.extRead e (p.windowOff w i) p.slot
  let s := s.extWrite e (p.regionOff v.batches v.inBatch) bs
  let s := (s.addOp v.ctx wDramRead p.slot).addOp v.ctx wDramWrite p.slot
  let g := v.copied + 1
  let ends := decide (g % p.win = 0)
  let vat : Vat := { s.vat with copied := g, inBatch := v.inBatch + 1, window := if ends then none else some w,
                                stalled := ends && !v.full p (w + 1) }
  let s := { s with vat := vat }
  if ends then s.fillSlots (s.vat.held.length + 1) p else s

/-- VAT_DRAW: the slot of the next draw is computed, and one that has been computed is copied first, into a region that
may be filled. -/
def execVatDraw (s : State) : Out' :=
  match s.vat.cfg with
  | none => .next s
  | some v =>
    let p := readProfile v.profile
    match s.vat.window with
    | none => .next s
    | some w =>
      if !s.vat.active then .next s
      else if s.vat.drawn = s.vat.copied then .next { s with vat := { s.vat with drawn := s.vat.copied + 1 } }
      else whenThen (!s.vat.regionWait && decide (s.vat.inBatch < p.batch)) s (s.copyDraw p w)

/-- BATCH_HANDOVER: B draws stand in the region; the position is recorded and the batch token raised (R24, R76, R78,
R479). -/
def execBatchHandover (s : State) : Out' :=
  match s.vat.cfg with
  | none => .next s
  | some v =>
    let p := readProfile v.profile
    match tget s.vat.starts (s.vat.copied / p.win) with
    | none => .next s
    | some (e, k, i) =>
      whenThen (s.vat.active && s.vat.inBatch == p.batch) s
        (let n := s.vat.batches
         let pos : VatPos := ⟨e, k, i, s.vat.copied, s.vat.drawn⟩
         let h := s.vat.history ++ [(n, pos)]
         let s := s.raiseToken p.batchToken (n + 1)
         let vat : Vat := { s.vat with inBatch := 0, batches := n + 1, position := pos, history := h.drop (h.length - 64),
                                       regionWait := !s.regionFree p (n + 1) }
         { s with vat := vat })

/-- BATCH_REGION_REUSE: the release token lets the next region be filled; `cycles` is the stall in BCLK cycles (R25,
R83). -/
def execBatchRegionReuse (cycles : Nat) (s : State) : Out' :=
  match s.vat.cfg with
  | none => .next s
  | some v =>
    whenThen (s.vat.active && s.vat.regionWait && s.regionFree (readProfile v.profile) s.vat.batches) s
      { s.bump (slotBeat 8) cycles with vat := { (s.bump (slotBeat 8) cycles).vat with regionWait := false } }

end Sys2Proof.Machine
end

