-- ==== Sys2Proof/Machine/Mould.lean ====
section
/-! DEFINITION. The Mould (ch. 08): declaring and applying matrices, the choice between light and the electronic path,
tile loads, comb and ring search, the fidelity probe, departures from service and recovery. -/
namespace Sys2Proof.Machine

/-! ### Units -/

def State.unit (s : State) (u : Nat) : MouldUnit := tgetD s.mould.units u MouldUnit.atReset

def State.setUnit (s : State) (u : Nat) (m : MouldUnit) : State :=
  { s with mould := { s.mould with units := tset s.mould.units u m } }

/-- In service: state 3 or 4 (Table 6). -/
def MouldUnit.serving (m : MouldUnit) : Bool := m.state == 3 || m.state == 4

/-- Lines in service. -/
def MouldUnit.lineCount (m : MouldUnit) : Nat := ((List.range 32).filter (fun k => bit m.lines k)).length

/-- Rows of tiles, and the number of tile columns. -/
def Matrix.tileRows (x : Matrix) : Nat := ceilDiv x.m 128

/-- The units that the matrix's pinned tiles take (R323). -/
def Matrix.pinned (x : Matrix) : List Nat :=
  if x.pin = 1 then x.tiles.map (· / 128) else if x.pin = 2 ∧ ¬ x.tiles.isEmpty then [0, 1, 2, 3] else []

/-- The tile of a matrix that unit `u` holds pinned. -/
def Matrix.pinTile (x : Matrix) (u : Nat) : Option Nat :=
  if x.pin = 1 then x.tiles.find? (fun t => t / 128 == u) else if x.pin = 2 then x.tiles.head? else none

/-- A matrix other than `id` has pinned unit `u`. -/
def State.pinnedByOther (s : State) (id u : Nat) : Bool := tany s.mould.mats (fun i x => i != id && x.pinned.contains u)

/-- The pinned tile that belongs on unit `u`, if any. -/
def State.pinOf (s : State) (u : Nat) : Option (Nat × Nat) :=
  s.mould.mats.findSome? (fun e => (e.2.pinTile u).map (fun t => (e.1, t)))

/-- The units in service that may hold the tiles of a matrix (R323, R324). Pin mode 1 puts each tile row on its own unit,
so the matrix can run in light only while all of these serve (log 22). -/
def State.lightUnits (s : State) (id : Nat) (x : Matrix) : List Nat :=
  let up := (List.range 4).filter (fun u => (s.unit u).serving)
  if x.pin = 1 then (if x.pinned.all up.contains then x.pinned else [])
  else if x.pin = 2 then up
  else up.filter (fun u => !s.pinnedByOther id u)

/-! ### MOULD_DECLARE (R310 to R314, R323) -/

/-- Formats of a declared matrix (R310), of inputs and of outputs (R316). -/
def mouldMatFmt (f : Nat) : Bool := f ≤ 4 || f == fmtSPLIT32
def mouldInFmt (f : Nat) : Bool := f ≤ 4
def mouldOutFmt (f : Nat) : Bool := f ≤ 3

/-- The tile indices i × 128 + j in row-major order for which `p` holds of some element (row, column, code). -/
def tilesWhere (m k : Nat) (copy : List (BitVec 32)) (p : BitVec 32 → Bool) : List Nat :=
  let rows := chunks m k copy
  (List.range (ceilDiv m 128)).flatMap (fun i =>
    let rs := (rows.drop (128 * i)).take 128
    (List.range (ceilDiv k 128)).filterMap (fun j =>
      if rs.any (fun r => ((r.drop (128 * j)).take 128).any p) then some (128 * i + j) else none))

/-- Every block of an attached shard is frozen (R314). -/
def State.allFrozen (s : State) (p : PShard) : Bool :=
  let (map, _, _) := s.extRead (s.pressExt p.state) p.regions.frozen ((p.nb + 7) / 8)
  let v := leNat map
  (List.range p.nb).all (fun b => v.testBit b)

/-- The lowest matrix id not in use (R313). -/
def State.freeMatrix (s : State) : Option Nat := (List.range 64).find? (fun i => (tget s.mould.mats i).isNone)

/-- Nonzero tiles that the package holds (R313). -/
def State.tileTotal (s : State) : Nat := (s.mould.mats.map (fun e => e.2.tiles.length)).sum

/-- Matrix n is declared: the units that it pins hold its tiles, and the shard that it copies is resident (R314). -/
def State.declareMatrix (s : State) (n : Nat) (x : Matrix) : State :=
  let units := tmap s.mould.units (fun u y =>
    match x.pinTile u with
    | some t => { y with loaded := some (n, t) }
    | none => y)
  let shards := match x.shard with
    | some i => tmod s.press.shards i (fun p => { p with resident := p.resident ++ [n] })
    | none => s.press.shards
  { s with mould := { s.mould with mats := tset s.mould.mats n x, units := units },
           press := { s.press with shards := shards } }

def mouldDeclareBody : Body := fun id c s => do
  let k := c.packet
  let h := fld k 24 4
  let off := fld k 28 6
  let f := fld k 34 1
  let pin := fld k 35 1 % 4
  let m := fld k 36 2
  let kk := fld k 38 2
  need (f > 15 || !fmtReserved f) (stReservedNonzero, 0)
  need (mouldMatFmt f && decide (1 ≤ m ∧ m ≤ 16384 ∧ 1 ≤ kk ∧ kk ≤ 16384)) (stBadParam, 0)
  need (pin == 0 || (pin == 1 && decide (kk ≤ 128 ∧ m ≤ 512)) || (pin == 2 && decide (kk ≤ 128 ∧ m ≤ 128))) (stBadParam, 0)
  let w := fmtBits f / 8
  let e ← s.rangeFor id h off (m * kk * w)
  need (!e.hostVisible) (stBadParam, 0)
  let shard := (s.shardOf h).filter (fun p => p.2.weight == h)
  need (match shard with
    | some (_, p) => s.allFrozen p
    | none => true) (stConflict, 0)
  need (!s.lowPlane h off (m * kk * w)) (stConflict, 0)
  let (bs, bad, s) := s.extRead e off (m * kk * w)
  if bad then failDone s (stDataError, 0) else
  let copy := (unpackBits (fmtBits f) bs (m * kk)).map (BitVec.ofNat 32)
  let value (x : BitVec 32) : FVal := decodeAs (srcFmt f) x.toNat
  match tilesWhere m kk copy (fun x => !(value x).isFinite) with
  | t :: _ => .error (stBadParam, t)
  | [] =>
    let x : Matrix := { copy := copy, fmt := srcFmt f, m := m, k := kk, pin := pin, optical := (fld k 35 1).testBit 2,
                        tiles := tilesWhere m kk copy (fun x => !(value x).isZero), shard := shard.map Prod.fst }
    match s.freeMatrix with
    | none => .error (stNoResource, 0)
    | some n =>
      need (decide (s.tileTotal + x.tiles.length ≤ 256)) (stNoResource, 0)
      need (!x.pinned.any (fun u => s.pinnedByOther n u)) (stNoResource, 0)
      okDone ((s.addOp c.ctx wDramRead bs.length).declareMatrix n x) n

/-- MOULD_DECLARE: one that pins a unit starts once no MOULD_APPLY waits for a tile load on it (log 22). -/
def execMouldDeclare (id : Nat) (s : State) : Out' :=
  jeiskIf (fun _ c s => fld c.packet 35 1 % 4 == 0 || s.mould.runs.isEmpty) 0x500 mouldDeclareBody id s

/-! ### MOULD_APPLY (R316 to R325) -/

structure ApplyCmd where
  mat : Nat
  fin_ : Nat
  fout : Nat
  n : Nat
  inH : Nat
  inOff : Nat
  inStride : Nat
  outH : Nat
  outOff : Nat
  outStride : Nat

def applyCmd (p : BitVec 512) : ApplyCmd :=
  { mat := fld p 24 1, fin_ := fld p 25 1 % 16, fout := fld p 25 1 / 16, n := fld p 28 4, inH := fld p 32 4,
    inOff := fld p 36 6, inStride := fld p 42 4, outH := fld p 46 4, outOff := fld p 50 6, outStride := fld p 56 4 }

def ApplyCmd.inBytes (a : ApplyCmd) (x : Matrix) : Nat := x.k * fmtBits a.fin_ / 8
def ApplyCmd.outBytes (a : ApplyCmd) (x : Matrix) : Nat := x.m * fmtBits a.fout / 8

/-- The choice of R324 for `u` units, `l` lines in service on each and L tiles to load: t_m ≤ t_e, both in nanoseconds as
fractions. `q` idle quires, `f` in MHz. -/
def lightWins (a : ApplyCmd) (x : Matrix) (u l loads q f : Nat) : Bool :=
  let b := 128 * (fmtBits a.fin_ + fmtBits a.fout) / 8
  let t := x.tiles.length
  let base := ceilDiv loads u * 40000
  let n1 := a.n * t * b * 1000000000
  let d1 := u * Min.min (4000000000 * l * b) 16000000000000
  let p3 := match Max.max (fmtBits a.fin_) (fmtBits x.fmt) with
    | 32 => 1024
    | 16 => 3072
    | _ => 6144
  let n2 := a.n * 16384 * t * 1000 * 3
  let d2 := Max.max 8 q * 16 * p3 * f
  decide ((base * d1 + n1) * d2 ≤ n2 * d1)

/-- Idle quires of die d: no launch holds a cluster of them. -/
def State.idleQuires (s : State) (d : Nat) : Nat :=
  ((List.range 32).filter (fun q => !s.sheet.launches.any (fun l => l.2.held.any (fun cl => cl / 16 == 32 * d + q)))).length

/-- Idle quires of the package, and the MCLK in MHz of the die that has the most of them (the lowest such die). -/
def State.idleDie (s : State) : Nat × Nat :=
  let qs := (List.range 4).map s.idleQuires
  let best := qs.foldl Max.max 0
  let d := (qs.findIdx? (· == best)).getD 0
  (qs.sum, 100 * (tgetD s.pwr.clks (1 + d) Clk.atReset).j)

/-- The unit that a tile row runs on: one that has a tile of it loaded, else the units in turn (R317, R325). -/
def State.rowUnit (s : State) (id : Nat) (us : List Nat) (row : Nat) : Nat :=
  match us.find? (fun u => match (s.unit u).loaded with
    | some (i, t) => i == id && t / 128 == row
    | none => false) with
  | some u => u
  | none => (us[row % us.length]?).getD 0

/-- Tiles of a matrix that are not loaded on one of the units (R324). -/
def State.unloaded (s : State) (id : Nat) (x : Matrix) (us : List Nat) : List Nat :=
  if x.pin ≠ 0 then [] else x.tiles.filter (fun t => !us.any (fun u => (s.unit u).loaded == some (id, t)))

/-- The units that R324 gives a MOULD_APPLY in light; `none` for the electronic path. -/
def State.lightChoice (s : State) (a : ApplyCmd) (x : Matrix) : Option (List Nat) :=
  let us := s.lightUnits a.mat x
  if x.optical && !us.isEmpty
      && lightWins a x us.length (us.foldl (fun l u => Min.min l (s.unit u).lineCount) 32) (s.unloaded a.mat x us).length
          s.idleDie.1 s.idleDie.2
  then some us else none

/-- What an input vector is (R319). -/
inductive VecKind where
  | nan
  | inf
  | zero
  | plain
deriving DecidableEq, Repr

def vecKind (vs : List FVal) : VecKind :=
  if vs.any FVal.isNaN then .nan else if vs.any (fun v => !v.isFinite) then .inf
  else if vs.all FVal.isZero then .zero else .plain

/-- A row of outputs on the electronic path (R318): K-blocks of 32 products, pairwise sums, one rounding. -/
def electronicRow (a : ApplyCmd) (x : Matrix) (codes : List Nat) : List (Nat × Flags) :=
  let els := codes.map (mElem a.fin_)
  (chunks x.m x.k x.copy).map (fun r =>
    let ps := (r.zip els).map (fun p => mProduct (mElem x.fmt p.1.toNat) p.2)
    let pad := ps ++ List.replicate (roundUp x.k 32 - x.k) (FVal.zero, (0 : Flags))
    let sum := (levelFold 12 f32AddF ((chunks (ceilDiv x.k 32) 32 pad).map kSumTree)).getD (0, 0)
    let (code, fl) := fencode a.fout .even (f32 sum.1)
    (code, groupFlags sum.2 ||| fl))

/-- A row of outputs in light (R317, R320): each output is a free value, finite, rounded once to the output format; a tile
row with no nonzero tile gives +0. -/
def lightRow (a : ApplyCmd) (x : Matrix) (draw v : Nat) : List (Nat × Flags) :=
  (List.range x.m).map (fun i =>
    if x.tiles.any (fun t => t / 128 == i / 128) then
      let y := f32 (Config.lightOutput draw (v * x.m + i))
      fencode a.fout .even (if y.isFinite then y else .zero)
    else (0, 0))

/-- The outputs and flags of one input vector (R319, R320). -/
def mouldRow (a : ApplyCmd) (x : Matrix) (light : Option Nat) (v : Nat) (codes : List Nat) : List Nat × Flags :=
  let inexact : Flags := if light.isSome then 1 else 0
  match vecKind (codes.map (decodeAs a.fin_)) with
  | .nan => (List.replicate x.m (fmtNaN a.fout), 0)
  | .inf => (List.replicate x.m (fmtNaN a.fout), flagInvalid ||| inexact)
  | .zero => (List.replicate x.m 0, inexact)
  | .plain =>
    let r := match light with
      | some d => lightRow a x d v
      | none => electronicRow a x codes
    (r.map Prod.fst, r.foldl (fun f p => f ||| p.2) inexact)

/-- Vectors that each of the units computes: a matrix pinned on every unit spreads them, otherwise each unit sees all. -/
def vectorShare (x : Matrix) (n count pos : Nat) : Nat :=
  if x.pin = 2 then n / count + b2n (decide (pos < n % count)) else n

/-- What vector v of an apply adds: the bytes to write, the flags, and whether a word was poisoned. -/
def mouldVector (a : ApplyCmd) (x : Matrix) (light : Option Nat) (e : Extent) (ib : Nat)
    (acc : List (Nat × List Byte) × Flags × Bool × State) (v : Nat) : List (Nat × List Byte) × Flags × Bool × State :=
  let (bs, bad, t) := acc.2.2.2.extRead e (a.inOff + v * a.inStride) ib
  let (codes, fl) := mouldRow a x light v (unpackBits (fmtBits a.fin_) bs x.k)
  ((a.outOff + v * a.outStride, packBits (fmtBits a.fout) codes) :: acc.1, acc.2.1 ||| fl, acc.2.2.1 || bad, t)

/-- A unit's share of a run in light: flags, vectors counted, and the probe sequence that its completion gives (R335). -/
def State.lightDone (s : State) (u : Nat) (fl : Flags) (n detail : Nat) : State :=
  let t := (s.mouldFlag u fl).bump (slotMould 0 u) n
  t.setUnit u { t.unit u with done := (t.unit u).done ++ [detail] }

/-- The work of a MOULD_APPLY, in light on `us` or, with none, on the electronic path: its outputs, flags and counts, and
the status and detail with which it completes (R316 to R321, R335). -/
def State.mouldCompute (s : State) (id : Nat) (c : CmdRec) (a : ApplyCmd) (x : Matrix) (us : List Nat) : Cause × State :=
  let ib := a.inBytes x
  let ob := a.outBytes x
  let e := s.pressExt a.inH
  let o := s.pressExt a.outH
  let (d, s) := s.draw
  let light := if us.isEmpty then none else some d
  let r := (List.range a.n).foldl (mouldVector a x light e ib) ([], 0, false, s)
  let s := r.2.2.2.addOp c.ctx wDramRead (a.n * ib)
  if r.2.2.1 then ((stDataError, 0), s) else
  let fl := if us.isEmpty then r.2.1 else r.2.1 ||| (Config.lightFlags d &&& flagOverflow)
  let s := r.1.foldr (fun p s => s.extWrite o p.1 p.2) s
  let s := (s.addOp c.ctx wDramWrite (a.n * ob)).cmdFlags id fl
  let macs := a.n * 16384 * x.tiles.length
  if us.isEmpty then ((stOk, 0xFFFFFFFF), (s.addOp c.ctx wMouldElec macs).bump (slotMould 1 (Config.elecUnit d % 4)) a.n)
  else
    let detail := us.foldl (fun m u => Min.min m (s.unit u).probeSeq) (2 ^ 32 - 1)
    let s := us.zipIdx.foldl (fun s p => s.lightDone p.1 fl (vectorShare x a.n us.length p.2) detail) s
    ((stOk, detail), s.addOp c.ctx wMouldMacs macs)

/-- A tile load begins on each idle unit that a light run needs next (R325). -/
def State.nextLoads (s : State) : State :=
  (List.range 4).foldl (fun s u =>
    let m := s.unit u
    if m.loading.isSome then s else
    match s.mould.runs.findSome? (fun r => (r.work.find? (fun w => w.1 == u)).map (fun w => (r.id, w.2))) with
    | some t => s.setUnit u { m with loading := some t, loadAt := s.time }
    | none => s) s

/-- The command's placement word counts the Mould units used (Table 7 of ch. 15). -/
def State.placeUnits (s : State) (id n : Nat) : State :=
  { s with host := { s.host with cmds := tmod s.host.cmds id (fun c => { c with place := setBits c.place 23 20 n }) } }

def mouldApplyBody : Body := fun id c s => do
  let a := applyCmd c.packet
  need (!fmtReserved a.fin_ && !fmtReserved a.fout) (stReservedNonzero, 0)
  need (mouldInFmt a.fin_ && mouldOutFmt a.fout && decide (1 ≤ a.n)) (stBadParam, 0)
  match tget s.mould.mats a.mat with
  | none => .error (stBadParam, 0)
  | some x =>
    let il := (a.n - 1) * a.inStride + a.inBytes x
    let ol := (a.n - 1) * a.outStride + a.outBytes x
    let _ ← s.rangeFor id a.inH a.inOff il
    let _ ← s.rangeFor id a.outH a.outOff ol
    need (!s.lowPlane a.inH a.inOff il && !s.writeGuarded a.outH) (stConflict, 0)
    match s.lightChoice a x with
    | none => let (st, t) := s.mouldCompute id c a x []
              .ok (.done st t)
    | some us =>
      let t := s.placeUnits id us.length
      let work := (s.unloaded a.mat x us).map (fun k => (t.rowUnit a.mat us (k / 128), k))
      if work.isEmpty then let (st, t) := t.mouldCompute id c a x us
                           .ok (.done st t)
      else
        let run : LightRun := { cmd := id, id := a.mat, mat := x, units := us, work := work }
        .ok (.busy ({ t with mould := { t.mould with runs := t.mould.runs ++ [run] } }).nextLoads)

def execMouldApply (id : Nat) (s : State) : Out' := jeisk 0x501 mouldApplyBody id s

/-- A light run ends: its outputs are computed, in light or on the electronic path, and its command completes. -/
def State.endRun (s : State) (r : LightRun) (light : Bool) : State :=
  let s := { s with mould := { s.mould with runs := s.mould.runs.filter (fun q => q.cmd != r.cmd) } }
  match s.cmd r.cmd with
  | none => s
  | some c =>
    let (st, t) := s.mouldCompute r.cmd c (applyCmd c.packet) r.mat (if light then r.units else [])
    t.finish r.cmd st

/-- Tile k of matrix i is loaded on a unit: the runs that waited for it go on, those with no more to load complete. -/
def State.loadedTile (s : State) (unit i k : Nat) : State :=
  let t := s.bump (slotMould 2 unit) 1
  let runs := t.mould.runs.map (fun r => if r.id = i then { r with work := r.work.filter (fun w => w != (unit, k)) } else r)
  let t := { t with mould := { t.mould with runs := runs } }
  ((runs.filter (fun r => r.work.isEmpty)).foldl (fun s r => s.endRun r true) t).nextLoads

/-- TILE_LOAD_DONE (R325): the heaters of a unit have settled, 40 µs after the load began; runs that wait for nothing more
complete in light. -/
def execTileLoadDone (unit at_ : Nat) (s : State) : Out' :=
  inRange (unit < 4) unit
    (let t := s.advance at_
     let m := t.unit unit
     match m.loading with
     | none => .next s
     | some (i, k) =>
       whenThen (decide (m.loadAt + us 40 ≤ t.time)) s
         ((t.setUnit unit { m with loading := none, loaded := if (tget t.mould.mats i).isSome then some (i, k) else none }).loadedTile
           unit i k))

/-! ### MOULD_RELEASE (R315) -/

/-- A matrix is discarded; the shard that it made resident is resident no longer (R314). -/
def State.dropMatrix (s : State) (i : Nat) : State :=
  { s with
    mould := { s.mould with mats := tdel s.mould.mats i,
                            units := tmap s.mould.units (fun _ u => match u.loaded with
                              | some (j, _) => if j = i then { u with loaded := none } else u
                              | none => u) }
    press := { s.press with shards := tmap s.press.shards (fun _ p => { p with resident := p.resident.filter (· != i) }) } }

def mouldReleaseBody : Body := fun _ c s => do
  let i := fld c.packet 24 1
  need (tget s.mould.mats i).isSome (stBadParam, 0)
  need (!s.host.cmds.any (fun e => pktOp e.2.packet == 0x501 && fld e.2.packet 24 1 == i)) (stConflict, 0)
  okDone (s.dropMatrix i)

def execMouldRelease (id : Nat) (s : State) : Out' := jeisk 0x502 mouldReleaseBody id s

/-! ### MOULD_QUERY (R340) -/

/-- The record of Table 8. -/
def MouldUnit.record (m : MouldUnit) : BitVec 512 :=
  mkRec 512 [(0, 1, m.state), (1, 1, m.flags.toNat), (2, 1, m.sect), (3, 1, m.reason), (4, 4, m.lines.toNat),
    (8, 4, m.lastPass), (12, 4, m.rms.toNat), (16, 4, m.maxErr.toNat),
    (20, 4, match m.loaded with
      | some (i, t) => i + 65536 * t
      | none => 0xFFFFFFFF),
    (24, 4, m.excess.toNat), (28, 4, m.parked.length), (32, 8, m.tPass), (40, 8, m.tCal), (48, 4, m.fallbacks)]

def mouldQueryBody : Body := fun _ c s => do
  let out := fld c.packet 24 8
  need (decide (out % 32 = 0)) (stBadParam, 0)
  let t := s.hostWrite out ((List.range 4).flatMap (fun u => recBytes (s.unit u).record))
  okDone (if (fld c.packet 32 1).testBit 0 then
    { t with mould := { t.mould with units := tmap t.mould.units (fun _ u => { u with flags := 0 }) } } else t)

def execMouldQuery (id : Nat) (s : State) : Out' := jeisk 0x503 mouldQueryBody id s

/-! ### Leaving service and recovery (R327, R336 to R339) -/

/-- The comb of a unit starts; ring search and calibration follow (R327, R339, Table 10). -/
def MouldUnit.tune (m : MouldUnit) : MouldUnit :=
  { m with state := 1, comb := true, calibrating := false, hadamard := false, probing := false, passes := 0, drift := 0,
           lines := 0, searching := [], parked := [] }

/-- The MOULD_RETUNE of a unit ends (R339). -/
def State.endRetune (s : State) (u detail : Nat) : State :=
  match (s.unit u).retune with
  | none => s
  | some id => (s.setUnit u { s.unit u with retune := none }).finish id (stOk, detail)

/-- mould_ready: the bring-up of every unit has ended, in service or not (Table 5 of ch. 11, R538). -/
def State.judgeMould (s : State) : State :=
  if (List.range 4).all (fun u => (s.unit u).serving || (s.unit u).state == 6) && s.domOn 19
  then { s with host := { s.host with mouldReady := true } } else s

/-- The unit is held out (R337, R541): a running MOULD_RETUNE completes with detail 1. -/
def State.holdOut (s : State) (u : Nat) : State :=
  ((s.setUnit u { s.unit u with state := 6, comb := false, calibrating := false, hadamard := false, probing := false,
                                failures := 0, passes := 0, searching := [] }).endRetune u 1).judgeMould

/-- A recovery has ended without 10 passes (R337). -/
def State.failRecovery (s : State) (u : Nat) : State :=
  let m := s.unit u
  if m.failures + 1 ≥ 3 then s.holdOut u
  else s.setUnit u { m with failures := m.failures + 1, calibrating := true, hadamard := false, passes := 0 }

/-- The unit leaves service for a reason of Table 7 with a notice (reasons 1 to 4): N_MOULD_FALLBACK, black-box entry,
counters; every MOULD_APPLY that runs on it restarts on the electronic path (R336). -/
def State.fallback (s : State) (u reason locator : Nat) : State :=
  let m := s.unit u
  let suspect := (m.done.filter (fun d => decide (m.lastPass ≤ d))).length
  let data : BitVec 64 := BitVec.ofNat 64 (u + reason * 16 + locator * 256 + m.lastPass * 2 ^ 32)
  let m := { m with reason := reason, fallbacks := m.fallbacks + 1, loading := none, probing := false, passes := 0,
                    drift := 0, failures := 0 }
  let m := if reason = 4 then m.tune else if reason = 2 then { m with state := 1 }
           else { m with state := 5, calibrating := true }
  let s := (s.setUnit u m).bump (slotMould 5 u) 1
  let s := s.detect nMouldFallback 0xFFFF data (BitVec.ofNat 32 suspect)
  let s := s.bbPush 8 (noticeRec 0 nMouldFallback ⟨0xFFFF, s.dk.now, data, BitVec.ofNat 32 suspect⟩ 0) []
  ((s.mould.runs.filter (fun r => r.units.contains u)).foldl (fun s r => s.endRun r false) s).nextLoads

/-- The lines that the unit can use: line k is out while ring k of a bus has failed, or while a bus searches ring k or a
ring below it (R329, R330). -/
def MouldUnit.linesNow (m : MouldUnit) : BitVec 32 :=
  BitVec.ofNat 32 ((List.range 32).foldl (fun a k =>
    if m.parked.any (fun r => r % 32 == k) || m.searching.any (fun r => decide (r % 32 ≤ k)) then a else a + 2 ^ k) 0)

/-- The unit returns to service (R337) with its pinned tile loaded. -/
def State.enterService (s : State) (u : Nat) : State :=
  let m := s.unit u
  let m := { m with state := if m.lines = 0xFFFFFFFF then 3 else 4, hadamard := false, passes := 0, failures := 0, drift := 0,
                    loaded := match s.pinOf u with
                      | some p => some p
                      | none => m.loaded }
  ((s.setUnit u m).endRetune u 0).judgeMould

/-- MOULD_RETUNE (R339): it completes when the unit has returned to service or has been held out. -/
def mouldRetuneBody : Body := fun id c s => do
  let u := fld c.packet 24 1
  need (decide (u < 4)) (stBadParam, 0)
  need (s.unit u).retune.isNone (stConflict, 0)
  .ok (.busy (s.setUnit u { (s.unit u).tune with reason := 6, retune := some id, failures := 0 }))

def execMouldRetune (id : Nat) (s : State) : Out' := jeisk 0x504 mouldRetuneBody id s

/-- COMB_LOST (R327): reason 4 if the unit serves; the comb restarts and the rings of every bus are searched again. -/
def execCombLost (unit : Nat) (s : State) : Out' :=
  inRange (unit < 4) unit
    (whenThen ((s.unit unit).state != 0 && (s.unit unit).state != 6) s
      (if (s.unit unit).serving then s.fallback unit 4 0xFF else s.setUnit unit (s.unit unit).tune))

/-- COMB_START_DONE (R327, R328): the comb has reached its line state and its tones are identified; every bus is searched
from ring 0. -/
def execCombStartDone (unit : Nat) (s : State) : Out' :=
  inRange (unit < 4) unit
    (let m := s.unit unit
     whenThen m.comb s
       (s.setUnit unit { m with comb := false, searching := (List.range 256).map (· * 32), parked := [], lines := 0 }))

/-- RING_SEARCH_DONE (R328, R329): ring i of a bus is locked or lost; the next ring of the bus is searched. Once no bus is
searched a unit that is tuning goes on to calibration; one with no line at all has failed a recovery. -/
def execRingSearchDone (unit bus ring : Nat) (locked : Bool) (s : State) : Out' :=
  inRange (unit < 4 ∧ bus < 256 ∧ ring < 32) unit
    (let m := s.unit unit
     let r := bus * 32 + ring
     whenThen (m.searching.contains r) s
       (let rest := m.searching.filter (· != r)
        let m := { m with searching := if ring < 31 then rest ++ [r + 1] else rest,
                          parked := if locked then m.parked else m.parked ++ [r] }
        let m := { m with lines := m.linesNow }
        let m := if m.serving then { m with state := if m.lines = 0xFFFFFFFF then 3 else 4 } else m
        let s := s.setUnit unit m
        if m.searching.isEmpty && m.state == 1 then
          (if m.lines = 0 then s.holdOut unit else s.setUnit unit { m with state := 2, calibrating := true })
        else s))

/-- RING_DITHER_CHECK (R330): a wrongly locked ring and the rings above it on its bus are searched again. While the search
lasts the unit computes on the lines below; with none left it leaves service under reason 2. -/
def execRingDitherCheck (unit bus ring : Nat) (wrong : Bool) (s : State) : Out' :=
  inRange (unit < 4 ∧ bus < 256 ∧ ring < 32) unit
    (let m := s.unit unit
     let r := bus * 32 + ring
     whenThen (wrong && m.state != 0 && m.state != 6 && !m.comb && !m.parked.contains r
         && !m.searching.any (fun q => q / 32 == bus && decide (q ≤ r))) s
       (let m := { m with parked := m.parked.filter (fun q => !(q / 32 == bus && decide (r ≤ q))),
                          searching := m.searching.filter (fun q => q / 32 != bus) ++ [r] }
        let m := { m with lines := m.linesNow }
        let s := (s.setUnit unit m).bump (slotMould 7 unit) 1
        if m.serving then
          (if m.lines = 0 then s.fallback unit 2 ring else s.setUnit unit { m with state := 4 })
        else s))

/-- RECALIBRATION_DONE (R337): probing on Hadamard vectors begins. -/
def execRecalibrationDone (unit : Nat) (s : State) : Out' :=
  inRange (unit < 4) unit
    (let m := s.unit unit
     whenThen m.calibrating s
       (let s := s.setUnit unit { m with calibrating := false, hadamard := true, passes := 0, tCal := s.dk.now }
        if m.reason = 0 then s else s.bump (slotMould 6 unit) 1))

/-! ### The fidelity probe (R331 to R338) -/

/-- 1.0 dB and 3.0 dB, and the error bounds 2⁻³, 2⁻⁶ and 2⁻⁷, in FP32. -/
def dB1 : BitVec 32 := 0x3F800000
def dB3 : BitVec 32 := 0x40400000
def errMax : BitVec 32 := 0x3E000000
def rmsMax : BitVec 32 := 0x3C800000
def rmsDrift : BitVec 32 := 0x3C000000

/-- a ≤ b as FP32 numbers; false where either is NaN. -/
def f32Le (a b : BitVec 32) : Bool :=
  match FVal.cmp (f32 a) (f32 b) with
  | some .gt => false
  | some _ => true
  | none => false

/-- PROBE_CAPTURE (R331 to R333): a unit in service, or one probed for its return, captures a probe every 10 ms and reads
every plane; an excess loss of 3.0 dB or more takes it out of service. -/
def execProbeCapture (unit at_ sect : Nat) (excess : BitVec 32) (s : State) : Out' :=
  inRange (unit < 4 ∧ sect < 17) unit
    (let t := s.advance at_
     let m := t.unit unit
     whenThen ((m.serving || m.hadamard) && !m.probing && (m.probeSeq == 0 || decide (m.captureAt + ms 10 ≤ t.time))) s
       (let t := t.setUnit unit { m with probeSeq := (m.probeSeq + 1) % 2 ^ 32, captureAt := t.time, probing := true,
                                         excess := excess, sect := if f32Le dB1 excess then sect else 0xFF }
        if m.serving && f32Le dB3 excess then t.fallback unit 3 sect else t))

/-- PROBE_VERDICT (R322, R334, R336 to R338). -/
def execProbeVerdict (unit : Nat) (rms maxErr : BitVec 32) (s : State) : Out' :=
  inRange (unit < 4) unit
    (let m := s.unit unit
     whenThen m.probing s
       (let m := { m with probing := false, rms := rms, maxErr := maxErr }
        if f32Le rms rmsMax && f32Le maxErr errMax then
          let drift := if f32Le rms rmsDrift then 0 else m.drift + 1
          let m := { m with lastPass := m.probeSeq, tPass := s.dk.now, done := m.done.filter (fun d => decide (m.probeSeq ≤ d)) }
          let s := s.bump (slotMould 3 unit) 1
          if m.hadamard then
            (let s := s.setUnit unit { m with passes := m.passes + 1 }
             if m.passes + 1 ≥ 10 then s.enterService unit else s)
          else if drift ≥ 3 then
            s.setUnit unit { m with state := 2, reason := 5, calibrating := true, drift := 0, failures := 0 }
          else s.setUnit unit { m with drift := drift }
        else
          let s := (s.setUnit unit m).bump (slotMould 4 unit) 1
          if m.serving then s.fallback unit 1 0xFF else s.failRecovery unit))

end Sys2Proof.Machine
end

