-- ==== Sys2Proof/Machine/Fence.lean ====
section
/-! DEFINITION. Beats and fencing (R416 to R418, R569, R570, R572 to R577): PKG_FENCE, BEAT_SEND_TIMER, BEAT_RECEIVE,
MEMBER_SILENT_TIMEOUT, LEAD_SILENT_TIMEOUT, FENCE_REQUEST_RECEIVE, FENCE_LIST_RECEIVE. -/
namespace Sys2Proof.Machine

/-- The member is fenced, as this package knows. -/
def State.isFenced (s : State) (pkg : Nat) : Bool := s.fail.fenced.any (fun f => f.1 == pkg)

/-- The member that this package takes as the lead: the lowest unfenced package id (R107, R576). -/
def State.curLead (s : State) (j : Job) : Nat := leadOf (j.members.filter (fun m => !s.isFenced m.pkg))

/-! ### A member newly fenced (R416 to R418, R574, R241) -/

/-- The fence of package `pkg` takes effect on this member: N_FENCED, a black-box record of kind 6, and steps to which it
contributes are abandoned. Transfers follow once every new name is known. -/
def State.noteFenced (s : State) (j : Job) (pkg reason : Nat) : State :=
  let s := { s with fail := { s.fail with fenced := s.fail.fenced ++ [(pkg, reason)] } }
  let data := fencedData pkg reason j.generation
  let s := s.detect nFenced 0xFFFF data (BitVec.ofNat 32 j.id)
  let s := s.bbPush 6 (noticeRec 0 nFenced ⟨0xFFFF, s.dk.now, data, BitVec.ofNat 32 j.id⟩ 0) []
  s.abandonFenced pkg

/-- PKG_FENCE commands that wait for the fence of a package that is now fenced complete (R577). -/
def State.endPkgFences (s : State) : State :=
  s.host.cmds.foldl (fun s e =>
    if e.2.phase == .started && pktOp e.2.packet == 0x708 && s.isFenced (fld e.2.packet 24 2) then s.finish e.1 (stOk, 0)
    else s) s

/-- A sink frame (Tables 2 and 4 of ch. 16). -/
def sinkFrame (kind job gen round : Nat) (words : List Unit16) : List Unit16 :=
  mkRec 128 [(0, 1, 4), (1, 1, kind), (4, 4, job), (8, 4, gen), (12, 4, round)] :: words

/-- The physical link of the lead's sink edge. -/
def State.sinkEdge (s : State) (j : Job) : Option Nat :=
  if hopPresent j.sinkLink then some (s.physLink (hopLink j.sinkLink)) else none

/-- A round is abandoned here: every hold ends (R589), and a CKPT_SAVE of scope 1 that waited for it completes with
ST_NO_RESOURCE (R587). -/
def State.dropRound (s : State) : State :=
  if s.ckpt.called.isNone then s else
  let s := { s with ckpt := { s.ckpt with called := none, holds := [], late := [] } }
  s.host.cmds.foldl (fun s e =>
    if e.2.phase == .started && pktOp e.2.packet == 0x702 && fld e.2.packet 30 1 == 1 then s.finish e.1 (stNoResource, 0)
    else s) s

/-- A fence list has reached the lead: the sink abandons its round, which the abandon frame tells it and the members
(R589). -/
def State.abandonRounds (s : State) (j : Job) : State :=
  if s.isLead && s.job.sinkOn then
    let ws := sinkFrame 6 j.id j.generation s.ckpt.round []
    let s := match s.sinkEdge j with
      | some l => s.linkFrame l 6 ws
      | none => s
    let s := j.members.foldl (fun s m => if m.pkg = s.pkgId then s else s.sendFrame m.pkg ws) s
    s.dropRound
  else s

/-- New names take effect on this member. Where this package is among them, its job commands end (R575). -/
def State.applyFences (s : State) (j : Job) (new : List (Nat × Nat)) : State :=
  let s := new.foldl (fun s f => if s.isFenced f.1 then s else s.noteFenced j f.1 f.2) s
  let s := s.fenceXfers.endPkgFences.abandonRounds j
  match new.find? (fun f => f.1 == s.pkgId) with
  | some f => s.becomeFenced f.2
  | none => s

/-- The lead fences a member: the list goes out, and takes effect here (R572, R573). -/
def State.leadFence (s : State) (pkg reason : Nat) : State :=
  match s.job.job with
  | none => s
  | some j =>
    if s.isFenced pkg || (j.pos pkg).isNone then s
    else
      let t := { s with fail := { s.fail with fenced := s.fail.fenced ++ [(pkg, reason)] } }.sendFenceList
      ({ t with fail := { t.fail with fenced := s.fail.fenced } }).applyFences j [(pkg, reason)]

/-- This package becomes the acting lead (R576) and fences the lead with reason 2, unless it is fenced already. -/
def State.actAsLead (s : State) (j : Job) (silent : Option Nat) : State :=
  let s := { s with fail := { s.fail with actingLead := true, heard := j.members.foldl (fun t m => tset t m.pkg s.time) s.fail.heard } }
  match silent with
  | some p => s.leadFence p 2
  | none => s

/-! ### PKG_FENCE (R577) -/

def pkgFenceBody : Body := fun _ c s => do
  let pkg := fld c.packet 24 2
  let reason := fld c.packet 26 1
  need (decide (1 ≤ reason ∧ reason ≤ 8)) (stBadParam, 0)
  match s.job.job with
  | none => .error (stConflict, 0)
  | some j =>
    need (j.pos pkg).isSome (stBadParam, 0)
    if s.isFenced pkg then okDone s
    else if s.isLead then okDone (s.leadFence pkg reason)
    else .ok (.busy (s.send (.fenceRequest (s.curLead j) pkg reason)))

def execPkgFence (id : Nat) (s : State) : Out' := jeisk 0x708 pkgFenceBody id s

/-! ### Beats (R570) -/

/-- The codeword of a beat frame (Table 2 of ch. 16). -/
def beatWord (j : Job) (seq_ : Nat) : Unit16 := mkRec 128 [(0, 1, 3), (4, 4, j.id), (8, 4, j.generation), (12, 4, seq_)]

/-- BEAT_SEND_TIMER: every 1 ms while a job is placed. -/
def execBeatSendTimer (at_ : Nat) (s : State) : Out' :=
  let t := s.advance at_
  match t.job.job with
  | none => .next s
  | some j =>
    whenThen (decide (t.fail.beatAt + ms 1 ≤ t.time) && t.fail.selfFenced.isNone) s
      (let q := (t.fail.beatSeq + 1) % 2 ^ 32
       let w := [beatWord j q]
       let t := { t with fail := { t.fail with beatSeq := q, beatAt := t.time } }
       if t.isLead then j.members.foldl (fun t m => if m.pkg = t.pkgId then t else t.sendFrame m.pkg w) t
       else t.sendFrame (t.curLead j) w)

/-- BEAT_RECEIVE: the sender has been heard. -/
def execBeatReceive (pkg job _gen _seq at_ : Nat) (s : State) : Out' :=
  let t := s.advance at_
  match t.job.job with
  | none => .next s
  | some j =>
    whenThen (decide (j.id = job) && (j.pos pkg).isSome && pkg != t.pkgId) s
      { t with fail := { t.fail with heard := tset t.fail.heard pkg t.time } }

/-- The member has not been heard from for 20 ms. -/
def State.silent (s : State) (pkg : Nat) : Bool := decide (tgetD s.fail.heard pkg 0 + ms 20 ≤ s.time)

/-- MEMBER_SILENT_TIMEOUT: the lead fences it, reason 2. -/
def execMemberSilentTimeout (pkg at_ : Nat) (s : State) : Out' :=
  let t := s.advance at_
  match t.job.job with
  | none => .next s
  | some j =>
    whenThen (t.isLead && t.fail.selfFenced.isNone && (j.pos pkg).isSome && pkg != t.pkgId && !t.isFenced pkg && t.silent pkg) s
      (t.leadFence pkg 2)

/-- LEAD_SILENT_TIMEOUT (R576): this package has the lowest id beside a lead that is silent, or the lowest unfenced id
while the lead is fenced. -/
def execLeadSilentTimeout (at_ : Nat) (s : State) : Out' :=
  let t := s.advance at_
  match t.job.job with
  | none => .next s
  | some j =>
    let lead := t.curLead j
    let rest := leadOf (j.members.filter (fun m => !t.isFenced m.pkg && m.pkg != lead))
    if t.isLead || t.fail.selfFenced.isSome then .next s
    else if lead = t.pkgId then .next (t.actAsLead j none)
    else whenThen (rest == t.pkgId && t.silent lead) s (t.actAsLead j (some lead))

/-! ### Requests and lists (R572 to R575) -/

/-- FENCE_REQUEST_RECEIVE: the lead sends a fence list. -/
def execFenceRequestReceive (pkg reason : Nat) (s : State) : Out' :=
  whenThen (s.isLead && decide (1 ≤ reason ∧ reason ≤ 8)) s (s.leadFence pkg reason)

/-- FENCE_LIST_RECEIVE: the names that are new take effect (R416 to R418, R574, R575). -/
def execFenceListReceive (job gen seq_ : Nat) (entries : List (Nat × Nat)) (s : State) : Out' :=
  match s.job.job with
  | none => .next s
  | some j =>
    let new := entries.filter (fun e => (j.pos e.1).isSome && !s.isFenced e.1)
    whenThen (decide (j.id = job ∧ j.generation = gen ∧ s.fail.fenceSeq < seq_)) s
      ({ s with fail := { s.fail with fenceSeq := seq_ } }.applyFences j new)

end Sys2Proof.Machine
end

