-- ==== Sys2Proof/Machine/Sink.lean ====
section
/-! DEFINITION. The snapshot sink, checkpoint rounds, save and restore (R32, R409, R579 to R595). -/
namespace Sys2Proof.Machine

/-! ### Digests and manifests (R582, Tables 6 to 9 of ch. 16) -/

/-- G: bytes of the high planes of every shard (R581). -/
def Sink.gathered (k : Sink) : Nat := (k.shards.map (fun x => 2 * x.1)).sum

/-- Bytes 0 to 95 of the manifest header. -/
def manifestHead (k : Sink) (r : Round) (now : Nat) : List Byte :=
  recBytes (mkRec 768 [(0, 2, 1), (4, 4, k.job), (8, 8, r.step), (16, 4, r.number), (20, 4, k.shards.length),
    (24, 2, Config.sinkRanks k.job), (28, 4, k.generation), (32, 32, (Config.sinkSeedDigest k.job).toNat),
    (64, 8, Config.serial.toNat), (72, 8, now), (80, 4, k.complete), (84, 4, k.discarded), (88, 4, k.stale)] : BitVec 768)

/-- The entries of a manifest: shards in index order, then ranks in order. -/
def Round.entryBytes (r : Round) : List Byte :=
  r.entries.flatMap (fun e => recBytes e.2) ++ r.ranks.flatMap (fun e => recBytes e.2)

/-- The manifest of a sealed round (Table 5), signed under `WQ-CKPT`. -/
def manifestBytes (k : Sink) (r : Round) (now draw : Nat) : List Byte :=
  let head := manifestHead k r now
  let root := sm3 (head ++ r.entryBytes)
  let cert := Config.watermark
  head ++ recBytes root ++ r.entryBytes ++ recBytes (Config.sm2Sign 2 root draw) ++ leBytes 2 cert.length
    ++ List.replicate 62 0 ++ cert

/-! ### The sink's role -/

def State.setSink (s : State) (k : Option Sink) : State := { s with ckpt := { s.ckpt with sink := k } }

/-- A sink frame to the lead. -/
def State.toLead (s : State) (k : Sink) (kind round : Nat) (words : List Unit16) : State :=
  s.linkFrame k.link 6 (sinkFrame kind k.job k.generation round words)

/-- The sink opens a round and calls step t + 3 (R585). -/
def State.openRound (s : State) (k : Sink) : State :=
  let n := k.rounds + 1
  let step := k.high + 3
  let k := { k with rounds := n, round := some { number := n, step := step, entries := [], ranks := [], copied := false,
                                                 digests := [] } }
  (s.setSink (some k)).toLead k 3 n [mkRec 128 [(0, 6, step)]]

/-- An open round is abandoned: the abandon frame goes to the lead (R589). -/
def State.abandonRound (s : State) (k : Sink) : State :=
  match k.round with
  | none => s
  | some r => (s.setSink (some { k with round := none })).toLead k 6 r.number []

/-- An abandoned round is followed at once by a new one (R589). -/
def State.reopenRound (s : State) (k : Sink) : State :=
  if k.round.isNone then s else (s.abandonRound k).openRound { k with round := none }

/-- A frame from the lead carries another placement generation: every record and copy is cleared, and an open round is
abandoned (R583). -/
def State.newGeneration (s : State) (k : Sink) (gen : Nat) : State :=
  let k' := { k with generation := gen, asm := [], copy := none, copyBytes := [] }
  if k.round.isSome then (s.abandonRound k).openRound { k' with round := none } else s.setSink (some k')

/-- Status of an entry (Table 8). -/
def entryShard (e : BitVec 768) : Nat := fld e 0 4
def entryStatus (e : BitVec 768) : Nat := fld e 5 1
def entryHp (e : BitVec 768) : BitVec 256 := BitVec.ofNat 256 (fld e 48 32)

/-- The round is abandoned once a condition fails, and sealed once all of R589 hold. -/
def State.judgeRound (s : State) : State :=
  match s.ckpt.sink with
  | none => s
  | some k =>
    match k.round with
    | none => s
    | some r =>
      let wrong := r.entries.any (fun e => entryStatus e.2 != 0
        || (r.copied && tget r.digests e.1 != some (entryHp e.2)))
      if wrong then s.reopenRound k
      else if r.copied && r.entries.length == k.shards.length && r.ranks.length == Config.sinkRanks k.job then
        let (d, s) := s.draw
        let ms := s.ckpt.manifests ++ [{ step := r.step, bytes := manifestBytes k r s.dk.now d, saved := false }]
        { s with ckpt := { s.ckpt with sink := some { k with round := none, sealedAt := s.time },
                                       manifests := ms.drop (ms.length - 4) } }
      else s

/-! ### SINK_START and SINK_STOP (R579, R584) -/

def sinkStartBody : Body := fun id c s => do
  let k := c.packet
  let interval := fld k 30 2
  need (decide (fld k 28 1 % 8 ≤ 5 ∧ interval ≤ 1440)) (stBadParam, 0)
  need s.mem.couchBy.isNone (stConflict, 0)
  need (decide (s.mem.carve.couch ≠ 0)) (stNoResource, 0)
  let sink : Sink := {
    job := fld k 24 4, link := s.physLink (hopLink (fld k 28 1 % 32)), interval := if interval = 0 then 60 else interval,
    whole := false, cmd := some id, startAt := s.time, generation := 0, shards := [], asm := [], copy := none,
    copyBytes := [], discardedAt := none, sealedAt := s.time, round := none, rounds := 0, complete := 0, discarded := 0,
    stale := 0, high := 0 }
  let s := { s with mem := { s.mem with couchBy := some .sink } }
  .ok (.busy ((s.setSink (some sink)).toLead sink 1 0 [mkRec 128 [(0, 8, Config.serial.toNat)]]))

/-- SINK_START. -/
def execSinkStart (id : Nat) (s : State) : Out' := jeisk 0x700 sinkStartBody id s

/-- The role ends and the couch staging is released. -/
def State.endSink (s : State) : State :=
  { s with ckpt := { s.ckpt with sink := none },
           mem := { s.mem with couchBy := if s.mem.couchBy = some .sink then none else s.mem.couchBy } }

/-- SINK_HELLO_TIMEOUT (R579): no answer within 10 s. -/
def execSinkHelloTimeout (id at_ : Nat) (s : State) : Out' :=
  let t := s.advance at_
  match t.ckpt.sink with
  | none => .next s
  | some k => whenThen (k.cmd == some id && decide (k.startAt + sec 10 ≤ t.time)) s (t.endSink.finish id (stTimeout, 0))

/-- The codewords of the shard list, one frame for 122 shards (Table 4, kind 2). -/
def shardListFrames (j : Job) : List (List Unit16) :=
  let xs := j.shards
  (chunks xs.length 122 xs).zipIdx.map (fun p =>
    mkRec 128 [(0, 4, 122 * p.2), (4, 4, xs.length)] ::
      (chunks 61 2 p.1).map (fun l => mkRec 128 (l.zipIdx.map (fun e => (8 * e.2, 8, e.1.1 % 2 ^ 40 + e.1.2 % 2 * 2 ^ 40)))))

/-- SINK_HELLO_RECEIVE (R579): the lead of the job answers with the shard list, and its sink edge carries copies from then
on (R409). -/
def execSinkHelloReceive (job _serial : Nat) (s : State) : Out' :=
  match s.job.job with
  | none => .next s
  | some j =>
    match s.sinkEdge j with
    | none => .next s
    | some l =>
      whenThen (decide (j.id = job) && s.isLead) s
        ((shardListFrames j).foldl (fun s w => s.linkFrame l 6 (sinkFrame 2 j.id j.generation 0 w))
          { s with job := { s.job with sinkOn := true } })

/-- SHARD_LIST_RECEIVE (R579, R581): the sink knows the shards and chooses its mode; SINK_START completes. A list of a new
generation clears its records (R583). -/
def execShardListReceive (job gen : Nat) (shards : List (Nat × Nat)) (s : State) : Out' :=
  match s.ckpt.sink with
  | none => .next s
  | some k =>
    if k.job ≠ job then .next s else
    match k.cmd with
    | some id =>
      let k := { k with cmd := none, generation := gen, shards := shards, startAt := s.time, sealedAt := s.time }
      let k := { k with whole := decide (2 * k.gathered + 64 * 2 ^ 20 ≤ s.mem.carve.couch) }
      .next ((s.setSink (some k)).finish id (stOk, 0))
    | none => if k.generation = gen then .next s else .next (s.newGeneration { k with shards := shards } gen)

/-- SINK_STOP (R584). -/
def sinkStopBody : Body := fun _ c s => do
  match s.ckpt.sink with
  | none => .error (stBadParam, 0)
  | some k =>
    need (decide (k.job = fld c.packet 24 4) && k.cmd.isNone) (stBadParam, 0)
    .ok (.busy (s.abandonRound k))

/-- No packet from the lead is being assembled. -/
def sinkStopDone (_ : Nat) (_ : CmdRec) (s : State) : Option (Cause × State) :=
  match s.ckpt.sink with
  | none => some ((stOk, 0), s)
  | some k => if (s.link k.link).partialCw.isEmpty then some ((stOk, 0), s.endSink) else none

def execSinkStop (id : Nat) (s : State) : Out' := jeiskWait 0x701 sinkStopBody sinkStopDone id s

/-! ### Copies (R32, R409, R580, R581) -/

/-- The step tag whose low 16 bits are `t`, nearest to `ref` (R580). -/
def fullTag (ref t : Nat) : Nat :=
  let x := ref / 65536 * 65536 + t
  if ref + 32768 < x ∧ 65536 ≤ x then x - 65536 else if x + 32768 < ref then x + 65536 else x

/-- Bytes of an assembly received, and whether the copy of the shard is complete for its tag. -/
def Assembly.units (a : Assembly) : Nat := (a.got.map Prod.snd).sum
def Assembly.whole (a : Assembly) (params : Nat) : Bool := a.units * 16 == 2 * params && a.stable && !a.poison

/-- The bytes of a whole assembly in order. -/
def Assembly.image (a : Assembly) : List Byte := a.bytes.flatMap Prod.snd

/-- Chunks of 64 KiB of an assembly that are in a buffer: begun and not whole (R581). -/
def Assembly.openChunks (a : Assembly) (params : Nat) : Nat :=
  let size := 2 * params
  ((List.range (ceilDiv size 65536)).filter (fun c =>
    let lo := 65536 * c
    let hi := Min.min size (lo + 65536)
    let n := (a.got.map (fun g => Min.min hi (g.1 + 16 * g.2) - Max.max lo g.1)).sum
    decide (0 < n ∧ n < hi - lo))).length

/-- The parameters of a shard. -/
def Sink.params (k : Sink) (shard : Nat) : Nat := ((k.shards[shard]?).getD (0, 0)).1

/-- A packet joins the assembly of its shard (R581). -/
def Sink.take (k : Sink) (a : Assembly) (shard tag : Nat) (p : Packet) : Assembly :=
  let bs := pktData p
  let n := bs.length / 16
  let keep := k.whole || (match k.round with
    | some r => r.step == tag
    | none => false)
  { a with
    got := a.got.filter (fun g => g.1 != tOff p) ++ [(tOff p, n)]
    stable := if tOff p + 16 * n = 2 * k.params shard then hStable p else a.stable
    poison := a.poison || hPoison p
    bytes := if keep then tset a.bytes (tOff p) bs else a.bytes }

/-- The sink accepts the copy of step n once every shard is whole with that tag (R32). -/
def State.acceptCopy (s : State) (k : Sink) (n : Nat) : State :=
  let whole := (List.range k.shards.length).all (fun i =>
    match tget k.asm i with
    | some a => a.tag == n && a.whole (k.params i)
    | none => false)
  if !whole then s.setSink (some k)
  else
    let k := { k with complete := k.complete + 1, copy := some n,
                      copyBytes := if k.whole then tmap k.asm (fun _ a => a.image) else k.copyBytes }
    let digests := tmap k.asm (fun _ a => pieceDigest a.image)
    let k := { k with round := k.round.map (fun r => if r.step = n then { r with copied := true, digests := digests } else r) }
    (s.setSink (some k)).judgeRound

/-- A tagged packet of a shard joins the shard's assembly; an older step's is counted stale, a newer step's discards what
was not whole. A copy that runs past an open round, or out of room for it, opens the round again. -/
def State.sinkTake (s : State) (k : Sink) (shard tag : Nat) (pkt : Packet) : State :=
  let fresh : Assembly := { tag := tag, got := [], stable := false, poison := false, bytes := [] }
  let a := (tget k.asm shard).getD fresh
  if tag < a.tag then s.setSink (some { k with stale := k.stale + 1 })
  else
    let lost := decide (a.tag < tag) && k.copy != some a.tag && k.discardedAt != some a.tag
    let k := { k with high := Max.max k.high tag, discarded := if lost then k.discarded + 1 else k.discarded,
                      discardedAt := if lost then some a.tag else k.discardedAt }
    let a := k.take (if a.tag < tag then fresh else a) shard tag pkt
    let k := { k with asm := tset k.asm shard a }
    match k.round with
    | none => s.acceptCopy k tag
    | some r =>
      let room := (s.mem.carve.couch - 64 * 2 ^ 20) / 65536
      let used : Nat := (k.asm.map (fun e => if e.2.tag = r.step then e.2.openChunks (k.params e.1) else 0)).sum
      if (!r.copied && decide (r.step < tag)) || (!k.whole && decide (room < used)) then s.reopenRound k
      else s.acceptCopy k tag

/-- SINK_PACKET_RECEIVE (R32, R409, R581). -/
def execSinkPacketReceive (pkt : Packet) (s : State) : Out' :=
  match s.ckpt.sink with
  | none => .next s
  | some k =>
    let shard := tArg pkt % 2 ^ 32
    let tag := fullTag k.high (tArg pkt / 2 ^ 32 % 2 ^ 16)
    whenThen (k.cmd.isNone && hTagged pkt && decide (hType pkt = tyData ∧ shard < k.shards.length)
        && k.copy != some tag) s (s.sinkTake k shard tag pkt)

/-- CHECKPOINT_ROUND_OPEN (R585): the interval has passed since the last seal. -/
def execCheckpointRoundOpen (at_ : Nat) (s : State) : Out' :=
  let t := s.advance at_
  match t.ckpt.sink with
  | none => .next s
  | some k =>
    whenThen (k.cmd.isNone && k.round.isNone && decide (k.sealedAt + sec 60 * k.interval ≤ t.time)) s (t.openRound k)

/-! ### Rounds on owners, rank holders and the lead (R585 to R589) -/

/-- An entry leaves for the sink: on the lead directly, else by the lead (Table 4, kinds 4 and 5). -/
def State.sendEntry (s : State) (kind round : Nat) (e : List Unit16) : State :=
  match s.job.job with
  | none => s
  | some j =>
    let ws := sinkFrame kind j.id j.generation round e
    if s.isLead then
      match s.sinkEdge j with
      | some l => s.linkFrame l 6 ws
      | none => s
    else s.sendFrame (s.curLead j) ws

/-- A shard entry (Table 8). -/
def State.shardEntry (s : State) (shard : Nat) (p : PShard) (status len : Nat) (dig hp : BitVec 256) : BitVec 768 :=
  mkRec 768 [(0, 4, shard), (4, 1, p.config.toNat), (5, 1, status), (8, 8, len), (16, 32, dig.toNat), (48, 32, hp.toNat),
    (80, 2, s.pkgId), (88, 8, Config.serial.toNat)]

/-- The shard is late for the round (R586): its entry says so, and a CKPT_SAVE that waits for it completes with
ST_NO_RESOURCE (R587). -/
def State.lateShard (s : State) (shard : Nat) (p : PShard) : State :=
  let s := { s with ckpt := { s.ckpt with holds := tdel s.ckpt.holds shard, late := s.ckpt.late ++ [shard] } }
  let s := s.sendEntry 4 s.ckpt.round (toUnits (recBytes (s.shardEntry shard p 1 0 0 0)))
  s.host.cmds.foldl (fun s e =>
    if e.2.phase == .started && pktOp e.2.packet == 0x702 && fld e.2.packet 30 1 == 1 && fld e.2.packet 32 4 == shard then
      s.finish e.1 (stNoResource, 0)
    else s) s

/-- Places of the packages that hold ranks: the lowest package id of each rank (R585). -/
def Job.rankHolders (j : Job) : List Nat :=
  (List.range j.members.length).filter (fun i =>
    (List.range j.members.length).all (fun k =>
      (j.ranks[k]?).getD 0 != (j.ranks[i]?).getD 0 || decide ((j.mem i).pkg ≤ (j.mem k).pkg)))

/-- CALL_RECEIVE (R585, R586): the lead forwards the call; each attached shard is held at once, after its step n_c, or is
late. A round that was open here is over. -/
def execCallReceive (job round step at_ : Nat) (s : State) : Out' :=
  let t := s.advance at_
  match t.job.job with
  | none => .next s
  | some j =>
    whenThen (decide (j.id = job) && t.fail.selfFenced.isNone) s
      (let t := t.dropRound
       let dests := (j.owners ++ j.rankHolders.map (fun i => (j.mem i).pkg)).eraseDups.filter (· != t.pkgId)
       let ws := sinkFrame 3 j.id j.generation round [mkRec 128 [(0, 6, step)]]
       let t := if t.isLead && t.job.sinkOn then dests.foldl (fun t d => t.sendFrame d ws) t else t
       let t := { t with ckpt := { t.ckpt with called := some step, round := round, holds := [], late := [] } }
       t.press.shards.foldl (fun t e =>
         let (last, _, t) := t.pressLast e.2
         if last < step then t
         else if last = step ∧ e.2.run.isNone ∧ ¬ e.2.later then
           { t with ckpt := { t.ckpt with holds := tset t.ckpt.holds e.1 t.time } }
         else t.lateShard e.1 e.2) t)

/-- SHARD_HOLD_EXPIRY (R586): the hold ends after 60 s, and the shard is late. -/
def execShardHoldExpiry (shard at_ : Nat) (s : State) : Out' :=
  let t := s.advance at_
  match tget t.ckpt.holds shard, tget t.press.shards shard with
  | some h, some p => whenThen (decide (h + sec 60 ≤ t.time)) s (t.lateShard shard p)
  | _, _ => .next s

/-- SHARD_ENTRY_RECEIVE (R579, R583, R589): the lead passes an entry on to the sink; the sink records it and seals or
abandons its round. -/
def execShardEntryReceive (gen round : Nat) (entry : BitVec 768) (rankEntry : Bool) (s : State) : Out' :=
  match s.ckpt.sink with
  | some k =>
    if k.cmd.isSome then .next s
    else if k.generation ≠ gen then .next (s.newGeneration k gen)
    else match k.round with
      | none => .next s
      | some r =>
        whenThen (decide (r.number = round) && (rankEntry || decide (entryShard entry < k.shards.length))) s
          (let r := if rankEntry then { r with ranks := tset r.ranks (fld entry 0 2) (BitVec.ofNat 512 entry.toNat) }
                    else { r with entries := tset r.entries (entryShard entry) entry }
           (s.setSink (some { k with round := some r })).judgeRound)
  | none =>
    match s.job.job with
    | none => .next s
    | some j =>
      whenThen (s.isLead && s.job.sinkOn && decide (j.generation = gen)) s
        (if rankEntry then s.sendEntry 5 round (toUnits ((recBytes entry).take 64))
         else s.sendEntry 4 round (toUnits (recBytes entry)))

/-- SINK_ABANDON_RECEIVE (R583, R589): on the sink the lead's abandon ends the round and a new one opens; on the lead the
sink's is passed on to the members; on a member every hold of the round ends. -/
def execSinkAbandonReceive (job gen : Nat) (s : State) : Out' :=
  match s.ckpt.sink with
  | some k =>
    if k.job ≠ job ∨ k.cmd.isSome then .next s
    else if k.generation ≠ gen then .next (s.newGeneration k gen) else .next (s.reopenRound k)
  | none =>
    match s.job.job with
    | none => .next s
    | some j =>
      whenThen (decide (j.id = job)) s
        (let ws := sinkFrame 6 j.id j.generation s.ckpt.round []
         let s := if s.isLead then j.members.foldl (fun s m => if m.pkg = s.pkgId then s else s.sendFrame m.pkg ws) s else s
         s.dropRound)

/-! ### CKPT_SAVE (R587, R588, R590, R591) -/

/-- The shard data (Table 10), and whether it is poisoned. -/
def State.shardData (s : State) (p : PShard) : List Byte × Bool × State :=
  let (w, bad, s) := s.extRead (s.pressExt p.weight) 0 p.weightBytes
  let (t, bad2, s) := s.extRead (s.pressExt p.state) 0 p.regions.fin_
  (w ++ t, bad || bad2, s)

/-- A manifest, and with a whole copy its bytes, are written to host memory (R590, R591): the manifest is saved. -/
def State.saveManifest (s : State) (manifest data len : Nat) (m : Manifest) : Option (Cause × State) :=
  let saved (t : State) : Option (Cause × State) :=
    some ((stOk, m.step % 2 ^ 32), { (t.hostWrite manifest m.bytes) with
      ckpt := { t.ckpt with manifests := t.ckpt.manifests.map (fun x =>
        if x.step = m.step ∧ x.bytes = m.bytes then { x with saved := true } else x) } })
  match s.ckpt.sink with
  | none => saved s
  | some y =>
    if !y.whole ∨ len = 0 then saved s
    else if len < y.gathered ∨ y.copy ≠ some m.step then some ((stNoResource, 0), s)
    else saved (s.hostWrite data (y.copyBytes.flatMap Prod.snd))

/-- A held shard is written to host memory and its entry sent to the lead (R587). -/
def State.saveShard (s : State) (ctx shard data nc : Nat) (p : PShard) : Cause × State :=
  let (bs, bad, t) := s.shardData p
  let t := t.addOp ctx wDramRead bs.length
  if bad then ((stDataError, 0), t)
  else
    let t := t.hostWrite data bs
    let e := t.shardEntry shard p 0 bs.length (pieceDigest bs) (pieceDigest (bs.take (2 * (p.rows * p.cols))))
    let t := t.sendEntry 4 t.ckpt.round (toUnits (recBytes e))
    ((stOk, nc % 2 ^ 32), { t with ckpt := { t.ckpt with holds := tdel t.ckpt.holds shard } })

/-- A rank entry is sent to the lead (R588). -/
def State.saveRank (s : State) (step nc : Nat) : Cause × State :=
  match s.me, s.vat.history.find? (fun h => h.1 + 1 == step) with
  | some (j, me), some (b, pos) =>
    let e : BitVec 512 := mkRec 512 [(0, 2, (j.ranks[me]?).getD 0), (2, 2, s.pkgId), (8, 8, b),
      (16, 40, (s.positionRec pos).toNat)]
    ((stOk, nc % 2 ^ 32), s.sendEntry 5 s.ckpt.round (toUnits (recBytes e)))
  | _, _ => ((stNoResource, 0), s)

/-- The part of a save that a round decides: a shard (R587), a rank entry (R588), or the sink's manifest (R590). -/
def ckptSaveDone (_ : Nat) (c : CmdRec) (s : State) : Option (Cause × State) :=
  let k := c.packet
  let step := fld k 24 6
  let shard := fld k 32 4
  let manifest := fld k 36 8
  let data := fld k 44 8
  let len := fld k 52 8
  let refused : Option (Cause × State) := some ((stNoResource, 0), s)
  if fld k 30 1 = 0 then
    if step = 0 then ((s.ckpt.manifests.filter (fun m => !m.saved)).getLast?).bind (s.saveManifest manifest data len)
    else match s.ckpt.manifests.reverse.find? (fun m => m.step == step) with
      | some m => s.saveManifest manifest data len m
      | none => refused
  else match s.ckpt.called with
    | none => none
    | some nc =>
      if shard = 0xFFFFFFFF then some (s.saveRank step nc)
      else if step ≠ 0 ∧ step ≠ nc then some ((stBadParam, 0), s)
      else if s.ckpt.late.contains shard then refused
      else match tget s.ckpt.holds shard, tget s.press.shards shard with
        | some _, some p => if len < p.weightBytes + p.regions.fin_ then refused else some (s.saveShard c.ctx shard data nc p)
        | _, _ => none

/-- This package holds its rank: no member of lower package id has it (R585). -/
def State.rankHolder (s : State) : Bool :=
  match s.me with
  | some (j, me) => j.rankHolders.contains me
  | none => false

def ckptSaveBody : Body := fun _ c s => do
  let k := c.packet
  let scope := fld k 30 1
  need (decide (scope ≤ 1 ∧ fld k 36 8 % 32 = 0 ∧ fld k 44 8 % 32 = 0)) (stBadParam, 0)
  if scope = 0 then
    need (s.ckpt.sink.isSome || !s.ckpt.manifests.isEmpty) (stConflict, 0)
    .ok (.busy s)
  else if fld k 32 4 = 0xFFFFFFFF then
    need s.rankHolder (stConflict, 0)
    .ok (.busy s)
  else
    need (tget s.press.shards (fld k 32 4)).isSome (stBadParam, 0)
    .ok (.busy s)

/-- CKPT_SAVE: it starts, waits for a seal or a round, and is done once its shard is held (R587, R588, R590). -/
def execCkptSave (id : Nat) (s : State) : Out' := jeiskWait 0x702 ckptSaveBody ckptSaveDone id s

/-! ### CKPT_RESTORE (R592 to R595) -/

/-- A manifest read from host memory. -/
structure ManifestIn where
  head : BitVec 768
  root : BitVec 256
  entries : List Byte
  sig : BitVec 512
  cert : List Byte

def State.readManifest (s : State) (a : Nat) : Option ManifestIn := do
  let head ← s.hostRec 768 a
  let root ← s.hostRec 256 (a + 96)
  let n := 96 * fld head 20 4 + 64 * fld head 24 2
  let entries ← s.hostRead (a + 128) n
  let trailer ← s.hostRec 1024 (a + 128 + n)
  let cert ← s.hostRead (a + 256 + n) (fld trailer 64 2)
  return { head := head, root := root, entries := entries, sig := BitVec.ofNat 512 (fld trailer 0 64), cert := cert }

/-- The shard entries of a manifest. -/
def ManifestIn.shards (m : ManifestIn) : List (BitVec 768) :=
  (chunks (fld m.head 20 4) 96 (m.entries.take (96 * fld m.head 20 4))).map (fun l => BitVec.ofNat 768 (leNat l))

def ckptRestoreBody : Body := fun _ c s => do
  let shard := fld c.packet 24 4
  let data := fld c.packet 40 8
  let len := fld c.packet 48 8
  needJob s
  match tget s.press.shards shard with
  | none => .error (stBadParam, 0)
  | some p =>
    let size := p.weightBytes + p.regions.fin_
    need s.mem.couchBy.isNone (stConflict, 0)
    need (decide (s.mem.carve.couch ≠ 0 ∧ size ≤ s.mem.carve.couch)) (stNoResource, 0)
    match s.readManifest (fld c.packet 32 8) with
    | none => failDone s (stDataError, 0)
    | some m =>
      need (decide (fld m.head 0 2 = 1 ∧ 1 ≤ m.cert.length ∧ m.cert.length ≤ 1024)) (stBadParam, 0)
      match m.shards.find? (fun e => entryShard e == shard && entryStatus e == 0) with
      | none => .error (stBadParam, 0)
      | some e =>
        let step := fld m.head 8 6
        need (decide (s.token p.token ≤ step) && fld e 4 1 == p.config.toNat
          && fld m.head 32 32 == (sm3 (recBytes s.seed)).toNat) (stConflict, 0)
        let bad (st : Nat) : Except Cause Work := failDone (s.signFail c (st, 0)) (st, 0)
        match Config.certKey m.cert with
        | none => bad stSecurity
        | some key =>
          if !Config.sm2Verify key 2 m.root m.sig then bad stSecurity
          else if sm3 (recBytes m.head ++ m.entries) ≠ m.root then bad stDigestMismatch
          else if fld e 8 8 ≠ len then bad stDigestMismatch
          else match s.hostRead data len with
            | none => failDone s (stDataError, 0)
            | some bs =>
              if pieceDigest bs ≠ BitVec.ofNat 256 (fld e 16 32) then bad stDigestMismatch
              else
                let head := bs.drop p.weightBytes
                need (leNat ((head.drop 4).take 4) == p.rows && leNat ((head.drop 8).take 4) == p.cols && bs.length == size)
                  (stConflict, 0)
                let t := s.extWrite (s.pressExt p.weight) 0 (bs.take p.weightBytes)
                let t := t.extWrite (s.pressExt p.state) 0 head
                let t := (t.addOp c.ctx wDramWrite size).raiseToken p.token step
                let t := { t with press := { t.press with shards := tmod t.press.shards shard (fun q =>
                  { q with s0 := leNat ((head.drop 16).take 6), later := false }) } }
                okDone t

/-- CKPT_RESTORE: the Press serves it in its turn (R299, R594). -/
def execCkptRestore (id : Nat) (s : State) : Out' := jeiskIf pressGate 0x703 ckptRestoreBody id s

end Sys2Proof.Machine
end

