-- ==== Sys2Proof/Machine/Telemetry.lean ====
section
/-! DEFINITION. Counters, trace and Deckle commands, and the time frames (R482, R543 to R551, R560 to R564). -/
namespace Sys2Proof.Machine

/-! ### COUNTER_COPY (R558, R560) -/

/-- Records from index `i` on to the newest, at most `n`. -/
def counterRun (fuel : Nat) (recs : Tab (BitVec 2048)) (i next : Nat) : List (BitVec 2048) :=
  match fuel with
  | 0 => []
  | k + 1 =>
    if i = next then [] else
    match tget recs i with
    | none => []
    | some r => r :: counterRun k recs (nextIndex i) next

/-- The record of an index that is not held has been overwritten: it lies nearer below the oldest one held than above the
newest (log 23). -/
def Counters.overwritten (c : Counters) (i : Nat) : Bool :=
  (tget c.recs i).isNone &&
  (if c.oldest ≤ c.next then decide (i < c.oldest) else decide (c.next ≤ i ∧ i < c.oldest ∧ c.oldest - i ≤ i - c.next))

def counterCopyBody : Body := fun _ c s => do
  let first := fld c.packet 24 4
  let out := fld c.packet 32 8
  need (decide (out % 32 = 0)) (stBadParam, 0)
  need (!s.ctr.overwritten first) (stBadParam, 0)
  let rs := counterRun (fld c.packet 28 4) s.ctr.recs first s.ctr.next
  okDone (s.hostWrite out (rs.flatMap recBytes)) rs.length

def execCounterCopy (id : Nat) (s : State) : Out' := jeisk 0x800 counterCopyBody id s

/-! ### TRACE_CONFIG, TRACE_COPY (R561, R564) -/

def traceConfigBody : Body := fun _ c s => do
  let mask := BitVec.ofNat 32 (fld c.packet 28 4)
  if (fld c.packet 24 1).testBit 0 then
    if s.trc.enabled then okDone { s with trc := { s.trc with mask := mask } }
    else
      need s.mem.traceBy.isNone (stConflict, 0)
      need (decide (s.mem.carve.trace ≠ 0)) (stNoResource, 0)
      okDone { s with trc := { s.trc with enabled := true, mask := mask }, mem := { s.mem with traceBy := some .trace } }
  else okDone { s with trc := { s.trc with enabled := false },
                       mem := { s.mem with traceBy := if s.mem.traceBy = some .trace then none else s.mem.traceBy } }

def execTraceConfig (id : Nat) (s : State) : Out' := jeisk 0x801 traceConfigBody id s

def traceCopyBody : Body := fun _ c s => do
  let first := fld c.packet 24 8
  let out := fld c.packet 32 8
  let len := fld c.packet 40 4
  need (decide (out % 32 = 0 ∧ len % 64 = 0)) (stBadParam, 0)
  let rs := (s.trc.recs.filter (fun r => decide (first ≤ r.1))).take (len / 64)
  okDone (s.hostWrite out (rs.flatMap (fun r => recBytes r.2))) (64 * rs.length)

def execTraceCopy (id : Nat) (s : State) : Out' := jeisk 0x802 traceCopyBody id s

/-! ### The master and the upstream link (R544, R545, R549, R551) -/

/-- The state of DK_STATUS changes; leaving locked sets lock_lost and entering holdover sets holdover (Table 2). -/
def Deckle.become (d : Deckle) (st : Nat) : Deckle :=
  let ev := (if d.state = 2 ∧ st ≠ 2 then 1 else 0) ||| (if d.state ≠ 3 ∧ st = 3 then 4 else 0 : BitVec 5)
  { d with state := st, events := d.events ||| ev }

/-- An announce is better: lower serial, then fewer hops, then the lower link (R545). -/
def Announce.before (a b : Announce) : Bool :=
  decide (a.serial.toNat < b.serial.toNat) ||
  (a.serial == b.serial && (decide (a.hops < b.hops) || (a.hops == b.hops && decide (a.link < b.link))))

/-- The best of the announces heard in the last 3 ms, by logical link. -/
def State.bestAnnounce (s : State) : Option Announce :=
  (s.dk.announces.filter (fun a => decide (s.time < a.heardAt + ms 3))).foldl (fun b a =>
    match b with
    | none => some a
    | some x => if a.before x then some a else some x) none

/-- The master followed is `serial`: a change sets master_changed and starts acquiring (R547, R551). -/
def Deckle.follow (d : Deckle) (serial : BitVec 64) (pkg hops : Nat) : Deckle :=
  let changed := d.mserial != serial || d.master != pkg
  let d := if changed then { d with events := d.events ||| 8, acquiring := true } else d
  { d with mserial := serial, master := pkg, hops := hops }

/-- The package chooses its master and its upstream link (R545). -/
def State.chooseMaster (s : State) : State :=
  let best := s.bestAnnounce
  let d := s.dk
  let lower := match best with
    | some b => decide (b.serial.toNat < Config.serial.toNat)
    | none => false
  if d.role && !lower then
    let d := (d.follow Config.serial s.pkgId 0).become (if d.source && d.pulse then 5 else 4)
    { s with dk := { d with up := none, overridden := false, unanswered := 0 } }
  else match best with
    | none =>
      -- with no announce left there is no upstream link; a follower that had one keeps time by its own clock (R549)
      let d := if d.up.isSome then d.become 3 else if d.state = 4 ∨ d.state = 5 then d.become 0 else d
      { s with dk := { d with up := none, overridden := false } }
    | some b =>
      let moved := d.up != some b.link
      let d := d.follow b.serial b.pkg (b.hops + 1)
      let d := if d.acquiring then d.become 1 else d
      { s with dk := { d with up := some b.link, overridden := d.role, unanswered := if moved then 0 else d.unanswered,
                              t3 := if moved then none else d.t3 } }

/-! ### Time frames (Table 1) -/

/-- Codeword 1 of a time frame. -/
def timeWord (kind hops flags master seq_ : Nat) (serial : BitVec 64) : Unit16 :=
  mkRec 128 [(0, 1, 1), (1, 1, kind), (2, 1, hops), (3, 1, flags), (4, 2, master), (6, 2, seq_), (8, 8, serial.toNat)]

/-- Codeword 2: a time in units of 2^-16 ns. -/
def timeField (t : Int) : Unit16 := mkRec 128 [(0, 8, (t / 65536).toNat), (8, 2, (t % 65536).toNat)]
def readTime (w : Unit16) : Int := (fld w 0 8 * 65536 + fld w 8 2 : Nat)

/-- The Deckle in units of 2^-16 ns. -/
def State.stamp (s : State) : Int := (s.dk.now * 65536 : Nat)

/-- Flags of a frame: the master runs on the pulse, the sender is in holdover. -/
def State.timeFlags (s : State) (pulse : Bool) : Nat := b2n pulse + 2 * b2n (s.dk.state == 3)

/-- Physical links that carry data. -/
def State.dataLinks (s : State) : List Nat := (List.range 24).filter (fun l => (s.link l).data)

/-- The logical link number of a physical link, as DK_STATUS and DK_ASYM_n name links. -/
def State.logicalLink (s : State) (l : Nat) : Nat := (s.link l).label l

/-- The physical link of the upstream. -/
def State.upLink (s : State) : Option Nat := s.dk.up.map s.physLink

/-- TIME_ANNOUNCE_TIMER (R545): a master announces itself on every link that carries data, every 1 ms. -/
def execTimeAnnounceTimer (at_ : Nat) (s : State) : Out' :=
  let t := s.advance at_
  whenThen ((t.dk.state == 4 || t.dk.state == 5) && t.domOn 1 && decide (t.dk.announceAt + ms 1 ≤ t.time)) s
    (let w := [timeWord 1 0 (t.timeFlags (t.dk.state == 5)) t.pkgId 0 Config.serial, 0]
     { t.dataLinks.foldl (fun t l => t.linkFrame l 0 w) t with dk := { t.dk with announceAt := t.time } })

/-- ANNOUNCE_RECEIVE (R545): the announce is remembered, the master chosen; one that is accepted, from the upstream link
for the master followed, is passed on. -/
def execAnnounceReceive (link : Nat) (frame : BitVec 128) (at_ : Nat) (s : State) : Out' :=
  let t := s.advance at_
  inRange (link < 24) link
    (let a : Announce := { link := t.logicalLink link, serial := BitVec.ofNat 64 (fld frame 8 8), pkg := fld frame 4 2,
                           hops := fld frame 2 1, flags := fld frame 3 1, heardAt := t.time }
     whenThen ((t.link link).data && t.domOn 1 && fld frame 0 1 == 1 && fld frame 1 1 == 1 && a.serial != Config.serial) s
       (let old := t.dk.announces.filter (fun b => !(b.link == a.link && b.serial == a.serial))
        let t : State := ({ t with dk := { t.dk with announces := old ++ [a] } }).chooseMaster
        if t.dk.up == some a.link && t.dk.mserial == a.serial then
          let w := [timeWord 1 (a.hops + 1) (t.timeFlags (a.flags.testBit 0)) a.pkg (fld frame 6 2) a.serial, 0]
          (t.dataLinks.filter (· != link)).foldl (fun t l => t.linkFrame l 0 w) t
        else t))

/-- ANNOUNCE_EXPIRY (R545): announces older than 3 ms no longer count. -/
def execAnnounceExpiry (at_ : Nat) (s : State) : Out' :=
  let t := s.advance at_
  whenThen (t.dk.announces.any (fun a => decide (a.heardAt + ms 3 ≤ t.time))) s
    ({ t with dk := { t.dk with announces := t.dk.announces.filter (fun a => decide (t.time < a.heardAt + ms 3)) } }).chooseMaster

/-! ### Offset and correction (R546, R547, R549) -/

/-- SYNC_EXCHANGE_TIMER (R546): every 125 µs the package sends a sync to the neighbours that may follow it, and begins an
exchange of its own with its upstream, which counts as unanswered until the delay response comes (log 24). -/
def execSyncExchangeTimer (at_ : Nat) (s : State) : Out' :=
  let t := s.advance at_
  whenThen (t.domOn 1 && t.dk.state != 0 && decide (t.dk.syncAt + 125000 ≤ t.time)) s
    (let q := (t.dk.seq + 1) % 65536
     let up := t.upLink
     let t := { t with dk := { t.dk with syncAt := t.time, seq := q, t3 := none,
                                         unanswered := if up.isSome then t.dk.unanswered + 1 else 0 } }
     let w := [timeWord 2 t.dk.hops (t.timeFlags (t.dk.state == 5)) t.dk.master q t.dk.mserial, timeField t.stamp]
     (t.dataLinks.filter (fun l => up != some l)).foldl (fun t l => t.linkFrame l 0 w) t)

/-- SYNC_RECEIVE (R546): t2 and t3 are stamped and a delay request answers the sync. -/
def execSyncReceive (link : Nat) (frame time : BitVec 128) (at_ : Nat) (s : State) : Out' :=
  let t := s.advance at_
  inRange (link < 24) link
    (whenThen (t.upLink == some link && t.domOn 1 && fld frame 1 1 == 2) s
      (let q := fld frame 6 2
       let t := { t with dk := { t.dk with t1 := readTime time, t2 := t.stamp, t3 := some t.stamp, seq := q } }
       t.linkFrame link 0 [timeWord 3 t.dk.hops (t.timeFlags false) t.dk.master q t.dk.mserial, 0]))

/-- DELAY_REQUEST_RECEIVE (R546): the response carries the Deckle at the request's arrival. -/
def execDelayRequestReceive (link : Nat) (frame : BitVec 128) (at_ : Nat) (s : State) : Out' :=
  let t := s.advance at_
  inRange (link < 24) link
    (whenThen ((t.link link).data && t.domOn 1 && t.upLink != some link && fld frame 1 1 == 3) s
      (t.linkFrame link 0 [timeWord 4 t.dk.hops (t.timeFlags (t.dk.state == 5)) t.dk.master (fld frame 6 2) t.dk.mserial,
                           timeField t.stamp]))

/-- The Deckle is corrected by θ, in units of 2^-16 ns (R547): set at once while acquiring, stepped forward where θ is
-1 µs or less, slewed away otherwise. -/
def Deckle.correct (d : Deckle) (theta : Int) : Deckle :=
  let moved : Nat := ((d.now : Int) - theta / 65536).toNat
  if d.acquiring then { d with now := moved, acquiring := false, slew := 0, events := d.events ||| 2 }
  else if theta ≤ -(65536000 : Int) then { d with now := moved, slew := 0, events := d.events ||| 2 }
  else { d with slew := theta }

/-- DELAY_RESPONSE_RECEIVE (R546, R547). -/
def execDelayResponseReceive (link : Nat) (frame time : BitVec 128) (s : State) : Out' :=
  inRange (link < 24) link
    (match s.dk.t3 with
     | none => .next s
     | some t3 =>
       whenThen (s.upLink == some link && s.domOn 1 && fld frame 1 1 == 4 && fld frame 6 2 == s.dk.seq) s
         (let a := tgetD s.dk.asym (s.logicalLink link) 0 * 65536 / 1000
          let theta := ((s.dk.t2 - s.dk.t1) - (readTime time - t3) - a) / 2
          let (d, s) := s.draw
          { s with dk := { (s.dk.correct theta).become 2 with
              theta := theta * 1000 / 65536, t3 := none, unanswered := 0, freq := Config.freqCorrection d } }))

/-- HOLDOVER_ENTRY (R549): the upstream link carries no data, or three syncs have gone unanswered. A new upstream is taken
from the announces of other links. -/
def execHoldoverEntry (at_ : Nat) (s : State) : Out' :=
  let t := s.advance at_
  match t.upLink with
  | none => .next s
  | some l =>
    whenThen (!(t.link l).data || decide (3 ≤ t.dk.unanswered)) s
      (let d := t.dk.become 3
       ({ t with dk := { d with up := none, unanswered := 0, t3 := none,
                                announces := d.announces.filter (fun a => some a.link != t.dk.up) } }).chooseMaster)

/-! ### The time pulse (R550) -/

/-- A master runs, and its source is the pulse. -/
def State.pulseMaster (s : State) : Bool := s.dk.role && s.dk.source && !s.dk.overridden

/-- TIME_PULSE_EDGE (R550): the edge is stamped, and a master on the pulse brings it to the nearest multiple of 10^9 ns. -/
def execTimePulseEdge (at_ : Nat) (s : State) : Out' :=
  let t := s.advance at_
  whenThen (t.pins.ball == 1 && t.domOn 1) s
    (let now := t.dk.now
     let near := (now + 500000000) / 1000000000 * 1000000000
     let theta : Int := ((now : Int) - (near : Int)) * 65536
     let within := t.dk.edges && (match t.dk.pulseAt with
       | some p => decide (t.time < p + ms 1500)
       | none => false)
     let d := { t.dk with edge := now, pulseAt := some t.time, edges := true, pulse := within }
     { t with dk := if t.pulseMaster then (d.correct theta).become 5 else d })

/-- PULSE_MISSING_TIMEOUT (R550): no edge for 1.5 s. -/
def execPulseMissingTimeout (at_ : Nat) (s : State) : Out' :=
  let t := s.advance at_
  match t.dk.pulseAt with
  | none => .next s
  | some p =>
    whenThen (t.pins.ball == 1 && decide (p + ms 1500 ≤ t.time)) s
      (let d := if t.dk.state = 5 then t.dk.become 4 else t.dk
       { t with dk := { d with pulse := false, edges := false, pulseAt := none, events := d.events ||| 16 } })

/-! ### DECKLE_CONFIG (R482, R551) -/

def deckleConfigBody : Body := fun _ c s => do
  let role := fld c.packet 24 1
  let src := fld c.packet 25 1
  need (decide (role ≤ 1 ∧ src ≤ 1 ∧ src ≤ role)) (stBadParam, 0)
  need (src != 1 || s.pins.ball != 2) (stConflict, 0)
  let ball := if src = 1 then 1 else if s.pins.ball = 1 then 0 else s.pins.ball
  let changed := s.dk.role != (role == 1) || s.dk.source != (src == 1)
  let d := { s.dk with role := role == 1, source := src == 1, acquiring := s.dk.acquiring || changed,
                       pulse := s.dk.pulse && !changed, edges := s.dk.edges && !changed,
                       pulseAt := if src = 0 then none else if changed then some s.time else s.dk.pulseAt }
  okDone ({ s with dk := d, pins := { s.pins with ball := ball } }).chooseMaster

def execDeckleConfig (id : Nat) (s : State) : Out' := jeisk 0x803 deckleConfigBody id s

end Sys2Proof.Machine
end

