-- ==== Sys2Proof/Machine/Power.lean ====
section
/-! DEFINITION. Clocks, power domains and thermal control (ch. 14): PLLs and dividers, domain switching, POWER_SET, the
sensors, the fast clamp, the throttle loop, critical reduction and trip. -/
namespace Sys2Proof.Machine

/-! ### Domains and clocks (R506, R516) -/

/-- The domains that a domain depends on (Table 2 of ch. 14), PD00 apart. -/
def domDeps (d : Nat) : List Nat :=
  if d = 2 then [1]
  else if d = 3 ∨ d = 4 ∨ d = 17 ∨ d = 19 then [13, 14, 15, 16]
  else if 5 ≤ d ∧ d ≤ 8 then [d + 4]
  else if 9 ≤ d ∧ d ≤ 12 then [d + 4]
  else if 13 ≤ d ∧ d ≤ 16 then [1]
  else if d = 18 then [17]
  else []

/-- The clocks of a domain (Table 1 of ch. 14), numbered 0 GCLK, 1 to 4 MCLK_0 to MCLK_3, 5 to 8 DCLK_0 to DCLK_3, 9 HCLK,
10 TCLK, 11 BCLK, 12 to 15 OCLK of units 0 to 3. -/
def domClocks (d : Nat) : List Nat :=
  if d = 1 then [0, 10]
  else if d = 2 then [9]
  else if d = 3 ∨ d = 4 then [11]
  else if 5 ≤ d ∧ d ≤ 8 then [d - 4]
  else if 9 ≤ d ∧ d ≤ 12 then [d - 8]
  else if 13 ≤ d ∧ d ≤ 16 then [d - 12, d - 8]
  else if d = 19 then [12, 13, 14, 15]
  else []

/-- The domains in dependency order, in the order of Table 9 of ch. 14 (R518). -/
def domOrder : List Nat := [1, 2, 13, 14, 15, 16, 9, 10, 11, 12, 5, 6, 7, 8, 17, 18, 19, 3, 4]

/-- A set of domains with every domain that they depend on (R520). -/
def domClosure (on : List Nat) : List Nat :=
  domOrder.reverse.foldl (fun l d => if l.contains d then l ++ domDeps d else l) on

/-- A domain that is on, or is being switched on. -/
def State.domUp (s : State) (d : Nat) : Bool :=
  match tget s.pwr.stage d with
  | some (up, _) => up
  | none => s.domOn d

/-- A domain that the clock runs for: on and not being switched off, or past the release of its reset. -/
def State.domClocked (s : State) (d : Nat) : Bool :=
  match tget s.pwr.stage d with
  | some (up, st, _) => up && decide (1 ≤ st)
  | none => s.domOn d

/-- Some domain needs the clock. -/
def State.clkWanted (s : State) (i : Nat) : Bool := domOrder.any (fun d => s.domClocked d && (domClocks d).contains i)

def State.die (s : State) (d : Nat) : Die := tgetD s.pwr.dies d Die.atReset

def State.setDie (s : State) (d : Nat) (x : Die) : State :=
  { s with pwr := { s.pwr with dies := tset s.pwr.dies d x } }

/-- j_t of R513. -/
def Die.target (x : Die) : Nat :=
  if x.critical then 4
  else Min.min (Min.min x.ceiling x.throttle) (if x.clampActive then x.clampLevel else 15)

/-- The j that a clock heads for (R512, R513, R517). -/
def State.clkTarget (s : State) (i : Nat) : Nat :=
  if !s.clkWanted i then 0
  else if 1 ≤ i ∧ i ≤ 4 then (s.die (i - 1)).target
  else 16

/-- The fused VDD_CORE request of a die for j from 4 to 15, in mV (R515): 650 at j = 4, rising, at most 850. -/
def vcoreMv (die j : Nat) : Nat :=
  (List.range (j + 1)).foldl (fun m k =>
    if k < 5 then m else Max.max m (650 + Config.vcoreFused die k % 201)) 650

/-! ### PLLs (R509, R510) -/

/-- PLL_LOCK (R509): 8,192 reference cycles of 25 MHz, or of 100 MHz for HCLK. -/
def execPllLock (pll at_ : Nat) (s : State) : Out' :=
  inRange (pll < 16) pll
    (let t := s.advance at_
     let k := t.clk pll
     whenThen (t.clkWanted pll && !k.locked && decide (k.stepAt + (if pll = 9 then 81920 else 327680) ≤ t.time)) s
       (t.setClk pll { k with locked := true, j := 0, stepAt := t.time }))

/-- PLL_LOCK_LOSS (R510): the domain's clock stops; TCLK puts the Deckle into holdover instead (R551). -/
def execPllLockLoss (pll : Nat) (s : State) : Out' :=
  inRange (pll < 16) pll
    (let t := s.setClk pll { s.clk pll with locked := false, j := 0, stepAt := s.time }
     whenThen (s.clk pll).locked s
       (if pll = 10 then { t with dk := t.dk.become 3 }
        else (t.bbPush 12 0 (leBytes 1 pll)).selfFence 4))

/-! ### POWER_SET completes (R520, R535, R629) -/

/-- Every switch and every ramp has ended. -/
def State.powerSettled (s : State) : Bool :=
  s.pwr.sequence.isEmpty && s.pwr.stage.isEmpty && (List.range 16).all (fun i => (s.clk i).j == s.clkTarget i)

/-- The POWER_SET that runs completes once everything it caused has ended; with a domain of PD03 to PD19 on again,
tripped falls and THERM_N is released (R629). -/
def State.powerDone (s : State) : State :=
  match s.pwr.cmd with
  | none => s
  | some id =>
    if s.powerSettled then
      let back := s.pwr.tripped && ((List.range 17).any (fun i => s.domOn (3 + i)))
      let s : State := { s with pwr := { s.pwr with cmd := none, tripped := s.pwr.tripped && !back },
                                pins := { s.pins with thermLow := s.pins.thermLow && !back } }
      s.finish id (stOk, 0)
    else s

/-! ### Dividers and rails (R512 to R515, R632, R633) -/

/-- The time between two steps of a divider (R512, R530, R534). -/
def State.stepTime (s : State) (i : Nat) : Nat :=
  let x := s.die (i - 1)
  if 1 ≤ i ∧ i ≤ 4 ∧ (x.critical ∨ x.clampActive) ∧ s.clkTarget i < (s.clk i).j then us 2 else us 1

/-- A die asks its regulator for a voltage. -/
def State.askVolts (s : State) (d mv : Nat) : State :=
  (s.setDie d { s.die d with vcore := mv, avsAt := s.time }).send (.avs d mv)

/-- A divider takes its step: MCLK asks for the voltage and waits before a step up, and lowers its request after a step
down (R515); a clamp's hold begins when its level is reached (R532). -/
def State.takeStep (s : State) (i : Nat) : State :=
  let k := s.clk i
  let goal := s.clkTarget i
  let k : Clk := { k with target := goal }
  let d := i - 1
  let mclk := decide (1 ≤ i ∧ i ≤ 4)
  if k.j < goal then
    if mclk && decide (4 ≤ k.j + 1 ∧ (s.die d).vcore < vcoreMv d (k.j + 1)) then
      (s.setClk i { k with stepAt := s.time }).askVolts d (vcoreMv d (k.j + 1))
    else if mclk && (s.die d).avsFails != 0 then s.setClk i k
    else s.setClk i { k with j := k.j + 1, stepAt := s.time }
  else if goal < k.j then
    let s := s.setClk i { k with j := k.j - 1, stepAt := s.time }
    let s := if mclk && decide (4 ≤ k.j - 1 ∧ (s.die d).vcore ≠ vcoreMv d (k.j - 1)) then s.askVolts d (vcoreMv d (k.j - 1)) else s
    let x := s.die d
    if mclk && x.clampActive && x.reachedAt.isNone && decide (k.j - 1 ≤ x.clampLevel)
    then s.setDie d { x with reachedAt := some s.time } else s
  else s.setClk i k

/-- DIVIDER_STEP (R512). -/
def execDividerStep (clk at_ : Nat) (s : State) : Out' :=
  inRange (clk < 16) clk
    (let t := s.advance at_
     let k := t.clk clk
     whenThen (k.locked && decide (k.stepAt + t.stepTime clk ≤ t.time)) s (t.takeStep clk).powerDone)

/-- AVS_WRITE_RETRY (R633): the regulator's answer to a request. A refused one is written again 10 µs later; 100 refusals
in a row self-fence the package with reason 4. -/
def execAvsWriteRetry (die : Nat) (good : Bool) (at_ : Nat) (s : State) : Out' :=
  inRange (die < 4) die
    (let t := s.advance at_
     let x := t.die die
     whenThen (x.avsFails == 0 || decide (x.avsAt + us 10 ≤ t.time)) s
       (let again := if x.avsFails = 0 then t else t.send (.avs die x.vcore)
        if good then again.setDie die { x with avsFails := 0, avsAt := t.time }
        else
          let u := again.setDie die { x with avsFails := x.avsFails + 1, avsAt := t.time }
          if x.avsFails + 1 = 100 then u.selfFence 4 else u))

/-! ### What a domain carries with it (R516, R519, R522, R538) -/

/-- A link without light or without its router: it must train and be judged again. -/
def Link.dark (k : Link) : Link :=
  { k with step := 0, judged := 0, again := k.again || k.judged != 0, retrainAt := none, oldSerial := 0, unacked := [], laneMap := 0,
            sendMap := 0 }

/-- Every link goes down. -/
def State.darken (s : State) : State :=
  { s with felt := { s.felt with links := tmap s.felt.links (fun _ k => k.dark) } }

/-- Commands that have started and whose work needs a domain that goes off (R535). -/
def needsDomain (d : Nat) (op : Nat) : Bool :=
  if d = 3 ∨ d = 4 then decide (0x400 ≤ op ∧ op ≤ 0x40C)
  else if d = 17 ∨ d = 18 then opNeedsFelt op
  else if 13 ≤ d ∧ d ≤ 16 then opNeedsDram op || opNeedsFelt op || opNeedsMould op || decide (0x400 ≤ op ∧ op ≤ 0x40C)
  else if d = 19 then op == 0x504
  else false

def State.abortFor (s : State) (d : Nat) : State :=
  let s := s.endCmds (fun c => c.phase == .started && needsDomain d (pktOp c.packet)) (stAborted, 0)
  if 5 ≤ d ∧ d ≤ 12 then
    let die := (d - 5) % 4
    s.sheet.launches.foldl (fun s e => if e.2.held.any (fun cl => cl / 512 == die) then s.endCmd e.1 (stAborted, 0) else s) s
  else s

/-- A domain's isolation is in place: its outputs no longer reach the rest. -/
def State.domainOff (s : State) (d : Nat) : State :=
  let s := s.abortFor d
  let s : State := { s with pwr := { s.pwr with on := setBits s.pwr.on d d 0 } }
  if d = 2 then s.linkDown
  else if d = 3 ∨ d = 4 then { s with vat := { s.vat with running := false, fetches := [], held := [], window := none } }
  else if 9 ≤ d ∧ d ≤ 12 then
    { s with sheet := { s.sheet with clusters := tfilter s.sheet.clusters (fun cl _ => cl / 512 != d - 9) } }
  else if 13 ≤ d ∧ d ≤ 16 then { s with host := { s.host with dramReady := false } }
  else if d = 17 ∨ d = 18 then (s.darken).feltCheck
  else if d = 19 then
    let runs := s.mould.runs
    let s : State := { s with
      mould := { s.mould with units := tmap s.mould.units (fun _ m => { MouldUnit.atReset with
        reason := m.reason, fallbacks := m.fallbacks, lastPass := m.lastPass, probeSeq := m.probeSeq }) }
      host := { s.host with mouldReady := false } }
    runs.foldl (fun s r => s.endRun r false) s
  else s

/-- A domain's isolation is released. -/
def State.domainUp (s : State) (d : Nat) : State :=
  let s : State := { s with pwr := { s.pwr with on := setBits s.pwr.on d d 1 } }
  if d = 1 then { s with dk := { s.dk with acquiring := true } }
  else if d = 18 then ({ s with felt := { s.felt with litAt := s.time } }).feltCheck
  else if d = 19 then (List.range 4).foldl (fun s u => s.setUnit u (s.unit u).tune) s
  else s

/-! ### Switching domains (R517, R518) -/

def State.setStage (s : State) (d : Nat) (x : Bool × Nat × Nat) : State :=
  { s with pwr := { s.pwr with stage := tset s.pwr.stage d x } }

def State.endStage (s : State) (d : Nat) : State :=
  { s with pwr := { s.pwr with stage := tdel s.pwr.stage d } }

/-- The clocks of a domain that no other domain needs. -/
def State.ownClocks (s : State) (d : Nat) : List Nat := (domClocks d).filter (fun i => !s.clkWanted i)

/-- DOMAIN_SWITCH_STAGE (R517): on: the switches close over 200 µs, the reset is released and the PLLs lock, the dividers
ramp, the isolation is released. Off: the dividers step down to stopped, the outputs are isolated, the switches open
within 20 µs. -/
def execDomainSwitchStage (dom at_ : Nat) (s : State) : Out' :=
  inRange (dom < 20) dom
    (let t := s.advance at_
     match tget t.pwr.stage dom with
     | none => .next s
     | some (true, 0, a) =>
       whenThen (decide (a + us 200 ≤ t.time)) s
         (let t := t.setStage dom (true, 1, t.time)
          (domClocks dom).foldl (fun t i => if (t.clk i).locked then t else t.setClk i { t.clk i with stepAt := t.time }) t)
     | some (true, 1, _) =>
       whenThen ((domClocks dom).all (fun i => (t.clk i).locked)) s (t.setStage dom (true, 2, t.time))
     | some (true, _, _) =>
       whenThen ((domClocks dom).all (fun i => (t.clk i).j == t.clkTarget i)) s
         ((t.endStage dom).domainUp dom).powerDone
     | some (false, 0, _) =>
       whenThen ((t.ownClocks dom).all (fun i => (t.clk i).j == 0)) s
         ((t.domainOff dom).setStage dom (false, 1, t.time))
     | some (false, _, a) =>
       whenThen (decide (a + us 20 ≤ t.time)) s
         (let t := (t.ownClocks dom).foldl (fun t i => t.setClk i { t.clk i with locked := false }) t
          (t.endStage dom).powerDone))

/-- Every sensor of a die reads below its release value (Table 4 of ch. 14). -/
def Die.cool (x : Die) : Bool := x.logic.all (fun l => decide (l.headD 0 < 744)) && x.dram.all (fun r => decide (r < 664))

def State.allCool (s : State) : Bool := (List.range 4).all (fun d => (s.die d).cool)

/-- DOMAIN_SEQUENCE_TICK (R518, R535): the next domain of the sequence starts 1 ms after the previous one started; a domain
goes on only while what it depends on is on, and after a trip only once every sensor reads below its release value. -/
def execDomainSequenceTick (at_ : Nat) (s : State) : Out' :=
  let t := s.advance at_
  match t.pwr.sequence with
  | [] => .next s
  | (d, up) :: rest =>
    let free := (tget t.pwr.stage d).isNone
    let ok := if up then (domDeps d).all t.domOn && (!t.pwr.tripped || t.allCool)
              else domOrder.all (fun e => !((domDeps e).contains d && t.domOn e))
    whenThen (decide (t.pwr.startedAt + ms 1 ≤ t.time) && free && ok && t.pwr.crystal) s
      { t.setStage d (up, 0, t.time) with
        pwr := { (t.setStage d (up, 0, t.time)).pwr with sequence := rest, startedAt := t.time } }

/-! ### POWER_SET (R520 to R522) -/

/-- Domains in use (R521). -/
def State.domsUsed (s : State) : List Nat :=
  (if s.host.session then [1, 2] else []) ++
  (match s.job.job with
   | none => []
   | some _ => [1, 2] ++ (List.range 14).map (· + 5) ++ (if s.vat.cfg.isSome then [3, 4] else []) ++
       (if s.mould.mats.isEmpty then [] else [19]))

/-- The j of a ceiling field: 0 leaves the ceiling. -/
def ceilingOf (mhz : Nat) (old : Nat) : Nat := if mhz = 0 then old else mhz / 100

def powerSetBody : Body := fun id c s => do
  let mask := fld c.packet 24 3
  let ceil (d : Nat) : Nat := fld c.packet (32 + 2 * d) 2
  need (decide (mask % 2 = 1) && (List.range 4).all (fun d => ceil d == 0 || decide (400 ≤ ceil d ∧ ceil d ≤ 1500)))
    (stBadParam, 0)
  let want := domClosure (domOrder.filter (fun d => mask.testBit d))
  need (s.domsUsed.all (fun d => want.contains d || !s.domUp d)) (stConflict, 0)
  let s := (List.range 4).foldl (fun s d => s.setDie d { s.die d with ceiling := ceilingOf (ceil d) (s.die d).ceiling }) s
  let off := (domOrder.reverse.filter (fun d => !want.contains d && s.domUp d)).map (fun d => (d, false))
  let on := (domOrder.filter (fun d => want.contains d && !s.domUp d)).map (fun d => (d, true))
  return .busy ({ s with pwr := { s.pwr with sequence := off ++ on, cmd := some id } }).powerDone

/-- POWER_SET commands are applied one at a time, in the order of reading (R522). -/
def powerGate : Nat → CmdRec → State → Bool := fun id _ s =>
  !s.host.cmds.any (fun e => e.1 < id && pktOp e.2.packet == 0x906)

/-- POWER_SET (R520). -/
def execPowerSet (id : Nat) (s : State) : Out' := jeiskIf powerGate 0x906 powerSetBody id s

/-! ### Sensors (R525 to R535) -/

/-- The fast-clamp rise of a sensor whose readings stand newest first: the reading less the lowest of the previous 100. -/
def riseOf (l : List Int) : Option Int :=
  match l with
  | r :: p :: rest => some (r - rest.foldl Min.min p)
  | _ => none

/-- The rise condition (R530): more than 8 °C. -/
def rises (l : List Int) : Bool :=
  match riseOf l with
  | some d => decide (64 < d)
  | none => false

/-- The hottest of a list of readings with its number, the lowest number among equals. -/
def hottest (l : List Int) : Option (Nat × Int) :=
  l.zipIdx.foldl (fun m p =>
    match m with
    | none => some (p.2, p.1)
    | some (_, r) => if r < p.1 then some (p.2, p.1) else m) none

def Die.logicNow (x : Die) : List Int := x.logic.map (fun l => l.headD 0)

def Die.logicHot (x : Die) : Int := ((hottest x.logicNow).map Prod.snd).getD 0
def Die.dramHot (x : Die) : Int := ((hottest x.dram).map Prod.snd).getD 0

/-- Data of N_THERMAL_STEP (Table 5 of ch. 14). -/
def stepData (reading rise : Int) (clamp before sensor die : Nat) : BitVec 64 :=
  BitVec.ofNat 64 (die % 4 + sensor % 64 * 4 + before % 16 * 2 ^ 16 + clamp % 16 * 2 ^ 20 + unsigned 16 rise * 2 ^ 32 +
    unsigned 16 reading * 2 ^ 48)

/-- Data of N_THERMAL_CRITICAL (Table 6 of ch. 14). -/
def criticalData (reading : Int) (kind sensor die : Nat) : BitVec 64 :=
  BitVec.ofNat 64 (die % 4 + sensor % 64 * 4 + kind % 16 * 2 ^ 12 + unsigned 16 reading * 2 ^ 48)

/-- A notice with a black-box record that holds it. -/
def State.detectBB (s : State) (b bbKind : Nat) (data : BitVec 64) (detail : BitVec 32) : State :=
  (s.bbPush bbKind (noticeRec 0 b ⟨0xFFFF, s.dk.now, data, detail⟩ 0) []).detect b 0xFFFF data detail

/-- The samples of one period come in. -/
def State.takeSamples (s : State) (logic dram : List (BitVec 16)) : State :=
  (List.range 4).foldl (fun s d =>
    let x := s.die d
    let new := ((logic.drop (64 * d)).take 64).map BitVec.toInt
    let old (k : Nat) : List Int := (x.logic[k]?).getD []
    s.setDie d { x with
      logic := new.zipIdx.map (fun p => (p.1 :: old p.2).take 101)
      dram := ((dram.drop (16 * d)).take 16).map BitVec.toInt }) s

/-- A fast clamp begins on a die whose sensor meets the rise condition while none is active (R530, R533). -/
def State.clampCheck (s : State) (d : Nat) : State :=
  let x := s.die d
  match x.logic.zipIdx.find? (fun p => rises p.1) with
  | none => s
  | some (l, k) =>
    if x.clampActive then s else
    let j := (s.clk (1 + d)).j
    let n := x.clampEvents + 1
    let s := s.setDie d { x with clampActive := true, clampEvents := n,
                                 reachedAt := if j ≤ x.clampLevel then some s.time else none }
    let s := s.setClk (1 + d) { s.clk (1 + d) with stepAt := s.time }
    let s : State := { s with pwr := { s.pwr with events := setBit s.pwr.events d true } }
    s.detectBB nThermalStep 3 (stepData (l.headD 0) ((riseOf l).getD 0) x.clampLevel j k d) (BitVec.ofNat 32 n)

/-- A critical reduction begins, or ends (R534). -/
def State.criticalCheck (s : State) (d : Nat) : State :=
  let x := s.die d
  let logic := decide (880 ≤ x.logicHot)
  if logic || decide (744 ≤ x.dramHot) then
    if x.critical then s else
    let (k, r) := if logic then (hottest x.logicNow).getD (0, 0) else (hottest x.dram).getD (0, 0)
    let s := s.setDie d { x with critical := true, throttle := 4 }
    let s := s.setClk (1 + d) { s.clk (1 + d) with stepAt := s.time }
    let s : State := { s with pwr := { s.pwr with events := setBit s.pwr.events (8 + d) true } }
    s.detectBB nThermalCritical 4 (criticalData r (if logic then 1 else 2) k d) (BitVec.ofNat 32 s.pwr.on.toNat)
  else if x.critical && x.cool then s.setDie d { x with critical := false }
  else s

/-- The sensor that reaches its trip value, if any: die, sensor, reading. -/
def State.tripSensor (s : State) : Option (Nat × Nat × Int) :=
  (List.range 4).findSome? (fun d =>
    let x := s.die d
    match hottest x.logicNow, hottest x.dram with
    | some (k, r), other =>
      if 920 ≤ r then some (d, k, r) else
      match other with
      | some (k, r) => if 784 ≤ r then some (d, k, r) else none
      | none => none
    | none, some (k, r) => if 784 ≤ r then some (d, k, r) else none
    | none, none => none)

/-- The trip (R535, R629): PD03 to PD19 go off, in the reverse of the order in which they go on. -/
def State.trip (s : State) (d k : Nat) (r : Int) : State :=
  let cmd := s.pwr.cmd
  let s : State := { s with pwr := { s.pwr with stage := [], sequence := [] } }
  let s := (domOrder.reverse.filter (fun e => decide (3 ≤ e))).foldl (fun s e =>
    let s := if s.domOn e then s.domainOff e else s
    (s.ownClocks e).foldl (fun s i => s.setClk i { s.clk i with locked := false, j := 0 }) s) s
  let s := match cmd with
    | some id => s.endCmd id (stAborted, 0)
    | none => s
  let s : State := { s with pwr := { s.pwr with tripped := true, events := setBit s.pwr.events 12 true },
                            pins := { s.pins with thermLow := true } }
  (s.detectBB nThermalCritical 4 (criticalData r 3 k d) (BitVec.ofNat 32 s.pwr.on.toNat)).selfFence 5

/-- SENSOR_SAMPLE (R525, R529 to R535): the 256 logic readings and the 64 DRAM readings of the package, by die and number,
and the package power. -/
def execSensorSample (logic dram : List (BitVec 16)) (power at_ : Nat) (s : State) : Out' :=
  let t := s.advance at_
  whenThen (t.pwr.crystal && logic.length == 256 && dram.length == 64) s
    (let t := t.takeSamples logic dram
     let hotStack (st : Nat) : Bool := (List.range 4).any (fun k =>
       decide (680 ≤ (((t.die (st / 4)).dram)[4 * (st % 4) + k]?).getD 0))
     let t : State := { t with pwr := { t.pwr with power := power % 2 ^ 16, fastRefresh := (List.range 16).filter hotStack } }
     let t := (List.range 4).foldl State.clampCheck t
     let t := (List.range 4).foldl State.criticalCheck t
     match t.tripSensor with
     | some (d, k, r) =>
       if t.pwr.tripped && (domOrder.all (fun e => decide (e < 3) || !t.domUp e)) then t else t.trip d k r
     | none => t)

/-- THROTTLE_LOOP_TICK (R528). -/
def execThrottleLoopTick (die at_ : Nat) (s : State) : Out' :=
  inRange (die < 4) die
    (let t := s.advance at_
     let x := t.die die
     whenThen (t.pwr.crystal && decide (x.loopAt + ms 1 ≤ t.time)) s
       (let x : Die := { x with loopAt := t.time }
        if 760 ≤ x.logicHot ∨ 680 ≤ x.dramHot then
          let t := t.setDie die { x with throttle := Max.max 4 (x.throttle - 1) }
          if 4 < x.throttle then { t with pwr := { t.pwr with events := setBit t.pwr.events (4 + die) true } } else t
        else if x.cool then t.setDie die { x with throttle := Min.min 15 (x.throttle + 1) }
        else t.setDie die x))

/-- CLAMP_HOLD_EXPIRY (R532). -/
def execClampHoldExpiry (die at_ : Nat) (s : State) : Out' :=
  inRange (die < 4) die
    (let t := s.advance at_
     let x := t.die die
     match x.reachedAt with
     | none => .next s
     | some r =>
       whenThen (x.clampActive && decide (r + ms 10 ≤ t.time) && !x.logic.any rises && decide (x.logicHot < 760)) s
         (t.setDie die { x with clampActive := false, reachedAt := none, throttle := Min.min x.throttle x.clampLevel }))

/-! ### DRAM training and self-test (R537 to R542) -/

/-- DRAM_TRAINING_DONE (R537, R538). -/
def execDramTrainingDone (s : State) : Out' :=
  whenThen (s.domOn 13 && s.domOn 14 && s.domOn 15 && s.domOn 16 && !s.host.dramReady) s
    { s with host := { s.host with dramReady := true } }

/-- The ports whose loopback a failed Felt scope names (R541): at least one. -/
def badPorts (m : Nat) : List Nat := (List.range 6).filter (fun p => (m % 63 + 1).testBit p)

/-- The end of the scopes of a self-test with their code (R540, R541, Table 10 of ch. 14); bit 3 is the Mould units held
out. -/
def State.selftestEnd (s : State) (scopes code : BitVec 8) : State × BitVec 8 :=
  let held := (List.range 4).any (fun u => (s.unit u).state == 6)
  let code := (code &&& scopes &&& 0x17) ||| (if bit scopes 3 && held then 8 else 0)
  let (d, s) := s.draw
  let s : State := if bit scopes 2
    then { s with felt := { s.felt with portBad := if bit code 2 then badPorts (Config.loopbackPorts d) else [] } } else s
  ({ s with host := { s.host with selftestCode := code, selftestPass := code &&& 0x13 == 0 } }, code)

/-- STARTUP_SELFTEST_DONE (R537, R540): every scope has run. -/
def execStartupSelftestDone (code : BitVec 8) (s : State) : Out' :=
  let t := (s.selftestEnd 0x1F code).1
  whenThen (s.mgmt.fwState == 2 && s.host.dramReady && !s.host.dramTested) s
    { t with host := { t.host with dramTested := true } }

/-- SELFTEST begins (R542): the stack carve-out is claimed for the arrays scope, links go dark for the Felt scope, units
tune for the Mould scope. -/
def selftestBody : Body := fun _ c s => do
  let scope := BitVec.ofNat 8 (fld c.packet 24 1)
  let claim := bit scope 0 && decide (s.mem.carve.stack ≠ 0)
  need s.job.job.isNone (stConflict, 0)
  need (!claim || s.mem.stackBy.isNone) (stConflict, 0)
  let s : State := if claim then { s with mem := { s.mem with stackBy := some .selfTest } } else s
  let s := if bit scope 2 then s.darken.feltCheck else s
  let s := if bit scope 3 && s.domOn 19
    then { (List.range 4).foldl (fun s u => s.setUnit u (s.unit u).tune) s with host := { s.host with mouldReady := false } }
    else s
  return .busy s

/-- SELFTEST ends once the clusters of its scopes are free, earlier self-tests have ended and its units have ended their bring-up (R540, R542). -/
def selftestFin (code : BitVec 8) : Nat → CmdRec → State → Option (Cause × State) := fun id c s =>
  let scope := BitVec.ofNat 8 (fld c.packet 24 1)
  let busy := ((bit scope 0 || bit scope 1) && s.sheet.launches.any (fun e => !e.2.held.isEmpty))
    || s.host.cmds.any (fun e => e.1 < id && e.2.phase == .started && pktOp e.2.packet == 0x905)
  let tuning := bit scope 3 && s.domOn 19 && !s.host.mouldReady
  if busy || tuning then none else
  let (t, code) := s.selftestEnd scope code
  let t : State := if t.mem.stackBy = some .selfTest then { t with mem := { t.mem with stackBy := none } } else t
  some ((stOk, code.toNat), t)

/-- SELFTEST (R540 to R542). -/
def execSelftest (id : Nat) (code : BitVec 8) (s : State) : Out' :=
  jeiskWait 0x905 selftestBody (selftestFin code) id s

end Sys2Proof.Machine
end

