-- ==== Sys2Proof/Machine/Mgmt.lean ====
section
/-! DEFINITION. The watchdog of the management complex and the restart of its cores (R486 to R492, R571). -/
namespace Sys2Proof.Machine

/-- Sentinel 0 watches a management core while its clock runs and firmware is loaded; the sentinels watch each other while
ACLK runs (R486, R490). -/
def State.watched (s : State) (core : Nat) : Bool :=
  s.pwr.crystal && (decide (8 ≤ core) ||
    (s.domOn 1 && s.mgmt.sleep == 0 && (s.mgmt.fwState == 1 || s.mgmt.fwState == 2)))

def State.kick (s : State) (core : Nat) : Kick := (tget s.mgmt.kicks core).getD { word := 0, since := s.time }

def State.setKick (s : State) (core : Nat) (k : Kick) : State :=
  { s with mgmt := { s.mgmt with kicks := tset s.mgmt.kicks core k } }

/-- Data of N_FW_WATCHDOG (Table 4 of ch. 13). -/
def watchdogData (kick : BitVec 64) (st action core : Nat) : BitVec 64 :=
  BitVec.ofNat 64 (core % 16 + action % 16 * 16 + st % 256 * 256 + kick.toNat % 2 ^ 32 * 2 ^ 32)

/-- What sentinel 0 does about a management core that has missed (R487, R489), and a sentinel about the other (R490):
action 1 restarts the core, action 2 all eight, action 3 a sentinel. -/
def State.watchdogAction (s : State) (core : Nat) : Nat :=
  if 8 ≤ core then 3
  else match s.mgmt.restartAt with
    | some a => if s.time ≤ a + sec 10 then 2 else 1
    | none => 1

/-- Every management core restarts together (R489, R501, R569): admin_ready falls, and the package self-fences. -/
def State.restartAll (s : State) : State :=
  let s := (List.range 8).foldl State.evcRestart s
  let s : State := { s with
    mgmt := { s.mgmt with fwState := 5, restarting := true }
    host := { s.host with adminReady := false } }
  (List.range 8).foldl (fun s c => s.setKick c { s.kick c with since := s.time }) s

/-- A core has missed (R487 to R491). -/
def State.miss (s : State) (core : Nat) : State :=
  let action := s.watchdogAction core
  let word := (s.kick core).word
  let s : State := { s with mgmt := { s.mgmt with misses := s.mgmt.misses + 1 } }
  let s := s.setKick core { word := word, since := s.time }
  let s : State :=
    if action = 3 then { s with mgmt := { s.mgmt with sentinelAt := some s.time } }
    else if action = 2 then s.restartAll
    else { s.evcRestart core with mgmt := { s.mgmt with restartAt := some s.time } }
  let s := s.trace 7 0xFFFF 0 0 [(24, 1, core), (25, 1, action)]
  let s := s.detectBB nFwWatchdog 2 (watchdogData word s.fwNow action core) (BitVec.ofNat 32 s.mgmt.misses)
  if action = 2 then s.selfFence 6 else s

/-- One core's kick word is sampled: unchanged for 50 ms, it has missed. -/
def State.sampleKick (s : State) (core : Nat) (w : BitVec 64) : State :=
  if !s.watched core then s.setKick core { word := w, since := s.time }
  else
    let k := s.kick core
    if (tget s.mgmt.kicks core).isNone || k.word != w then s.setKick core { word := w, since := s.time }
    else if k.since + ms 50 ≤ s.time then s.miss core
    else s

/-- WATCHDOG_SAMPLE (R486, R490): the kick words of cores 0 to 9. -/
def execWatchdogSample (kicks : List (BitVec 64)) (at_ : Nat) (s : State) : Out' :=
  let t := s.advance at_
  whenThen (!t.pwr.resetLow && kicks.length == 10) s (kicks.zipIdx.foldl (fun t p => t.sampleKick p.2 p.1) t)

/-- MANAGEMENT_RESTART_DONE (R571): the cores run again; every command that had been read completes with ST_ABORTED. -/
def execManagementRestartDone (s : State) : Out' :=
  let t : State := { s with
    mgmt := { s.mgmt with fwState := 2, restarting := false }
    host := { s.host with adminReady := true } }
  whenThen s.mgmt.restarting s (t.endCmds (fun _ => true) (stAborted, 0)).readAll

end Sys2Proof.Machine
end

