-- ==== Sys2Proof/Machine/BlackBox.lean ====
section
/-! DEFINITION. The black box (ch. 16): records and their chain, BLACKBOX_READ and BLACKBOX_CONFIG, the dump trigger, the
hold-up alarm, reads over the sideband. -/
namespace Sys2Proof.Machine

/-- Records that the flash holds, and records of one sector (R598, R600). -/
def bbCapacity : Nat := 131072
def bbSector : Nat := 128

/-- PT_STATUS (Table 8 of ch. 14). -/
def State.ptStatus (s : State) : BitVec 64 :=
  let dies (f : Die → Bool) : Nat := ((List.range 4).map (fun d => if f (s.die d) then 2 ^ d else 0)).sum
  BitVec.ofNat 64 (s.pwr.on.toNat + dies Die.clampActive * 2 ^ 20 + dies (fun x => decide (x.throttle < x.ceiling)) * 2 ^ 24 +
    dies Die.critical * 2 ^ 28 + b2n s.pwr.tripped * 2 ^ 32)

/-- A record of Table 13. -/
def bbRecord (seq deckle boot kind : Nat) (prev event : BitVec 256) (body : List Byte) (ctx : BitVec 3072) : BitVec 4096 :=
  let context := (body ++ (recBytes ctx).drop body.length).take 384
  let front := recBytes (mkRec 768 [(0, 8, seq), (8, 8, deckle), (16, 4, boot), (20, 2, kind), (22, 2, Min.min 416 (32 + body.length)),
    (24, 32, prev.toNat), (64, 32, event.toNat)]) ++ context
  BitVec.ofNat 4096 (leNat (front ++ recBytes (sm3 front)))

/-- The self digest of a record. -/
def bbSelf (r : BitVec 4096) : BitVec 256 := r.extractLsb' 3840 256

/-- Records held that BLACKBOX_READ has not copied (R600). -/
def State.bbUnread (s : State) : Nat := s.bb.next - s.bb.mark

/-- The oldest sequence held; the next sequence while none is held. -/
def State.bbOldest (s : State) : Nat :=
  match s.bb.recs with
  | [] => s.bb.next
  | r :: _ => r.1

/-- N_BLACKBOX_NEAR_FULL when the unread records reach 114,688 (R600). -/
def State.bbNear (s : State) : State :=
  if s.bbUnread < 114688 then { s with bb := { s.bb with nearPosted := false } }
  else if s.bb.nearPosted then s
  else ({ s with bb := { s.bb with nearPosted := true } }).detect nBlackboxNearFull 0xFFFF
    (BitVec.ofNat 64 (s.bbOldest % 2 ^ 32 + s.bbUnread * 2 ^ 32)) (BitVec.ofNat 32 s.bb.next)

/-- Sentinel 1 writes one record (R598 to R600); a full flash loses its 128 oldest first. -/
def State.bbWrite (s : State) (kind : Nat) (event : BitVec 256) (body : List Byte) : State :=
  let (d, s) := s.draw
  let r := bbRecord s.bb.next (if s.domOn 1 then s.dk.now else 0) s.bb.boot kind s.bb.lastSelf event body (Config.bbContext d)
  let old := if s.bb.recs.length < bbCapacity then s.bb.recs else s.bb.recs.drop bbSector
  ({ s with bb := { s.bb with recs := old ++ [(s.bb.next, r)], next := s.bb.next + 1, lastSelf := bbSelf r } }).bbNear

/-- BLACKBOX_RECORD_WRITE (R598): the entry that has waited longest is written. -/
def execBlackboxRecordWrite (s : State) : Out' :=
  match s.bb.queue with
  | [] => .next s
  | (k, e, b) :: rest =>
    whenThen s.pwr.crystal s (({ s with bb := { s.bb with queue := rest } }).bbWrite k e b)

/-- The first record that a read copies (R603): the one whose sequence bits [31:0] equal `first`, the oldest held if that
one is older. -/
def State.bbFirst (s : State) (first : Nat) : Nat :=
  match s.bb.recs.find? (fun r => r.1 % 2 ^ 32 == first) with
  | some r => r.1
  | none =>
    -- no record held has these bits: older than the oldest, or newer than the newest, whichever lies nearer
    let old := s.bbOldest
    let back := (old + 2 ^ 32 - first) % 2 ^ 32
    let fwd := (first + 2 ^ 32 - s.bb.next % 2 ^ 32) % 2 ^ 32
    if back ≤ fwd then old else s.bb.next

/-- BLACKBOX_READ (R603, R468). -/
def blackboxReadBody : Body := fun _ c s => do
  let out := fld c.packet 32 8
  need (decide (out % 32 = 0)) (stBadParam, 0)
  let from_ := s.bbFirst (fld c.packet 24 4)
  let rs := ((s.bb.recs.filter (fun r => decide (from_ ≤ r.1)))).take (fld c.packet 28 4)
  let s := s.hostWrite out (rs.flatMap (fun r => recBytes r.2))
  let s : State := match rs.getLast? with
    | some r => { s with bb := { s.bb with mark := Max.max s.bb.mark (r.1 + 1) } }
    | none => s
  okDone s.bbNear rs.length

def execBlackboxRead (id : Nat) (s : State) : Out' := jeisk 0x903 blackboxReadBody id s

/-- BLACKBOX_CONFIG (R482, R630). -/
def blackboxConfigBody : Body := fun _ c s => do
  let v := fld c.packet 24 1
  need (decide (v ≤ 1)) (stBadParam, 0)
  need (v != 1 || s.pins.ball != 1) (stConflict, 0)
  okDone { s with pins := { s.pins with ball := if v = 1 then 2 else if s.pins.ball = 2 then 0 else s.pins.ball } }

def execBlackboxConfig (id : Nat) (s : State) : Out' := jeisk 0x904 blackboxConfigBody id s

/-- DUMP_TRIGGER_EDGE (R602): ID_STATUS, PT_STATUS, the firmware state and the last eight notice records. -/
def execDumpTriggerEdge (at_ : Nat) (s : State) : Out' :=
  let t := s.advance at_
  let recent : Bool := match t.bb.dumpAt with
    | some a => decide (t.time < a + ms 100)
    | none => false
  whenThen (t.pins.ball == 2 && !recent) s
    (({ t with bb := { t.bb with dumpAt := some t.time } }).bbPush 14 0
      (recBytes t.idStatus ++ recBytes t.ptStatus ++ leBytes 8 t.fwNow ++ t.bb.notices.flatMap recBytes))

/-- SIDEBAND_BLACKBOX_READ (R604): up to four records; code 1 where the first has been erased. The mark stays. -/
def execSidebandBlackboxRead (first count : Nat) (s : State) : Out' :=
  whenThen (s.pwr.crystal && decide (1 ≤ count ∧ count ≤ 4)) s
    (if first < s.bbOldest then s.send (.sideband 1 [])
     else s.send (.sideband 0 (((s.bb.recs.filter (fun r => decide (first ≤ r.1))).take count).flatMap (fun r => recBytes r.2))))

/-- HOLDUP_CHARGED (R634). -/
def execHoldupCharged (s : State) : Out' := .next { s with bb := { s.bb with charged := true } }

end Sys2Proof.Machine
end

