-- ==== Sys2Proof/Machine/Boot.lean ====
section
/-! DEFINITION. Package reset, bring-up and secure boot, firmware update, measurements, quotes, SPDM, debug unlock
(ch. 14, 16, 17, 18). -/
namespace Sys2Proof.Machine

/-! ### Firmware images (R610, R611) -/

/-- One image of a bank: its header, its body, and the bytes after it. -/
structure Image where
  head : List Byte
  body : List Byte
  rest : List Byte

/-- Bytes `a` to `b` of an image header as a number. -/
def Image.num (i : Image) (a n : Nat) : Nat := leNat ((i.head.drop a).take n)

def Image.bits (i : Image) (w a : Nat) : BitVec w := BitVec.ofNat w (i.num a (w / 8))

/-- The image at the front of some bytes, if the bytes hold a header and a body of its length. -/
def takeImage (l : List Byte) : Option Image :=
  let head := l.take 256
  let len := leNat ((head.drop 16).take 4)
  if head.length = 256 ∧ 256 + len ≤ l.length then
    some { head := head, body := (l.drop 256).take len, rest := l.drop (256 + len) }
  else none

/-- The first check of R611 that an image fails, as the detail of Table 3 of ch. 17. -/
def Image.check (i : Image) (kind fuses : Nat) : Option Nat :=
  let zero (a n : Nat) : Bool := i.num a n == 0
  if i.num 0 4 ≠ 0x57465731 ∨ i.num 4 1 ≠ kind ∨ !(zero 5 3 && zero 14 2 && zero 20 4 && zero 185 7) ∨ 64 < i.num 12 2 then some 1
  else if !Config.sm2Verify Config.rootKey 3 (sm3 ((i.head.drop 56).take 64 ++ (i.head.drop 184).take 1)) (i.bits 512 120)
      || !(i.num 184 1).testBit kind then some 2
  else if !Config.sm2Verify (i.bits 512 56) 3 (sm3 (i.head.take 192)) (i.bits 512 192)
      || sm3 i.body != i.bits 256 24 then some 3
  else if i.num 12 2 < fuses then some 4
  else none

/-- The two images of a bank (R610). -/
def bankImages (l : List Byte) : Option (Image × Image) :=
  match takeImage l with
  | none => none
  | some a =>
    match takeImage a.rest with
    | none => none
    | some b => some (a, b)

/-- The cause for which a bank image is not valid (Table 3 of ch. 17), the lowest of those that apply, or its images. -/
def bankCheck (l : List Byte) (fuses : Nat) : Except Nat (Image × Image) :=
  if 2 ^ 24 < l.length then .error 1 else
  match bankImages l with
  | none => .error 1
  | some (a, b) =>
    match a.check 1 fuses, b.check 2 fuses with
    | some x, some y => .error (Min.min x y)
    | some x, none => .error x
    | none, some y => .error y
    | none, none => if a.num 12 2 = b.num 12 2 then .ok (a, b) else .error 5

/-! ### Measurements (R617) -/

/-- The bytes of a bank. -/
def Identity.bank (i : Identity) (b : Bool) : List Byte := if b then i.bankB else i.bankA

def Identity.setBank (i : Identity) (b : Bool) (l : List Byte) : Identity :=
  if b then { i with bankB := l } else { i with bankA := l }

/-- ID_FW [47:32]: the security version of the active bank. -/
def State.svn (s : State) : Nat := bits s.host.idFw 47 32

/-- Slot 3: fuse count, svn, active bank, debug state. -/
def State.measure3 (s : State) : State :=
  s.setMeasure 3 (sm3 ([BitVec.ofNat 8 s.iden.fuses, BitVec.ofNat 8 s.svn, BitVec.ofNat 8 (b2n s.iden.flag),
    BitVec.ofNat 8 (b2n s.iden.unlocked)] ++ List.replicate 12 0))

/-- The firmware of a bank runs: ID_FW (R436) and slots 1 to 3. -/
def State.runBank (s : State) (a b : Image) : State :=
  let s : State := { s with host := { s.host with idFw := BitVec.ofNat 64 (b.num 8 4 + b.num 12 2 * 2 ^ 32) } }
  (((s.setMeasure 1 (sm3 (a.head ++ a.body))).setMeasure 2 (sm3 (b.head ++ b.body)))).measure3

/-! ### Package reset and bring-up (R508, R537, R612, R626) -/

/-- The package in reset (R626): the fuses, the firmware flash and the black box keep their contents, and the host its
memory; records that waited or were being written are lost and counted. -/
def State.intoReset (s : State) (charged : Bool) : State :=
  let r := State.reset
  { r with
    free := s.free
    host := { r.host with mem := s.host.mem }
    xfer := { r.xfer with out := s.xfer.out }
    bb := { r.bb with recs := s.bb.recs, next := s.bb.next, lastSelf := s.bb.lastSelf, mark := s.bb.mark, boot := s.bb.boot,
                      lost := s.bb.lost + s.bb.queue.length, charged := charged, nearPosted := s.bb.nearPosted }
    iden := { r.iden with fuses := s.iden.fuses, bankA := s.iden.bankA, bankB := s.iden.bankB, flag := s.iden.flag,
                          staged := s.iden.staged }
    pending := s.pending }

/-- RESET_N_ASSERT (R626). -/
def execResetNAssert (s : State) : Out' := .next (s.intoReset s.bb.charged)

/-- RESET_RELEASE (R537). -/
def execResetRelease (s : State) : Out' :=
  whenThen s.pwr.resetLow s
    { s with pwr := { s.pwr with resetLow := false, startedAt := s.time }
             bb := { s.bb with boot := (s.bb.boot + 1) % 2 ^ 32 } }

/-- CRYSTAL_STABLE (R508, R537, R601): 65,536 cycles after the release; the sentinels start, the power-on record with the
count of records lost waits to be written, and PD01 and PD02 are to be switched on. -/
def execCrystalStable (at_ : Nat) (s : State) : Out' :=
  let t := s.advance at_
  let t := t.bbPush 1 0 (leBytes 4 t.bb.lost)
  whenThen (!t.pwr.resetLow && !t.pwr.crystal && decide (t.pwr.startedAt + 2621440 ≤ t.time)) s
    { t with pwr := { t.pwr with crystal := true, sequence := [(1, true), (2, true)] }
             bb := { t.bb with lost := 0 } }

/-- BOOT_ROM_VERIFY (R612, R609): the active bank, then the other; with neither valid the package stays in firmware
state 0. -/
def execBootRomVerify (s : State) : Out' :=
  let try_ (b : Bool) : Option (Image × Image) :=
    match bankCheck (s.iden.bank b) s.iden.fuses with
    | .ok (x, y) => if Config.trustListOk (y.head ++ y.body) then some (x, y) else none
    | .error _ => none
  let go (t : State) (x y : Image) : State := ({ t with mgmt := { t.mgmt with fwState := 1 } }).runBank x y
  let s' : State := { s with mgmt := { s.mgmt with romDone := true } }
  let bad : State := { s'.bbPush 13 0 [] with iden := { s.iden with flag := !s.iden.flag } }
  whenThen (s.mgmt.fwState == 0 && !s.mgmt.romDone && s.domOn 1) s
    (match try_ s.iden.flag with
     | some (x, y) => go s' x y
     | none =>
       match try_ (!s.iden.flag) with
       | some (x, y) => go bad x y
       | none => bad)

/-! ### FW_STAGE, FW_ACTIVATE (R613 to R616) -/

/-- FW_STAGE, FW_ACTIVATE and ATTEST are carried out one at a time, in the order of reading (R615). -/
def secureGate : Nat → CmdRec → State → Bool := fun id _ s =>
  !s.host.cmds.any (fun e => e.1 < id && decide (0x900 ≤ pktOp e.2.packet ∧ pktOp e.2.packet ≤ 0x902))

def fwStageBody : Body := fun _ c s => do
  let len := fld c.packet 32 4
  let bad (d : Nat) : Except Cause Work := failDone (s.signFail c (stSecurity, d)) (stSecurity, d)
  if 2 ^ 24 < len then bad 1 else
  match s.hostRead (fld c.packet 24 8) len with
  | none => failDone s (stDataError, 0)
  | some l =>
    match bankCheck l s.iden.fuses with
    | .error d => bad d
    | .ok (a, _) => okDone { s with iden := { s.iden.setBank (!s.iden.flag) l with staged := true } } (a.num 12 2)

/-- FW_STAGE (R614). -/
def execFwStage (id : Nat) (s : State) : Out' := jeiskIf secureGate 0x901 fwStageBody id s

/-- Every command read before it has completed: the activation begins (R616 step 2); else it waits. -/
def State.tryActivate (s : State) (id : Nat) : State :=
  if s.mgmt.activating.isSome || s.host.cmds.any (fun e => decide (e.1 < id)) then s
  else { s with mgmt := { s.mgmt with activating := some (id, s.time), fwState := 6 }
                host := { s.host with adminReady := false } }

def fwActivateBody : Body := fun id _ s => do
  need s.job.job.isNone (stConflict, 0)
  need s.iden.staged (stBadParam, 0)
  return .busy (s.tryActivate id)

/-- FW_ACTIVATE (R616): steps 1 and 2. Its completion is FIRMWARE_ADMIN_READY or FW_ACTIVATE_TIMEOUT. -/
def execFwActivate (id : Nat) (s : State) : Out' :=
  match s.cmd id with
  | none => .next s
  | some c =>
    if c.phase == .started then (if pktOp c.packet = 0x902 then .next (s.tryActivate id) else .next s)
    else jeiskIf secureGate 0x902 fwActivateBody id s

/-- The domains of bring-up after PD01 and PD02, in the order of Table 9 of ch. 14 step 6. -/
def bringUpDomains : List (Nat × Bool) := (domOrder.drop 2).map (fun d => (d, true))

/-- Firmware accepts commands: admin_ready rises and rings are read (R437, R537). -/
def State.adminUp (s : State) : State :=
  let s : State := { s with
    mgmt := { s.mgmt with fwState := 2, broughtUp := true }
    host := { s.host with adminReady := true }
    pwr := if s.mgmt.broughtUp then s.pwr else { s.pwr with sequence := s.pwr.sequence ++ bringUpDomains } }
  s.readAll

/-- FIRMWARE_ADMIN_READY (R537, R616 step 4): after a reset, or of the staged bank within 5 s. -/
def execFirmwareAdminReady (at_ : Nat) (s : State) : Out' :=
  let t := s.advance at_
  if t.mgmt.fwState = 1 then whenThen (t.domOn 1 && t.mgmt.sleep == 0) s t.adminUp
  else match t.mgmt.activating with
    | none => .next s
    | some (id, a) =>
      match bankCheck (t.iden.bank (!t.iden.flag)) t.iden.fuses with
      | .error _ => .next s
      | .ok (x, y) =>
        whenThen (decide (t.time ≤ a + sec 5) && Config.trustListOk (y.head ++ y.body)) s
          (let u : State := { t with
             iden := { t.iden with flag := !t.iden.flag, staged := false }
             mgmt := { t.mgmt with activating := none } }
           ((((u.runBank x y).bbPush 10 0 []).finish id (stOk, 0))).adminUp)

/-- FW_ACTIVATE_TIMEOUT (R616 step 5): the previous bank starts again, the staged image is discarded. -/
def execFwActivateTimeout (at_ : Nat) (s : State) : Out' :=
  let t := s.advance at_
  match t.mgmt.activating with
  | none => .next s
  | some (id, a) =>
    whenThen (decide (a + sec 5 ≤ t.time)) s
      (({ t with iden := { t.iden with staged := false }
                 mgmt := { t.mgmt with activating := none, fwState := 1 } }).finish id (stBadParam, 1))

/-- FUSE_BLOW (R613): one fuse, once the firmware of the active bank has reached state 3. -/
def execFuseBlow (s : State) : Out' :=
  whenThen (s.mgmt.fwState == 2 && s.ready && decide (s.iden.fuses < s.svn ∧ s.iden.fuses < 64)) s
    ({ s with iden := { s.iden with fuses := s.iden.fuses + 1 } }).measure3

/-! ### Quotes (R606, R618, R620) -/

/-- The slots of a mask, in ascending order. -/
def quoteSlots (mask : Nat) : List Nat := (List.range 8).filter (fun i => mask.testBit i)

def quoteLength (mask : Nat) : Nat := 128 + 32 * (quoteSlots mask).length + Config.watermark.length

/-- The quote (Table 5 of ch. 17), with the state after the draw of its signature's random value. -/
def State.quote (s : State) (nonce : BitVec 128) (mask : Nat) : List Byte × State :=
  let (d, s) := s.draw
  let head := recBytes (mkRec 512 [(0, 2, 1), (2, 2, quoteLength mask), (4, 2, Config.watermark.length), (6, 1, mask),
    (7, 1, s.iden.fuses), (8, 8, Config.serial.toNat), (16, 16, nonce.toNat), (32, 8, s.dk.now), (40, 4, bits s.host.idFw 31 0),
    (44, 2, s.svn), (46, 1, b2n s.iden.unlocked), (47, 1, b2n s.iden.flag), (48, 4, s.iden.changes)])
  let front := head ++ (quoteSlots mask).flatMap (fun i => recBytes (tgetD s.iden.slots i 0))
  (front ++ recBytes (Config.sm2Sign 1 (sm3 front) d) ++ Config.watermark, s)

def attestBody : Body := fun _ c s => do
  let out := fld c.packet 40 8
  let mask := fld c.packet 52 4
  need (decide (mask < 256)) (stReservedNonzero, 0)
  need (decide (out % 32 = 0)) (stBadParam, 0)
  need (decide (quoteLength mask ≤ fld c.packet 48 4)) (stNoResource, quoteLength mask)
  let (q, s) := s.quote (BitVec.ofNat 128 (fld c.packet 24 16)) mask
  okDone (s.hostWrite out q) (quoteLength mask)

/-- ATTEST (R618). -/
def execAttest (id : Nat) (s : State) : Out' := jeiskIf secureGate 0x900 attestBody id s

/-- SIDEBAND_QUOTE (R620): completion code 0 and the quote. -/
def execSidebandQuote (nonce : BitVec 128) (mask : BitVec 8) (s : State) : Out' :=
  let (q, t) := s.quote nonce mask.toNat
  whenThen s.pwr.crystal s (t.send (.sideband 0 q))

/-! ### SPDM (R619, R620) -/

/-- Request codes of SPDM 1.2 that R619 names: GET_DIGESTS, GET_CERTIFICATE, CHALLENGE, GET_VERSION, GET_MEASUREMENTS,
GET_CAPABILITIES, NEGOTIATE_ALGORITHMS (PRESUMED from DSP0274, log 25). -/
def spdmCodes : List (BitVec 8) := [0x81, 0x82, 0x83, 0x84, 0xE0, 0xE1, 0xE3]

/-- The answer to an SPDM request: the standard's response, or an ERROR of UnsupportedRequest. -/
def State.spdm (s : State) (code : BitVec 8) (payload : List Byte) : List Byte × State :=
  if spdmCodes.contains code then
    let (d, s) := s.draw
    (Config.spdmResponse (code :: payload) d, s)
  else ([0x12, 0x7F, 0x07, code], s)

/-- SPDM_REQUEST (R619). -/
def execSpdmRequest (code : BitVec 8) (payload : List Byte) (s : State) : Out' :=
  let (r, t) := s.spdm code payload
  whenThen s.host.linkUp s (t.send (.doe r))

/-- SIDEBAND_SPDM (R620). -/
def execSidebandSpdm (code : BitVec 8) (payload : List Byte) (s : State) : Out' :=
  let (r, t) := s.spdm code payload
  whenThen s.pwr.crystal s (t.send (.sideband 0 r))

/-! ### Debug unlock (R621) -/

/-- SIDEBAND_DEBUG_CHALLENGE (R621). -/
def execSidebandDebugChallenge (s : State) : Out' :=
  let (d, t) := s.draw
  let n := Config.fresh128 d
  whenThen s.pwr.crystal s
    (({ t with iden := { t.iden with challenge := some n } }).send (.sideband 0 (recBytes n)))

/-- SIDEBAND_DEBUG_UNLOCK (R621): one attempt for each challenge; success changes slot 3, failure writes a record of
kind 13. -/
def execSidebandDebugUnlock (serial : BitVec 64) (challenge : BitVec 128) (key : BitVec 512) (endorsement signature : BitVec 512)
    (s : State) : Out' :=
  let ok := serial == Config.serial && s.iden.challenge == some challenge
    && Config.sm2Verify Config.rootKey 3 (sm3 (recBytes key)) endorsement
    && Config.sm2Verify key 3 (sm3 (recBytes serial ++ recBytes challenge)) signature
  let t : State := { s with iden := { s.iden with challenge := none } }
  whenThen s.pwr.crystal s
    (if ok then (({ t with iden := { t.iden with unlocked := true } }).measure3).send (.sideband 0 [])
     else (t.bbPush 13 0 []).send (.sideband 1 []))

/-! ### Standby power lost (R601) -/

/-- HOLDUP_ALARM (R601, R634): with the capacitor charged sentinel 1 finishes the record that it is writing and writes one
of kind 11; what still waits is lost. Then the package is without power. -/
def execHoldupAlarm (s : State) : Out' :=
  let t : State :=
    if s.bb.charged && s.pwr.crystal then
      let s := match s.bb.queue with
        | (k, e, b) :: rest => ({ s with bb := { s.bb with queue := rest } }).bbWrite k e b
        | [] => s
      s.bbWrite 11 0 []
    else s
  .next (t.intoReset false)

end Sys2Proof.Machine
end

