-- ==== Sys2Proof/Machine/Launch.lean ====
section
/-! DEFINITION. Launches (ch. 05, 06, 12): LAUNCH with its checks (R183, R230, R265, R302, R476), LAUNCH_START (R181,
R477), LAUNCH_CLUSTERS_FINISHED (R195, R224, R232), LAUNCH_PROGRESS_TIMEOUT (R196). -/
namespace Sys2Proof.Machine

/-! ### The launch block (R476, Table 10 of ch. 12; R228) -/

/-- A reserved field of the block, or of a binding in use, is nonzero. -/
def blockReserved (b : BitVec 8192) (nb : Nat) : Bool :=
  decide (fld b 7 57 ≠ 0) || decide (fld b 960 64 ≠ 0)
  || (List.range 16).any (fun i => decide (2 ≤ fld b (68 + 32 * i) 4) || decide (fld b (88 + 32 * i) 8 ≠ 0))
  || (List.range (Min.min nb 8)).any (fun i =>
      let o := 704 + 32 * i
      decide (fld b (o + 4) 4 ≠ 0 ∨ fld b (o + 14) 2 ≠ 0 ∨ 2 ≤ fld b (o + 22) 2 ∨ fld b (o + 24) 8 ≠ 0))

def blockSlot (b : BitVec 8192) (i : Nat) : OpSlot :=
  { handle := fld b (64 + 32 * i) 4, writable := (fld b (68 + 32 * i) 1).testBit 0, off := fld b (72 + 32 * i) 8,
    len := fld b (80 + 32 * i) 8 }

def blockBinding (b : BitVec 8192) (i : Nat) : Binding :=
  let o := 704 + 32 * i
  { shard := fld b o 4, step := fld b (o + 8) 6, rows := fld b (o + 16) 2, cols := fld b (o + 18) 2,
    replicas := fld b (o + 20) 2, final := (fld b (o + 22) 2).testBit 0 }

/-! ### Checks against device state -/

/-- R230: the binding is accepted. -/
def State.bindingOk (s : State) (b : Binding) : Bool :=
  match s.redPath b.shard with
  | none => false
  | some (j, i, o) =>
    decide (b.shard < j.shards.length ∧ b.rows ≠ 0 ∧ b.cols ≠ 0 ∧ b.replicas = j.replicas o)
    && s.red.steps.all (fun e => !(decide (e.1 / 2 ^ 48 = b.shard ∧ b.step < e.1 % 2 ^ 48) && !e.2.streamed.isEmpty))
    && (i != o || s.ownerMeets b.shard b.rows b.cols)

/-- R265: the launch may use the activation stack. -/
def State.stackOk (s : State) (l : Launch) : Bool :=
  !l.usesStack || (s.sheet.stackRanks == some l.want && !s.sheet.launches.any (fun e => e.2.usesStack && !e.2.held.isEmpty))

/-- A word's slot and binding are there to use (R476); the index of the first word for which they are not. -/
def badWord (slots : List OpSlot) (nb : Nat) (ws : List Word128) : Option Nat :=
  ws.findIdx? (fun w =>
    (match wordSlot w with
     | none => false
     | some k =>
       match slots[k]? with
       | none => true
       | some sl => sl.handle == 0 || (wordWrites w && !sl.writable)) ||
    (match wordBinding w with
     | none => false
     | some k => decide (nb ≤ k)))

/-- Slot `k` lets the program write a guarded handle, or read a low plane (R143, R302). -/
def State.slotConflict (s : State) (ws : List Word128) (k : Nat) (sl : OpSlot) : Bool :=
  sl.handle != 0 &&
  ((sl.writable && s.writeGuarded sl.handle) ||
   (s.lowPlane sl.handle sl.off sl.len && ws.any (fun w => wordSlot w == some k && wordReads w && wFa w != fmtSPLIT32)))

/-- The checks of a launch (R639). `none` where the program was poisoned (R94). -/
def launchCheck (id : Nat) (c : CmdRec) (b : BitVec 8192) (s : State) : Except Cause (Option Launch × State) := do
  let nw := fld b 0 4
  let want := fld b 4 2
  let nb := fld b 6 1
  need (!blockReserved b nb) (stReservedNonzero, 0)
  need (decide (fld c.packet 24 8 % 64 = 0 ∧ 1 ≤ nw ∧ nw ≤ 65536 ∧ 1 ≤ want ∧ want ≤ 2048 ∧ nb ≤ 8)) (stBadParam, 0)
  let s0 := blockSlot b 0
  need (decide (s0.handle ≠ 0 ∧ 16 * nw ≤ s0.len)) (stBadParam, 0)
  need ((List.range nb).all (fun i => decide ((blockBinding b i).rows ≠ 0 ∧ (blockBinding b i).cols ≠ 0))) (stBadParam, 0)
  need (nb == 0 || s.job.job.isSome) (stConflict, 0)
  let slots := (List.range 16).map (blockSlot b)
  match slots.findSome? (fun sl => if sl.handle = 0 then none
      else match s.rangeFor id sl.handle sl.off sl.len with
        | .error e => some e
        | .ok _ => none) with
  | some e => .error e
  | none =>
    let e ← s.rangeFor id s0.handle s0.off s0.len
    need (!s.lowPlane s0.handle s0.off (16 * nw)) (stConflict, 0)
    let (bs, poison, s) := s.extRead e s0.off (16 * nw)
    if poison then return (none, s) else
    let ws := (chunks nw 16 bs).map (fun l => BitVec.ofNat 128 (leNat l))
    match loadCheck ws with
    | some i => .error (stBadParam, i)
    | none =>
      match badWord slots nb ws with
      | some i => .error (stBadParam, i)
      | none =>
        let bindings := (List.range nb).map (blockBinding b)
        need (bindings.all s.bindingOk) (stBadParam, 0)
        need (!(slots.zipIdx.any (fun x => s.slotConflict ws x.2 x.1))) (stConflict, 0)
        let l : Launch := { words := ws, want := want, held := [], slots := slots,
                            params := (List.range 16).map (fun i => BitVec.ofNat 64 (fld b (576 + 8 * i) 8)),
                            bindings := bindings, usesStack := ws.any wordStack, stop := none, zeros := 0 }
        need (s.stackOk l) (stConflict, 0)
        return (some l, s)

/-- LAUNCH (R476): the block and the program are read and checked; the launch then waits for its clusters (R477). -/
def execLaunch (id : Nat) (s : State) : Out' :=
  match s.cmd id with
  | none => .next s
  | some c =>
    if pktOp c.packet = 0x200 ∧ s.mayStart id c ∧ (s.launchOf id).isNone then
      match s.hostRec 8192 (fld c.packet 24 8) with
      | none => .next ((s.startCmd id).finish id (stDataError, 0))
      | some b =>
        if s.fail.selfFenced.isSome && s.job.job.isSome && decide (fld b 6 1 ≠ 0) then
          .next ((s.bump slotCheckFail 1).failCmd id (stFenced, 0))
        else
          match launchCheck id c b s with
          | .error st => .next ((s.bump slotCheckFail 1).failCmd id st)
          | .ok (none, t) => .next ((t.startCmd id).finish id (stDataError, 0))
          | .ok (some l, t) => .next (t.setLaunch id l)
    else .next s

/-! ### Starting (R105, R181, R477) -/

/-- Clusters that a launch can take: held by no launch, on a die whose arrays and vector engines are on. -/
def State.freeClusters (s : State) (rot : Nat) : List Nat :=
  ((List.range 2048).map (fun i => (i + rot) % 2048)).filter (fun cl =>
    (s.clus cl).launch.isNone && s.domOn (5 + cl / 512) && s.domOn (9 + cl / 512))

/-- A cluster as it begins a launch (R181): scratch and pages are not cleared, what they hold is unspecified. The sticky
flag words stand. -/
def Cluster.begin_ (c : Cluster) (id rank want at_ busy : Nat) : Cluster :=
  { Cluster.idle with launch := some id, rank := rank, ix := [(14, want), (15, rank)], uid := c.uid,
                      copyFlags := c.copyFlags, matFlags := c.matFlags, vecFlags := c.vecFlags, busy := busy, progressAt := at_ }

/-- A step that a launch may stream anew: a refusal of an earlier launch does not outlive it. -/
def State.renewStep (s : State) (b : Binding) : State :=
  if (s.redStep b.shard b.step).refused then s.setRed b.shard b.step (RedStep.fresh b.rows b.cols s.time) else s

/-- The placement word of the counter record (Table 7 of ch. 15): clusters held, dies used. -/
def placeWord (held : List Nat) : BitVec 64 :=
  BitVec.ofNat 64 (held.length % 2 ^ 16 +
    ((List.range 4).foldl (fun m d => if held.any (fun cl => cl / 512 == d) then m + 2 ^ d else m) 0) * 2 ^ 16)

/-- LAUNCH_START (R477): every cluster is taken at once; no launch starts while a SELFTEST runs (R542). -/
def execLaunchStart (id : Nat) (s : State) : Out' :=
  match s.launchOf id, s.cmd id with
  | some l, some c =>
    let (d, t) := s.draw
    let free := t.freeClusters (Config.clusterRotation d % 2048)
    if c.phase != .waiting || decide (free.length < l.want) || s.selftesting then .next s
    else if !s.stackOk l then .next ((s.bump slotCheckFail 1).failCmd id (stConflict, 0))
    else if !l.bindings.all s.bindingOk then .next ((s.bump slotCheckFail 1).failCmd id (stBadParam, 0))
    else
      let held := free.take l.want
      let t := t.setCmd id { c with place := placeWord held }
      let t := l.bindings.foldl State.renewStep ((t.startCmd id).setLaunch id { l with held := held })
      let t := held.zipIdx.foldl (fun t x => t.setClus x.1 
        ((t.clus x.1).begin_ id x.2 l.want t.time (tgetD t.ctr.cnt (slotBusy x.1) 0))) t
      .next (held.foldl (fun t cl => t.distribute 770 cl) t)
  | _, _ => .next s

/-! ### Finishing (R195, R224, R232) -/

/-- The zero tiles that a launch owes: binding, row and column, in order (R232). -/
def State.missingTiles (s : State) (l : Launch) : List (Binding × Nat × Nat) :=
  (l.bindings.filter Binding.final).flatMap (fun b =>
    let r := s.redStep b.shard b.step
    (List.range b.rows).flatMap (fun row => ((List.range b.cols).filter (fun col =>
      !r.streamed.contains (row * 65536 + col))).map (fun col => (b, row, col))))

/-- Zero tiles are streamed while credit lasts; the number streamed, and whether one waits. -/
def State.zeroTiles (s : State) (id : Nat) (l : Launch) : State × Nat × Bool :=
  (s.missingTiles l).foldl (fun (a : State × Nat × Bool) x =>
    if a.2.2 then a else
    let s := a.1.firstClose x.1
    if ((s.launchOf id).bind Launch.stop).isSome then (s, a.2.1, false)
    else if (s.redStep x.1.shard x.1.step).credit.contains x.2.1 then
      ((s.streamTile x.1 x.2.1 x.2.2 (List.replicate 1024 0)).bump (slotRow 4) 1, a.2.1 + 1, false)
    else (s, a.2.1, true)) (s, 0, false)

/-- LAUNCH_CLUSTERS_FINISHED (R195, R224, R232): every cluster has finished or stopped and every near-memory add has been
performed; zero tiles that wait for credit are sent when it comes again. -/
def execLaunchClustersFinished (id : Nat) (s : State) : Out' :=
  match s.launchOf id with
  | none => .next s
  | some l =>
    let retired := s.mem.adds.all (fun a => match a.issuer with
      | .cluster cl _ => !l.held.contains cl
      | .command _ => true)
    if l.held.isEmpty || !l.held.all (fun cl => (s.clus cl).finished) || !retired then .next s
    else
      let (t, n, wait) := if l.stop.isSome then (s, 0, false) else s.zeroTiles id l
      match (t.launchOf id).bind Launch.stop with
      | some c => .next ((t.dropLaunch id).finish id (c.status, c.detail))
      | none =>
        if wait then .next (t.setLaunch id { l with zeros := l.zeros + n })
        else .next ((t.dropLaunch id).finish id
          (if l.zeros + n = 0 then (stOk, 0) else (stDataMismatch, l.zeros + n)))

/-! ### No progress (R196) -/

/-- A queue word waits for near-memory adds, or a streaming close for credit (R196, R237). -/
def Cluster.waitsOutside (c : Cluster) : Bool :=
  (c.copyQ ++ c.matQ ++ c.vecQ).any (fun q => q.started && (q.adding || (wordBinding q.word).isSome))

/-- The instruction index of the oldest waiting instruction: the word distributed first, else the control word that the
distributor holds. -/
def Cluster.oldest (c : Cluster) : Nat :=
  ((c.copyQ ++ c.matQ ++ c.vecQ).foldl (fun (b : Option QWord) q => match b with
    | none => some q
    | some x => if q.uid < x.uid then some q else some x) none).elim c.pc QWord.idx

/-- LAUNCH_PROGRESS_TIMEOUT (R196): 2^24 cycles of the die's MCLK without progress. MCLK runs at j × 100 MHz (R509). -/
def execLaunchProgressTimeout (cl at_ : Nat) (s : State) : Out' :=
  inRange (cl < 2048) cl
    (let t := s.advance at_
     let c := t.clus cl
     let j := (tgetD t.pwr.clks (1 + cl / 512) Clk.atReset).j
     match c.launch with
     | none => .next s
     | some id =>
       whenThen (!c.finished && !c.waitsOutside && decide (2 ^ 24 * 10 ≤ (t.time - c.progressAt) * j)) s
         (t.stopLaunch id { status := stTimeout, detail := c.oldest, rank := c.rank, idx := c.oldest }))

end Sys2Proof.Machine
end

