-- ==== Sys2Proof/Machine/RowOps.lean ====
section
/-! DEFINITION. The row engine (ch. 06): softmax, layer and RMS normalisation, forward and backward (R242 to R254), and the
statistics with their side memory and spill (R255 to R261). -/
namespace Sys2Proof.Machine

/-! ### Statistics (R255 to R261) -/

/-- Banks of the spill carve-out (R256). -/
def State.banks (s : State) : Nat := s.mem.carve.spill / (256 * 2 ^ 20)

/-- The bank of a cluster's command (R256). -/
def State.statBank (s : State) (cl : Nat) : Nat := s.clusCtx cl % s.banks

def statKey (bank tag : Nat) : Nat := bank * 2 ^ 24 + tag

/-- The spill record of an entry: where it lies in the carve-out (R258). -/
def State.spillAddrs (s : State) (bank tag : Nat) : List Nat :=
  (s.mem.carve.extent 2).addrs (bank * (256 * 2 ^ 20) + 16 * tag) 16

def spillBytes (e : Stat) (valid : Bool) : List Byte :=
  leBytes 8 (e.lo.toNat + e.hi.toNat * 2 ^ 32) ++ leBytes 8 (e.kind % 4 + 4 * b2n valid)

def sameStat (bank tag : Nat) (e : Stat) : Bool := e.bank == bank && e.tag == tag

/-- An entry is live in the side memory of its home quire (tag mod 128), or in its spill record. -/
def State.statHome (s : State) (bank tag : Nat) : Option Stat := (tgetD s.sheet.homes (tag % 128) []).find? (sameStat bank tag)
def State.statSpilled (s : State) (bank tag : Nat) : Option Stat := tget s.sheet.spilled (statKey bank tag)

/-- An entry is freed, wherever it is live. -/
def State.freeStat (s : State) (bank tag : Nat) : State :=
  let s := { s with sheet := { s.sheet with homes := tmod s.sheet.homes (tag % 128) (fun l => l.filter (fun e => !sameStat bank tag e)) } }
  match s.statSpilled bank tag with
  | none => s
  | some e => { s with sheet := { s.sheet with spilled := tdel s.sheet.spilled (statKey bank tag) } }.writeBytes
      (s.spillAddrs bank tag) (spillBytes e false)

/-- An entry arrives at its home (R257, R258): it replaces a live one of its bank and tag; when the side memory holds 8,192
entries the oldest goes to the spill carve-out. -/
def State.recordStat (s : State) (e : Stat) : State :=
  let live := (s.statHome e.bank e.tag).isSome || (s.statSpilled e.bank e.tag).isSome
  let s := if live then (s.freeStat e.bank e.tag).bump (slotRow 3) 1 else s
  let l := tgetD s.sheet.homes (e.tag % 128) []
  let s := match l with
    | old :: rest =>
      if 8192 ≤ l.length then
        let s := { s with sheet := { s.sheet with homes := tset s.sheet.homes (e.tag % 128) rest,
                                                  spilled := tset s.sheet.spilled (statKey old.bank old.tag) old } }
        (s.writeBytes (s.spillAddrs old.bank old.tag) (spillBytes old true)).bump (slotRow 1) 1
      else s
    | [] => s
  { s with sheet := { s.sheet with homes := tset s.sheet.homes (e.tag % 128) (tgetD s.sheet.homes (e.tag % 128) [] ++ [e]) } }

/-- A lookup (R258, R259): the entry, whether its spill record was poisoned, and the state after the read. -/
def State.lookupStat (s : State) (bank tag : Nat) : Option (Stat × Bool × State) :=
  match s.statHome bank tag with
  | some e => some (e, false, s)
  | none =>
    (s.statSpilled bank tag).map (fun e =>
      let (_, bad, s) := s.readBytes (s.spillAddrs bank tag)
      (e, bad, s.bump (slotRow 2) 1))

/-! ### Rows (R244, R245, R250) -/

/-- The row's parameters: operation, scale or ε, causal offset, and what the choice of an error within the bound may
depend on (R174). -/
structure RowIn where
  op : Nat
  prm : BitVec 32
  xs : List (BitVec 32)
  ys : List (BitVec 32)
  live : List Bool
  stat : Stat

/-- The inputs as numbers. -/
def RowIn.key (r : RowIn) : List Nat :=
  [r.prm.toNat, r.stat.kind, r.stat.hi.toNat, r.stat.lo.toNat] ++ r.live.map b2n ++ r.xs.map BitVec.toNat ++ r.ys.map BitVec.toNat

/-- An FP32 value within 4 ulp of `x` (R250), for position `j` of the row's outputs. -/
def RowIn.pick (r : RowIn) (j : Nat) (x : Int) (exact : Bool) : BitVec 32 × Flags :=
  pickF32 x exact 4 (Config.rowError r.op r.key j)

def nanWord : BitVec 32 := BitVec.ofNat 32 (fmtNaN 0)
def statNone : Stat := { bank := 0, tag := 0, kind := 0, hi := 0, lo := 0 }

/-- The outputs of a row with the flags of each, its statistic (kind, hi, lo) and the flags of the row as a whole; `quiet`
rows raise nothing but those. -/
structure RowOut where
  out : List (BitVec 32 × Flags)
  kind : Nat
  hi : BitVec 32
  lo : BitVec 32
  flags : Flags
  quiet : Bool

def rowConst (n : Nat) (w : BitVec 32) (kind : Nat) (fl : Flags) : RowOut :=
  { out := List.replicate n (w, 0), kind := kind, hi := 0, lo := 0, flags := fl, quiet := true }

def fxSum (l : List Int) : Int := l.foldl (· + ·) 0

/-! ### Softmax (R252, R253) -/

/-- z_j = s × x_j where j is unmasked: exact, or the infinity that it overflows to; `none` at masked positions (R245: an
input of -∞ counts as masked). -/
def softmaxZ (r : RowIn) : List (Option FVal) × Flags :=
  let zs := (r.xs.zip r.live).map (fun p =>
    let x := f32 p.1
    if !p.2 || x == .inf true then (none, (0 : Flags))
    else
      let z := ((f32 r.prm).mul x).1
      let (c, fl) := fencode 0 .even z
      if c % 2 ^ 31 = fmtTop 0 then (some (.inf (decide (c ≥ 2 ^ 31))), fl &&& flagOverflow) else (some z, 0))
  (zs.map Prod.fst, zs.foldl (fun a z => a ||| z.2) 0)

/-- A position of U: its z, where it is finite. -/
def zFin (z : Option FVal) : Option Int :=
  match z with
  | some (.fin n m e) => some (toFx (.fin n m e))
  | _ => none

def softmaxFwd (r : RowIn) : RowOut :=
  let n := r.xs.length
  if r.xs.any (fun x => (f32 x).isNaN) then rowConst n nanWord 3 flagInvalid else
  let (zs, zf) := softmaxZ r
  let fin := zs.filterMap zFin
  let hot := (zs.filter (· == some (.inf false))).length
  if hot = 0 ∧ fin.isEmpty then rowConst n 0 1 zf
  else if 0 < hot then
    let v := (r.pick 0 (fxOne / (hot : Int)) true).1
    { out := zs.map (fun z => if z == some (.inf false) then (v, 0) else (0, 0)), kind := 2, hi := 0, lo := 0, flags := zf,
      quiet := true }
  else
    let m := fin.foldl max (fin.headD 0)
    let sum := fxSum (fin.map (fun z => fxExp (z - m)))
    let flat := fin.all (· == m)
    let k : Int := (fin.length : Int)
    let lse := r.pick n (m + fxLn sum) (flat && k == 1)
    let mx := r.pick (n + 1) m true
    { out := zs.zipIdx.map (fun z => match zFin z.1 with
        | some v => r.pick z.2 (fxDiv (fxExp (v - m)) sum) (flat && fxOne / k * k == fxOne)
        | none => (0, 0)),
      kind := 0, hi := lse.1, lo := mx.1, flags := zf ||| lse.2 ||| mx.2, quiet := false }

/-- The formula of a backward softmax row over positions in U, value by value with FP32 steps: for rows with an infinity
or a NaN among dy, where every result is an infinity, a NaN or a zero (R160). -/
def softmaxBwdSpecial (s : FVal) (ys dys : List (Option FVal)) : List (BitVec 32 × Flags) :=
  let c := (ys.zip dys).foldl (fun (a : FVal × Flags) p => match p with
    | (some y, some d) => let t := d.mul y
                          let u := a.1.add t.1
                          (u.1, a.2 ||| t.2 ||| u.2)
    | _ => a) (FVal.zero, 0)
  (ys.zip dys).map (fun p => match p with
    | (some y, some d) =>
      let t := d.add c.1.neg
      let u := y.mul t.1
      let v := s.mul u.1
      toF32 (v.1, c.2 ||| t.2 ||| u.2 ||| v.2)
    | _ => (0, 0))

def softmaxBwd (r : RowIn) : RowOut :=
  let n := r.xs.length
  if r.stat.kind = 3 then rowConst n nanWord 3 0
  else if r.stat.kind = 1 then rowConst n 0 1 0
  else
    let (zs, _) := softmaxZ r
    let hot := zs.map (· == some (.inf false))
    let k : Int := ((hot.filter id).length : Int)
    let l := toFx (f32 r.stat.hi)
    -- y of each position of U
    let ys : List (Option Int) := if r.stat.kind = 2 then hot.map (fun h => if h then some (fxOne / k) else none)
      else zs.map (fun z => (zFin z).map (fun v => fxExp (v - l)))
    let dys := r.ys.map f32
    let inU := ys.zip dys |>.filterMap (fun p => p.1.map (fun y => (y, p.2)))
    let fl (p : BitVec 32 × Flags) := p
    if inU.any (fun p => !p.2.isFinite) || (r.stat.kind = 0 && hot.any id) then
      let yv : List (Option FVal) := (ys.zip hot).map (fun p =>
        if r.stat.kind = 0 ∧ p.2 then some (.inf false) else p.1.map (fun y => ofFx (max y 1)))
      { out := (softmaxBwdSpecial (f32 r.prm) yv (dys.map some)).map fl, kind := r.stat.kind, hi := 0, lo := 0, flags := 0,
        quiet := r.stat.kind == 2 }
    else
      let c := fxSum (inU.map (fun p => fxMul p.1 (toFx p.2)))
      let flat := inU.all (fun p => p.1 == fxOne)
      { out := (ys.zip dys).zipIdx.map (fun p => match p.1.1 with
          | some y => r.pick p.2 (fxMul (toFx (f32 r.prm)) (fxMul y (toFx p.1.2 - c))) flat
          | none => (0, 0)),
        kind := r.stat.kind, hi := 0, lo := 0, flags := 0, quiet := r.stat.kind == 2 }

/-! ### Normalisations (R252, R254) -/

/-- 1 / √v, and whether it is exact. -/
def fxRho (v : Int) : Int × Bool :=
  let r := fxSqrt (fxDiv fxOne v)
  (r, decide (r * r * v = fxOne * fxOne * fxOne))

/-- The rows of Table 7 that come before the formulas: a NaN or an infinity among the inputs. -/
def normSpecial (r : RowIn) : Option RowOut :=
  let n := r.xs.length
  if r.xs.any (fun x => (f32 x).isNaN) then some (rowConst n nanWord 3 0)
  else if r.xs.any (fun x => !(f32 x).isFinite) then some (rowConst n nanWord 3 flagInvalid)
  else none

/-- Every element equals the first. -/
def allEqual (xs : List Int) : Bool := xs.all (· == xs.headD 0)

def lnormFwd (r : RowIn) : RowOut :=
  match normSpecial r with
  | some o => o
  | none =>
    let xs := r.xs.map (fun x => toFx (f32 x))
    let n : Int := (xs.length : Int)
    let eps := toFx (f32 r.prm)
    let sum := fxSum xs
    let eq := allEqual xs
    -- n·x - Σx is exact, and σ² = Σ (n·x - Σx)² / n³
    let dev := xs.map (fun x => n * x - sum)
    let num := fxSum (dev.map (fun d => d * d))
    let var := num / (n * n * n * fxOne)
    let varExact := decide (var * (n * n * n * fxOne) = num)
    let (rho, ex) := fxRho (var + eps)
    let ex := ex && varExact
    let mu := r.pick xs.length (sum / n) (decide (sum / n * n = sum))
    let rh := r.pick (xs.length + 1) rho ex
    { out := dev.zipIdx.map (fun d =>
        r.pick d.2 (d.1 * rho / (n * fxOne)) (d.1 == 0 || (ex && decide (d.1 * rho % (n * fxOne) = 0)))),
      kind := 0, hi := rh.1, lo := mu.1, flags := mu.2 ||| rh.2, quiet := eq }

def rmsFwd (r : RowIn) : RowOut :=
  match normSpecial r with
  | some o => o
  | none =>
    let xs := r.xs.map (fun x => toFx (f32 x))
    let n : Int := (xs.length : Int)
    let num := fxSum (xs.map (fun x => x * x))
    let ms := num / (n * fxOne)
    let (rho, ex) := fxRho (ms + toFx (f32 r.prm))
    let ex := ex && decide (ms * (n * fxOne) = num)
    let rh := r.pick xs.length rho ex
    { out := xs.zipIdx.map (fun x => r.pick x.2 (x.1 * rho / fxOne) (x.1 == 0 || (ex && decide (x.1 * rho % fxOne = 0)))),
      kind := 0, hi := 0, lo := rh.1, flags := rh.2, quiet := xs.all (· == 0) }

/-- The formulas of a backward normalisation row value by value with FP32 steps: for rows with an infinity or a NaN among
the inputs (R160). `mu` is absent in RMS normalisation. -/
def normBwdSpecial (n : Nat) (mu : Option FVal) (rho : FVal) (xs dys : List FVal) : List (BitVec 32 × Flags) :=
  let step (f : FVal → FVal → FVal × Flags) (a b : FVal × Flags) : FVal × Flags :=
    let r := f a.1 b.1
    (r.1, a.2 ||| b.2 ||| r.2)
  let sub (a b : FVal × Flags) : FVal × Flags := step FVal.add a (b.1.neg, b.2)
  let lift (v : FVal) : FVal × Flags := (v, 0)
  let nn := lift (ofScaled (n : Int) 0)
  let xh := xs.map (fun x => step FVal.mul (match mu with
    | some m => sub (lift x) (lift m)
    | none => lift x) (lift rho))
  let ds := dys.map lift
  let a := match mu with
    | some _ => step FVal.div (ds.foldl (step FVal.add) (FVal.zero, 0)) nn
    | none => (FVal.zero, 0)
  let b := step FVal.div ((ds.zipWith (step FVal.mul) xh).foldl (step FVal.add) (FVal.zero, 0)) nn
  ds.zipWith (fun d h => toF32 (step FVal.mul (lift rho) (sub (sub d a) (step FVal.mul h b)))) xh

def normBwd (rms : Bool) (r : RowIn) : RowOut :=
  let n := r.xs.length
  if r.stat.kind = 3 then rowConst n nanWord 3 0 else
  let xs := r.xs.map f32
  let dys := r.ys.map f32
  let mu := f32 r.stat.lo
  let rho := if rms then f32 r.stat.lo else f32 r.stat.hi
  let done (o : List (BitVec 32 × Flags)) (quiet : Bool) : RowOut :=
    { out := o, kind := r.stat.kind, hi := 0, lo := 0, flags := 0, quiet := quiet }
  if rms && xs.all FVal.isZero then rowConst n 0 0 0
  else if (xs ++ dys).any (fun v => !v.isFinite) then
    done (normBwdSpecial n (if rms then none else some mu) rho xs dys) (!rms && xs.all (· == xs.headD .zero))
  else
    let fx := xs.map toFx
    let d := dys.map toFx
    let nn : Int := (n : Int)
    let rh := toFx rho
    let xh := fx.map (fun x => fxMul (if rms then x else x - toFx mu) rh)
    let a := if rms then 0 else fxSum d
    let b := fxSum (d.zipWith fxMul xh)
    -- n·dx̂ - Σdx̂ - x̂·Σdx̂x̂, all exact in fixed point
    done (((d.zip xh).zipIdx).map (fun p =>
      let num := fxMul rh (nn * p.1.1 - a - fxMul p.1.2 b)
      r.pick p.2 (num / nn) (decide (num / nn * nn = num)))) (!rms && allEqual fx)

/-! ### Running a row-engine operation (R242 to R251) -/

/-- Units of a row of source 1 and source 2, of its mask, and of a destination row (R244). -/
def rowUnits (f n : Nat) : Nat := ceilDiv (n * fmtBits f) 128
def maskUnits (w : Word128) : Nat := if rwMask w = 1 then ceilDiv (rwN w) 128 else 0

/-- Which positions of row `r` its mask leaves (R245). -/
def State.rowLive (s : State) (d cl : Nat) (q : QWord) (prm : BitVec 64) (r : Nat) : Option (List Bool) :=
  let w := q.word
  let n := rwN w
  match rwMask w with
  | 1 => (s.sread d cl (vU1 q + r * (rowUnits (wFa w) n + maskUnits w) + rowUnits (wFa w) n) (ceilDiv n 8)).map (fun l =>
      (l.flatMap (fun b => (List.range 8).map b.toNat.testBit)).take n)
  | 2 =>
    let lim : Int := (((q.reg (rwXt w)) / 2 ^ 24 % 2 ^ 16 + r : Nat) : Int) + signed 16 (bits prm 47 32)
    some ((List.range n).map (fun (j : Nat) => decide ((j : Int) ≤ lim)))
  | _ => some (List.replicate n true)

/-- The words of row `r` of a source at unit `u` with rows of `stride` units. -/
def State.rowWords (s : State) (d cl f n u stride r : Nat) : Option (List (BitVec 32)) :=
  (s.sread d cl (u + r * stride) (n * fmtBits f / 8)).map (fun bs =>
    (decodePlanes f n bs []).map (fun v => (toF32 (v, 0)).1))

/-- A row's results written, its flags raised. -/
def rowStore (cl : Nat) (q : QWord) (r : Nat) (o : RowOut) (s : State) : State :=
  let w := q.word
  let n := rwN w
  let (data, _, fl) := encodePlanes (wFd w) (fun _ => .even) (o.out.map (fun v => f32 v.1))
  let s := s.swrite cl (vD w + q.reg (vXd w) + r * rowUnits (wFd w) n) data
  s.rowFlag cl (o.flags ||| if o.quiet then 0 else o.out.foldl (fun a v => a ||| v.2) fl)

/-- Every operand of the operation lies within scratch. -/
def rowRange (q : QWord) (second : Bool) : Bool :=
  let w := q.word
  let n := rwN w
  let k := rwRows w
  scratchOk (vU1 q) (16 * k * (rowUnits (wFa w) n + maskUnits w))
  && (!second || scratchOk (vU2 q) (16 * k * rowUnits (wFa w) n))
  && scratchOk (vD w + q.reg (vXd w)) (16 * k * rowUnits (wFd w) n)

/-- Rows one after another (R14, R248): `fwd` forward with its statistic, else backward with a lookup. -/
def rowLoop (cl : Nat) (q : QWord) (d : Nat) (prm : BitVec 64) (fwd : Bool) (f : RowIn → RowOut) (rows : List Nat) (s : State) : Ran :=
  match rows with
  | [] => .done s
  | r :: rest =>
    let w := q.word
    let n := rwN w
    let bank := s.statBank cl
    let tag := (q.reg (rwXt w) % 2 ^ 24 + r) % 2 ^ 24
    let go (st : Stat) (s : State) : RowOut :=
      f { op := wOp w, prm := BitVec.ofNat 32 prm.toNat,
          xs := (s.rowWords d cl (wFa w) n (vU1 q) (rowUnits (wFa w) n + maskUnits w) r).getD [],
          ys := if fwd then [] else (s.rowWords d cl (wFa w) n (vU2 q) (rowUnits (wFa w) n) r).getD [],
          live := (s.rowLive d cl q prm r).getD [], stat := st }
    if fwd then
      let o := go statNone s
      let s := rowStore cl q r o s
      let s := if rwKeep w then s.recordStat { bank := bank, tag := tag, kind := o.kind, hi := o.hi, lo := o.lo } else s
      rowLoop cl q d prm fwd f rest s
    else
      match s.lookupStat bank tag with
      | none => .stop s (stBadParam, q.idx)
      | some (e, bad, s) =>
        if bad then .stop s (stDataError, q.idx) else
        let s := rowStore cl q r (go e s) s
        rowLoop cl q d prm fwd f rest (if rwKeep w then s else s.freeStat bank tag)

/-- A row-engine operation (R242 to R251). -/
def rowOp (fwd : Bool) (f : RowIn → RowOut) : OpFn := fun cl q s =>
  let w := q.word
  let prm := s.param cl (rwPrm w)
  let v := f32 (BitVec.ofNat 32 prm.toNat)
  let (d, s) := s.draw
  let good := v.isFinite && FVal.lt .zero v
  if !good || !rowRange q (!fwd) then .stop s (stBadParam, q.idx) else
  let s := ((s.bump (slotRow 0) (rwRows w)).addOp (s.clusCtx cl) wRowRows (rwRows w))
  rowLoop cl q d prm fwd f (List.range (rwRows w)) s

def execRowSoftmax (cl : Nat) (s : State) : Out' := runQueue 2 0x3A (fun _ => true) (rowOp true softmaxFwd) cl s
def execRowSoftmaxBwd (cl : Nat) (s : State) : Out' := runQueue 2 0x3B (fun _ => true) (rowOp false softmaxBwd) cl s
def execRowLnorm (cl : Nat) (s : State) : Out' := runQueue 2 0x3C (fun _ => true) (rowOp true lnormFwd) cl s
def execRowLnormBwd (cl : Nat) (s : State) : Out' := runQueue 2 0x3D (fun _ => true) (rowOp false (normBwd false)) cl s
def execRowRmsnorm (cl : Nat) (s : State) : Out' := runQueue 2 0x3E (fun _ => true) (rowOp true rmsFwd) cl s
def execRowRmsnormBwd (cl : Nat) (s : State) : Out' := runQueue 2 0x3F (fun _ => true) (rowOp false (normBwd true)) cl s

end Sys2Proof.Machine
end

