-- ==== Sys2Proof/Machine/Transit.lean ====
section
/-! DEFINITION. Transit (R421 to R425) and congestion maps (R426 to R428): TRANSIT_GRANT, TRANSIT_REVOKE, TRANSIT_PACKET,
TRANSIT_CREDIT_FRAME, CONGESTION_SAMPLE, CONGESTION_MAP_FOLD, FELT_CONG. -/
namespace Sys2Proof.Machine

/-! ### Grants (R421) -/

def setGrants (s : State) (g : Tab Grant) : State := { s with xfer := { s.xfer with grants := g } }

/-- TRANSIT_GRANT: the stretch is read; its packages must belong to this job. -/
def transitGrantBody : Body := fun _ c s => do
  let k := c.packet
  let share := fld k 28 1
  let count := fld k 29 1
  match s.hostRead (fld k 32 8) (8 * count) with
  | none => failDone s (stDataError, 0)
  | some bs =>
    let es := (chunks count 8 bs).map leNat
    need (es.all (fun e => decide (e / 2 ^ 32 = 0 ∧ e / 2 ^ 16 % 256 < 32 ∧ e / 2 ^ 24 % 256 < 32))) (stReservedNonzero, 0)
    need (decide (1 ≤ share ∧ share ≤ 32 ∧ 1 ≤ count ∧ count ≤ 14)) (stBadParam, 0)
    need (es.all (fun e => decide (e / 2 ^ 16 % 8 < 6 ∧ e / 2 ^ 24 % 8 < 6))) (stBadParam, 0)
    match s.job.job with
    | none => .error (stConflict, 0)
    | some j =>
      let stretch := es.map (fun e => (e % 2 ^ 16, e / 2 ^ 16 % 256 + 32, e / 2 ^ 24 % 256 + 32))
      need (stretch.all (fun e => (j.pos e.1).isSome)) (stConflict, 0)
      match (List.range 16).find? (fun g => (tget s.xfer.grants g).isNone) with
      | none => .error (stNoResource, 0)
      | some g =>
        okDone (setGrants s (tset s.xfer.grants g
          { borrower := fld k 24 4, share := share, stretch := stretch, slotsUsed := 0, windowAt := s.time })) g

def execTransitGrant (id : Nat) (s : State) : Out' := jeisk 0x318 transitGrantBody id s

/-- TRANSIT_REVOKE: `inUse` says whether a placement of the borrowing job uses the stretch, which is that job's. -/
def transitRevokeBody (inUse : Bool) : Body := fun _ c s => do
  let g := fld c.packet 24 1
  needJob s
  need (tget s.xfer.grants g).isSome (stBadParam, 0)
  need (!inUse) (stConflict, 0)
  okDone (setGrants s (tdel s.xfer.grants g))

def execTransitRevoke (id : Nat) (inUse : Bool) (s : State) : Out' := jeisk 0x319 (transitRevokeBody inUse) id s

/-! ### Packets on a stretch (R422 to R425) -/

/-- The link on which this package passes a packet of a stretch on, and whether it is the far end in that direction. -/
def State.stretchNext (s : State) (g : Grant) (link : Nat) : Option (Nat × Bool) :=
  match g.stretch.findIdx? (fun e => e.1 == s.pkgId) with
  | none => none
  | some i =>
    let e := (g.stretch[i]?).getD (0, 0, 0)
    let inn := s.physLink (hopLink e.2.1)
    let out := s.physLink (hopLink e.2.2)
    if link = inn then some (out, decide (i + 1 = g.stretch.length)) else if link = out then some (inn, decide (i = 0)) else none

/-- Codeword slots that VC 7 may take on a link in each 1 µs window: a slot of a lane takes 0.72 ns (R423). -/
def State.shareSlots (s : State) (g : Grant) (link : Nat) : Nat := g.share * litCount (s.link link).sendMap * 100000 / (72 * 64)

/-- TRANSIT_PACKET: a VC 7 packet that has arrived on a stretch goes on to its next link within the share, or back to its
resume VC at the far end, which grants the credit it frees. One that names this package is discarded and counted; one on a
stretch with a fenced package is discarded. -/
def execTransitPacket (pkt : Packet) (at_ : Nat) (s : State) : Out' :=
  let t := s.advance at_
  match t.takeRx (fun l v q => l != 24 && v == 7 && hTransit q && q == pkt && (t.onStretch l).isSome) with
  | none => .next s
  | some ((l, _, p), u) =>
    match t.onStretch l with
    | none => .next s
    | some (gi, g) =>
      if hDst p = t.pkgId then .next (u.bump (slotRoute 5) 1)
      else if g.stretch.any (fun e => t.isFenced e.1) then .next u
      else
        match t.stretchNext g l with
        | none => .next s
        | some (out, far) =>
          let n := p.length
          if far then
            .next ((u.enqueue out (hResume p) (setTransit p false 0)).send (.stretchCredit l (hResume p) n))
          else
            let fresh := decide (g.windowAt + us 1 ≤ t.time)
            let used := if fresh then 0 else g.slotsUsed
            let since := if fresh then t.time else g.windowAt
            let g' : Grant := { g with slotsUsed := used + n, windowAt := since }
            whenThen (decide (used + n ≤ t.shareSlots g out)) s
              ((setGrants u (tset u.xfer.grants gi g')).enqueue out 7 p)

/-- TRANSIT_CREDIT_FRAME (R424): credit of the stretch's far end reaches the package that enters it on a link; on a package
of the stretch the frame runs on, back along it. -/
def execTransitCreditFrame (link vc units : Nat) (s : State) : Out' :=
  inRange (link < 24 && vc < 7) link
    (match (s.onStretch link).bind (fun g => s.stretchNext g.2 link) with
     | some (out, _) => .next (s.send (.stretchCredit out vc units))
     | none =>
       .next { s with xfer := { s.xfer with stretchCredit := tupd s.xfer.stretchCredit (8 * link + vc) 0 (· + units) } })

/-! ### Congestion maps (R426 to R428) -/

/-- Codewords waiting on each channel of each link. -/
def State.waitingCw (s : State) : List Nat :=
  (List.range 24).flatMap (fun l => (List.range 8).map (fun v => ((tgetD (s.link l).txq v []).map List.length).sum))

/-- CONGESTION_SAMPLE: every 10 µs, 100 to a map. -/
def execCongestionSample (at_ : Nat) (s : State) : Out' :=
  let t := s.advance at_
  let c := t.xfer.congest
  whenThen (decide (c.samples.length < 100 ∧ c.sampleAt + us 10 ≤ t.time)) s
    { t with xfer := { t.xfer with congest := { c with samples := c.samples ++ [t.waitingCw], sampleAt := t.time } } }

/-- Usable credit of a channel of a link of width w: d_v + pool (R355). -/
def usable (w : Nat) : Nat := dedicated w + poolOf w

/-- One byte in 1/255 of usable credit, rounded down. -/
def occupancy (n k w : Nat) : Nat := Min.min 255 (255 * n / (k * usable w))

/-- A count of slots in 1/65,536 of the slots of the lit lanes in 1 ms: a lane has one slot in each 0.72 ns. -/
def slotShare (n lit : Nat) : Nat := if lit = 0 then 0 else Min.min 65535 (n * 65536 * 72 / (lit * 100000000))

/-- The entry of one link (Table 10). -/
def State.mapEntry (s : State) (draw l : Nat) : BitVec 256 :=
  let c := s.xfer.congest
  let col (v : Nat) : List Nat := c.samples.map (fun r => (r[8 * l + v]?).getD 0)
  let w := s.width l
  let lit := litCount (s.link l).sendMap
  mkRec 256 ((List.range 8).map (fun v => (v, 1, occupancy (col v).sum (Max.max 1 c.samples.length) w)) ++
    (List.range 8).map (fun v => (8 + v, 1, occupancy ((col v).foldl Max.max 0) 1 w)) ++
    [(16, 2, slotShare (tgetD c.sent (2 * l) 0) lit), (18, 2, (Config.creditWait draw l).toNat),
     (20, 2, slotShare (tgetD c.sent (2 * l + 1) 0) lit), (22, 1, lit)])

/-- CONGESTION_MAP_FOLD: the samples of a millisecond become a map; the last 64 maps are kept. -/
def execCongestionMapFold (at_ : Nat) (s : State) : Out' :=
  let t := s.advance at_
  let c := t.xfer.congest
  whenThen (decide (c.samples.length = 100)) s
    (let (d, t) := t.draw
     let seq := (c.seq + 1) % 2 ^ 32
     let head : BitVec 256 := mkRec 256 [(0, 4, seq), (4, 2, t.pkgId), (8, 8, c.startAt),
       (16, 4, t.job.job.elim 0 Job.generation), (20, 4, t.job.job.elim 0 Job.id)]
     let m := recBytes head ++ (List.range 24).flatMap (fun l => recBytes (t.mapEntry d l))
     let maps := c.maps ++ [(seq, m)]
     let c := { c with samples := [], seq := seq, startAt := t.dk.now, maps := maps.drop (maps.length - 64), sent := [] }
     { t with xfer := { t.xfer with congest := c } })

/-- FELT_CONG (R428). -/
def feltCongBody : Body := fun _ c s => do
  let q := fld c.packet 24 4
  let out := fld c.packet 32 8
  need (decide (out % 32 = 0)) (stBadParam, 0)
  let ms := s.xfer.congest.maps.filter (fun m => decide (q ≤ m.1))
  let s := s.hostWrite out (ms.flatMap Prod.snd)
  match ms with
  | m :: _ => okDone s m.1
  | [] =>
    let (d, s) := s.draw
    okDone s (Config.noMapDetail d).toNat

def execFeltCong (id : Nat) (s : State) : Out' := jeisk 0x313 feltCongBody id s

end Sys2Proof.Machine
end

