-- ==== Sys2Proof/Machine/Dispatch.lean ====
section
/-! DEFINITION. The meaning of each command: one arm for each constructor of `Instr`, each one direct call. -/
namespace Sys2Proof.Machine

/-- The effect of a command on everything but the queue of waiting commands. -/
def exec (i : Instr) (s : State) : Host.Outcome State Fault Refusal :=
  match i with
  | .hello id => Sys2Proof.Machine.execHello id s
  | .fence id => Sys2Proof.Machine.execFence id s
  | .tokenSet id => Sys2Proof.Machine.execTokenSet id s
  | .tokenReset id => Sys2Proof.Machine.execTokenReset id s
  | .tokenRead id => Sys2Proof.Machine.execTokenRead id s
  | .handleAlloc id => Sys2Proof.Machine.execHandleAlloc id s
  | .handleFree id => Sys2Proof.Machine.execHandleFree id s
  | .handleQuery id => Sys2Proof.Machine.execHandleQuery id s
  | .memConfig id => Sys2Proof.Machine.execMemConfig id s
  | .trackConfig id => Sys2Proof.Machine.execTrackConfig id s
  | .jobPlace id => Sys2Proof.Machine.execJobPlace id s
  | .jobEnd id => Sys2Proof.Machine.execJobEnd id s
  | .indexGather id => Sys2Proof.Machine.execIndexGather id s
  | .indexScatter id => Sys2Proof.Machine.execIndexScatter id s
  | .indexScatterAdd id => Sys2Proof.Machine.execIndexScatterAdd id s
  | .stackOpen id => Sys2Proof.Machine.execStackOpen id s
  | .stackClose id => Sys2Proof.Machine.execStackClose id s
  | .launch id => Sys2Proof.Machine.execLaunch id s
  | .launchStart id => Sys2Proof.Machine.execLaunchStart id s
  | .launchClustersFinished id => Sys2Proof.Machine.execLaunchClustersFinished id s
  | .launchProgressTimeout cl at_ => Sys2Proof.Machine.execLaunchProgressTimeout cl at_ s
  | .cpLoad cl pos => Sys2Proof.Machine.execCpLoad cl pos s
  | .cpStore cl pos => Sys2Proof.Machine.execCpStore cl pos s
  | .cpMove cl pos => Sys2Proof.Machine.execCpMove cl pos s
  | .cpFill cl pos => Sys2Proof.Machine.execCpFill cl pos s
  | .cpGather cl pos => Sys2Proof.Machine.execCpGather cl pos s
  | .cpScatter cl pos => Sys2Proof.Machine.execCpScatter cl pos s
  | .cpScatterAdd cl pos => Sys2Proof.Machine.execCpScatterAdd cl pos s
  | .cpPush cl pos => Sys2Proof.Machine.execCpPush cl pos s
  | .cpPop cl pos => Sys2Proof.Machine.execCpPop cl pos s
  | .groupOpen cl => Sys2Proof.Machine.execGroupOpen cl s
  | .mma cl => Sys2Proof.Machine.execMma cl s
  | .groupCloseScratch cl => Sys2Proof.Machine.execGroupCloseScratch cl s
  | .groupCloseStream cl => Sys2Proof.Machine.execGroupCloseStream cl s
  | .pageLoad cl => Sys2Proof.Machine.execPageLoad cl s
  | .vAdd cl => Sys2Proof.Machine.execVAdd cl s
  | .vSub cl => Sys2Proof.Machine.execVSub cl s
  | .vMul cl => Sys2Proof.Machine.execVMul cl s
  | .vFma cl => Sys2Proof.Machine.execVFma cl s
  | .vMax cl => Sys2Proof.Machine.execVMax cl s
  | .vMin cl => Sys2Proof.Machine.execVMin cl s
  | .vDiv cl => Sys2Proof.Machine.execVDiv cl s
  | .vSqrt cl => Sys2Proof.Machine.execVSqrt cl s
  | .vConvert cl => Sys2Proof.Machine.execVConvert cl s
  | .vAbs cl => Sys2Proof.Machine.execVAbs cl s
  | .vNeg cl => Sys2Proof.Machine.execVNeg cl s
  | .vExp cl => Sys2Proof.Machine.execVExp cl s
  | .vLog cl => Sys2Proof.Machine.execVLog cl s
  | .vRsqrt cl => Sys2Proof.Machine.execVRsqrt cl s
  | .vTanh cl => Sys2Proof.Machine.execVTanh cl s
  | .vSigmoid cl => Sys2Proof.Machine.execVSigmoid cl s
  | .vGeluErf cl => Sys2Proof.Machine.execVGeluErf cl s
  | .vGeluTanh cl => Sys2Proof.Machine.execVGeluTanh cl s
  | .vGeluErfD cl => Sys2Proof.Machine.execVGeluErfD cl s
  | .vRecip cl => Sys2Proof.Machine.execVRecip cl s
  | .vCmpEq cl => Sys2Proof.Machine.execVCmpEq cl s
  | .vCmpNe cl => Sys2Proof.Machine.execVCmpNe cl s
  | .vCmpLt cl => Sys2Proof.Machine.execVCmpLt cl s
  | .vCmpLe cl => Sys2Proof.Machine.execVCmpLe cl s
  | .vCmpGt cl => Sys2Proof.Machine.execVCmpGt cl s
  | .vCmpGe cl => Sys2Proof.Machine.execVCmpGe cl s
  | .vSelect cl => Sys2Proof.Machine.execVSelect cl s
  | .vMaskRand cl => Sys2Proof.Machine.execVMaskRand cl s
  | .vRedSum cl => Sys2Proof.Machine.execVRedSum cl s
  | .vRedMax cl => Sys2Proof.Machine.execVRedMax cl s
  | .vRedMin cl => Sys2Proof.Machine.execVRedMin cl s
  | .vSegSum cl => Sys2Proof.Machine.execVSegSum cl s
  | .vSegMax cl => Sys2Proof.Machine.execVSegMax cl s
  | .vSegMin cl => Sys2Proof.Machine.execVSegMin cl s
  | .vSegMean cl => Sys2Proof.Machine.execVSegMean cl s
  | .vSort64 cl => Sys2Proof.Machine.execVSort64 cl s
  | .vTopk64 cl => Sys2Proof.Machine.execVTopk64 cl s
  | .rowSoftmax cl => Sys2Proof.Machine.execRowSoftmax cl s
  | .rowSoftmaxBwd cl => Sys2Proof.Machine.execRowSoftmaxBwd cl s
  | .rowLnorm cl => Sys2Proof.Machine.execRowLnorm cl s
  | .rowLnormBwd cl => Sys2Proof.Machine.execRowLnormBwd cl s
  | .rowRmsnorm cl => Sys2Proof.Machine.execRowRmsnorm cl s
  | .rowRmsnormBwd cl => Sys2Proof.Machine.execRowRmsnormBwd cl s
  | .nop cl => Sys2Proof.Machine.execNop cl s
  | .setIx cl => Sys2Proof.Machine.execSetIx cl s
  | .addIx cl => Sys2Proof.Machine.execAddIx cl s
  | .loop cl => Sys2Proof.Machine.execLoop cl s
  | .branchLoop cl => Sys2Proof.Machine.execBranchLoop cl s
  | .jump cl => Sys2Proof.Machine.execJump cl s
  | .setRndStream cl => Sys2Proof.Machine.execSetRndStream cl s
  | .setRndStep cl => Sys2Proof.Machine.execSetRndStep cl s
  | .flagsRc cl => Sys2Proof.Machine.execFlagsRc cl s
  | .latch cl => Sys2Proof.Machine.execLatch cl s
  | .stop cl => Sys2Proof.Machine.execStop cl s
  | .gatherJit id => Sys2Proof.Machine.execGatherJit id s
  | .gatherReadoutStart id => Sys2Proof.Machine.execGatherReadoutStart id s
  | .broadcast id => Sys2Proof.Machine.execBroadcast id s
  | .reduceScatter id => Sys2Proof.Machine.execReduceScatter id s
  | .allReduce id => Sys2Proof.Machine.execAllReduce id s
  | .allToAll id => Sys2Proof.Machine.execAllToAll id s
  | .collectiveSendStart id => Sys2Proof.Machine.execCollectiveSendStart id s
  | .collectiveTimeout id at_ => Sys2Proof.Machine.execCollectiveTimeout id at_ s
  | .put id => Sys2Proof.Machine.execPut id s
  | .get id => Sys2Proof.Machine.execGet id s
  | .feltPlan id => Sys2Proof.Machine.execFeltPlan id s
  | .feltLink id => Sys2Proof.Machine.execFeltLink id s
  | .feltQuery id => Sys2Proof.Machine.execFeltQuery id s
  | .feltCong id => Sys2Proof.Machine.execFeltCong id s
  | .transitGrant id => Sys2Proof.Machine.execTransitGrant id s
  | .transitRevoke id inUse => Sys2Proof.Machine.execTransitRevoke id inUse s
  | .srcRegister id => Sys2Proof.Machine.execSrcRegister id s
  | .srcRelease id => Sys2Proof.Machine.execSrcRelease id s
  | .vatConfig id => Sys2Proof.Machine.execVatConfig id s
  | .vatStart id => Sys2Proof.Machine.execVatStart id s
  | .vatStop id => Sys2Proof.Machine.execVatStop id s
  | .vatGetPosition id => Sys2Proof.Machine.execVatGetPosition id s
  | .vatSetPosition id => Sys2Proof.Machine.execVatSetPosition id s
  | .chunkFetch => Sys2Proof.Machine.execChunkFetch s
  | .chunkDecodeDone pos res => Sys2Proof.Machine.execChunkDecodeDone pos res s
  | .windowDrawStart cycles => Sys2Proof.Machine.execWindowDrawStart cycles s
  | .vatDraw => Sys2Proof.Machine.execVatDraw s
  | .batchHandover => Sys2Proof.Machine.execBatchHandover s
  | .batchRegionReuse cycles => Sys2Proof.Machine.execBatchRegionReuse cycles s
  | .mouldDeclare id => Sys2Proof.Machine.execMouldDeclare id s
  | .mouldApply id => Sys2Proof.Machine.execMouldApply id s
  | .mouldRelease id => Sys2Proof.Machine.execMouldRelease id s
  | .mouldQuery id => Sys2Proof.Machine.execMouldQuery id s
  | .mouldRetune id => Sys2Proof.Machine.execMouldRetune id s
  | .tileLoadDone unit at_ => Sys2Proof.Machine.execTileLoadDone unit at_ s
  | .probeCapture unit at_ sect excess => Sys2Proof.Machine.execProbeCapture unit at_ sect excess s
  | .probeVerdict unit rms maxErr => Sys2Proof.Machine.execProbeVerdict unit rms maxErr s
  | .recalibrationDone unit => Sys2Proof.Machine.execRecalibrationDone unit s
  | .ringDitherCheck unit bus ring wrong => Sys2Proof.Machine.execRingDitherCheck unit bus ring wrong s
  | .ringSearchDone unit bus ring locked => Sys2Proof.Machine.execRingSearchDone unit bus ring locked s
  | .combLost unit => Sys2Proof.Machine.execCombLost unit s
  | .pressAttach id => Sys2Proof.Machine.execPressAttach id s
  | .pressApply id => Sys2Proof.Machine.execPressApply id s
  | .pressFreeze id => Sys2Proof.Machine.execPressFreeze id s
  | .pressDetach id => Sys2Proof.Machine.execPressDetach id s
  | .pressSliceConsume shard => Sys2Proof.Machine.execPressSliceConsume shard s
  | .partialTileArrival shard step row col count tile flags => Sys2Proof.Machine.execPartialTileArrival shard step row col count tile flags s
  | .reduceCreditRequest shard step rows cols member => Sys2Proof.Machine.execReduceCreditRequest shard step rows cols member s
  | .reduceCreditGrant shard row => Sys2Proof.Machine.execReduceCreditGrant shard row s
  | .reduceRefusal shard step later => Sys2Proof.Machine.execReduceRefusal shard step later s
  | .reduceWatchdogExpiry shard at_ => Sys2Proof.Machine.execReduceWatchdogExpiry shard at_ s
  | .reduceAbandon shard step => Sys2Proof.Machine.execReduceAbandon shard step s
  | .sinkStart id => Sys2Proof.Machine.execSinkStart id s
  | .sinkStop id => Sys2Proof.Machine.execSinkStop id s
  | .ckptSave id => Sys2Proof.Machine.execCkptSave id s
  | .ckptRestore id => Sys2Proof.Machine.execCkptRestore id s
  | .pkgFence id => Sys2Proof.Machine.execPkgFence id s
  | .jobSpare id => Sys2Proof.Machine.execJobSpare id s
  | .jobSpareTimeout id at_ => Sys2Proof.Machine.execJobSpareTimeout id at_ s
  | .counterCopy id => Sys2Proof.Machine.execCounterCopy id s
  | .traceConfig id => Sys2Proof.Machine.execTraceConfig id s
  | .traceCopy id => Sys2Proof.Machine.execTraceCopy id s
  | .deckleConfig id => Sys2Proof.Machine.execDeckleConfig id s
  | .attest id => Sys2Proof.Machine.execAttest id s
  | .fwStage id => Sys2Proof.Machine.execFwStage id s
  | .fwActivate id => Sys2Proof.Machine.execFwActivate id s
  | .blackboxRead id => Sys2Proof.Machine.execBlackboxRead id s
  | .blackboxConfig id => Sys2Proof.Machine.execBlackboxConfig id s
  | .selftest id code => Sys2Proof.Machine.execSelftest id code s
  | .powerSet id => Sys2Proof.Machine.execPowerSet id s
  | .tokenWaitTimeout id at_ => Sys2Proof.Machine.execTokenWaitTimeout id at_ s
  | .dbSetTail pair value writes => Sys2Proof.Machine.execDbSetTail pair value writes s
  | .dbSetHead pair value writes => Sys2Proof.Machine.execDbSetHead pair value writes s
  | .ringLineSnoop pair writes => Sys2Proof.Machine.execRingLineSnoop pair writes s
  | .ringLinePollTimer pair at_ => Sys2Proof.Machine.execRingLinePollTimer pair at_ s
  | .qcfgEnable pair value => Sys2Proof.Machine.execQcfgEnable pair value s
  | .qcfgDisable pair value => Sys2Proof.Machine.execQcfgDisable pair value s
  | .qcfgResume pair value => Sys2Proof.Machine.execQcfgResume pair value s
  | .cqRecordWrite pair rejected => Sys2Proof.Machine.execCqRecordWrite pair rejected s
  | .msixDelayExpiry pair at_ => Sys2Proof.Machine.execMsixDelayExpiry pair at_ s
  | .msixVectorUnmask vector => Sys2Proof.Machine.execMsixVectorUnmask vector s
  | .hnCtrlWrite value => Sys2Proof.Machine.execHnCtrlWrite value s
  | .hnMaskWrite value => Sys2Proof.Machine.execHnMaskWrite value s
  | .noticeWindowClose bit at_ => Sys2Proof.Machine.execNoticeWindowClose bit at_ s
  | .heartbeatTick at_ => Sys2Proof.Machine.execHeartbeatTick at_ s
  | .registerWrite offset size value => Sys2Proof.Machine.execRegisterWrite offset size value s
  | .bar2Read offset size => Sys2Proof.Machine.execBar2Read offset size s
  | .bar2Write offset data => Sys2Proof.Machine.execBar2Write offset data s
  | .dkNowLowRead => Sys2Proof.Machine.execDkNowLowRead s
  | .ptMclkClampWrite die value => Sys2Proof.Machine.execPtMclkClampWrite die value s
  | .hostMemRead offset size => Sys2Proof.Machine.execHostMemRead offset size s
  | .hostMemWrite offset data => Sys2Proof.Machine.execHostMemWrite offset data s
  | .functionLevelReset => Sys2Proof.Machine.execFunctionLevelReset s
  | .cxlPerstAssert at_ => Sys2Proof.Machine.execCxlPerstAssert at_ s
  | .hostLinkLossTimeout at_ => Sys2Proof.Machine.execHostLinkLossTimeout at_ s
  | .resetNAssert => Sys2Proof.Machine.execResetNAssert s
  | .resetRelease => Sys2Proof.Machine.execResetRelease s
  | .crystalStable at_ => Sys2Proof.Machine.execCrystalStable at_ s
  | .pllLock pll at_ => Sys2Proof.Machine.execPllLock pll at_ s
  | .pllLockLoss pll => Sys2Proof.Machine.execPllLockLoss pll s
  | .dividerStep clk at_ => Sys2Proof.Machine.execDividerStep clk at_ s
  | .avsWriteRetry die good at_ => Sys2Proof.Machine.execAvsWriteRetry die good at_ s
  | .domainSwitchStage dom at_ => Sys2Proof.Machine.execDomainSwitchStage dom at_ s
  | .domainSequenceTick at_ => Sys2Proof.Machine.execDomainSequenceTick at_ s
  | .sensorSample logic dram power at_ => Sys2Proof.Machine.execSensorSample logic dram power at_ s
  | .throttleLoopTick die at_ => Sys2Proof.Machine.execThrottleLoopTick die at_ s
  | .clampHoldExpiry die at_ => Sys2Proof.Machine.execClampHoldExpiry die at_ s
  | .holdupAlarm => Sys2Proof.Machine.execHoldupAlarm s
  | .holdupCharged => Sys2Proof.Machine.execHoldupCharged s
  | .dramTrainingDone => Sys2Proof.Machine.execDramTrainingDone s
  | .startupSelftestDone code => Sys2Proof.Machine.execStartupSelftestDone code s
  | .bootRomVerify => Sys2Proof.Machine.execBootRomVerify s
  | .fuseBlow => Sys2Proof.Machine.execFuseBlow s
  | .watchdogSample kicks at_ => Sys2Proof.Machine.execWatchdogSample kicks at_ s
  | .managementRestartDone => Sys2Proof.Machine.execManagementRestartDone s
  | .eventSourceEdge source => Sys2Proof.Machine.execEventSourceEdge source s
  | .eventSourceLevel source level => Sys2Proof.Machine.execEventSourceLevel source level s
  | .evcClaim cores => Sys2Proof.Machine.execEvcClaim cores s
  | .evcComplete core source => Sys2Proof.Machine.execEvcComplete core source s
  | .evcPendClear k mask hwSet => Sys2Proof.Machine.execEvcPendClear k mask hwSet s
  | .evcPendSet k mask => Sys2Proof.Machine.execEvcPendSet k mask s
  | .evcConfigWrite offset value => Sys2Proof.Machine.execEvcConfigWrite offset value s
  | .wakeEdge source => Sys2Proof.Machine.execWakeEdge source s
  | .s2Entry => Sys2Proof.Machine.execS2Entry s
  | .patrolScrubRead word => Sys2Proof.Machine.execPatrolScrubRead word s
  | .trackerEntryGrant => Sys2Proof.Machine.execTrackerEntryGrant s
  | .nearMemoryAdd pos => Sys2Proof.Machine.execNearMemoryAdd pos s
  | .linkPacketSend link vc => Sys2Proof.Machine.execLinkPacketSend link vc s
  | .linkPacketReceive link cws => Sys2Proof.Machine.execLinkPacketReceive link cws s
  | .creditCodewordReceive link cw => Sys2Proof.Machine.execCreditCodewordReceive link cw s
  | .creditSendTimer link at_ => Sys2Proof.Machine.execCreditSendTimer link at_ s
  | .replayRequestReceive link cw => Sys2Proof.Machine.execReplayRequestReceive link cw s
  | .linkRetrainTimeout link at_ => Sys2Proof.Machine.execLinkRetrainTimeout link at_ s
  | .laneMarkerReceive link lane cw => Sys2Proof.Machine.execLaneMarkerReceive link lane cw s
  | .laneLoss link lanes => Sys2Proof.Machine.execLaneLoss link lanes s
  | .laneMapReceive link cw => Sys2Proof.Machine.execLaneMapReceive link cw s
  | .laneRejoin link lane at_ => Sys2Proof.Machine.execLaneRejoin link lane at_ s
  | .loopProbeReceive link cw at_ => Sys2Proof.Machine.execLoopProbeReceive link cw at_ s
  | .fclkLaneSwitch port => Sys2Proof.Machine.execFclkLaneSwitch port s
  | .linkTrainingStep link nonce at_ => Sys2Proof.Machine.execLinkTrainingStep link nonce at_ s
  | .linkMissingTimeout link at_ => Sys2Proof.Machine.execLinkMissingTimeout link at_ s
  | .discoveryRecordReceive link record => Sys2Proof.Machine.execDiscoveryRecordReceive link record s
  | .discoveryRepeatTimer link at_ => Sys2Proof.Machine.execDiscoveryRepeatTimer link at_ s
  | .linkJudge link => Sys2Proof.Machine.execLinkJudge link s
  | .packetForward vc pkt => Sys2Proof.Machine.execPacketForward vc pkt s
  | .dataReceive pkt => Sys2Proof.Machine.execDataReceive pkt s
  | .readReceive pkt => Sys2Proof.Machine.execReadReceive pkt s
  | .ackReceive pkt => Sys2Proof.Machine.execAckReceive pkt s
  | .partialReceive pkt => Sys2Proof.Machine.execPartialReceive pkt s
  | .readyReceive pkt => Sys2Proof.Machine.execReadyReceive pkt s
  | .circuitPacketReceive edge pkt => Sys2Proof.Machine.execCircuitPacketReceive edge pkt s
  | .transitPacket pkt at_ => Sys2Proof.Machine.execTransitPacket pkt at_ s
  | .transitCreditFrame link vc units => Sys2Proof.Machine.execTransitCreditFrame link vc units s
  | .congestionSample at_ => Sys2Proof.Machine.execCongestionSample at_ s
  | .congestionMapFold at_ => Sys2Proof.Machine.execCongestionMapFold at_ s
  | .placementDigestReceive pkg digest links serial => Sys2Proof.Machine.execPlacementDigestReceive pkg digest links serial s
  | .jobPlaceTimeout id at_ => Sys2Proof.Machine.execJobPlaceTimeout id at_ s
  | .placementDecisionReceive dec => Sys2Proof.Machine.execPlacementDecisionReceive dec s
  | .redrawInstall => Sys2Proof.Machine.execRedrawInstall s
  | .beatSendTimer at_ => Sys2Proof.Machine.execBeatSendTimer at_ s
  | .beatReceive pkg job gen seq_ at_ => Sys2Proof.Machine.execBeatReceive pkg job gen seq_ at_ s
  | .memberSilentTimeout pkg at_ => Sys2Proof.Machine.execMemberSilentTimeout pkg at_ s
  | .leadSilentTimeout at_ => Sys2Proof.Machine.execLeadSilentTimeout at_ s
  | .fenceRequestReceive pkg reason => Sys2Proof.Machine.execFenceRequestReceive pkg reason s
  | .fenceListReceive job gen seq_ entries => Sys2Proof.Machine.execFenceListReceive job gen seq_ entries s
  | .sinkHelloReceive job serial => Sys2Proof.Machine.execSinkHelloReceive job serial s
  | .sinkHelloTimeout id at_ => Sys2Proof.Machine.execSinkHelloTimeout id at_ s
  | .sinkPacketReceive pkt => Sys2Proof.Machine.execSinkPacketReceive pkt s
  | .checkpointRoundOpen at_ => Sys2Proof.Machine.execCheckpointRoundOpen at_ s
  | .callReceive job round step at_ => Sys2Proof.Machine.execCallReceive job round step at_ s
  | .shardHoldExpiry shard at_ => Sys2Proof.Machine.execShardHoldExpiry shard at_ s
  | .shardEntryReceive gen round entry rankEntry => Sys2Proof.Machine.execShardEntryReceive gen round entry rankEntry s
  | .sinkAbandonReceive job gen => Sys2Proof.Machine.execSinkAbandonReceive job gen s
  | .timeAnnounceTimer at_ => Sys2Proof.Machine.execTimeAnnounceTimer at_ s
  | .announceReceive link frame at_ => Sys2Proof.Machine.execAnnounceReceive link frame at_ s
  | .announceExpiry at_ => Sys2Proof.Machine.execAnnounceExpiry at_ s
  | .syncExchangeTimer at_ => Sys2Proof.Machine.execSyncExchangeTimer at_ s
  | .syncReceive link frame time at_ => Sys2Proof.Machine.execSyncReceive link frame time at_ s
  | .delayRequestReceive link frame at_ => Sys2Proof.Machine.execDelayRequestReceive link frame at_ s
  | .delayResponseReceive link frame time => Sys2Proof.Machine.execDelayResponseReceive link frame time s
  | .holdoverEntry at_ => Sys2Proof.Machine.execHoldoverEntry at_ s
  | .timePulseEdge at_ => Sys2Proof.Machine.execTimePulseEdge at_ s
  | .pulseMissingTimeout at_ => Sys2Proof.Machine.execPulseMissingTimeout at_ s
  | .dumpTriggerEdge at_ => Sys2Proof.Machine.execDumpTriggerEdge at_ s
  | .blackboxRecordWrite => Sys2Proof.Machine.execBlackboxRecordWrite s
  | .spdmRequest code payload => Sys2Proof.Machine.execSpdmRequest code payload s
  | .sidebandSpdm code payload => Sys2Proof.Machine.execSidebandSpdm code payload s
  | .sidebandBlackboxRead first count => Sys2Proof.Machine.execSidebandBlackboxRead first count s
  | .sidebandQuote nonce mask => Sys2Proof.Machine.execSidebandQuote nonce mask s
  | .sidebandDebugChallenge => Sys2Proof.Machine.execSidebandDebugChallenge s
  | .sidebandDebugUnlock serial challenge key endorsement signature => Sys2Proof.Machine.execSidebandDebugUnlock serial challenge key endorsement signature s
  | .cxlPerstRelease at_ => Sys2Proof.Machine.execCxlPerstRelease at_ s
  | .cxlLinkStateChange up cxl at_ => Sys2Proof.Machine.execCxlLinkStateChange up cxl at_ s
  | .reduceCreditReceive shard step row => Sys2Proof.Machine.execReduceCreditReceive shard step row s
  | .shardListReceive job gen shards => Sys2Proof.Machine.execShardListReceive job gen shards s
  | .combStartDone unit => Sys2Proof.Machine.execCombStartDone unit s
  | .firmwareAdminReady at_ => Sys2Proof.Machine.execFirmwareAdminReady at_ s
  | .fwActivateTimeout at_ => Sys2Proof.Machine.execFwActivateTimeout at_ s
  | .s1Entry => Sys2Proof.Machine.execS1Entry s

end Sys2Proof.Machine
end

