-- ==== Sys2Proof/Safety.lean ====
section
/-! DEFINITION. What counts as a safe step, one that ends in a next state; and the invariant that every step keeps. A fault
names an operand that the package does not have. -/
namespace Sys2Proof

/-- The step from `s` ends in a next state. -/
def Safe (s : Machine.State) : Prop := ∃ t, Machine.step s = .next t

/-! ### Kinds of commands -/

/-- A command of the Jeisk protocol that begins work: the opcode of its row in Table 16 of ch. 11, and the number of the
command read. -/
def Instr.order (i : Instr) : Option (Nat × Nat) :=
  match i with
  | .hello id => some (0x001, id)
  | .fence id => some (0x002, id)
  | .tokenSet id => some (0x003, id)
  | .tokenReset id => some (0x004, id)
  | .tokenRead id => some (0x005, id)
  | .handleAlloc id => some (0x100, id)
  | .handleFree id => some (0x101, id)
  | .handleQuery id => some (0x102, id)
  | .memConfig id => some (0x103, id)
  | .trackConfig id => some (0x104, id)
  | .jobPlace id => some (0x108, id)
  | .jobEnd id => some (0x109, id)
  | .indexGather id => some (0x110, id)
  | .indexScatter id => some (0x111, id)
  | .indexScatterAdd id => some (0x112, id)
  | .stackOpen id => some (0x118, id)
  | .stackClose id => some (0x119, id)
  | .launch id => some (0x200, id)
  | .gatherJit id => some (0x300, id)
  | .broadcast id => some (0x301, id)
  | .reduceScatter id => some (0x302, id)
  | .allReduce id => some (0x303, id)
  | .allToAll id => some (0x304, id)
  | .put id => some (0x308, id)
  | .get id => some (0x309, id)
  | .feltPlan id => some (0x310, id)
  | .feltLink id => some (0x311, id)
  | .feltQuery id => some (0x312, id)
  | .feltCong id => some (0x313, id)
  | .transitGrant id => some (0x318, id)
  | .transitRevoke id _ => some (0x319, id)
  | .srcRegister id => some (0x400, id)
  | .srcRelease id => some (0x401, id)
  | .vatConfig id => some (0x408, id)
  | .vatStart id => some (0x409, id)
  | .vatStop id => some (0x40A, id)
  | .vatGetPosition id => some (0x40B, id)
  | .vatSetPosition id => some (0x40C, id)
  | .mouldDeclare id => some (0x500, id)
  | .mouldApply id => some (0x501, id)
  | .mouldRelease id => some (0x502, id)
  | .mouldQuery id => some (0x503, id)
  | .mouldRetune id => some (0x504, id)
  | .pressAttach id => some (0x600, id)
  | .pressApply id => some (0x601, id)
  | .pressFreeze id => some (0x602, id)
  | .pressDetach id => some (0x603, id)
  | .sinkStart id => some (0x700, id)
  | .sinkStop id => some (0x701, id)
  | .ckptSave id => some (0x702, id)
  | .ckptRestore id => some (0x703, id)
  | .pkgFence id => some (0x708, id)
  | .jobSpare id => some (0x709, id)
  | .counterCopy id => some (0x800, id)
  | .traceConfig id => some (0x801, id)
  | .traceCopy id => some (0x802, id)
  | .deckleConfig id => some (0x803, id)
  | .attest id => some (0x900, id)
  | .fwStage id => some (0x901, id)
  | .fwActivate id => some (0x902, id)
  | .blackboxRead id => some (0x903, id)
  | .blackboxConfig id => some (0x904, id)
  | .selftest id _ => some (0x905, id)
  | .powerSet id => some (0x906, id)
  | .launchStart _ | .launchClustersFinished _ | .launchProgressTimeout _ _ | .cpLoad _ _ | .cpStore _ _ |
    .cpMove _ _ | .cpFill _ _ | .cpGather _ _ | .cpScatter _ _ | .cpScatterAdd _ _ | .cpPush _ _ | .cpPop _ _ |
    .groupOpen _ | .mma _ | .groupCloseScratch _ | .groupCloseStream _ | .pageLoad _ | .vAdd _ | .vSub _ | .vMul _ |
    .vFma _ | .vMax _ | .vMin _ | .vDiv _ | .vSqrt _ | .vConvert _ | .vAbs _ | .vNeg _ | .vExp _ | .vLog _ |
    .vRsqrt _ | .vTanh _ | .vSigmoid _ | .vGeluErf _ | .vGeluTanh _ | .vGeluErfD _ | .vRecip _ | .vCmpEq _ |
    .vCmpNe _ | .vCmpLt _ | .vCmpLe _ | .vCmpGt _ | .vCmpGe _ | .vSelect _ | .vMaskRand _ | .vRedSum _ | .vRedMax _ |
    .vRedMin _ | .vSegSum _ | .vSegMax _ | .vSegMin _ | .vSegMean _ | .vSort64 _ | .vTopk64 _ | .rowSoftmax _ |
    .rowSoftmaxBwd _ | .rowLnorm _ | .rowLnormBwd _ | .rowRmsnorm _ | .rowRmsnormBwd _ | .nop _ | .setIx _ |
    .addIx _ | .loop _ | .branchLoop _ | .jump _ | .setRndStream _ | .setRndStep _ | .flagsRc _ | .latch _ | .stop _ |
    .gatherReadoutStart _ | .collectiveSendStart _ | .collectiveTimeout _ _ | .chunkFetch | .chunkDecodeDone _ _ |
    .windowDrawStart _ | .vatDraw | .batchHandover | .batchRegionReuse _ | .tileLoadDone _ _ | .probeCapture _ _ _ _ |
    .probeVerdict _ _ _ | .recalibrationDone _ | .ringDitherCheck _ _ _ _ | .ringSearchDone _ _ _ _ | .combLost _ |
    .pressSliceConsume _ | .partialTileArrival _ _ _ _ _ _ _ | .reduceCreditRequest _ _ _ _ _ |
    .reduceCreditGrant _ _ | .reduceRefusal _ _ _ | .reduceWatchdogExpiry _ _ | .reduceAbandon _ _ |
    .jobSpareTimeout _ _ | .tokenWaitTimeout _ _ | .dbSetTail _ _ _ | .dbSetHead _ _ _ | .ringLineSnoop _ _ |
    .ringLinePollTimer _ _ | .qcfgEnable _ _ | .qcfgDisable _ _ | .qcfgResume _ _ | .cqRecordWrite _ _ |
    .msixDelayExpiry _ _ | .msixVectorUnmask _ | .hnCtrlWrite _ | .hnMaskWrite _ | .noticeWindowClose _ _ |
    .heartbeatTick _ | .registerWrite _ _ _ | .bar2Read _ _ | .bar2Write _ _ | .dkNowLowRead | .ptMclkClampWrite _ _ |
    .hostMemRead _ _ | .hostMemWrite _ _ | .functionLevelReset | .cxlPerstAssert _ | .hostLinkLossTimeout _ |
    .resetNAssert | .resetRelease | .crystalStable _ | .pllLock _ _ | .pllLockLoss _ | .dividerStep _ _ |
    .avsWriteRetry _ _ _ | .domainSwitchStage _ _ | .domainSequenceTick _ | .sensorSample _ _ _ _ |
    .throttleLoopTick _ _ | .clampHoldExpiry _ _ | .holdupAlarm | .holdupCharged | .dramTrainingDone |
    .startupSelftestDone _ | .bootRomVerify | .fuseBlow | .watchdogSample _ _ | .managementRestartDone |
    .eventSourceEdge _ | .eventSourceLevel _ _ | .evcClaim _ | .evcComplete _ _ | .evcPendClear _ _ _ |
    .evcPendSet _ _ | .evcConfigWrite _ _ | .wakeEdge _ | .s2Entry | .patrolScrubRead _ | .trackerEntryGrant |
    .nearMemoryAdd _ | .linkPacketSend _ _ | .linkPacketReceive _ _ | .creditCodewordReceive _ _ |
    .creditSendTimer _ _ | .replayRequestReceive _ _ | .linkRetrainTimeout _ _ | .laneMarkerReceive _ _ _ |
    .laneLoss _ _ | .laneMapReceive _ _ | .laneRejoin _ _ _ | .loopProbeReceive _ _ _ | .fclkLaneSwitch _ |
    .linkTrainingStep _ _ _ | .linkMissingTimeout _ _ | .discoveryRecordReceive _ _ | .discoveryRepeatTimer _ _ |
    .linkJudge _ | .packetForward _ _ | .dataReceive _ | .readReceive _ | .ackReceive _ | .partialReceive _ |
    .readyReceive _ | .circuitPacketReceive _ _ | .transitPacket _ _ | .transitCreditFrame _ _ _ |
    .congestionSample _ | .congestionMapFold _ | .placementDigestReceive _ _ _ _ | .jobPlaceTimeout _ _ |
    .placementDecisionReceive _ | .redrawInstall | .beatSendTimer _ | .beatReceive _ _ _ _ _ |
    .memberSilentTimeout _ _ | .leadSilentTimeout _ | .fenceRequestReceive _ _ | .fenceListReceive _ _ _ _ |
    .sinkHelloReceive _ _ | .sinkHelloTimeout _ _ | .sinkPacketReceive _ | .checkpointRoundOpen _ |
    .callReceive _ _ _ _ | .shardHoldExpiry _ _ | .shardEntryReceive _ _ _ _ | .sinkAbandonReceive _ _ |
    .timeAnnounceTimer _ | .announceReceive _ _ _ | .announceExpiry _ | .syncExchangeTimer _ | .syncReceive _ _ _ _ |
    .delayRequestReceive _ _ _ | .delayResponseReceive _ _ _ | .holdoverEntry _ | .timePulseEdge _ |
    .pulseMissingTimeout _ | .dumpTriggerEdge _ | .blackboxRecordWrite | .spdmRequest _ _ | .sidebandSpdm _ _ |
    .sidebandBlackboxRead _ _ | .sidebandQuote _ _ | .sidebandDebugChallenge | .sidebandDebugUnlock _ _ _ _ _ |
    .cxlPerstRelease _ | .cxlLinkStateChange _ _ _ | .reduceCreditReceive _ _ _ | .shardListReceive _ _ _ |
    .combStartDone _ | .firmwareAdminReady _ | .fwActivateTimeout _ | .s1Entry => none

/-- The commands that may change the event controller, the switched domains, the clocks, the dies, the fuses or the use of
the shared ball: those of ch. 13, ch. 14 and ch. 17 that the rules give that effect. -/
def Instr.steers (i : Instr) : Bool :=
  match i with
  | .deckleConfig _ | .blackboxConfig _ | .powerSet _ | .registerWrite _ _ _ | .ptMclkClampWrite _ _ | .resetNAssert |
    .crystalStable _ | .pllLock _ _ | .pllLockLoss _ | .dividerStep _ _ | .avsWriteRetry _ _ _ |
    .domainSwitchStage _ _ | .domainSequenceTick _ | .sensorSample _ _ _ _ | .throttleLoopTick _ _ |
    .clampHoldExpiry _ _ | .holdupAlarm | .fuseBlow | .watchdogSample _ _ | .eventSourceEdge _ |
    .eventSourceLevel _ _ | .evcClaim _ | .evcComplete _ _ | .evcPendClear _ _ _ | .evcPendSet _ _ |
    .evcConfigWrite _ _ | .wakeEdge _ | .s2Entry | .s1Entry | .firmwareAdminReady _ => true
  | .hello _ | .fence _ | .tokenSet _ | .tokenReset _ | .tokenRead _ | .handleAlloc _ | .handleFree _ |
    .handleQuery _ | .memConfig _ | .trackConfig _ | .jobPlace _ | .jobEnd _ | .indexGather _ | .indexScatter _ |
    .indexScatterAdd _ | .stackOpen _ | .stackClose _ | .launch _ | .launchStart _ | .launchClustersFinished _ |
    .launchProgressTimeout _ _ | .cpLoad _ _ | .cpStore _ _ | .cpMove _ _ | .cpFill _ _ | .cpGather _ _ |
    .cpScatter _ _ | .cpScatterAdd _ _ | .cpPush _ _ | .cpPop _ _ | .groupOpen _ | .mma _ | .groupCloseScratch _ |
    .groupCloseStream _ | .pageLoad _ | .vAdd _ | .vSub _ | .vMul _ | .vFma _ | .vMax _ | .vMin _ | .vDiv _ |
    .vSqrt _ | .vConvert _ | .vAbs _ | .vNeg _ | .vExp _ | .vLog _ | .vRsqrt _ | .vTanh _ | .vSigmoid _ |
    .vGeluErf _ | .vGeluTanh _ | .vGeluErfD _ | .vRecip _ | .vCmpEq _ | .vCmpNe _ | .vCmpLt _ | .vCmpLe _ |
    .vCmpGt _ | .vCmpGe _ | .vSelect _ | .vMaskRand _ | .vRedSum _ | .vRedMax _ | .vRedMin _ | .vSegSum _ |
    .vSegMax _ | .vSegMin _ | .vSegMean _ | .vSort64 _ | .vTopk64 _ | .rowSoftmax _ | .rowSoftmaxBwd _ | .rowLnorm _ |
    .rowLnormBwd _ | .rowRmsnorm _ | .rowRmsnormBwd _ | .nop _ | .setIx _ | .addIx _ | .loop _ | .branchLoop _ |
    .jump _ | .setRndStream _ | .setRndStep _ | .flagsRc _ | .latch _ | .stop _ | .gatherJit _ |
    .gatherReadoutStart _ | .broadcast _ | .reduceScatter _ | .allReduce _ | .allToAll _ | .collectiveSendStart _ |
    .collectiveTimeout _ _ | .put _ | .get _ | .feltPlan _ | .feltLink _ | .feltQuery _ | .feltCong _ |
    .transitGrant _ | .transitRevoke _ _ | .srcRegister _ | .srcRelease _ | .vatConfig _ | .vatStart _ | .vatStop _ |
    .vatGetPosition _ | .vatSetPosition _ | .chunkFetch | .chunkDecodeDone _ _ | .windowDrawStart _ | .vatDraw |
    .batchHandover | .batchRegionReuse _ | .mouldDeclare _ | .mouldApply _ | .mouldRelease _ | .mouldQuery _ |
    .mouldRetune _ | .tileLoadDone _ _ | .probeCapture _ _ _ _ | .probeVerdict _ _ _ | .recalibrationDone _ |
    .ringDitherCheck _ _ _ _ | .ringSearchDone _ _ _ _ | .combLost _ | .pressAttach _ | .pressApply _ |
    .pressFreeze _ | .pressDetach _ | .pressSliceConsume _ | .partialTileArrival _ _ _ _ _ _ _ |
    .reduceCreditRequest _ _ _ _ _ | .reduceCreditGrant _ _ | .reduceRefusal _ _ _ | .reduceWatchdogExpiry _ _ |
    .reduceAbandon _ _ | .sinkStart _ | .sinkStop _ | .ckptSave _ | .ckptRestore _ | .pkgFence _ | .jobSpare _ |
    .jobSpareTimeout _ _ | .counterCopy _ | .traceConfig _ | .traceCopy _ | .attest _ | .fwStage _ | .fwActivate _ |
    .blackboxRead _ | .selftest _ _ | .tokenWaitTimeout _ _ | .dbSetTail _ _ _ | .dbSetHead _ _ _ |
    .ringLineSnoop _ _ | .ringLinePollTimer _ _ | .qcfgEnable _ _ | .qcfgDisable _ _ | .qcfgResume _ _ |
    .cqRecordWrite _ _ | .msixDelayExpiry _ _ | .msixVectorUnmask _ | .hnCtrlWrite _ | .hnMaskWrite _ |
    .noticeWindowClose _ _ | .heartbeatTick _ | .bar2Read _ _ | .bar2Write _ _ | .dkNowLowRead | .hostMemRead _ _ |
    .hostMemWrite _ _ | .functionLevelReset | .cxlPerstAssert _ | .hostLinkLossTimeout _ | .resetRelease |
    .holdupCharged | .dramTrainingDone | .startupSelftestDone _ | .bootRomVerify | .managementRestartDone |
    .patrolScrubRead _ | .trackerEntryGrant | .nearMemoryAdd _ | .linkPacketSend _ _ | .linkPacketReceive _ _ |
    .creditCodewordReceive _ _ | .creditSendTimer _ _ | .replayRequestReceive _ _ | .linkRetrainTimeout _ _ |
    .laneMarkerReceive _ _ _ | .laneLoss _ _ | .laneMapReceive _ _ | .laneRejoin _ _ _ | .loopProbeReceive _ _ _ |
    .fclkLaneSwitch _ | .linkTrainingStep _ _ _ | .linkMissingTimeout _ _ | .discoveryRecordReceive _ _ |
    .discoveryRepeatTimer _ _ | .linkJudge _ | .packetForward _ _ | .dataReceive _ | .readReceive _ | .ackReceive _ |
    .partialReceive _ | .readyReceive _ | .circuitPacketReceive _ _ | .transitPacket _ _ | .transitCreditFrame _ _ _ |
    .congestionSample _ | .congestionMapFold _ | .placementDigestReceive _ _ _ _ | .jobPlaceTimeout _ _ |
    .placementDecisionReceive _ | .redrawInstall | .beatSendTimer _ | .beatReceive _ _ _ _ _ |
    .memberSilentTimeout _ _ | .leadSilentTimeout _ | .fenceRequestReceive _ _ | .fenceListReceive _ _ _ _ |
    .sinkHelloReceive _ _ | .sinkHelloTimeout _ _ | .sinkPacketReceive _ | .checkpointRoundOpen _ |
    .callReceive _ _ _ _ | .shardHoldExpiry _ _ | .shardEntryReceive _ _ _ _ | .sinkAbandonReceive _ _ |
    .timeAnnounceTimer _ | .announceReceive _ _ _ | .announceExpiry _ | .syncExchangeTimer _ | .syncReceive _ _ _ _ |
    .delayRequestReceive _ _ _ | .delayResponseReceive _ _ _ | .holdoverEntry _ | .timePulseEdge _ |
    .pulseMissingTimeout _ | .dumpTriggerEdge _ | .blackboxRecordWrite | .spdmRequest _ _ | .sidebandSpdm _ _ |
    .sidebandBlackboxRead _ _ | .sidebandQuote _ _ | .sidebandDebugChallenge | .sidebandDebugUnlock _ _ _ _ _ |
    .cxlPerstRelease _ | .cxlLinkStateChange _ _ _ | .reduceCreditReceive _ _ _ | .shardListReceive _ _ _ |
    .combStartDone _ | .fwActivateTimeout _ => false

end Sys2Proof

namespace Sys2Proof.Machine

/-- `t` has the event controller, the switched domains with what is being switched, the clocks, the dies, the fuses and the
use of the shared ball of `s`. -/
def State.SameSteering (s t : State) : Prop :=
  t.evc = s.evc ∧ t.pwr.on = s.pwr.on ∧ t.pwr.stage = s.pwr.stage ∧ t.pwr.sequence = s.pwr.sequence
    ∧ t.pwr.clks = s.pwr.clks ∧ t.pwr.dies = s.pwr.dies ∧ t.iden.fuses = s.iden.fuses ∧ t.pins.ball = s.pins.ball

/-- A core of the event controller (R494, R495): its threshold is at most 15; the priorities of its run stack are from 1 to
15 and rise toward the top, so that the stack holds at most 15. -/
def EvCore.ok (k : EvCore) : Prop :=
  k.thresh ≤ 15 ∧ k.stack.Pairwise (fun a b => b.2 < a.2) ∧ ∀ e ∈ k.stack, 1 ≤ e.2 ∧ e.2 ≤ 15

/-- The event controller: priorities fit four bits; a source on a run stack is active, stands on that stack once and on no
other core's (R495 to R497). -/
structure State.EvcOk (s : State) : Prop where
  prio : ∀ i, (s.evcSrc i).prio ≤ 15
  core : ∀ c, (s.evcCore c).ok
  held : ∀ c, ∀ e ∈ (s.evcCore c).stack, (s.evcSrc e.1).active = true
  once : ∀ c, ((s.evcCore c).stack.map Prod.fst).Nodup
  alone : ∀ c d, c ≠ d → ∀ e ∈ (s.evcCore c).stack, ∀ f ∈ (s.evcCore d).stack, e.1 ≠ f.1

/-- A die's thermal control (R513, R526, R528, R531): ceiling and throttle from j = 4 to 15, clamp level from 5 to 15. -/
def Die.ok (x : Die) : Prop :=
  4 ≤ x.ceiling ∧ x.ceiling ≤ 15 ∧ 4 ≤ x.throttle ∧ x.throttle ≤ 15 ∧ 5 ≤ x.clampLevel ∧ x.clampLevel ≤ 15

/-- Clocks, domains and dies: PD00 is on and never switched (R516), no divider passes j = 16 (R512), every die's levels are
within their ranges. -/
structure State.PowerOk (s : State) : Prop where
  always : s.domOn 0 = true
  stage : tget s.pwr.stage 0 = none
  sequence : ∀ e ∈ s.pwr.sequence, e.1 ≠ 0
  clks : ∀ i, (s.clk i).j ≤ 16
  dies : ∀ d, (s.die d).ok

/-- The invariant of every step. At most 64 fuses are blown (R613), and the shared ball has one of its three uses (R630). -/
structure State.Inv (s : State) : Prop where
  evc : s.EvcOk
  power : s.PowerOk
  fuses : s.iden.fuses ≤ 64
  ball : s.pins.ball ≤ 2

/-! ### Words that statements use -/

/-- The command `id` has been read as `c`, carries opcode `op` and may start (R437, R456, R457), and R575 does not end it. -/
abbrev State.Ready (s : State) (id : Nat) (c : CmdRec) (op : Nat) : Prop :=
  s.cmd id = some c ∧ pktOp c.packet = op ∧ s.mayStart id c = true
    ∧ (opNeedsJob op && s.fail.selfFenced.isSome && s.job.job.isSome) = false

/-- The command `id` of opcode `op` has started and has not completed. -/
abbrev State.Running (s : State) (id : Nat) (c : CmdRec) (op : Nat) : Prop :=
  s.cmd id = some c ∧ pktOp c.packet = op ∧ c.phase = .started

/-- The command `id` ends by a failed check of its own (R447, R462): it is counted and completes without starting. -/
def State.turnAway (s : State) (id : Nat) (st : Cause) : State := (s.bump slotCheckFail 1).failCmd id st

/-- The word `w` is operation `o` at the head of queue `q` (1 matrix, 2 vector) of cluster `cl`, whose launch runs; it has
not started and its wait is met (R188, R189). -/
abbrev State.AtHead (s : State) (cl q o : Nat) (w : QWord) : Prop :=
  cl < 2048 ∧ ((s.clus cl).queue q).head? = some w ∧ wOp w.word = o ∧ (s.clus cl).launch.isSome = true
    ∧ (s.clus cl).stopped = false ∧ w.started = false ∧ waitMet (s.clus cl) w.word = true

/-- The state in which that word has taken its wait from its token and has started. -/
def State.begun (s : State) (cl q : Nat) (w : QWord) : State :=
  s.setClus cl (((s.clus cl).takeWait w.word).setQueue q (setStarted (((s.clus cl).takeWait w.word).queue q) w.uid false))

/-- The word `w` is operation `o` at place `pos` of the copy queue of cluster `cl`, whose launch runs; it is among the first
16, all words before it have started or start now, leaving the cluster as `k`, and it touches nothing that they touch
(R188, R189). -/
abbrev State.AtCopy (s : State) (cl pos o : Nat) (w : QWord) (k : Cluster) : Prop :=
  cl < 2048 ∧ (s.clus cl).copyQ[pos]? = some w ∧ wOp w.word = o ∧ pos < 16 ∧ (s.clus cl).launch.isSome = true
    ∧ (s.clus cl).stopped = false ∧ w.adding = false
    ∧ ((s.clus cl).copyQ.take pos).all (fun q => (s.footprint cl q).all (fun a => (s.footprint cl w).all (fun b => !a.clash b))) = true
    ∧ startUpTo (s.clus cl) pos = some k

/-- The control word `w`, operation `o`, is at the distributor of cluster `cl` and its wait is met (R185, R187). -/
abbrev State.AtControl (s : State) (cl o : Nat) (w : Word128) : Prop :=
  cl < 2048 ∧ s.nextWord cl = some w ∧ wQueue w = 3 ∧ wOp w = o ∧ waitMet (s.clus cl) w = true

/-- The state in which that word has taken its wait and the distributor stands behind it. -/
def State.controlled (s : State) (cl : Nat) (w : Word128) : State :=
  s.setClus cl { (s.clus cl).takeWait w with pc := (s.clus cl).pc + 1 }

/-- `n` elements of format `f` at unit `u`, with their scale plane, lie within scratch (R212, R213). -/
def planesFit (f u n : Nat) : Bool :=
  scratchOk u (ceilDiv (n * fmtBits f) 8) && (!fmtBlock f || scratchOk (u + scaleOff n / 16) (ceilDiv n 32))

/-- The first source and the destination of a vector word of `n` elements lie within scratch. -/
def QWord.fits (q : QWord) (n m : Nat) : Bool :=
  planesFit (wFa q.word) (vU1 q) n && planesFit (wFd q.word) (vD q.word + q.reg (vXd q.word)) m

/-- A source of `n` elements at unit `u`, or its first element where it is broadcast, lies within scratch. -/
def QWord.operandFits (q : QWord) (u n : Nat) (bcast : Bool) : Bool :=
  let f := wFa q.word
  let m := if bcast then 64 else n
  let k := if bcast then 1 else n
  scratchOk u (ceilDiv (k * fmtBits f) 8) && (!fmtBlock f || scratchOk (u + scaleOff m / 16) (ceilDiv k 32))

end Sys2Proof.Machine
end

