-- ==== Sys2Proof/WellFormed.lean ====
section
/-! DEFINITION. Which terms of `Instr` name something that exists: an operand that numbers a unit of the package (a
cluster, a link, a pair, a die, a register) lies in the range the spec gives that unit, and an access has a size that the
interface has. The meanings do not rely on it: they meet an operand out of range by name (`Fault.absent`) or leave the
state as it is. -/
namespace Sys2Proof

/-- The operands of a command lie in the ranges of what they number. -/
def Instr.wellFormed (i : Instr) : Bool :=
  match i with
  | .hello _ => true
  | .fence _ => true
  | .tokenSet _ => true
  | .tokenReset _ => true
  | .tokenRead _ => true
  | .handleAlloc _ => true
  | .handleFree _ => true
  | .handleQuery _ => true
  | .memConfig _ => true
  | .trackConfig _ => true
  | .jobPlace _ => true
  | .jobEnd _ => true
  | .indexGather _ => true
  | .indexScatter _ => true
  | .indexScatterAdd _ => true
  | .stackOpen _ => true
  | .stackClose _ => true
  | .launch _ => true
  | .launchStart _ => true
  | .launchClustersFinished _ => true
  | .launchProgressTimeout cl _ => decide (cl < 2048)
  | .cpLoad cl _ => decide (cl < 2048)
  | .cpStore cl _ => decide (cl < 2048)
  | .cpMove cl _ => decide (cl < 2048)
  | .cpFill cl _ => decide (cl < 2048)
  | .cpGather cl _ => decide (cl < 2048)
  | .cpScatter cl _ => decide (cl < 2048)
  | .cpScatterAdd cl _ => decide (cl < 2048)
  | .cpPush cl _ => decide (cl < 2048)
  | .cpPop cl _ => decide (cl < 2048)
  | .groupOpen cl => decide (cl < 2048)
  | .mma cl => decide (cl < 2048)
  | .groupCloseScratch cl => decide (cl < 2048)
  | .groupCloseStream cl => decide (cl < 2048)
  | .pageLoad cl => decide (cl < 2048)
  | .vAdd cl => decide (cl < 2048)
  | .vSub cl => decide (cl < 2048)
  | .vMul cl => decide (cl < 2048)
  | .vFma cl => decide (cl < 2048)
  | .vMax cl => decide (cl < 2048)
  | .vMin cl => decide (cl < 2048)
  | .vDiv cl => decide (cl < 2048)
  | .vSqrt cl => decide (cl < 2048)
  | .vConvert cl => decide (cl < 2048)
  | .vAbs cl => decide (cl < 2048)
  | .vNeg cl => decide (cl < 2048)
  | .vExp cl => decide (cl < 2048)
  | .vLog cl => decide (cl < 2048)
  | .vRsqrt cl => decide (cl < 2048)
  | .vTanh cl => decide (cl < 2048)
  | .vSigmoid cl => decide (cl < 2048)
  | .vGeluErf cl => decide (cl < 2048)
  | .vGeluTanh cl => decide (cl < 2048)
  | .vGeluErfD cl => decide (cl < 2048)
  | .vRecip cl => decide (cl < 2048)
  | .vCmpEq cl => decide (cl < 2048)
  | .vCmpNe cl => decide (cl < 2048)
  | .vCmpLt cl => decide (cl < 2048)
  | .vCmpLe cl => decide (cl < 2048)
  | .vCmpGt cl => decide (cl < 2048)
  | .vCmpGe cl => decide (cl < 2048)
  | .vSelect cl => decide (cl < 2048)
  | .vMaskRand cl => decide (cl < 2048)
  | .vRedSum cl => decide (cl < 2048)
  | .vRedMax cl => decide (cl < 2048)
  | .vRedMin cl => decide (cl < 2048)
  | .vSegSum cl => decide (cl < 2048)
  | .vSegMax cl => decide (cl < 2048)
  | .vSegMin cl => decide (cl < 2048)
  | .vSegMean cl => decide (cl < 2048)
  | .vSort64 cl => decide (cl < 2048)
  | .vTopk64 cl => decide (cl < 2048)
  | .rowSoftmax cl => decide (cl < 2048)
  | .rowSoftmaxBwd cl => decide (cl < 2048)
  | .rowLnorm cl => decide (cl < 2048)
  | .rowLnormBwd cl => decide (cl < 2048)
  | .rowRmsnorm cl => decide (cl < 2048)
  | .rowRmsnormBwd cl => decide (cl < 2048)
  | .nop cl => decide (cl < 2048)
  | .setIx cl => decide (cl < 2048)
  | .addIx cl => decide (cl < 2048)
  | .loop cl => decide (cl < 2048)
  | .branchLoop cl => decide (cl < 2048)
  | .jump cl => decide (cl < 2048)
  | .setRndStream cl => decide (cl < 2048)
  | .setRndStep cl => decide (cl < 2048)
  | .flagsRc cl => decide (cl < 2048)
  | .latch cl => decide (cl < 2048)
  | .stop cl => decide (cl < 2048)
  | .gatherJit _ => true
  | .gatherReadoutStart _ => true
  | .broadcast _ => true
  | .reduceScatter _ => true
  | .allReduce _ => true
  | .allToAll _ => true
  | .collectiveSendStart _ => true
  | .collectiveTimeout _ _ => true
  | .put _ => true
  | .get _ => true
  | .feltPlan _ => true
  | .feltLink _ => true
  | .feltQuery _ => true
  | .feltCong _ => true
  | .transitGrant _ => true
  | .transitRevoke _ _ => true
  | .srcRegister _ => true
  | .srcRelease _ => true
  | .vatConfig _ => true
  | .vatStart _ => true
  | .vatStop _ => true
  | .vatGetPosition _ => true
  | .vatSetPosition _ => true
  | .chunkFetch => true
  | .chunkDecodeDone _ _ => true
  | .windowDrawStart _ => true
  | .vatDraw => true
  | .batchHandover => true
  | .batchRegionReuse _ => true
  | .mouldDeclare _ => true
  | .mouldApply _ => true
  | .mouldRelease _ => true
  | .mouldQuery _ => true
  | .mouldRetune _ => true
  | .tileLoadDone unit _ => decide (unit < 4)
  | .probeCapture unit _ sect _ => decide (unit < 4) && decide (sect < 17)
  | .probeVerdict unit _ _ => decide (unit < 4)
  | .recalibrationDone unit => decide (unit < 4)
  | .ringDitherCheck unit bus ring _ => decide (unit < 4) && decide (bus < 256) && decide (ring < 32)
  | .ringSearchDone unit bus ring _ => decide (unit < 4) && decide (bus < 256) && decide (ring < 32)
  | .combLost unit => decide (unit < 4)
  | .pressAttach _ => true
  | .pressApply _ => true
  | .pressFreeze _ => true
  | .pressDetach _ => true
  | .pressSliceConsume shard => decide (shard < 262144)
  | .partialTileArrival shard step row col _ tile _ => decide (shard < 262144) && decide (row < 65536) && decide (col < 65536) && decide (tile.length = 1024) && decide (step < 2 ^ 48)
  | .reduceCreditRequest shard _ rows cols member => decide (shard < 262144) && decide (rows < 65536) && decide (cols < 65536) && decide (member < 65536)
  | .reduceCreditGrant shard row => decide (shard < 262144) && decide (row < 65536)
  | .reduceRefusal shard _ _ => decide (shard < 262144)
  | .reduceWatchdogExpiry shard _ => decide (shard < 262144)
  | .reduceAbandon shard _ => decide (shard < 262144)
  | .sinkStart _ => true
  | .sinkStop _ => true
  | .ckptSave _ => true
  | .ckptRestore _ => true
  | .pkgFence _ => true
  | .jobSpare _ => true
  | .jobSpareTimeout _ _ => true
  | .counterCopy _ => true
  | .traceConfig _ => true
  | .traceCopy _ => true
  | .deckleConfig _ => true
  | .attest _ => true
  | .fwStage _ => true
  | .fwActivate _ => true
  | .blackboxRead _ => true
  | .blackboxConfig _ => true
  | .selftest _ _ => true
  | .powerSet _ => true
  | .tokenWaitTimeout _ _ => true
  | .dbSetTail pair _ _ => decide (pair < 8192)
  | .dbSetHead pair _ _ => decide (pair < 8192)
  | .ringLineSnoop pair _ => decide (pair < 8192)
  | .ringLinePollTimer pair _ => decide (pair < 8192)
  | .qcfgEnable pair _ => decide (pair < 8192)
  | .qcfgDisable pair _ => decide (pair < 8192)
  | .qcfgResume pair _ => decide (pair < 8192)
  | .cqRecordWrite pair _ => decide (pair < 8192)
  | .msixDelayExpiry pair _ => decide (pair < 8192)
  | .msixVectorUnmask vector => decide (vector < 64)
  | .hnCtrlWrite _ => true
  | .hnMaskWrite _ => true
  | .noticeWindowClose bit _ => decide (bit < 13)
  | .heartbeatTick _ => true
  | .registerWrite offset size _ => decide (size = 4 ∨ size = 8) && decide (offset % size = 0) && decide (offset < 2 ^ 21)
  | .bar2Read offset size => decide (size ≠ 0) && decide (offset + size ≤ 2 ^ 26)
  | .bar2Write offset data => decide (data ≠ []) && decide (offset + data.length ≤ 2 ^ 26)
  | .dkNowLowRead => true
  | .ptMclkClampWrite die _ => decide (die < 4)
  | .hostMemRead _ size => decide (size ≠ 0)
  | .hostMemWrite _ data => decide (data ≠ [])
  | .functionLevelReset => true
  | .cxlPerstAssert _ => true
  | .hostLinkLossTimeout _ => true
  | .resetNAssert => true
  | .resetRelease => true
  | .crystalStable _ => true
  | .pllLock pll _ => decide (pll < 16)
  | .pllLockLoss pll => decide (pll < 16)
  | .dividerStep clk _ => decide (clk < 16)
  | .avsWriteRetry die _ _ => decide (die < 4)
  | .domainSwitchStage dom _ => decide (dom < 20)
  | .domainSequenceTick _ => true
  | .sensorSample _ _ _ _ => true
  | .throttleLoopTick die _ => decide (die < 4)
  | .clampHoldExpiry die _ => decide (die < 4)
  | .holdupAlarm => true
  | .holdupCharged => true
  | .dramTrainingDone => true
  | .startupSelftestDone _ => true
  | .bootRomVerify => true
  | .fuseBlow => true
  | .watchdogSample kicks _ => decide (kicks.length = 10)
  | .managementRestartDone => true
  | .eventSourceEdge source => decide (source < 512)
  | .eventSourceLevel source _ => decide (source < 512)
  | .evcClaim cores => decide (cores ≠ []) && cores.all (· < 10)
  | .evcComplete core source => decide (core < 10) && decide (source < 1024)
  | .evcPendClear k _ _ => decide (k < 16)
  | .evcPendSet k _ => decide (k < 16)
  | .evcConfigWrite offset _ => decide (offset % 4 = 0)
  | .wakeEdge source => decide (source < 512)
  | .s2Entry => true
  | .patrolScrubRead word => decide (word < 2 ^ 36)
  | .trackerEntryGrant => true
  | .nearMemoryAdd _ => true
  | .linkPacketSend link vc => decide (link < 24) && decide (vc < 8)
  | .linkPacketReceive link cws => decide (link < 24) && decide (cws ≠ [])
  | .creditCodewordReceive link _ => decide (link < 24)
  | .creditSendTimer link _ => decide (link < 24)
  | .replayRequestReceive link _ => decide (link < 24)
  | .linkRetrainTimeout link _ => decide (link < 24)
  | .laneMarkerReceive link lane _ => decide (link < 24) && decide (lane < 32)
  | .laneLoss link _ => decide (link < 24)
  | .laneMapReceive link _ => decide (link < 24)
  | .laneRejoin link lane _ => decide (link < 24) && decide (lane < 32)
  | .loopProbeReceive link _ _ => decide (link < 24)
  | .fclkLaneSwitch port => decide (port < 6)
  | .linkTrainingStep link _ _ => decide (link < 24)
  | .linkMissingTimeout link _ => decide (link < 24)
  | .discoveryRecordReceive link _ => decide (link < 24)
  | .discoveryRepeatTimer link _ => decide (link < 24)
  | .linkJudge link => decide (link < 24)
  | .packetForward vc pkt => decide (vc < 8) && decide (vc ≤ 4) && decide (pkt ≠ [])
  | .dataReceive pkt => decide (pkt ≠ [])
  | .readReceive pkt => decide (pkt ≠ [])
  | .ackReceive pkt => decide (pkt ≠ [])
  | .partialReceive pkt => decide (pkt ≠ [])
  | .readyReceive pkt => decide (pkt ≠ [])
  | .circuitPacketReceive edge pkt => decide (edge < 6) && decide (pkt ≠ [])
  | .transitPacket pkt _ => decide (pkt ≠ [])
  | .transitCreditFrame link vc _ => decide (link < 24) && decide (vc < 7)
  | .congestionSample _ => true
  | .congestionMapFold _ => true
  | .placementDigestReceive pkg _ links _ => decide (pkg < 65536) && links.all (fun l => decide (l.link < 24))
  | .jobPlaceTimeout _ _ => true
  | .placementDecisionReceive _ => true
  | .redrawInstall => true
  | .beatSendTimer _ => true
  | .beatReceive pkg job _ _ _ => decide (pkg < 65536) && decide (job < 2 ^ 32)
  | .memberSilentTimeout pkg _ => decide (pkg < 65536)
  | .leadSilentTimeout _ => true
  | .fenceRequestReceive pkg _ => decide (pkg < 65536)
  | .fenceListReceive _ _ _ entries => decide (entries.length ≤ 248) && decide (entries ≠ [])
  | .sinkHelloReceive _ _ => true
  | .sinkHelloTimeout _ _ => true
  | .sinkPacketReceive pkt => decide (pkt ≠ [])
  | .checkpointRoundOpen _ => true
  | .callReceive _ _ step _ => decide (step < 2 ^ 48)
  | .shardHoldExpiry shard _ => decide (shard < 262144)
  | .shardEntryReceive _ _ _ _ => true
  | .sinkAbandonReceive _ _ => true
  | .timeAnnounceTimer _ => true
  | .announceReceive link _ _ => decide (link < 24)
  | .announceExpiry _ => true
  | .syncExchangeTimer _ => true
  | .syncReceive link _ _ _ => decide (link < 24)
  | .delayRequestReceive link _ _ => decide (link < 24)
  | .delayResponseReceive link _ _ => decide (link < 24)
  | .holdoverEntry _ => true
  | .timePulseEdge _ => true
  | .pulseMissingTimeout _ => true
  | .dumpTriggerEdge _ => true
  | .blackboxRecordWrite => true
  | .spdmRequest _ _ => true
  | .sidebandSpdm _ _ => true
  | .sidebandBlackboxRead _ count => decide (1 ≤ count) && decide (count ≤ 4)
  | .sidebandQuote _ _ => true
  | .sidebandDebugChallenge => true
  | .sidebandDebugUnlock _ _ _ _ _ => true
  | .cxlPerstRelease _ => true
  | .cxlLinkStateChange _ _ _ => true
  | .reduceCreditReceive shard _ row => decide (shard < 262144) && decide (row < 65536)
  | .shardListReceive _ _ _ => true
  | .combStartDone unit => decide (unit < 4)
  | .firmwareAdminReady _ => true
  | .fwActivateTimeout _ => true
  | .s1Entry => true

end Sys2Proof
end

