-- ==== Sys2Proof/Certificates/Slice0/Obligations.lean ====
section
/-! DEFINITION. What the model is said to do: one statement about each group of commands, and the statements about every
command and every step. Each docstring names the rules of the spec that its statement rests on. -/
open Sys2Proof Sys2Proof.Machine

/-- One step of the block: the command at the front of the queue is executed with the queue's rest. -/
def Obligations.StepRunsTheFront : Prop :=
  ∀ (s : State) (c : Instr) (rest : List Instr), s.pending = c :: rest → step s = exec c { s with pending := rest }

/-- With no command waiting, the block idles for 1 ns of the model's clock: the Deckle goes on where TCLK runs, pairs
whose completion ring is full are counted, and nothing else changes. That a step is 1 ns long is the model's choice
(log 8). -/
def Obligations.EmptyQueueIdles : Prop :=
  ∀ s : State, s.pending = [] → ∃ t, step s = .next t ∧ t.time = s.time + 1
    ∧ t.dk = (if s.domOn 1 then s.dk.advance 1 else s.dk)
    ∧ t = { s with time := t.time, dk := t.dk, ctr := t.ctr }

/-- The invariant of every step holds after package reset. -/
def Obligations.InvariantAtReset : Prop :=
  State.reset.Inv

/-- Every step keeps the invariant: an event priority has four bits; what a core runs is active, once, on that core alone,
with priorities rising toward the top (R494 to R497); PD00 is never switched (R516); no divider passes 16 (R512);
every die's ceiling, throttle and clamp level stay within their ranges (R513, R526, R528, R531); at most 64 fuses are
blown (R613); the shared ball has one of its uses (R630). -/
def Obligations.EveryStepKeepsTheInvariant : Prop :=
  ∀ (s t : State), s.Inv → step s = .next t → t.Inv

/-- No command is refused, and only one fault exists: an operand that names what the package does not have. A well-formed
command completes in every state, but for an access beyond the host window and a lane beyond its bus, which the state
bounds. -/
def Obligations.EveryCommandCompletes : Prop :=
  ∀ (i : Instr) (s : State),
    ((∃ t, exec i s = .next t) ∨ ∃ x, exec i s = .fault (.absent x))
    ∧ (i.wellFormed = true → (∀ o n, i = .hostMemRead o n → o + n ≤ s.mem.carve.window) →
        (∀ o d, i = .hostMemWrite o d → o + d.length ≤ s.mem.carve.window) →
        (∀ l n w, i = .laneMarkerReceive l n w → n < s.width l) → (∀ l n a, i = .laneRejoin l n a → n < s.width l) →
        ∃ t, exec i s = .next t)

/-- Only the commands of clocks, power, events, identity and the shared ball act on the event controller, the switched
domains, the clocks, the dies, the fuses and that ball: every other command, and the idle step, leaves all of them. -/
def Obligations.SteeringHasItsOwnCommands : Prop :=
  (∀ (i : Instr) (s t : State), i.steers = false → exec i s = .next t → s.SameSteering t)
    ∧ (∀ s t : State, s.pending = [] → step s = .next t → s.SameSteering t)

/-- R456, R457, R437: a command of the Jeisk protocol that has not been read, that carries another opcode, or that waits
for its order, its token or its block has no effect at all. R575: on a self-fenced package that holds a job, a command
that the rule names does not begin its work; it is turned away with ST_FENCED, or waits still for work before it. -/
def Obligations.CommandsWaitTheirTurn : Prop :=
  ∀ (i : Instr) (op id : Nat) (s : State), i.order = some (op, id) →
    (s.cmd id = none → exec i s = .next s)
    ∧ (∀ c, s.cmd id = some c → pktOp c.packet ≠ op → exec i s = .next s)
    ∧ (∀ c, s.cmd id = some c → c.phase = .waiting → s.mayStart id c = false → exec i s = .next s)
    ∧ (∀ c, s.cmd id = some c → c.phase = .waiting → opNeedsJob op = true → s.fail.selfFenced.isSome = true →
        s.job.job.isSome = true → exec i s = .next s ∨ exec i s = .next (s.turnAway id (stFenced, 0)))

/-- R450, R458, R558: a started command that completes leaves the table of commands; its counter record takes the next
index; its token is raised, where it signals and its status lets it; then its completion record joins its pair's ring
with the tag, the status, the opcode, the context, both times, the counter index and the detail. -/
def Obligations.CompletionIsRecorded : Prop :=
  ∀ (s : State) (id : Nat) (c : CmdRec) (st : Cause), s.cmd id = some c → let t := s.finish id st
    t.cmd id = none
    ∧ t.ctr.next = nextIndex s.ctr.next
    ∧ (∀ x, t.token x = if x = pktSigTok c.packet ∧ pktSignals c.packet = true ∧ statusSignals st.1 = true
        then Max.max (s.token x) (pktSigVal c.packet) else s.token x)
    ∧ (∃ l, (t.pair c.pair).waiting = (s.pair c.pair).waiting ++
        { bytes := completionRec (pktTag c.packet) st.1 (pktOp c.packet) (s.pair c.pair).context c.tStart s.dk.now
            s.ctr.next st.2, atOnce := pktNotify c.packet, command := true } :: l)
    ∧ t.mem = s.mem ∧ t.host.mem = s.host.mem ∧ t.job = s.job ∧ t.evc = s.evc ∧ t.pwr = s.pwr

/-- Bytes written to bonded DRAM at listed addresses and to host memory from an address on: every other byte is as it was,
and each written byte reads as written. -/
def Obligations.WritesChangeTheirBytes : Prop :=
  (∀ (s : State) (as : List Nat) (bs : List Byte), as.length = bs.length → as.Nodup → let t := s.writeBytes as bs
    (∀ a, a ∉ as → t.dramByte a = s.dramByte a)
    ∧ (∀ (i a : Nat) (b : Byte), as[i]? = some a → bs[i]? = some b → t.dramByte a = b))
  ∧ (∀ (s : State) (a : Nat) (bs : List Byte), let t := s.hostWrite a bs
    (∀ x, (x < a ∨ a + bs.length ≤ x) → t.hostByte x = s.hostByte x)
    ∧ (∀ (i : Nat) (b : Byte), bs[i]? = some b → t.hostByte (a + i) = some b))

/-- What the rules give the package at reset: ID_PKG 0xFFFF and no session (R436, R448), the event controller of Table 8
of ch. 13, PD00 on alone (R516), the dies of Table 8 of ch. 14, tracker guarantees of 64 (R118), the carve-outs of
R640, a generation of handles that has not begun (R99), no notice posted (R450). -/
def Obligations.ResetLeaves : Prop :=
  State.reset.host.idPkg = 0xFFFF ∧ State.reset.host.session = false ∧ State.reset.host.hnPosted = 0
    ∧ (∀ i, State.reset.evcSrc i = ⟨0, decide (i < 10), 0, false, false, false, false⟩)
    ∧ State.reset.evc.sleepMode = 0xFFFFFFFC
    ∧ (∀ c, State.reset.evcCore c = ⟨0, [], false⟩)
    ∧ (∀ d, State.reset.domOn d = decide (d = 0))
    ∧ (∀ d, (State.reset.die d).ceiling = 15 ∧ (State.reset.die d).throttle = 15 ∧ (State.reset.die d).vcore = 750)
    ∧ (∀ c, State.reset.guarantee c = 64)
    ∧ State.reset.mem.carve.sizes = [0, 0, 2 ^ 28, 0, 0, 0, 0] ∧ State.reset.mem.carve.counters = 2 ^ 20
    ∧ (∀ h, State.reset.handle h = none) ∧ (∀ t, State.reset.token t = 0)

/-- R448: HELLO opens the session at protocol level 1 and answers detail 1, completes with ST_LEVEL_MISMATCH and detail 1
where level 1 is not in the host's range, and with ST_CONFLICT while a session is open. Notices that waited for the
session go out at once (R454). -/
def Obligations.HelloOpensSession : Prop :=
  ∀ (s : State) (id : Nat) (c : CmdRec), s.Ready id c 0x001 → let u := s.startCmd id
    (s.host.session = false → fld c.packet 24 1 ≤ 1 → 1 ≤ fld c.packet 25 1 →
      exec (.hello id) s = .next
        ((State.releaseNotices { u with host := { u.host with session := true, levelNow := 1 } }).finish id (stOk, 1)))
    ∧ (s.host.session = false → (1 < fld c.packet 24 1 ∨ fld c.packet 25 1 = 0) →
      exec (.hello id) s = .next (s.turnAway id (stLevelMismatch, 1)))
    ∧ (s.host.session = true → exec (.hello id) s = .next (s.turnAway id (stConflict, 0)))

/-- R460: a FENCE of its own context (scope 0) or of all contexts (scope 1) completes once every command read before it in
its scope has completed; until then it waits, started. -/
def Obligations.FenceWaitsForEarlier : Prop :=
  ∀ (s : State) (id : Nat) (c : CmdRec),
    let earlier (u : State) : Bool := u.host.cmds.any (fun e => decide (e.1 < id)
      && (decide (fld c.packet 24 1 % 2 = 1) || e.2.ctx == c.ctx))
    (s.Ready id c 0x002 →
      (earlier (s.startCmd id) = false → exec (.fence id) s = .next ((s.startCmd id).finish id (stOk, 0)))
      ∧ (earlier (s.startCmd id) = true → exec (.fence id) s = .next (s.startCmd id)))
    ∧ (s.Running id c 0x002 →
      (earlier s = false → exec (.fence id) s = .next (s.finish id (stOk, 0)))
      ∧ (earlier s = true → exec (.fence id) s = .next s))

/-- R459: TOKEN_SET raises a token to the greater of its value and the operand; TOKEN_RESET sets it to 0, or completes
with ST_CONFLICT where a command waits on it or an attachment holds it as its step token; TOKEN_READ writes up to 64
named tokens to a host address. R457: a command whose token wait is not met within wait_limit ms of the moment it
could otherwise start completes with ST_TIMEOUT without starting, counted in host_wait_timeout. -/
def Obligations.TokensAndTheirWaits : Prop :=
  (∀ (s : State) (id : Nat) (c : CmdRec), let u := s.startCmd id
        (s.Ready id c 0x003 → exec (.tokenSet id) s = .next ((u.putToken (fld c.packet 24 2)
            (Max.max (u.token (fld c.packet 24 2)) (fld c.packet 26 6))).finish id (stOk, 0)))
        ∧ (s.Ready id c 0x004 → u.tokenHeld (fld c.packet 24 2) = false →
            exec (.tokenReset id) s = .next ((u.putToken (fld c.packet 24 2) 0).finish id (stOk, 0)))
        ∧ (s.Ready id c 0x004 → u.tokenHeld (fld c.packet 24 2) = true →
            exec (.tokenReset id) s = .next (s.turnAway id (stConflict, 0)))
        ∧ (s.Ready id c 0x005 → ∀ l, 1 ≤ fld c.packet 24 1 → fld c.packet 24 1 ≤ 64 → fld c.packet 40 8 % 32 = 0 →
            u.hostRead (fld c.packet 32 8) (2 * fld c.packet 24 1) = some l →
            exec (.tokenRead id) s = .next ((u.hostWrite (fld c.packet 40 8)
              ((chunks (fld c.packet 24 1) 2 l).flatMap (fun t => leBytes 8 (u.token (leNat t))))).finish id
                (stOk, fld c.packet 24 1)))
        ∧ (∀ t v x, (u.putToken t v).token x = if x = t then v else u.token x))
  ∧ (∀ (s : State) (id now r : Nat) (c : CmdRec), let t := s.advance now
        t.cmd id = some c → c.phase = .waiting → tget t.sheet.launches id = none → pktWaits c.packet = true →
        t.token (pktWaitTok c.packet) < pktWaitVal c.packet → c.readyAt = some r →
        (t.pair c.pair).waitLimit ≠ 0 →
        (r + ms (t.pair c.pair).waitLimit ≤ t.time →
          exec (.tokenWaitTimeout id now) s = .next ((t.bump slotWaitTimeout 1).failCmd id (stTimeout, 0)))
        ∧ (t.time < r + ms (t.pair c.pair).waitLimit → exec (.tokenWaitTimeout id now) s = .next s))

/-- R96, R97, R99, R104: HANDLE_ALLOC rounds the size up to a multiple of 2 MiB, takes the stripe of Table 6 and the slot
of R99, and answers the new handle in its detail; where no slot is free or no free range is large enough it completes
with ST_NO_RESOURCE and creates nothing. Where the extent lies is the model's choice (log 9). R102, R103: HANDLE_FREE
completes, and its slot and extent are free for reuse, only once every command read before it has completed; it
completes with ST_CONFLICT for a firmware handle and for a handle of an attached shard. HANDLE_QUERY writes the
32-byte record of Table 5. Both fail under R100 for a handle that is not valid. -/
def Obligations.HandlesAreMadeAndFreed : Prop :=
  (∀ (s : State) (id : Nat) (c : CmdRec), s.Ready id c 0x100 → let p := c.packet
        let u := (s.startCmd id).draw.2
        let visible := (fld p 33 1).testBit 0
        let size := roundUp (fld p 24 8) (2 ^ 21)
        let at_ := stripeFor (fld p 32 1) (fld p 34 1) (fld p 36 2) size visible
        let want : Extent :=
          { cls := fld p 32 1, stripe := at_.1, place := at_.2, hostVisible := visible,
              fabricRead := (fld p 33 1).testBit 1, size := size, base := 0, hdm := 0 }
        fld p 32 1 < 8 → fld p 24 8 ≠ 0 → fld p 24 8 ≤ 2 ^ 40 →
        ((fld p 34 1 = 1 ∧ fld p 36 2 < 128) ∨ (fld p 34 1 = 2 ∧ fld p 36 2 < 4)
          ∨ ((fld p 34 1 = 0 ∨ fld p 34 1 = 3) ∧ fld p 36 2 = 0)) →
        (visible = true → s.mem.carve.window ≠ 0 ∧ s.host.cxlMode = true) →
        (∀ slot gen e, s.nextSlot = some (slot, gen) → u.placeExtent want (s.startCmd id).free = some e →
          exec (.handleAlloc id) s = .next ((u.makeHandle slot gen false e).finish id (stOk, gen * 2 ^ 18 + slot)))
        ∧ ((s.nextSlot = none ∨ u.placeExtent want (s.startCmd id).free = none) →
          exec (.handleAlloc id) s = .next (s.turnAway id (stNoResource, 0))))
  ∧ (∀ (s : State) (id : Nat) (c : CmdRec), let h := fld c.packet 24 4
        let u := s.startCmd id
        let earlier (v : State) : Bool := v.host.cmds.any (fun e => decide (e.1 < id))
        (s.Ready id c 0x101 →
          (u.handleFor id h = none → exec (.handleFree id) s = .next (s.turnAway id (stBadParam, h)))
          ∧ ((u.handleFor id h).isSome = true → u.freeRefused id h = true →
              exec (.handleFree id) s = .next (s.turnAway id (stConflict, 0)))
          ∧ ((u.handleFor id h).isSome = true → u.freeRefused id h = false →
              (earlier u = false → exec (.handleFree id) s = .next ((u.releaseHandle h).finish id (stOk, 0)))
              ∧ (earlier u = true → exec (.handleFree id) s = .next u)))
        ∧ (s.Running id c 0x101 →
          (earlier s = false → exec (.handleFree id) s = .next ((s.releaseHandle h).finish id (stOk, 0)))
          ∧ (earlier s = true → exec (.handleFree id) s = .next s))
        ∧ (s.Ready id c 0x102 → fld c.packet 32 8 % 32 = 0 →
          (u.handleFor id h = none → exec (.handleQuery id) s = .next (s.turnAway id (stBadParam, h)))
          ∧ (∀ sl, u.handleFor id h = some sl → exec (.handleQuery id) s =
              .next ((u.hostWrite (fld c.packet 32 8) (recBytes (handleRecord h sl.ext))).finish id (stOk, 0)))))

/-- R111, R113: a MEM_CONFIG whose sizes lie in the ranges of Table 9 and total at most 510 GiB, while no handle but
firmware's is allocated, no Vat runs, no VAT_CONFIG is in force and no carve-out is held, sets the carve-outs and
frees every statistic entry; a size out of range ends it with ST_BAD_PARAM before the checks of R113, which end it
with ST_CONFLICT. R117, R118, R121: TRACK_CONFIG with both apply bits sets guarantee and cap of the contexts it names
and the threshold; with one it uses only the fields that bit selects, and with none it changes nothing. -/
def Obligations.MemoryAndTrackerAreConfigured : Prop :=
  (∀ (s : State) (id : Nat) (c : CmdRec), s.Ready id c 0x103 → let p := c.packet
        let k := Carve.named p
        let u := (s.startCmd id).freeStats
        (carveFits p = true ↔ (fld p 24 2 = 0 ∨ (4 ≤ fld p 24 2 ∧ fld p 24 2 ≤ 384)) ∧ fld p 26 1 ≤ 128 ∧ 1 ≤ fld p 27 1
          ∧ fld p 27 1 ≤ 64 ∧ 1 ≤ fld p 28 1 ∧ fld p 28 1 ≤ 64 ∧ fld p 29 1 ≤ 64 ∧ fld p 30 1 ≤ 64 ∧ fld p 32 2 ≤ 1024
          ∧ k.vat + k.stack + k.spill + k.counters + k.trace + k.couch + k.window ≤ 510 * gib)
        ∧ (s.carveInUse = true ↔ (∃ e ∈ s.mem.slots, e.2.live = true ∧ e.2.firmware = false) ∨ s.vat.running = true
          ∨ s.vat.cfg.isSome = true ∨ s.mem.stackBy.isSome = true ∨ s.mem.traceBy.isSome = true ∨ s.mem.couchBy.isSome = true)
        ∧ (carveFits p = true → s.carveInUse = false → exec (.memConfig id) s = .next
          (State.finish { u with mem := { u.mem with carve := k } } id (stOk, 0)))
        ∧ (carveFits p = true → s.carveInUse = true → exec (.memConfig id) s = .next (s.turnAway id (stConflict, 0)))
        ∧ (carveFits p = false → exec (.memConfig id) s = .next (s.turnAway id (stBadParam, 0))))
  ∧ (∀ (s : State) (id : Nat) (c : CmdRec), s.Ready id c 0x104 → let p := c.packet
        let u := s.startCmd id
        let a0 := (fld p 34 1).testBit 0
        let a1 := (fld p 34 1).testBit 1
        let named (t : Tab Nat) (v : Nat) : Tab Nat := (List.range (fld p 26 2)).foldl (fun t i => tset t (fld p 24 2 + i) v) t
        let gs := if a0 then named s.trk.guarantee (fld p 28 2) else s.trk.guarantee
        let cs := if a0 then named s.trk.cap (fld p 30 2) else s.trk.cap
        (a0 = true → 1 ≤ fld p 26 2 ∧ fld p 26 2 ≤ 1024 ∧ fld p 24 2 + fld p 26 2 ≤ 1024 ∧ 8 ≤ fld p 28 2
          ∧ fld p 28 2 ≤ 4096 ∧ fld p 28 2 % 8 = 0 ∧ 1 ≤ fld p 30 2 ∧ fld p 30 2 ≤ 1024 ∧ guaranteeSum gs ≤ 524288
          ∧ ∀ e ∈ s.trk.entries, e.ctx < fld p 24 2 ∨ fld p 24 2 + fld p 26 2 ≤ e.ctx
              ∨ (s.guarantee e.ctx = fld p 28 2 ∧ s.poolCap e.ctx = fld p 30 2)) →
        (a1 = true → fld p 32 2 ≤ 1024) →
        let trk : Tracker :=
          { u.trk with guarantee := gs, cap := cs, threshold := if a1 then fld p 32 2 else s.trk.threshold }
        exec (.trackConfig id) s = .next ((State.poolNotice u { u with trk := trk }).finish id (stOk, 0)))

/-- R114, R263: STACK_OPEN claims the activation stack for 1 to 2,048 ranks, all sub-stacks empty, unless another claimant
holds it; STACK_CLOSE discards the contents and releases it unless a launch that uses the stack runs. R92, R93, R120:
while the word's die is powered, the patrol scrub reads a DRAM word and changes no other; an entry of the request
tracker that is free goes to the waiting request whose turn it is, which leaves the waiting list and is sent. -/
def Obligations.StackScrubAndTracker : Prop :=
  (∀ (s : State) (id : Nat) (c : CmdRec), let u := s.startCmd id
        (s.Ready id c 0x118 → 1 ≤ fld c.packet 24 2 → fld c.packet 24 2 ≤ 2048 →
          (s.mem.stackBy = none → s.mem.carve.stack ≠ 0 → exec (.stackOpen id) s = .next
            (State.finish { u with mem := { u.mem with stackBy := some .stackOpen }
                                   sheet := { u.sheet with stackRanks := some (fld c.packet 24 2), subStacks := [] } } id (stOk, 0)))
          ∧ (s.mem.stackBy.isSome = true → exec (.stackOpen id) s = .next (s.turnAway id (stConflict, 0))))
        ∧ (s.Ready id c 0x119 →
          ((∀ l ∈ s.sheet.launches, l.2.usesStack = false ∨ l.2.held = []) → exec (.stackClose id) s = .next
            (State.finish { u with mem := { u.mem with stackBy := if s.mem.stackBy = some .stackOpen then none
                                                                          else s.mem.stackBy }
                                   sheet := { u.sheet with stackRanks := none, subStacks := [] } } id (stOk, 0)))
          ∧ ((∃ l ∈ s.sheet.launches, l.2.usesStack = true ∧ l.2.held ≠ []) →
            exec (.stackClose id) s = .next (s.turnAway id (stConflict, 0)))))
  ∧ ((∀ (s : State) (w : Nat) (d : BitVec 128) (t : State), w < 2 ^ 36 → s.domOn (13 + w / 2 ^ 34 % 4) = true →
        s.readWord w = (d, false, t) → exec (.patrolScrubRead w) s = .next t)
      ∧ (∀ (s : State) (w : Nat) (d : BitVec 128) (t : State), w < 2 ^ 36 → s.domOn (13 + w / 2 ^ 34 % 4) = true →
        s.readWord w = (d, true, t) → exec (.patrolScrubRead w) s =
          .next (if 2 ^ 30 - 2 ^ 21 ≤ 16 * w % 2 ^ 30 then (t.noteBad w).selfFence 4 else t.noteBad w))
      ∧ (∀ (s : State) (w : Nat), 2 ^ 36 ≤ w → exec (.patrolScrubRead w) s = .fault (.absent w))
      ∧ (∀ (s : State) (w : TrkWait) (src : Nat), s.nextWaiter = some (w, src) →
        let u : State := { s with trk := { s.trk with waiting := s.trk.waiting.erase w, turn := w.ctx } }
        exec .trackerEntryGrant s =
          .next ((u.trkTake w.ctx w.vc src (((s.oneOf (hXfer w.pkt)).map Prod.fst).getD 0)).forward w.vc w.pkt)))

/-- Table 16 of ch. 05, R221 to R224: what each control word does once its wait is met; distribution goes on behind it, or
at the target of a JUMP or of a BRANCH_LOOP whose counter has not come to 0. A signal and further distribution follow.
R190, R192: a completed word leaves its queue and adds its count to its local token, unless that would raise the token
above 65,535, which is an instruction error. -/
def Obligations.ControlWordsAct : Prop :=
  (∀ (s : State) (cl : Nat) (w : Word128), let c := s.clus cl
        let t := s.controlled cl w
        let after (u : State) : Out' := .next ((u.signal cl w c.pc).settle cl)
        (s.AtControl cl 0x00 w → exec (.nop cl) s = after t)
        ∧ (s.AtControl cl 0x01 w → exec (.setIx cl) s = after (t.onClus cl (fun k => k.setReg (ctIx w)
            (if ctSrc w then (t.param cl (ctParam w)).toNat else ctValue w))))
        ∧ (s.AtControl cl 0x02 w → exec (.addIx cl) s = after (t.onClus cl (fun k => k.setReg (ctIx w)
            (((k.reg (ctIx w) : Int) + ctInc w) % (ctMod w : Int)).toNat)))
        ∧ (s.AtControl cl 0x03 w → ctCount w ≠ 0 →
            exec (.loop cl) s = after (t.onClus cl (fun k => { k with lc := tset k.lc (ctIx w) (ctCount w) })))
        ∧ (s.AtControl cl 0x03 w → ctCount w = 0 → exec (.loop cl) s = .next (t.instrError cl c.pc))
        ∧ (s.AtControl cl 0x04 w → tgetD c.lc (ctIx w) 0 = 1 →
            exec (.branchLoop cl) s = after (t.onClus cl (fun k => { k with lc := tset k.lc (ctIx w) 0 })))
        ∧ (s.AtControl cl 0x04 w → ∀ n, tgetD c.lc (ctIx w) 0 = n + 2 → n + 2 < 2 ^ 24 →
            exec (.branchLoop cl) s = after (t.onClus cl (fun k => { k with lc := tset k.lc (ctIx w) (n + 1), pc := ctTarget w })))
        ∧ (s.AtControl cl 0x05 w → exec (.jump cl) s = after (t.onClus cl (fun k => { k with pc := ctTarget w })))
        ∧ (s.AtControl cl 0x06 w → exec (.setRndStream cl) s = after (t.onClus cl (fun k =>
            { k with rc := tset k.rc (ctRctx w) { k.ctx (ctRctx w) with stream := ctStream w, base := ctBase w } })))
        ∧ (s.AtControl cl 0x07 w → exec (.setRndStep cl) s = after (t.onClus cl (fun k =>
            { k with rc := tset k.rc (ctRctx w) { k.ctx (ctRctx w) with
                step := if ctStepSrc w then (t.param cl (ctStepParam w)).toNat else ctStep w } })))
        ∧ (s.AtControl cl 0x08 w → scratchOk (ctSaddr w) 16 = true → exec (.flagsRc cl) s = after
            ((t.swrite cl (ctSaddr w) (recBytes (flagRecord (ctEngines w) (t.clus cl)))).onClus cl (fun k =>
              if ctClear w then clearFlags (ctEngines w) k else k)))
        ∧ (s.AtControl cl 0x09 w → ∃ u, u.sheet = t.sheet ∧ u.mem = s.mem ∧ u.host = s.host ∧ exec (.latch cl) s = after u)
        ∧ (s.AtControl cl 0x0A w →
            exec (.stop cl) s = after (t.onClus cl (fun k => { k with ended := true, pc := c.pc }))))
  ∧ (∀ (u : State) (cl i idx : Nat) (w : Word128), let c := u.clus cl
        (wSigEn w = false → u.signal cl w idx = u)
        ∧ (wSigEn w = true → c.token (wSigTok w) + wSigCnt w ≤ 65535 →
            ((u.signal cl w idx).clus cl).token i = (if i = wSigTok w then c.token i + wSigCnt w else c.token i)
            ∧ (u.signal cl w idx).mem = u.mem ∧ ((u.signal cl w idx).clus cl).scratch = c.scratch
            ∧ ∀ k, k ≠ cl → (u.signal cl w idx).clus k = u.clus k)
        ∧ (wSigEn w = true → 65535 < c.token (wSigTok w) + wSigCnt w → u.signal cl w idx = u.instrError cl idx))

/-- R168 to R172, R205 to R210: what each word of the matrix queue does when its operands lie within scratch and its pages
and groups are as the rules ask; it completes, and MMA adds its K-blocks to its group in order. -/
def Obligations.MatrixWordsComplete : Prop :=
  ∀ (s : State) (cl : Nat) (q : QWord), let w := q.word
    let t := s.begun cl 1 q
    let done (u : State) : Out' := .next (State.afterRun 1 cl q (.done u))
    (s.AtHead cl 1 0x00 q → mPage w + mDepth w ≤ 63 → (t.clus cl).groups.length < 8 →
      (∀ i, i ≤ mDepth w → (t.clus cl).pageOpen (mPage w + i) = false) →
      let g : Group :=
        { depth := mDepth w, occupied := List.replicate (mDepth w) false, topValid := mKeep w, kind := none }
      exec (.groupOpen cl) s = done (t.onClus cl (fun k => { k with groups := tset k.groups (mPage w) g })))
    ∧ (s.AtHead cl 1 0x01 q → ∀ g a b, tget (t.clus cl).groups (mmaPage w) = some g →
      (g.kind = none ∨ g.kind = some (wFa w == fmtI8 && mmaFb w == fmtI8)) →
      t.draw.2.mOperand s.free cl (wFa w) (mmaA w + q.reg (mmaXa w)) (mmaLda w) (mmaNk w) (!mmaTa w) = some a →
      t.draw.2.mOperand s.free cl (mmaFb w) (mmaB w + q.reg (mmaXb w)) (mmaLdb w) (mmaNk w) (mmaTb w) = some b →
      let int := wFa w == fmtI8 && mmaFb w == fmtI8
      let r := (List.range (mmaNk w)).foldl (fun (st : State × Group) j =>
        State.addLevels 17 (st.1.matFlag cl (groupFlags (kBlock (wFa w) (mmaFb w) a b j).2)) s.free cl (mmaPage w) st.2 int 0
          (kBlock (wFa w) (mmaFb w) a b j).1) (t.draw.2, { g with kind := some int })
      let k (c : Cluster) : Cluster := { c with groups := tset c.groups (mmaPage w) r.2, kBlocks := c.kBlocks + mmaNk w }
      let u := r.1.onClus cl k
      exec (.mma cl) s = done (u.addOp (u.clusCtx cl) (productWord (wFa w) (mmaFb w)) (32768 * mmaNk w)))
    ∧ (s.AtHead cl 1 0x02 q → gcStream w = false → ∀ g, tget (t.clus cl).groups (mPage w) = some g →
      scratchOk (gcAddr w + q.reg (gcXc w) + 31 * gcLdc w) (32 * fmtBits (wFd w) / 8) = true →
      (fmtBlock (wFd w) = true → scratchOk (gcAddr w + q.reg (gcXc w) + 32 * gcLdc w) 32 = true) →
      let int := g.kind == some true
      let sum := t.draw.2.groupSum s.free cl (mPage w) g int
      let out := closeRows int (wFd w) (t.draw.2.wordRandom q (gcRnd w) (gcRctx w)) sum.1
      let u := out.1.zipIdx.foldl (fun u r => u.swrite cl (gcAddr w + q.reg (gcXc w) + r.2 * gcLdc w) r.1) t.draw.2
      let u := if out.2.1.isEmpty then u else u.swrite cl (gcAddr w + q.reg (gcXc w) + 32 * gcLdc w) out.2.1
      exec (.groupCloseScratch cl) s = done (((u.closeGroup cl (mPage w)).matFlag cl (sum.2 ||| out.2.2)).countGen cl q
        (gcRnd w && wFd w != fmtFP32) (gcRctx w) 1024))
    ∧ (s.AtHead cl 1 0x02 q → gcStream w = true → ∀ g b, tget (t.clus cl).groups (mPage w) = some g →
      ((t.launchOf (t.clusCmd cl)).bind (fun l => l.bindings[gcBinding w]?)) = some b →
      let row := gcRow w + q.reg (gcXr w)
      let u := t.draw.2.firstClose b
      g.kind ≠ some true → row < b.rows → gcCol w < b.cols →
      (t.redStep b.shard b.step).streamed.contains (row * 65536 + gcCol w) = false →
      (t.redStep b.shard b.step).abandoned = false →
      (u.redStep b.shard b.step).refused = false → (u.redStep b.shard b.step).credit.contains row = true →
      let sum := u.groupSum s.free cl (mPage w) g false
      exec (.groupCloseStream cl) s =
        done (((u.matFlag cl sum.2).streamTile b row (gcCol w) sum.1).closeGroup cl (mPage w)))
    ∧ (s.AtHead cl 1 0x03 q → (t.clus cl).pageOpen (mPage w) = false →
      scratchOk (plAddr w + q.reg (plXs w) + 31 * plLds w) 128 = true →
      exec (.pageLoad cl) s = done (t.draw.2.setPage cl (mPage w) ((chunks 1024 4 ((List.range 32).flatMap (fun r =>
        (t.draw.2.sread s.free cl (plAddr w + q.reg (plXs w) + r * plLds w) 128).getD []))).map
          (fun b => BitVec.ofNat 32 (leNat b)))))

/-- R197 to R201: CP_LOAD reads its rows from DRAM, converts them and writes them packed to scratch; CP_STORE reads packed
rows and writes the converted pieces to DRAM at the rows' places; CP_MOVE moves between scratch ranges; CP_FILL writes
its 16-byte pattern, scalar parameters 14 and 15. Each completes where its slot range and its scratch range are within
bounds and no byte read is poisoned. R264 to R267: CP_PUSH puts a record with its mark on top of its sub-stack while
there is room, else the launch stops with ST_NO_RESOURCE; CP_POP takes the top record back to scratch where mark and
length agree, else the launch stops with ST_DATA_MISMATCH. -/
def Obligations.CopiesComplete : Prop :=
  (∀ (s : State) (cl pos : Nat) (q : QWord) (k : Cluster), let w := q.word
        let t := s.setClus cl k
        let v := t.draw.2
        let done (u : State) : Out' := .next (State.afterRun 0 cl q (.done u))
        let elems := cpRows w * planeElems (wFa w) (cpSrcBytes q)
        let last := cpRow0 q + (cpRows w - 1) * (16 * cpStride w)
        let at_ (r : Nat) := (t.slot cl (cpSlot w)).off + cpRow0 q + r * (16 * cpStride w)
        let rnd (u : State) := u.wordRandom q (cpStoch q) (cpRctx w)
        (s.AtCopy cl pos 0x00 q k → ∀ e bs u, t.slotExt cl (cpSlot w) last (cpSrcBytes q) = some e →
          scratchOk (cpUnit q) (16 * units16 (cpDstBytes q) * cpRows w) = true →
          t.readBytes ((List.range (cpRows w)).flatMap (fun r => e.addrs (at_ r) (cpSrcBytes q))) = (bs, false, u) →
          let u := u.addOp (u.clusCtx cl) wDramRead bs.length
          let out := convertRows (wFa w) (wFd w) (rnd u) (chunks (cpRows w) (cpSrcBytes q) bs)
          exec (.cpLoad cl pos) s = done (((((u.writePacked cl (cpUnit q) (units16 (cpDstBytes q)) out.1).copyFlag cl out.2).countIn
            cl (cpRows w * cpDstBytes q))).countGen cl q (cpStoch q) (cpRctx w) elems))
        ∧ (s.AtCopy cl pos 0x01 q k → ∀ e src, v.slotExt cl (cpSlot w) last (cpDstBytes q) = some e →
          v.readPacked s.free cl (cpUnit q) (cpRowLen w) (cpRows w) = some src →
          let out := convertRows (wFa w) (wFd w) (rnd v) src
          let u := out.1.zipIdx.foldl (fun u r => r.1.foldl (fun u p => u.extWrite e (at_ r.2 + p.1) p.2) u) v
          exec (.cpStore cl pos) s = done ((((u.copyFlag cl out.2).countOut cl (cpRows w * cpDstBytes q)).addOp (u.clusCtx cl)
            wDramWrite (cpRows w * cpDstBytes q)).countGen cl q (cpStoch q) (cpRctx w) elems))
        ∧ (s.AtCopy cl pos 0x02 q k → ∀ src,
          v.readPacked s.free cl (cpMoveSrc w + q.reg (cpXd w)) (cpRowLen w) (cpRows w) = some src →
          scratchOk (cpUnit q) (16 * units16 (cpDstBytes q) * cpRows w) = true →
          let out := convertRows (wFa w) (wFd w) (rnd v) src
          exec (.cpMove cl pos) s = done (((v.writePacked cl (cpUnit q) (units16 (cpDstBytes q)) out.1).copyFlag cl out.2).countGen
            cl q (cpStoch q) (cpRctx w) elems))
        ∧ (s.AtCopy cl pos 0x03 q k → scratchOk (cpUnit q) (16 * cpRowLen w) = true →
          exec (.cpFill cl pos) s = done (t.swrite cl (cpUnit q) (List.replicate (cpRowLen w)
            (leBytes 8 (t.param cl 14).toNat ++ leBytes 8 (t.param cl 15).toNat)).flatten)))
  ∧ (∀ (s : State) (cl pos : Nat) (q : QWord) (k : Cluster), let w := q.word
        let t := s.setClus cl k
        let v := t.draw.2
        let n := cpRows w * cpSrcBytes q
        (s.AtCopy cl pos 0x04 q k → ∀ bs, v.sread s.free cl (cpUnit q) n = some bs →
          (stackBytes (v.subStack cl) + 16 + n ≤ v.subSize →
            let u := (v.setStack cl ({ mark := cpMark w, len := n, data := bs } :: v.subStack cl)).countOut cl n
            exec (.cpPush cl pos) s = .next (State.afterRun 0 cl q (.done (u.addOp (v.clusCtx cl) wDramWrite (n + 16)))))
          ∧ (v.subSize < stackBytes (v.subStack cl) + 16 + n →
            exec (.cpPush cl pos) s = .next (v.stopAt cl (stNoResource, q.idx) q.idx)))
        ∧ (s.AtCopy cl pos 0x05 q k → scratchOk (cpUnit q) n = true → ∀ r rest, t.subStack cl = r :: rest →
          (r.mark = cpMark w → r.len = n →
            let u := ((t.setStack cl rest).swrite cl (cpUnit q) r.data).countIn cl n
            exec (.cpPop cl pos) s = .next (State.afterRun 0 cl q (.done (u.addOp (t.clusCtx cl) wDramRead (n + 16)))))
          ∧ ((r.mark ≠ cpMark w ∨ r.len ≠ n) →
            exec (.cpPop cl pos) s = .next (t.stopAt cl (stDataMismatch, q.idx) q.idx))))

/-- R122 to R127, R202, R203: CP_GATHER brings the rows of an index list to scratch, CP_SCATTER writes rows to the table,
CP_SCATTER_ADD issues one near-memory add for each element and stays until they are performed; each completes where
its operands are within bounds, its indices are in range and no row read is poisoned. R122 to R127, R472:
INDEX_GATHER, INDEX_SCATTER and INDEX_SCATTER_ADD whose checks pass do their work: rows gathered to the packed place,
rows scattered to the table, or one near-memory add issued for each element. NEAR_MEMORY_ADD adds one FP32 value to
four bytes of DRAM in one step, and the command or word that issued the last one completes. -/
def Obligations.IndexedAccessCompletes : Prop :=
  (∀ (s : State) (cl pos : Nat) (q : QWord) (k : Cluster), let w := q.word
        let v := (s.setClus cl k).draw.2
        let ob := (ixShape q).2
        let unit := ixSaddr w + q.reg (ixXs w)
        (s.AtCopy cl pos 0x08 q k → ∀ tb ix out fl u, ixReady cl q s.free v = .ok (tb, ix) →
          scratchOk unit (ixCount w * ob) = true →
          gatherRows v tb (wFa w) (wFd w) (ixShape q).1 ob (v.wordRandom q (cpStoch q) (cpRctx w)) ix = (out, false, fl, u) →
          let u := u.addOp (u.clusCtx cl) wDramRead (liveCount ix * tb.len)
          exec (.cpGather cl pos) s = .next (State.afterRun 0 cl q (.done ((((u.swrite cl unit out).copyFlag cl fl).countIn cl
            out.length).countGen cl q (cpStoch q) (cpRctx w) (ixCount w * (ixShape q).1)))))
        ∧ (s.AtCopy cl pos 0x09 q k → ∀ tb ix src, ixReady cl q s.free v = .ok (tb, ix) →
          v.sread s.free cl unit (ixCount w * ob) = some src →
          let img := scatterImages (wFa w) (wFd w) (ixShape q).1 tb.len ob src (ixCount w)
          let u := ((scatterRows v tb ix img.1).copyFlag cl img.2).countOut cl src.length
          exec (.cpScatter cl pos) s =
            .next (State.afterRun 0 cl q (.done (u.addOp (v.clusCtx cl) wDramWrite (liveCount ix * tb.len)))))
        ∧ (s.AtCopy cl pos 0x0A q k → ∀ tb ix src, ixReady cl q s.free v = .ok (tb, ix) →
          v.sread s.free cl unit (ixCount w * ob) = some src →
          let adds := scatterAdds tb (wFa w) (ixShape q).1 ob src ix (.cluster cl q.uid)
          let u := ((v.countOut cl src.length).addOp (v.clusCtx cl) wDramRead (4 * adds.length)).addOp (v.clusCtx cl) wDramWrite
            (4 * adds.length)
          (adds = [] → exec (.cpScatterAdd cl pos) s = .next (State.afterRun 0 cl q (.done u)))
          ∧ (adds ≠ [] →
            let x := u.onClus cl (fun c => { c with copyQ := setStarted c.copyQ q.uid true })
            exec (.cpScatterAdd cl pos) s =
              .next (State.afterRun 0 cl q (.hold { x with mem := { x.mem with adds := x.mem.adds ++ adds } })))))
  ∧ ((∀ (s : State) (id : Nat) (c : CmdRec), let u := s.startCmd id
        let k := idxCmd c.packet
        (s.Ready id c 0x110 → ∀ r t out fl v, idxChecks id k true false u = .ok (some r, t) →
          gatherRows t r.tbl k.fa k.fd r.n r.ob none r.ix = (out, false, fl, v) →
          let v := (v.cmdFlags id fl).addOp c.ctx wDramRead (liveCount r.ix * r.tbl.len)
          exec (.indexGather id) s =
            .next (((v.extWrite r.ext k.dataOff out).addOp c.ctx wDramWrite out.length).finish id (stOk, 0)))
        ∧ (s.Ready id c 0x111 → ∀ r t src v, idxChecks id k false false u = .ok (some r, t) →
          t.extRead r.ext k.dataOff (k.count * r.ob) = (src, false, v) →
          let img := scatterImages k.fa k.fd r.n r.tbl.len r.ob src k.count
          exec (.indexScatter id) s = .next (((((scatterRows (v.addOp c.ctx wDramRead src.length) r.tbl r.ix img.1).cmdFlags id
            img.2).addOp c.ctx wDramWrite (liveCount r.ix * r.tbl.len))).finish id (stOk, 0)))
        ∧ (s.Ready id c 0x112 → ∀ r t src v, idxChecks id k false true u = .ok (some r, t) →
          t.extRead r.ext k.dataOff (k.count * r.ob) = (src, false, v) →
          let adds := scatterAdds r.tbl k.fa r.n r.ob src r.ix (.command id)
          let v := ((v.addOp c.ctx wDramRead src.length).addOp c.ctx wDramRead (4 * adds.length)).addOp c.ctx wDramWrite
            (4 * adds.length)
          (adds = [] → exec (.indexScatterAdd id) s = .next (v.finish id (stOk, 0)))
          ∧ (adds ≠ [] → exec (.indexScatterAdd id) s = .next { v with mem := { v.mem with adds := v.mem.adds ++ adds } })))
      ∧ (∀ (s : State) (pos : Nat) (a : PendAdd) (bs : List Byte) (u : State), s.mem.adds[pos]? = some a →
        let s' : State := { s with mem := { s.mem with adds := s.mem.adds.eraseIdx pos } }
        let as := (List.range 4).map (a.addr + ·)
        s'.readBytes as = (bs, false, u) →
        let sum := f32Add (BitVec.ofNat 32 (leNat bs)) a.value
        let u := u.writeBytes as (leBytes 4 sum.1.toNat)
        (∀ id, a.issuer = .command id → exec (.nearMemoryAdd pos) s = .next ((u.cmdFlags id sum.2).addDone a.issuer))
        ∧ (∀ cl i, a.issuer = .cluster cl i → exec (.nearMemoryAdd pos) s = .next ((u.copyFlag cl sum.2).addDone a.issuer))))

/-- R212, R215, Tables 13 to 15 of ch. 05: a one-source vector operation whose source and destination lie within scratch
reads n × 64 elements, applies its function to each (a square root, a conversion, a sign operation, or the function
table) and writes the results in fmt_d; the flags of reading, of the operation and of writing are raised. R212, R213:
a two-source vector operation computes element by element on its first source and its second, which may be broadcast,
rounded once to FP32 and then to fmt_d. -/
def Obligations.VectorElementwiseCompletes : Prop :=
  (∀ e ∈ ([(0x07, Instr.vSqrt, wVecDiv, fun a => toF32 (f32 a).sqrt), (0x08, Instr.vConvert, wVecElem, fun a => (a, 0)),
          (0x09, Instr.vAbs, wVecElem, fun a => toF32 ((f32 a).abs, 0)), (0x0A, Instr.vNeg, wVecElem, fun a => toF32 ((f32 a).neg, 0)),
          (0x10, Instr.vExp, wVecFunc, funcResult 0x10), (0x11, Instr.vLog, wVecFunc, funcResult 0x11),
          (0x12, Instr.vRsqrt, wVecFunc, funcResult 0x12), (0x13, Instr.vTanh, wVecFunc, funcResult 0x13),
          (0x14, Instr.vSigmoid, wVecFunc, funcResult 0x14), (0x15, Instr.vGeluErf, wVecFunc, funcResult 0x15),
          (0x16, Instr.vGeluTanh, wVecFunc, funcResult 0x16), (0x17, Instr.vGeluErfD, wVecFunc, funcResult 0x17),
          (0x18, Instr.vRecip, wVecFunc, funcResult 0x18)] : List (Nat × (Nat → Instr) × Nat × (BitVec 32 → VElem))),
      ∀ (s : State) (cl : Nat) (q : QWord), s.AtHead cl 2 e.1 q → q.fits (64 * vN q.word) (64 * vN q.word) = true →
        let t := s.begun cl 2 q
        ∃ a u, t.draw.2.vRead s.free cl (wFa q.word) (vU1 q) (64 * vN q.word) (64 * vN q.word) = some a
          ∧ vWrite cl q (a.map (fun x => ((e.2.2.2 x.1).1, x.2 ||| (e.2.2.2 x.1).2)))
              (t.draw.2.countVec cl e.2.2.1 (64 * vN q.word)) = .done u
          ∧ exec (e.2.1 cl) s = .next (State.afterRun 2 cl q (.done u)))
  ∧ (∀ e ∈ ([(0x00, Instr.vAdd, wVecElem, FVal.add), (0x01, Instr.vSub, wVecElem, fun a b => a.add b.neg),
          (0x02, Instr.vMul, wVecElem, FVal.mul), (0x04, Instr.vMax, wVecElem, fun a b => (FVal.max a b, 0)),
          (0x05, Instr.vMin, wVecElem, fun a b => (FVal.min a b, 0)), (0x06, Instr.vDiv, wVecDiv, FVal.div)]
          : List (Nat × (Nat → Instr) × Nat × (FVal → FVal → FVal × Flags))),
      ∀ (s : State) (cl : Nat) (q : QWord), s.AtHead cl 2 e.1 q → q.fits (64 * vN q.word) (64 * vN q.word) = true →
        q.operandFits (vU2 q) (64 * vN q.word) (vB2 q.word) = true →
        let t := s.begun cl 2 q
        ∃ a b u, t.draw.2.vRead s.free cl (wFa q.word) (vU1 q) (64 * vN q.word) (64 * vN q.word) = some a
          ∧ t.draw.2.vOperand s.free cl (wFa q.word) (vU2 q) (64 * vN q.word) (vB2 q.word) = some b
          ∧ vWrite cl q (a.zipWith (fun x y => ((toF32 (e.2.2.2 (f32 x.1) (f32 y.1))).1,
              x.2 ||| y.2 ||| (toF32 (e.2.2.2 (f32 x.1) (f32 y.1))).2)) b)
              (t.draw.2.countVec cl e.2.2.1 (64 * vN q.word)) = .done u
          ∧ exec (e.2.1 cl) s = .next (State.afterRun 2 cl q (.done u)))

/-- R213, R214: a comparison writes one mask bit for each element, and is false (not-equal true) where an element is NaN;
V_MASK_RAND writes bit e = 1 exactly when the 16-bit random value of e is below its threshold; V_SELECT takes the
first source where its mask is 1, else the second; V_FMA rounds a × b + c once. R217 to R219: reductions of 64-element
rows (and of all rows with mode_a), segment reductions over the offsets of source 2, sorts and top-k complete where
their operands lie within scratch and, for segments, the offsets begin at 0 and never fall. -/
def Obligations.VectorMasksAndReductionsComplete : Prop :=
  (∀ (s : State) (cl : Nat) (q : QWord), let n := 64 * vN q.word
        let t := s.begun cl 2 q
        let v := t.draw.2
        let maskFits : Bool := scratchOk (vD q.word + q.reg (vXd q.word)) (8 * vN q.word)
        (∀ e ∈ ([(0x20, Instr.vCmpEq, (· == some .eq)), (0x21, Instr.vCmpNe, (· != some .eq)), (0x22, Instr.vCmpLt, (· == some .lt)),
            (0x23, Instr.vCmpLe, fun o => o == some .lt || o == some .eq), (0x24, Instr.vCmpGt, (· == some .gt)),
            (0x25, Instr.vCmpGe, fun o => o == some .gt || o == some .eq)]
            : List (Nat × (Nat → Instr) × (Option Ordering → Bool))),
          s.AtHead cl 2 e.1 q → planesFit (wFa q.word) (vU1 q) n = true → q.operandFits (vU2 q) n (vB2 q.word) = true →
          maskFits = true →
          ∃ a b, v.vRead s.free cl (wFa q.word) (vU1 q) n n = some a
            ∧ v.vOperand s.free cl (wFa q.word) (vU2 q) n (vB2 q.word) = some b
            ∧ exec (e.2.1 cl) s = .next (State.afterRun 2 cl q (.done (((v.countVec cl wVecElem n).swrite cl
                (vD q.word + q.reg (vXd q.word)) (packMask (a.zipWith (fun x y => e.2.2 (FVal.cmp (f32 x.1) (f32 y.1))) b))).vecFlag
                  cl ((a ++ b).foldl (fun g x => g ||| x.2) 0)))))
        ∧ (s.AtHead cl 2 0x27 q → maskFits = true →
          let rc := q.ctx (vRctx q.word)
          let u := t.countVec cl wVecElem n
          exec (.vMaskRand cl) s = .next (State.afterRun 2 cl q (.done (((u.addOp (t.clusCtx cl) wGen (genWords rc.base n)).swrite cl
            (vD q.word + q.reg (vXd q.word)) (packMask ((List.range n).map (fun e =>
              decide (ctxRandom t.seed rc e < vS3 q.word))))).vecFlag cl 0))))
        ∧ (s.AtHead cl 2 0x26 q → q.fits n n = true → q.operandFits (vU2 q) n (vB2 q.word) = true →
          scratchOk (vS3 q.word) (if vB3 q.word then 1 else 8 * vN q.word) = true →
          ∃ a b m u, v.vRead s.free cl (wFa q.word) (vU1 q) n n = some a
            ∧ v.vOperand s.free cl (wFa q.word) (vU2 q) n (vB2 q.word) = some b
            ∧ v.vMask s.free cl (vS3 q.word) n (vB3 q.word) = some m
            ∧ vWrite cl q ((a.zip (b.zip m)).map (fun x => (if x.2.2 then x.1.1 else x.2.1.1, x.1.2 ||| x.2.1.2)))
                (v.countVec cl wVecElem n) = .done u
            ∧ exec (.vSelect cl) s = .next (State.afterRun 2 cl q (.done u)))
        ∧ (s.AtHead cl 2 0x03 q → q.fits n n = true → q.operandFits (vU2 q) n (vB2 q.word) = true →
          q.operandFits (vS3 q.word) n (vB3 q.word) = true →
          ∃ a b c u, v.vRead s.free cl (wFa q.word) (vU1 q) n n = some a
            ∧ v.vOperand s.free cl (wFa q.word) (vU2 q) n (vB2 q.word) = some b
            ∧ v.vOperand s.free cl (wFa q.word) (vS3 q.word) n (vB3 q.word) = some c
            ∧ vWrite cl q ((a.zip (b.zip c)).map (fun x =>
                let p := (f32 x.1.1).mul (f32 x.2.1.1)
                let sum := p.1.add (f32 x.2.2.1)
                ((toF32 (sum.1, p.2 ||| sum.2)).1, x.1.2 ||| x.2.1.2 ||| x.2.2.2 ||| (toF32 (sum.1, p.2 ||| sum.2)).2)))
                (v.countVec cl wVecElem n) = .done u
            ∧ exec (.vFma cl) s = .next (State.afterRun 2 cl q (.done u))))
  ∧ (∀ (s : State) (cl : Nat) (q : QWord), let n := vN q.word
        let t := s.begun cl 2 q
        let v := t.draw.2
        let done (i : Nat → Instr) (r : Ran) : Prop := ∃ u, r = .done u ∧ exec (i cl) s = .next (State.afterRun 2 cl q (.done u))
        (∀ e ∈ ([(0x30, Instr.vRedSum, f32AddF), (0x31, Instr.vRedMax, vMaxF), (0x32, Instr.vRedMin, vMinF)]
            : List (Nat × (Nat → Instr) × (VElem → VElem → VElem))),
          s.AtHead cl 2 e.1 q → vModeA q.word = false → q.fits (64 * n) n = true →
          ∃ a, v.vRead s.free cl (wFa q.word) (vU1 q) (64 * n) (64 * n) = some a
            ∧ done e.2.1 (vWrite cl q ((chunks n 64 a).map (fun r => (treeFold 6 e.2.2 r).headD (0, 0)))
                (v.countVec cl wVecReduce (64 * n))))
        ∧ (∀ e ∈ ([(0x30, Instr.vRedSum, f32AddF), (0x31, Instr.vRedMax, vMaxF), (0x32, Instr.vRedMin, vMinF)]
            : List (Nat × (Nat → Instr) × (VElem → VElem → VElem))),
          s.AtHead cl 2 e.1 q → vModeA q.word = true → q.fits (64 * n) 1 = true →
          ∃ a, v.vRead s.free cl (wFa q.word) (vU1 q) (64 * n) (64 * n) = some a
            ∧ done e.2.1 (vWrite cl q [(levelFold 12 e.2.2 ((chunks n 64 a).map (fun r => (treeFold 6 e.2.2 r).headD (0, 0)))).getD
                (0, 0)] (v.countVec cl wVecReduce (64 * n))))
        ∧ (∀ e ∈ ([(0x34, Instr.vSegSum, f32AddF, 0, fun x _ => x), (0x35, Instr.vSegMax, vMaxF, 0xFF800000, fun x _ => x),
            (0x36, Instr.vSegMin, vMinF, 0x7F800000, fun x _ => x), (0x37, Instr.vSegMean, f32AddF, 0, segMean)]
            : List (Nat × (Nat → Instr) × (VElem → VElem → VElem) × BitVec 32 × (VElem → Nat → VElem))),
          ∀ ob, s.AtHead cl 2 e.1 q → v.sread s.free cl (vU2 q) (4 * (n + 1)) = some ob →
          let os := (chunks (n + 1) 4 ob).map leNat
          let width := 64 * vW q.word
          badOffset os = none → planesFit (wFa q.word) (vU1 q) (os.getLastD 0 * width) = true →
          planesFit (wFd q.word) (vD q.word + q.reg (vXd q.word)) (n * width) = true →
          ∃ a, v.vRead s.free cl (wFa q.word) (vU1 q) (os.getLastD 0 * width) (os.getLastD 0 * width) = some a
            ∧ done e.2.1 (vWrite cl q ((os.zip os.tail).flatMap (fun p => segRow e.2.2.1 e.2.2.2.1 e.2.2.2.2 width
                (((chunks (os.getLastD 0) width a).drop p.1).take (p.2 - p.1))))
                ((v.countVec cl wVecReduce (os.getLastD 0 * width)).vecFlag cl (a.foldl (fun g x => g ||| x.2) 0))))
        ∧ (s.AtHead cl 2 0x38 q → (vModeB q.word = true → scratchOk (vU2 q) (4 * n * 64) = true) →
          q.fits (64 * n) (64 * n) = true → done .vSort64 (vSort (vModeA q.word) 64 cl q t))
        ∧ (s.AtHead cl 2 0x39 q → (vModeB q.word = true → scratchOk (vU2 q) (4 * n * vW q.word) = true) →
          q.fits (64 * n) (n * vW q.word) = true → done .vTopk64 (vSort true (vW q.word) cl q t)))

/-- R242 to R251, R258: a row-engine operation whose parameter is finite and above 0 and whose operands lie within scratch
completes, row after row: forward, each row written and, with rec, its statistic recorded; backward, where the
statistic of every row is live and no DRAM word is in error, each row written and, unless kept, its statistic freed. -/
def Obligations.RowOperationsComplete : Prop :=
  ∀ (s : State) (cl : Nat) (q : QWord), let w := q.word
    let t := s.begun cl 2 q
    let prm := t.param cl (rwPrm w)
    let v := (t.draw.2.bump (slotRow 0) (rwRows w)).addOp (t.clusCtx cl) wRowRows (rwRows w)
    let good : Prop := (f32 (BitVec.ofNat 32 prm.toNat)).isFinite = true
      ∧ FVal.lt .zero (f32 (BitVec.ofNat 32 prm.toNat)) = true
    (∀ e ∈ ([(0x3A, Instr.rowSoftmax, softmaxFwd), (0x3C, Instr.rowLnorm, lnormFwd), (0x3E, Instr.rowRmsnorm, rmsFwd)]
        : List (Nat × (Nat → Instr) × (RowIn → RowOut))),
      s.AtHead cl 2 e.1 q → good → rowRange q false = true →
      ∃ u, rowLoop cl q s.free prm true e.2.2 (List.range (rwRows w)) v = .done u
        ∧ exec (e.2.1 cl) s = .next (State.afterRun 2 cl q (.done u)))
    ∧ (∀ e ∈ ([(0x3B, Instr.rowSoftmaxBwd, softmaxBwd), (0x3D, Instr.rowLnormBwd, normBwd false),
        (0x3F, Instr.rowRmsnormBwd, normBwd true)] : List (Nat × (Nat → Instr) × (RowIn → RowOut))),
      s.AtHead cl 2 e.1 q → good → rowRange q true = true → s.mem.err = [] →
      (∀ r, r < rwRows w → let tag := (q.reg (rwXt w) % 2 ^ 24 + r) % 2 ^ 24
        (t.statHome (t.statBank cl) tag).isSome = true ∨ (t.statSpilled (t.statBank cl) tag).isSome = true) →
      ∃ u, rowLoop cl q s.free prm false e.2.2 (List.range (rwRows w)) v = .done u
        ∧ exec (e.2.1 cl) s = .next (State.afterRun 2 cl q (.done u)))

/-- R476, R477, R181: a LAUNCH whose checks pass keeps its program, slots, parameters and bindings and waits for its
clusters; LAUNCH_START takes all of them at once when as many are free as it wants, gives each its rank, clears what
R181 clears and starts distribution. Which clusters it takes is the model's free choice. R195, R196, R224: once every
cluster of a launch has finished and its near-memory adds have been performed, the launch gives its clusters back and
completes, with ST_OK, or with the status of the condition that stopped it. A cluster that makes no progress for 2^24
cycles of its MCLK stops its launch with ST_TIMEOUT. -/
def Obligations.LaunchesRunAndEnd : Prop :=
  (∀ (s : State) (id : Nat) (c : CmdRec), s.cmd id = some c →
        (∀ b l t, pktOp c.packet = 0x200 → s.mayStart id c = true → s.launchOf id = none →
          s.hostRec 8192 (fld c.packet 24 8) = some b →
          (s.fail.selfFenced = none ∨ s.job.job = none ∨ fld b 6 1 = 0) → launchCheck id c b s = .ok (some l, t) →
          exec (.launch id) s = .next (t.setLaunch id l))
        ∧ (∀ b st, pktOp c.packet = 0x200 → s.mayStart id c = true → s.launchOf id = none →
          s.hostRec 8192 (fld c.packet 24 8) = some b →
          (s.fail.selfFenced = none ∨ s.job.job = none ∨ fld b 6 1 = 0) → launchCheck id c b s = .error st →
          exec (.launch id) s = .next (s.turnAway id st))
        ∧ (∀ l, s.launchOf id = some l → c.phase = .waiting → s.selftesting = false → s.stackOk l = true →
          l.bindings.all s.bindingOk = true →
          let free := s.draw.2.freeClusters (Config.clusterRotation s.free % 2048)
          let held := free.take l.want
          l.want ≤ free.length →
          let t := s.draw.2.setCmd id { c with place := placeWord held }
          let t := l.bindings.foldl State.renewStep ((t.startCmd id).setLaunch id { l with held := held })
          let t := held.zipIdx.foldl (fun t x => t.setClus x.1 
              ((t.clus x.1).begin_ id x.2 l.want t.time (tgetD t.ctr.cnt (slotBusy x.1) 0))) t
          held.length = l.want ∧ (∀ cl ∈ held, cl < 2048 ∧ (s.clus cl).launch = none)
            ∧ exec (.launchStart id) s = .next (held.foldl (fun t cl => t.distribute 770 cl) t)))
  ∧ ((∀ (s : State) (id : Nat) (l : Launch), s.launchOf id = some l → l.held ≠ [] →
        (∀ cl ∈ l.held, (s.clus cl).finished = true) →
        (∀ a ∈ s.mem.adds, ∀ cl u, a.issuer = .cluster cl u → cl ∉ l.held) →
        (∀ x, l.stop = some x →
          exec (.launchClustersFinished id) s = .next ((s.dropLaunch id).finish id (x.status, x.detail)))
        ∧ (l.stop = none → s.missingTiles l = [] → l.zeros = 0 →
          exec (.launchClustersFinished id) s = .next ((s.dropLaunch id).finish id (stOk, 0))))
      ∧ (∀ (s : State) (cl now id : Nat), cl < 2048 → let t := s.advance now
        let c := t.clus cl
        c.launch = some id → c.finished = false → c.waitsOutside = false →
        2 ^ 24 * 10 ≤ (t.time - c.progressAt) * (tgetD t.pwr.clks (1 + cl / 512) Clk.atReset).j →
        exec (.launchProgressTimeout cl now) s =
          .next (t.stopLaunch id { status := stTimeout, detail := c.oldest, rank := c.rank, idx := c.oldest })))

/-- R440 to R443: in doorbell mode a write of DB_n with set_tail moves the submission tail and has the device read what it
covers, one with set_head moves the completion head; an index of 2^k or more is a ring error of cause 1 or 2. In watch
mode a snoop or the poll timer has the device read the ring control line, whose bytes 0 to 1 and 4 to 5 are the two
indices. R439, R443, R643: a write of 1 to enable of a pair that is disabled and not busy takes its configuration,
with indices 0 and phase 1, where both sizes lie in 4 to 16; where one does not, or watch is set in PCIe mode, it sets
ring_error and the pair stays disabled. A write of 0 disables; a write of 1 to resume clears ring_error and halted and
reading goes on. -/
def Obligations.QueuePairsMove : Prop :=
  (∀ (s : State) (n now : Nat) (v : BitVec 64) (ws : HostWrites), n < 8192 → s.host.linkUp = true → let p := s.pair n
        let u := s.hostSees ws
        (bit v 32 = true → bit v 33 = false → p.enable = true → p.watch = false → exec (.dbSetTail n v ws) s =
          .next (((u.setPair n { p with dbTail := bits v 15 0 }).takeTail n (bits v 15 0)).readPair n))
        ∧ (bit v 33 = true → bit v 32 = false → p.enable = true → p.watch = false → exec (.dbSetHead n v ws) s =
          .next (((u.setPair n { p with dbHead := bits v 31 16 }).takeHead n (bits v 31 16)).readPair n))
        ∧ (∀ x, x < p.sqSize → s.takeTail n x = s.setPair n { p with tail := x })
        ∧ (∀ x, p.sqSize ≤ x → s.takeTail n x = s.ringError n 1)
        ∧ (∀ x, x < p.cqSize → s.takeHead n x = (s.setPair n { p with head := x }).releaseNotices)
        ∧ (∀ x, p.cqSize ≤ x → s.takeHead n x = s.ringError n 2)
        ∧ (p.enable = true → p.watch = true →
          exec (.ringLineSnoop n ws) s = .next (u.readLine n)
          ∧ exec (.ringLinePollTimer n now) s = .next ((s.advance now).readLine n)
          ∧ (s.hostRead p.lineAddr 8 = none → s.readLine n = s.ringError n 3)
          ∧ (∀ l, s.hostRead p.lineAddr 8 = some l → s.readLine n =
              (((s.setPair n { p with lineHeld := true, lineReadAt := s.time }).takeTail n (leNat (l.take 2))).takeHead n
                (leNat ((l.drop 4).take 2))).readPair n)))
  ∧ (∀ (s : State) (n : Nat) (v : BitVec 64), n < 8192 → s.host.linkUp = true → let p := s.pair n
        let fresh (c : BitVec 64) : BitVec 64 := (p.ctl &&& 0x100000) ||| (c &&& 0xFFFFFFFF02000000) ||| (c &&& 0x10003FF)
        let held (c : BitVec 64) : BitVec 64 := (p.ctl &&& 0x11003FF) ||| (c &&& 0xFFFFFFFF02000000)
        let enabled : Pair := { p with
          ctl := setBit (fresh v) 20 true
          sqHead := 0, cqTail := 0, phase := true, halted := false, ringError := false, waiting := [],
          uncovered := 0, firstAt := 0, tail := 0, head := 0, lineHeld := false }
        (p.enable = false → s.busy n = false → bit v 20 = true → bit v 28 = false →
          (4 ≤ bits p.sq 4 0 → bits p.sq 4 0 ≤ 16 → 4 ≤ bits p.cq 4 0 → bits p.cq 4 0 ≤ 16 →
            (bit (fresh v) 24 = true → s.host.cxlMode = true) →
            exec (.qcfgEnable n v) s = .next ((s.setPair n enabled).takeIndices n))
          ∧ ((bits p.sq 4 0 < 4 ∨ 16 < bits p.sq 4 0 ∨ bits p.cq 4 0 < 4 ∨ 16 < bits p.cq 4 0) →
            exec (.qcfgEnable n v) s = .next (s.setPair n { p with ctl := fresh v, ringError := true })))
        ∧ (p.enable = true → bit v 20 = false → bit v 28 = false →
            exec (.qcfgDisable n v) s = .next (s.setPair n { p with ctl := setBit (held v) 20 false }))
        ∧ (p.enable = true → bit v 20 = true → bit v 28 = true → exec (.qcfgResume n v) s =
            .next ((s.setPair n { p with ctl := held v, halted := false, ringError := false }).takeIndices n)))

/-- R445, R451 to R455: the oldest waiting record is written while the ring has room; an MSI-X message goes out when
int_delay has passed since the first record not covered, and a pending one when its vector is unmasked; HN_CTRL and
HN_MASK take their fields; a closing window posts its last suppressed occurrence and a heartbeat is posted with its
sequence number. -/
def Obligations.RecordsAndNotices : Prop :=
  ∀ (s : State), (∀ n r rest, n < 8192 → s.host.linkUp = true → (s.pair n).waiting = r :: rest →
      ((s.pair n).cqTail + 1) % (s.pair n).cqSize ≠ (s.pair n).head →
      exec (.cqRecordWrite n false) s = .next (s.writeRec n r rest).releaseNotices.readAll
      ∧ (let u := s.bump slotRingError 1
         exec (.cqRecordWrite n true) s =
           .next ((u.setPair n { u.pair n with waiting := rest, ringError := true }).bbPush 9 r.bytes [])))
    ∧ (∀ n now, n < 8192 → let t := s.advance now
      let p := t.pair n
      (p.uncovered ≠ 0 → p.firstAt + us p.intDelay ≤ t.time → exec (.msixDelayExpiry n now) s = .next (t.msix p.vector))
      ∧ (t.time < p.firstAt + us p.intDelay → exec (.msixDelayExpiry n now) s = .next s))
    ∧ (∀ n, n < 64 → s.host.linkUp = true → let e := tgetD s.host.vecs n Vec.atReset
      let e' : Vec := { e with masked := false, sent := if e.pend then e.sent + 1 else e.sent, pend := false }
      exec (.msixVectorUnmask n) s = .next { s with host := { s.host with vecs := tset s.host.vecs n e' } })
    ∧ (∀ v, s.host.linkUp = true →
      exec (.hnCtrlWrite v) s = .next (State.releaseNotices { s with host := { s.host with hnCtrl := v &&& 0x31FFF } })
      ∧ exec (.hnMaskWrite v) s = .next { s with host := { s.host with hnMask := v &&& 0x1FFF } })
    ∧ (∀ b now e, b < 13 → let t := s.advance now
      let w := t.win b
      w.until_ = some e → e ≤ t.time → let u := t.setWin b { w with until_ := none, last := none, others := 0 }
      (w.last = none → exec (.noticeWindowClose b now) s = .next u)
      ∧ (∀ o, w.last = some o → u.canPost = true → w.wait = none →
          exec (.noticeWindowClose b now) s = .next (u.postNotice b o w.others))
      ∧ (∀ o, w.last = some o → u.canPost = false →
          exec (.noticeWindowClose b now) s = .next (u.waitNotice b o w.others)))
    ∧ (∀ now, let t := s.advance now
      bit t.host.hnCtrl 17 = true → t.host.lastBeat + 9900000 ≤ t.time →
      exec (.heartbeatTick now) s =
        .next (State.detect { t with host := { t.host with beatSeq := t.host.beatSeq + 1, lastBeat := t.time } } nHeartbeat 0xFFFF
          (mkRec 64 [(0, 4, t.host.beatSeq + 1), (4, 2, t.busyContexts), (6, 1, t.fwNow)]) 0))

/-- R435, R531, R552, R130, R566: an aligned BAR0 write of 8 bytes writes the register, one of 4 bytes only its half, and
one to a doorbell is dropped and counted; a 4-byte read of DK_NOW latches its high half; a clamp level from 5 to 15 is
taken; the debug window and the host window read and write DRAM as their rules give. -/
def Obligations.HostAccesses : Prop :=
  ∀ (s : State), s.host.linkUp = true →
    (∀ o v, o < 2 ^ 21 → o % 8 = 0 → exec (.registerWrite o 8 v) s = .next (s.regWrite o v))
    ∧ (∀ o v, 0x10000 ≤ o → o < 0x20000 → o % 4 = 0 → exec (.registerWrite o 4 v) s = .next (s.bump slotBadAccess 1))
    ∧ (∀ o v, o < 2 ^ 21 → o % 4 = 0 → (o < 0x10000 ∨ 0x20000 ≤ o) → exec (.registerWrite o 4 v) s =
        .next (s.regWrite (o / 8 * 8) (if o % 8 = 0 then setBits (s.regOld (o / 8 * 8)) 31 0 (bits v 31 0)
          else setBits (s.regOld (o / 8 * 8)) 63 32 (bits v 31 0))))
    ∧ exec .dkNowLowRead s = .next { s with
        dk := { s.dk with latch := s.dk.now / 2 ^ 32 % 2 ^ 32 }
        host := { s.host with resp := { value := s.dk.now % 2 ^ 32, poison := false } } }
    ∧ (∀ d v, d < 4 → 5 ≤ bits v 19 16 → exec (.ptMclkClampWrite d v) s = .next { s with pwr :=
        { s.pwr with dies := tupd s.pwr.dies d Die.atReset (fun x => { x with clampLevel := bits v 19 16 }) } })
    ∧ (∀ d v, d < 4 → bits v 19 16 < 5 → exec (.ptMclkClampWrite d v) s = .next (s.bump slotBadAccess 1))
    ∧ (∀ o n, o + n ≤ 2 ^ 26 → bit s.trc.win 0 = false →
        exec (.bar2Read o n) s = .next (s.respond (List.replicate n 0xFF) false))
    ∧ (∀ o n bs bad t, o + n ≤ 2 ^ 26 → bit s.trc.win 0 = true →
        (∀ a ∈ s.bar2Addrs o n, s.inPress a = false) → s.readBytes (s.bar2Addrs o n) = (bs, bad, t) → bs.length = n →
        exec (.bar2Read o n) s = .next (t.respond bs bad))
    ∧ (∀ o (d : List Byte), o + d.length ≤ 2 ^ 26 →
        let as := s.bar2Addrs o d.length
        (bit s.trc.win 0 = true → bit s.trc.win 1 = true → (∀ a ∈ as, inFirmware a = false ∧ s.inPress a = false) →
          exec (.bar2Write o d) s = .next (s.writeBytes as d))
        ∧ ((bit s.trc.win 0 = false ∨ bit s.trc.win 1 = false ∨ ∃ a ∈ as, inFirmware a = true ∨ s.inPress a = true) →
          exec (.bar2Write o d) s = .next (s.bump slotBadAccess 1)))
    ∧ (s.host.cxlMode = true → ∀ o n, o + n ≤ s.mem.carve.window →
        (∀ bs bad t, (∀ i, i < n → (s.windowAddr (o + i)).isSome = true) →
          s.readBytes ((List.range n).filterMap (fun i => s.windowAddr (o + i))) = (bs, bad, t) →
          exec (.hostMemRead o n) s = .next (t.respond bs bad))
        ∧ ((∃ i, i < n ∧ s.windowAddr (o + i) = none) →
          ∃ t : State, exec (.hostMemRead o n) s = .next (t.respond (List.replicate n 0) true)))
    ∧ (s.host.cxlMode = true → ∀ o (d : List Byte), o + d.length ≤ s.mem.carve.window →
        (∀ i, i < d.length → (s.windowAddr (o + i)).isSome = true) →
        exec (.hostMemWrite o d) s =
          .next (s.writeBytes ((List.range d.length).filterMap (fun i => s.windowAddr (o + i))) d))

/-- R449, R627, R569: a Function Level Reset ends the session, every command and every pair, and keeps tokens, handles and
carve-outs and membership of the job; an assertion of CXL_PERST_N does the same and takes the link down; the link
comes up in CXL or PCIe mode once PD02 runs; a link that has been down for 1 s fences the package with reason 8. -/
def Obligations.FunctionResetAndLink : Prop :=
  (∀ s : State, s.host.linkUp = true → exec .functionLevelReset s = .next s.flr)
  ∧ (∀ s : State, s.flr.host.session = false ∧ s.flr.host.levelNow = 0 ∧ s.flr.host.cmds = [] ∧ s.flr.host.pairs = []
      ∧ s.flr.host.hnCtrl = 0 ∧ s.flr.host.hnMask = 0 ∧ s.flr.host.tokens = s.host.tokens ∧ s.flr.host.wins = s.host.wins
      ∧ s.flr.host.hnPosted = s.host.hnPosted ∧ s.flr.host.hnSuppressed = s.host.hnSuppressed
      ∧ s.flr.mem.slots = s.mem.slots ∧ s.flr.mem.carve = s.mem.carve ∧ s.flr.mem.dram = s.mem.dram
      ∧ s.flr.mould.mats = s.mould.mats ∧ s.flr.job.job = s.job.job)
  ∧ (∀ (s : State) (now : Nat), let t := s.advance now
      exec (.cxlPerstAssert now) s = .next (State.flr { t with pins := { t.pins with perstLow := true } }).linkDown
      ∧ exec (.cxlPerstRelease now) s = .next { t with pins := { t.pins with perstLow := false } }
      ∧ (t.pwr.resetLow = false → t.pins.perstLow = false → t.domOn 2 = true → t.host.linkUp = false →
          ∀ cxl, exec (.cxlLinkStateChange true cxl now) s =
            .next { t with host := { t.host with linkUp := true, cxlMode := cxl } })
      ∧ (t.host.linkUp = true → ∀ cxl, exec (.cxlLinkStateChange false cxl now) s =
            .next { t with host := { t.host with linkUp := false, downAt := t.time } })
      ∧ (t.host.linkUp = false → t.host.downAt + sec 1 ≤ t.time → t.job.job.isSome = true → t.fail.selfFenced = none →
          exec (.hostLinkLossTimeout now) s = .next (t.selfFence 8)))

/-- R495: a claim read returns the eligible source of the highest priority, the lowest number among equals, makes it
active, clears its pending bit and pushes its priority on the core's run stack; with no source eligible it returns
0x3FF and changes nothing else. R496: claims of one cycle take effect in ascending core number. -/
def Obligations.ClaimsTakeTheBestSource : Prop :=
  (∀ (s : State) (c : Nat), c < 10 → s.mgmt.sleep = 0 →
        (∀ i, i < 512 → s.eligible c i = true →
          (∀ j, j < 512 → s.eligible c j = true → (s.evcSrc j).prio < (s.evcSrc i).prio
            ∨ ((s.evcSrc j).prio = (s.evcSrc i).prio ∧ i ≤ j)) →
          ∃ t, exec (.evcClaim [c]) s = .next t ∧ tget t.evc.claims c = some i
            ∧ t.evcSrc i = { s.evcSrc i with active := true, pend := false } ∧ (∀ j, j ≠ i → t.evcSrc j = s.evcSrc j)
            ∧ t.evcCore c = { s.evcCore c with stack := (i, (s.evcSrc i).prio) :: (s.evcCore c).stack }
            ∧ (∀ d, d ≠ c → t.evcCore d = s.evcCore d)
            ∧ { t with evc := s.evc } = s ∧ t.evc.sleepMode = s.evc.sleepMode)
        ∧ ((∀ i, i < 512 → s.eligible c i = false) →
          exec (.evcClaim [c]) s = .next { s with evc := { s.evc with claims := tset s.evc.claims c 0x3FF } }))
  ∧ (∀ (s : State) (c d : Nat), c < d → d < 10 →
        exec (.evcClaim [d, c]) s = exec (.evcClaim [c, d]) s
        ∧ ∃ t, exec (.evcClaim [c]) s = .next t ∧ exec (.evcClaim [c, d]) s = exec (.evcClaim [d]) t)

/-- R497: a write of source id i to EVC_COMPLETE_c completes i when i is at the top of the core's run stack: the stack is
popped and the active bit of i cleared (a level source still asserted pends again, R499); any other id sets
bad_complete and changes nothing else. -/
def Obligations.CompletePopsTheStack : Prop :=
  ∀ (s : State) (c i : Nat), let k := s.evcCore c
    (∀ p rest, k.stack = (i, p) :: rest → exec (.evcComplete c i) s =
      .next ((s.setEvCore c { k with stack := rest }).setSrc i (Source.follow { s.evcSrc i with active := false } i)))
    ∧ ((∀ p, k.stack.head? ≠ some (i, p)) → exec (.evcComplete c i) s = .next (s.setEvCore c { k with bad := true }))

/-- R499, R500, R505: an edge sets its source's pending bit; a level source that is not active follows its input; software
sets and clears pending bits, a hardware set in the same cycle winning; the configuration writes take their fields. -/
def Obligations.SourcesAndConfiguration : Prop :=
  ∀ (s : State), s.mgmt.sleep = 0 →
    (∀ i, srcIsEdge i = true → (i ≠ 6 ∨ s.pins.ball ≠ 0) →
      exec (.eventSourceEdge i) s = .next (s.setSrc i { s.evcSrc i with pend := true }))
    ∧ (∀ i l, srcIsLevel i = true → exec (.eventSourceLevel i l) s = .next (s.setSrc i
        { s.evcSrc i with level := l, pend := if (s.evcSrc i).active then (s.evcSrc i).pend else l }))
    ∧ (∀ k m, ∃ t, exec (.evcPendSet k m) s = .next t ∧ { t with evc := s.evc } = s
        ∧ ∀ b, b < 32 → t.evcSrc (32 * k + b) =
            if bit m b then { s.evcSrc (32 * k + b) with pend := true } else s.evcSrc (32 * k + b))
    ∧ (∀ k m h, ∃ t, exec (.evcPendClear k m h) s = .next t ∧ { t with evc := s.evc } = s
        ∧ ∀ b, b < 32 → (t.evcSrc (32 * k + b)).pend = (bit h b || (if bit m b
            then srcIsLevel (32 * k + b) && !(s.evcSrc (32 * k + b)).active && (s.evcSrc (32 * k + b)).level
            else (s.evcSrc (32 * k + b)).pend)))
    ∧ (∀ i (v : BitVec 32), i < 512 → exec (.evcConfigWrite (4 * i) v) s = .next (s.setSrc i
        { s.evcSrc i with targets := v.extractLsb' 16 10, wake := bit v 7, prio := v.toNat % 16 }))
    ∧ (∀ c (v : BitVec 32), c < 10 → exec (.evcConfigWrite (0x1000 + 16 * c) v) s =
        .next (s.setEvCore c { s.evcCore c with thresh := v.toNat % 16 }))
    ∧ (∀ v, exec (.evcConfigWrite 0x900 v) s = .next { s with evc := { s.evc with sleepMode := v } })

/-- R502 to R504: S1 stops GCLK; S2 is entered only while no session is open and no job is placed, takes PD01 off and
clears admin_ready; a latched edge of a source whose wake bit is 1 wakes the complex, and its latch sets its pending
bit. R486 to R491, R571: a core whose kick word has not changed for 50 ms has missed and is counted: a management core
is restarted alone, or, when one was restarted in the last 10 s, all eight are and the package fences itself with
reason 6; when the cores run again every command that had been read completes with ST_ABORTED. -/
def Obligations.SleepWakeAndWatchdog : Prop :=
  ((∀ s : State, s.mgmt.sleep = 0 → s.domOn 1 = true → s.mgmt.restarting = false →
        (∃ t, exec .s1Entry s = .next t ∧ t.mgmt.sleep = 1 ∧ (t.clk 0).j = 0 ∧ t.evc = s.evc ∧ t.host = s.host)
        ∧ (s.host.session = false → s.job.job = none → ∃ t, exec .s2Entry s = .next t ∧ t.mgmt.sleep = 2 ∧ t.domOn 1 = false
            ∧ t.host.adminReady = false ∧ t.evc.sleepMode = s.evc.sleepMode)
        ∧ ((s.host.session = true ∨ s.job.job.isSome = true) → exec .s2Entry s = .next s))
      ∧ (∀ (s : State) (i : Nat), s.mgmt.sleep ≠ 0 → s.retained i = false → (s.evcSrc i).wake = true → srcIsEdge i = true →
        (s.mgmt.sleep = 2 → s.mgmt.fwState = 2 → ∃ t, exec (.wakeEdge i) s = .next t ∧ t.mgmt.sleep = 0 ∧ t.domOn 1 = true
            ∧ (t.clk 0).j = 16 ∧ t.evc.sleepMode = s.evc.sleepMode ∧ (t.evcSrc i).pend = true ∧ (t.evcSrc i).latch = false)
        ∧ (s.mgmt.sleep = 1 → ∃ t, exec (.wakeEdge i) s = .next t ∧ t.mgmt.sleep = 0 ∧ (t.clk 0).j = 16
            ∧ (t.evcSrc i).pend = true ∧ (t.evcSrc i).latch = false)))
  ∧ ((∀ (s : State) (ks : List (BitVec 64)) (now : Nat), let t := s.advance now
        t.pwr.resetLow = false → ks.length = 10 →
        exec (.watchdogSample ks now) s = .next (ks.zipIdx.foldl (fun t p => t.sampleKick p.2 p.1) t))
      ∧ (∀ (t : State) (c : Nat) (w : BitVec 64) (k : Kick), c < 8 → t.watched c = true → tget t.mgmt.kicks c = some k →
        (w ≠ k.word → t.sampleKick c w = t.setKick c { word := w, since := t.time })
        ∧ (w = k.word → t.time < k.since + ms 50 → t.sampleKick c w = t)
        ∧ (w = k.word → k.since + ms 50 ≤ t.time → t.mgmt.restartAt = none →
            (t.sampleKick c w).mgmt.misses = t.mgmt.misses + 1 ∧ (t.sampleKick c w).mgmt.restartAt = some t.time
            ∧ (t.sampleKick c w).mgmt.restarting = t.mgmt.restarting)
        ∧ (w = k.word → k.since + ms 50 ≤ t.time → (∃ a, t.mgmt.restartAt = some a ∧ t.time ≤ a + sec 10) →
            (t.sampleKick c w).mgmt.misses = t.mgmt.misses + 1 ∧ (t.sampleKick c w).mgmt.restarting = true
            ∧ (t.sampleKick c w).mgmt.fwState = 5 ∧ (t.sampleKick c w).host.adminReady = false))
      ∧ (∀ s : State, s.mgmt.restarting = true →
        let t : State := { s with
          mgmt := { s.mgmt with fwState := 2, restarting := false }
          host := { s.host with adminReady := true } }
        exec .managementRestartDone s = .next (t.endCmds (fun _ => true) (stAborted, 0)).readAll))

/-- R388, R473, R474: JOB_PLACE checks its block and hands the block's digest to the lead, with what its links show; it
completes when the lead's decision arrives. On the lead, the digest of the last member to arrive places the job: the
lead sends every member its decision, installs its own, writes the report and completes with the ring bits of R387. 10
s after the start without a member's digest the placement ends with ST_TIMEOUT. R107, R155, R387, R474: a decision
that places nothing ends the waiting JOB_PLACE with its status; one that fits the block installs the job here and
completes it with the ring bits. -/
def Obligations.PlacementIsDecided : Prop :=
  (∀ (s : State) (id : Nat) (c : CmdRec),
        (∀ hb bs, s.Ready id c 0x108 →
          let a := fld c.packet 24 8
          let h : BitVec 1024 := BitVec.ofNat 1024 (leNat hb)
          let nm := fld h 8 2
          let ns := fld h 12 4
          let es := (chunks (nm + ns) 16 bs).map (fun l => BitVec.ofNat 128 (leNat l))
          let j := blockJob h (es.take nm) (es.drop nm) (hb ++ bs)
          let t := s.startCmd id
          t.hostRead a 128 = some hb → t.hostRead (a + 128) (16 * (nm + ns)) = some bs →
          1 ≤ nm → nm ≤ 4096 → ns ≤ 262144 → placeReservedOk h (es.take nm) (es.drop nm) = true →
          a % 64 = 0 → j.report % 32 = 0 →
          (j.limits nm ns = true → (j.pos t.pkgId).isSome = true → t.job.job = none → t.job.placing = none →
            let u : State := { t with job := { t.job with placing := some { cmd := id, job := j, since := t.time } } }
            (j.lead ≠ t.pkgId → exec (.jobPlace id) s = .next (u.send (.digest j.lead j.digest u.seenLinks Config.serial)))
            ∧ (j.lead = t.pkgId →
              let me : Heard := { pkg := t.pkgId, digest := j.digest, links := u.seenLinks, serial := Config.serial }
              let v : State := { u with job := { u.job with heard := me :: u.job.heard.filter (fun x => x.pkg != t.pkgId) } }
              exec (.jobPlace id) s = .next v.tryPlace))
          ∧ (j.limits nm ns = false → exec (.jobPlace id) s = .next (s.turnAway id (stBadParam, 0))))
        ∧ (∀ pkg digest links serial,
          let h : Heard := { pkg := pkg, digest := digest, links := links, serial := serial }
          let t : State := { s with job := { s.job with heard := h :: s.job.heard.filter (fun x => x.pkg != pkg) } }
          exec (.placementDigestReceive pkg digest links serial) s = .next t.tryPlace.trySpare
          ∧ (s.job.placing = none → t.tryPlace = t)
          ∧ (∀ p, s.job.placing = some p → p.job.lead = s.pkgId → p.job.members.all (fun m => (t.heardOf m.pkg).isSome) = true →
            (∀ j, t.judgePlace p.job = .ok j →
              t.tryPlace = ((((t.sendDecisions j (fun i => j.decision i none)).placeHere j
                (j.circuits ((j.pos s.pkgId).getD 0))).hostWrite j.report j.reportBytes).finish p.cmd (stOk, j.ringBits)))
            ∧ (∀ st, t.judgePlace p.job = .error st → t.tryPlace = t.placeFails p st)))
        ∧ (∀ now p, let t := s.advance now
          t.job.placing = some p → p.cmd = id → p.job.lead = t.pkgId → p.since + sec 10 ≤ t.time →
          p.job.members.all (fun m => (t.heardOf m.pkg).isSome) = false →
          exec (.jobPlaceTimeout id now) s = .next (t.placeFails p (stTimeout, 0))))
  ∧ (∀ (s : State) (p : Placing) (d : Decision), s.job.placing = some p →
        (d.status ≠ 0 → exec (.placementDecisionReceive d) s =
          .next (State.finish { s with job := { s.job with placing := none, heard := [] } } p.cmd (d.status, d.detail)))
        ∧ (d.status = 0 → p.job.fits d = true → d.digest = p.job.digest →
          let j := p.job.take d
          exec (.placementDecisionReceive d) s = .next ((s.placeHere j d.circuits).finish p.cmd (stOk, j.ringBits))
          ∧ (s.placeHere j d.circuits).job.job = some j ∧ (s.placeHere j d.circuits).job.placing = none
          ∧ (s.placeHere j d.circuits).mould.mats = [] ∧ (s.placeHere j d.circuits).red.steps = []
          ∧ (s.placeHere j d.circuits).fail.fenced = []))

/-- R475: JOB_END of the placed job ends the membership where the Vat is stopped, no shard is attached, no fabric command
is in flight and no grant stands, and the other members see this one as fenced with reason 7; otherwise it completes
with ST_CONFLICT. On a package that is fenced itself it detaches its shards and completes at once (R575). R578, R109,
R419: JOB_SPARE waits for the spare's digest, which the lead checks; REDRAW_INSTALL redraws once nothing of the job is
in flight: the spare takes the place and the shards of the fenced package, the generation grows by 1, the report is
written, and JOB_SPARE completes with the new generation. Without the digest it times out after 10 s. -/
def Obligations.MembershipEndsAndIsSpared : Prop :=
  (∀ (s : State) (id : Nat) (c : CmdRec) (j : Job), s.Ready id c 0x109 → let t := s.startCmd id
        t.job.job = some j → j.id = fld c.packet 24 4 →
        (t.fail.selfFenced = none →
          let free := !t.vat.running && t.press.shards.isEmpty && !t.fabricBusy && t.xfer.grants.isEmpty
          (free = true → exec (.jobEnd id) s = .next (t.sayLeft.leaveJob.finish id (stOk, 0)))
          ∧ (free = false → exec (.jobEnd id) s = .next (s.turnAway id (stConflict, 0))))
        ∧ (t.fail.selfFenced.isSome = true → exec (.jobEnd id) s =
            .next ((t.press.shards.foldl (fun s e => s.detachShard e.1) t).leaveJob.finish id (stOk, 0)))
        ∧ (∀ u : State, u.leaveJob.job.job = none ∧ u.leaveJob.job.circuits = [] ∧ u.leaveJob.vat.cfg = none
            ∧ u.leaveJob.fail.fenced = [] ∧ u.leaveJob.mould.mats = [] ∧ u.leaveJob.red.steps = []))
  ∧ (∀ (s : State) (id : Nat) (c : CmdRec),
        (s.Ready id c 0x709 → s.host.cmds.all (fun e => !(e.1 < id && pktOp e.2.packet == 0x709)) = true →
          let t := s.startCmd id
          let gone := fld c.packet 24 2
          let new := fld c.packet 26 2
          t.job.job.isSome = true → t.isLead = true → t.isFenced gone = true →
          (t.me.bind (fun m => m.1.pos new)).isNone = true → (t.me.bind (fun m => m.1.pos gone)).isSome = true →
          exec (.jobSpare id) s = .next (State.trySpare { t with job := { t.job with
            sparing := some { cmd := id, fenced := gone, spare := new, serial := BitVec.ofNat 64 (fld c.packet 32 8),
                              since := t.time, ready := false } } }))
        ∧ (∀ sp j, s.job.sparing = some sp → s.job.job = some j → sp.ready = true → s.xfer.insts = [] → s.xfer.ones = [] →
          let n := { j.amend sp.fenced sp.spare with generation := (j.generation + 1) % 2 ^ 32 }
          (n.overfull = none →
            let t := (s.sendDecisions n (fun i => n.decision i (some (sp.fenced, sp.spare)))).redrawHere n
              (n.circuits ((n.pos s.pkgId).getD 0)) sp.fenced sp.spare
            let t : State := { t with job := { t.job with sparing := none } }
            exec .redrawInstall s = .next ((t.hostWrite n.report n.reportBytes).finish sp.cmd (stOk, n.generation)))
          ∧ (∀ p, n.overfull = some p → exec .redrawInstall s = .next (s.spareFails sp (stNoResource, p))))
        ∧ (∀ now sp, let t := s.advance now
          t.job.sparing = some sp → sp.cmd = id → sp.ready = false → sp.since + sec 10 ≤ t.time →
          exec (.jobSpareTimeout id now) s = .next
            (State.finish { t with job := { t.job with sparing := none } } id (stTimeout, 0)))
        ∧ (∀ (j : Job) gone new, (j.amend gone new).owners = j.owners.map (fun o => if o = gone then new else o)
            ∧ (j.amend gone new).members.length = j.members.length))

/-- R570, R572, R573, R576: a member sends a beat each 1 ms, to the lead, or, as the lead, to every member; a beat heard
is noted; the lead fences with reason 2 a member that has been silent for 20 ms; the next member in order becomes the
acting lead, and fences the lead, when the lead is silent. R572, R574, R577: PKG_FENCE of an unfenced member with a
reason of 1 to 8 has the lead fence it at once; on another member it asks the lead and completes when the list
arrives. A request reaches the lead as its own fence; a list of the job's generation that is newer than the last takes
effect by its new names. -/
def Obligations.SilentMembersAreFenced : Prop :=
  (∀ (s : State) (now : Nat) (j : Job), let t := s.advance now
        t.job.job = some j →
        (t.fail.beatAt + ms 1 ≤ t.time → t.fail.selfFenced = none →
          let q := (t.fail.beatSeq + 1) % 2 ^ 32
          let u : State := { t with fail := { t.fail with beatSeq := q, beatAt := t.time } }
          (t.isLead = false → exec (.beatSendTimer now) s = .next (u.sendFrame (u.curLead j) [beatWord j q]))
          ∧ (t.isLead = true → exec (.beatSendTimer now) s = .next
              (j.members.foldl (fun u m => if m.pkg = u.pkgId then u else u.sendFrame m.pkg [beatWord j q]) u)))
        ∧ (t.time < t.fail.beatAt + ms 1 → exec (.beatSendTimer now) s = .next s)
        ∧ (∀ pkg g q, (j.pos pkg).isSome = true → pkg ≠ t.pkgId → exec (.beatReceive pkg j.id g q now) s =
            .next { t with fail := { t.fail with heard := tset t.fail.heard pkg t.time } })
        ∧ (∀ pkg, t.isLead = true → t.fail.selfFenced = none → (j.pos pkg).isSome = true → pkg ≠ t.pkgId →
          t.isFenced pkg = false →
          (tgetD t.fail.heard pkg 0 + ms 20 ≤ t.time → exec (.memberSilentTimeout pkg now) s = .next (t.leadFence pkg 2))
          ∧ (t.time < tgetD t.fail.heard pkg 0 + ms 20 → exec (.memberSilentTimeout pkg now) s = .next s))
        ∧ (t.isLead = false → t.fail.selfFenced = none →
          (t.curLead j = t.pkgId → exec (.leadSilentTimeout now) s = .next (t.actAsLead j none))
          ∧ (t.curLead j ≠ t.pkgId → tgetD t.fail.heard (t.curLead j) 0 + ms 20 ≤ t.time →
            leadOf (j.members.filter (fun m => !t.isFenced m.pkg && m.pkg != t.curLead j)) = t.pkgId →
            exec (.leadSilentTimeout now) s = .next (t.actAsLead j (some (t.curLead j))))))
  ∧ (∀ (s : State) (id : Nat) (c : CmdRec) (j : Job), let t := s.startCmd id
        let pkg := fld c.packet 24 2
        let reason := fld c.packet 26 1
        (s.Ready id c 0x708 → t.job.job = some j → (j.pos pkg).isSome = true → 1 ≤ reason → reason ≤ 8 →
          (t.isFenced pkg = true → exec (.pkgFence id) s = .next (t.finish id (stOk, 0)))
          ∧ (t.isFenced pkg = false → t.isLead = true →
              exec (.pkgFence id) s = .next ((t.leadFence pkg reason).finish id (stOk, 0)))
          ∧ (t.isFenced pkg = false → t.isLead = false →
              exec (.pkgFence id) s = .next (t.send (.fenceRequest (t.curLead j) pkg reason))))
        ∧ (s.Ready id c 0x708 → (reason < 1 ∨ 8 < reason) → exec (.pkgFence id) s = .next (s.turnAway id (stBadParam, 0)))
        ∧ (∀ p r, s.isLead = true → 1 ≤ r → r ≤ 8 → exec (.fenceRequestReceive p r) s = .next (s.leadFence p r))
        ∧ (s.job.job = some j → ∀ n es, s.fail.fenceSeq < n → exec (.fenceListReceive j.id j.generation n es) s =
            .next (State.applyFences { s with fail := { s.fail with fenceSeq := n } } j
              (es.filter (fun e => (j.pos e.1).isSome && !s.isFenced e.1))))
        ∧ (s.job.job = some j → ∀ n es, n ≤ s.fail.fenceSeq → exec (.fenceListReceive j.id j.generation n es) s = .next s))

/-- R353, R356, R357: the oldest packet of a channel goes out when the channel's credit, the replay buffer and the limit
of 2,048 packets allow: it takes the link's next sequence number, is kept for replay and spends credit. Received
codewords are decoded one by one; an uncorrectable one asks for a replay. A credit codeword frees what it
acknowledges, or retrains a link that has missed three; one goes out 64 ns after the last where something has changed.
A replay request sends markers and every packet from the requested one on; the eighth of one sequence retrains. R348,
R358, R359, R361 to R363: a lane that is lost leaves its link, which goes on narrower; a lane map takes effect at the
next replay; a right marker on a dark lane begins its 100 ms, after which the lane rejoins; a probe is echoed, and an
echo gives the loop time; FCLK moves to the port's next lit lane. -/
def Obligations.LinksCarryPackets : Prop :=
  (∀ (s : State) (l : Nat), l < 24 → let k := s.link l
        (∀ vc p rest, vc < 8 → k.data = true → tgetD k.txq vc [] = p :: rest → creditOk (s.width l) (eight k.heldCw) vc p.length = true →
          k.unacked.length < 2048 →
          ((List.range 4).map (fun g => ((s.link (4 * (l / 4) + g)).unacked.map (fun x => x.2.2.length)).sum)).sum + p.length ≤ 49152 →
          let q := stampLead p k.txSeq vc
          let k' := { k with txq := tset k.txq vc rest, unacked := k.unacked ++ [(k.txSeq, vc, q)],
                             txSeq := (k.txSeq + 1) % 4096, heldCw := vcUpd k.heldCw vc (· + p.length) }
          let t := ((s.setLink l k').bump (slotRoute (6 + l)) (if vc = 7 then p.length else 0)).noteSent l vc p.length
          let enters := vc == 7 && hTransit p && (s.onStretch l).isNone
          let key := 8 * l + hResume p
          (enters = false → exec (.linkPacketSend l vc) s = .next (q.foldl (fun s cw => s.emit l cw) t))
          ∧ (enters = true → p.length ≤ tgetD s.xfer.stretchCredit key 0 → exec (.linkPacketSend l vc) s =
            .next (q.foldl (fun s cw => s.emit l cw) { t with
              xfer := { t.xfer with stretchCredit := tupd t.xfer.stretchCredit key 0 (· - p.length) } })))
        ∧ (∀ (pre : List (BitVec 144)) ds, k.data = true → pre.mapM (fun c => match s144Decode c with
            | .clean d => some d
            | .corrected d => some d
            | .bad _ => none) = some ds →
          let n := (pre.filter (fun c => match s144Decode c with
            | .corrected _ => true
            | _ => false)).length
          let t (m : Nat) := (s.feltBump 0 l n).parseRx (m + 64) l (k.partialCw ++ ds)
          exec (.linkPacketReceive l pre) s = .next (t pre.length)
          ∧ (∀ c e post, s144Decode c = .bad e → exec (.linkPacketReceive l (pre ++ c :: post)) s =
              .next (((t (pre ++ c :: post).length).feltBump 1 l 1).askReplay l)))
        ∧ (∀ cw : BitVec 128, k.data = true → fld cw 0 1 = 2 → fld cw 15 1 = 0 →
          ((bits cw 23 20 + 15 - k.creditSeen) % 16 < 3 →
            let passed := k.unacked.findIdx? (fun x => x.1 == bits cw 19 8)
            let freed := (List.range 8).map (fun v => bits cw (24 + 12 * v + 11) (24 + 12 * v))
            exec (.creditCodewordReceive l cw) s = .next (s.setLink l { k with
              unacked := (passed.map (fun i => k.unacked.drop (i + 1))).getD k.unacked
              replays := if passed.isSome then 0 else k.replays
              freedSeen := freed
              creditSeen := bits cw 23 20
              heldCw := (eight k.heldCw).zipIdx.map (fun h =>
                h.1 - ((freed[h.2]?).getD 0 + 4096 - ((eight k.freedSeen)[h.2]?).getD 0) % 4096) }))
          ∧ (3 ≤ (bits cw 23 20 + 15 - k.creditSeen) % 16 → exec (.creditCodewordReceive l cw) s = .next (s.retrain l)))
        ∧ (∀ now, let t := s.advance now
          let k := t.link l
          k.data = true → k.changed = true → (k.creditAt + 64 ≤ t.time ∨ (eight k.freedSince).any (1024 ≤ ·) = true) →
          let q := (k.creditSeq + 1) % 16
          exec (.creditSendTimer l now) s = .next
            ((t.setLink l { k with creditSeq := q, creditAt := t.time, changed := false, freedSince := [] }).emit l
              (creditCw (k.rxSeq + 4095) q (eight k.freed))))
        ∧ (∀ cw : BitVec 128, k.data = true → fld cw 0 1 = 4 → bits cw 127 20 = 0 →
          let seq := bits cw 19 8
          let n := if k.replaySeq = seq ∧ k.replays ≠ 0 then k.replays + 1 else 1
          let map := k.nextMap.getD k.sendMap
          let t := ((List.range 32).filter (fun i => map.toNat.testBit i)).foldl
            (fun s i => s.emit l (markerCw i (s.width l) l))
            (s.setLink l { k with replays := n, replaySeq := seq, sendMap := map, nextMap := none })
          (8 ≤ n → exec (.replayRequestReceive l cw) s = .next (s.retrain l))
          ∧ (n < 8 → ∀ i, k.unacked.findIdx? (fun x => x.1 == seq) = some i → exec (.replayRequestReceive l cw) s =
              .next ((k.unacked.drop i).foldl (fun s x => x.2.2.foldl (fun s c => s.emit l c) s) t))
          ∧ (n < 8 → k.unacked.findIdx? (fun x => x.1 == seq) = none → exec (.replayRequestReceive l cw) s = .next t))
        ∧ (∀ now b, let t := s.advance now
          (t.link l).retrainAt = some b →
          (b + ms 500 ≤ t.time → exec (.linkRetrainTimeout l now) s = .next (t.linkLost l))
          ∧ (t.time < b + ms 500 → exec (.linkRetrainTimeout l now) s = .next s)))
  ∧ (∀ (s : State) (l : Nat), l < 24 → let k := s.link l
        (∀ lanes, 5 ≤ k.step → exec (.laneLoss l lanes) s = .next (s.loseLanes l lanes))
        ∧ (∀ lane (cw : BitVec 128), lane < s.width l → 5 ≤ k.step → fld cw 0 1 = 3 →
          (fld cw 1 1 = lane → k.laneMap.toNat.testBit lane = false → tget k.rejoin lane = none →
            exec (.laneMarkerReceive l lane cw) s = .next (s.setLink l { k with rejoin := tset k.rejoin lane s.time }))
          ∧ (fld cw 1 1 = lane → k.laneMap.toNat.testBit lane = true → exec (.laneMarkerReceive l lane cw) s = .next s)
          ∧ (fld cw 1 1 ≠ lane → k.laneMap.toNat.testBit lane = true → exec (.laneMarkerReceive l lane cw) s =
              .next (s.loseLanes l (BitVec.ofNat 32 ((List.range 8).foldl
                (fun m i => if lane % 8 ≤ i then m + 2 ^ (lane / 8 * 8 + i) else m) 0)))))
        ∧ (∀ cw : BitVec 128, 5 ≤ k.step → fld cw 0 1 = 6 → fld cw 6 10 = 0 → exec (.laneMapReceive l cw) s =
            .next (s.setLink l { k with nextMap := some (BitVec.ofNat 32 (fld cw 1 4)) }))
        ∧ (∀ lane now b, let t := s.advance now
          lane < s.width l → tget (t.link l).rejoin lane = some b →
          (b + ms 100 ≤ t.time → exec (.laneRejoin l lane now) s =
            .next ((t.setLink l { t.link l with rejoin := tdel (t.link l).rejoin lane }).newLanes l
              ((t.link l).laneMap ||| BitVec.ofNat 32 (2 ^ lane))))
          ∧ (t.time < b + ms 100 → exec (.laneRejoin l lane now) s = .next s))
        ∧ (∀ (cw : BitVec 128) now, let t := s.advance now
          5 ≤ (t.link l).step → fld cw 0 1 = 7 → bits cw 127 73 = 0 →
          (bit cw 72 = true → exec (.loopProbeReceive l cw now) s =
            .next (t.setLink l { t.link l with loopNs := t.time - fld cw 1 8 + 584 }))
          ∧ (bit cw 72 = false → exec (.loopProbeReceive l cw now) s = .next (t.emit l (probeCw (fld cw 1 8) true))))
        ∧ (∀ port, port < 6 → exec (.fclkLaneSwitch port) s = .next { s with felt := { s.felt with
            fclk := lupd s.felt.fclk port (fun _ => (s.portLanes port).find? (fun i => some i != (s.felt.fclk[port]?).getD none)) } }))

/-- R365, R368, R369, R372: a link that is on and lit passes its bring-up steps in order: its lanes light, it probes its
loop time and sends its hello; a hello whose certificate holds is answered by a proof, a proof completes step 7, and
the settle record is what the link is judged from; a record that fails a check fails identity. A record is repeated
each 1 ms. A planned link that has not completed step 5 2,000 ms after PD18 came on is judged missing. R370 to R372,
Table 9: a judged link carries data only where it is matched in place or in an accepted swap; felt_ready holds once
PD18 is on and every planned link has been judged. -/
def Obligations.LinksComeUpAndAreJudged : Prop :=
  (∀ (s : State) (l now : Nat), l < 24 → let t := s.advance now
        let k := t.link l
        (∀ nonce, t.domOn 18 = true → k.on = true → t.linkHas l = true →
          let all : BitVec 32 := BitVec.ofNat 32 (2 ^ t.width l - 1)
          (k.step < 4 → exec (.linkTrainingStep l nonce now) s = .next (t.setLink l { k with step := k.step + 1 }))
          ∧ (k.step = 4 → exec (.linkTrainingStep l nonce now) s =
              .next (t.setLink l { k with step := 5, laneMap := all, sendMap := all }))
          ∧ (k.step = 5 → exec (.linkTrainingStep l nonce now) s =
              .next ((t.setLink l { k with step := 6 }).emit l (probeCw t.time false)))
          ∧ (k.step = 6 → exec (.linkTrainingStep l nonce now) s = .next ((t.setLink l
              { k with step := 7, nonce := nonce, peerKey := none, idFailed := false, settled := false }).sendRecord l 1))
          ∧ (k.step = 8 → ∀ p, t.felt.plan = some p → p.entries.all (fun e => decide (8 ≤ (t.link e.link).step)
              || (t.link e.link).judged == 5 || (t.link e.link).idFailed) = true →
              exec (.linkTrainingStep l nonce now) s = .next ((t.setLink l { k with step := 9 }).sendRecord l 3)))
        ∧ (∀ r : List Byte, let k := s.link l
          let at2 (o n : Nat) : Nat := leNat ((r.drop o).take n)
          7 ≤ k.step → 112 ≤ r.length → at2 0 1 = 1 →
          (recordOk k r = false →
            exec (.discoveryRecordReceive l r) s = .next (s.setLink l { k with idFailed := true, outType := 0 }))
          ∧ (recordOk k r = true → at2 1 1 = 1 → exec (.discoveryRecordReceive l r) s = .next ((s.setLink l { k with
              peerSerial := BitVec.ofNat 64 (at2 8 8), peerPkg := at2 4 2, peerPhys := byteLink (at2 2 1),
              peerMode := at2 2 1 / 32 % 4, peerNonce := BitVec.ofNat 128 (at2 16 16),
              peerKey := Config.certKey ((r.drop 112).take (at2 6 2)) }).sendRecord l 2))
          ∧ (recordOk k r = true → at2 1 1 = 2 → k.step = 7 → exec (.discoveryRecordReceive l r) s =
              .next (s.setLink l { k with step := 8, outType := if k.outType = 1 then 1 else 0 }))
          ∧ (recordOk k r = true → at2 1 1 = 3 → exec (.discoveryRecordReceive l r) s =
              .next (s.setLink l { k with peerLogical := byteLink (at2 3 1), peerPkg := at2 4 2, settled := true,
                                          outType := if k.outType = 3 then 3 else k.outType })))
        ∧ (k.outType ≠ 0 → (k.sentAt + ms 1 ≤ t.time → exec (.discoveryRepeatTimer l now) s = .next (t.sendRecord l k.outType))
          ∧ (t.time < k.sentAt + ms 1 → exec (.discoveryRepeatTimer l now) s = .next s))
        ∧ (s.linkHas l = true → s.felt.plan.isSome = true → (s.link l).step = 9 → exec (.linkJudge l) s = .next (s.judge l))
        ∧ (t.domOn 18 = true → (t.planOf l).isSome = true → k.step < 5 → k.judged ≠ 5 → t.felt.litAt + ms 2000 ≤ t.time →
          exec (.linkMissingTimeout l now) s = .next ((t.setLink l { k with judged := 5 }).cableNotice l 2).feltCheck))
  ∧ (∀ (s : State) (l : Nat),
        ((s.link l).idFailed = true → s.judgement l = 6)
        ∧ ((s.link l).idFailed = false → s.swapOf l = none → (s.link l).settled = false →
            s.judgement l = if (s.planOf l).isSome then 5 else 7)
        ∧ ((s.link l).idFailed = false → s.swapOf l = none → (s.link l).settled = true → s.planOf l = none → s.judgement l = 4)
        ∧ (∀ p, (s.link l).idFailed = false → s.swapOf l = none → (s.link l).settled = true → s.planOf l = some p →
            (s.judgement l = 1 ↔ (s.link l).peerSerial = p.serial ∧ (s.link l).peerLogical = p.expected
              ∧ (s.link l).peerMode = s.modeOf l))
        ∧ ((s.link l).data = true → (s.link l).judged = 1 ∨ (s.link l).judged = 2)
        ∧ (s.feltCheck.host.feltReady = true ↔ s.domOn 18 = true
            ∧ ∀ p, s.felt.plan = some p → ∀ e ∈ p.entries, (s.link e.link).judged ≠ 0))

/-- R413, R414, R418: PUT reads its bytes and issues them in packets of at most 62 units; GET issues its reads; both go on
until their last unit is acknowledged or has arrived. A package that is no member answers ST_BAD_PARAM, a fenced one
ST_FENCED. R384, R402, R413, R414: a good packet at its destination has its effect: DATA of a PUT is stored at its
offset, counted in its token and acknowledged; a READ is answered with its bytes; an acknowledgement counts units and
completes the PUT at its last unit; RDATA of a GET lands at its offset and completes it. A packet that its checks
refuse is discarded and counted. -/
def Obligations.TransfersStartAndArrive : Prop :=
  (∀ (s : State) (id : Nat) (c : CmdRec), let t := s.startCmd id
        let pkg := fld c.packet 24 2
        let off := fld c.packet 32 6
        let len := fld c.packet 38 6
        let h := fld c.packet 44 4
        let at_ := fld c.packet 48 6
        (s.Ready id c 0x308 → ∀ e bs bad u, len % 16 = 0 → off % 16 = 0 → needJob t = .ok () → needMember t pkg = .ok () →
          t.rangeFor id h at_ len = .ok e → t.lowPlane h at_ len = false → t.extRead e at_ len = (bs, bad, u) →
          let v := (u.addOp c.ctx wDramRead len).addOp c.ctx wFeltTx len
          (len = 0 → exec (.put id) s = .next (v.finish id (stOk, 0)))
          ∧ (len ≠ 0 →
            let parts := (chunks (len / 16) 62 (toUnits bs)).zipIdx
            let w := v.setOne id { get_ := false, pkg := pkg, units := len / 16, acked := 0, status := if bad then stDataError else 0 }
            exec (.put id) s = .next (parts.foldl (fun s p =>
              let last := decide (p.2 + 1 = parts.length)
              s.issueReq c.ctx id { dst := pkg, src := s.pkgId, via := pkg, type := tyData, last := last, poison := bad,
                                    tagged := false, stable := false, xfer := id % 2 ^ 32 } ((off + 992 * p.2) / 16)
                (xferHdr (off + 992 * p.2) (fld c.packet 28 4 + fld c.packet 26 2 * 2 ^ 32) (if last then len / 16 else 0) :: p.1)) w)))
        ∧ (s.Ready id c 0x309 → ∀ e, len % 16 = 0 → needJob t = .ok () → needMember t pkg = .ok () →
          t.rangeFor id h at_ len = .ok e → t.writeGuarded h = false →
          (len = 0 → exec (.get id) s = .next (t.finish id (stOk, 0)))
          ∧ (len ≠ 0 →
            let w := t.setOne id { get_ := true, pkg := pkg, units := len / 16, acked := 0, status := 0 }
            exec (.get id) s = .next ((List.range (ceilDiv (len / 16) 62)).foldl (fun s i =>
              let n := Min.min 62 (len / 16 - 62 * i)
              s.issueReq c.ctx id { dst := pkg, src := s.pkgId, via := pkg, type := tyRead, last := false, poison := false,
                                    tagged := false, stable := false, xfer := id % 2 ^ 32 } (62 * i)
                [mkRec 128 [(0, 6, off + 992 * i), (6, 2, n), (8, 4, fld c.packet 28 4)], mkRec 128 [(0, 6, 992 * i)]]) w)))
        ∧ (s.Ready id c 0x308 → len % 16 = 0 → off % 16 = 0 → ∀ j i, t.me = some (j, i) →
          (j.pos pkg = none → exec (.put id) s = .next (s.turnAway id (stBadParam, 0)))
          ∧ ((j.pos pkg).isSome = true → t.isFenced pkg = true → exec (.put id) s = .next (s.turnAway id (stFenced, 0)))))
  ∧ (∀ (s t : State) (l vc : Nat) (pkt p : Packet) (e : Extent),
        (s.arrival [tyData, tyRData] pkt = some ((l, vc, p), t) → vc < 5 →
          (t.refusePkt vc p = none → hType p = tyData →
            let h := tArg p % 2 ^ 32
            let n := pktUnits p
            (t.range h (tOff p) (16 * n) = .ok e → t.writeGuarded h = false → tArg p / 2 ^ 32 = 0xFFFF →
              exec (.dataReceive pkt) s = .next ((((t.extWrite e (tOff p) (pktData p)).addOp 1024 wDramWrite (16 * n)).addOp
                1024 wFeltRx (16 * n)).ack (hSrc p) (hXfer p) n stOk))
            ∧ (t.range h (tOff p) (16 * n) = .ok e → t.writeGuarded h = false → tArg p / 2 ^ 32 ≠ 0xFFFF →
              exec (.dataReceive pkt) s = .next (((((t.extWrite e (tOff p) (pktData p)).addOp 1024 wDramWrite (16 * n)).addOp
                1024 wFeltRx (16 * n)).addToken (tArg p / 2 ^ 32) n).ack (hSrc p) (hXfer p) n stOk))
            ∧ (t.range h (tOff p) (16 * n) = .ok e → t.writeGuarded h = true →
              exec (.dataReceive pkt) s = .next (t.ack (hSrc p) (hXfer p) n stConflict)))
          ∧ (t.refusePkt vc p = none → hType p = tyRData → ∀ id o c, t.oneOf (hXfer p) = some (id, o) → t.cmd id = some c →
            let u := t.trkFree id
            let n := pktUnits p
            u.cmd id = some c → o.get_ = true → tOff p + 16 * n ≤ fld c.packet 38 6 → o.acked + n ≤ o.units →
            u.range (fld c.packet 44 4) (fld c.packet 48 6) (fld c.packet 38 6) = .ok e →
            let v := ((u.extWrite e (fld c.packet 48 6 + tOff p) (pktData p)).addOp c.ctx wDramWrite (16 * n)).addOp c.ctx wFeltRx (16 * n)
            let o' := { o with acked := o.acked + n, status := if hPoison p then stDataError else o.status }
            (o.acked + n = o.units → exec (.dataReceive pkt) s = .next (v.endOne id (o'.status, 0)))
            ∧ (o.acked + n ≠ o.units → exec (.dataReceive pkt) s = .next (v.setOne id o')))
          ∧ ((!pktLenOk p || !pktFieldsOk p) = true → exec (.dataReceive pkt) s = .next (t.bump (slotRoute 0) 1)))
        ∧ (s.arrival [tyRead] pkt = some ((l, vc, p), t) → t.refusePkt vc p = none →
          let off := fld (pktCw p 1) 0 6
          let n := fld (pktCw p 1) 6 2
          let h := fld (pktCw p 1) 8 4
          let land := fld (pktCw p 2) 0 6
          1 ≤ n → n ≤ 62 → t.range h off (16 * n) = .ok e →
          (e.fabricRead = true → t.lowPlane h off (16 * n) = false → ∀ bs bad u, t.extRead e off (16 * n) = (bs, bad, u) →
            exec (.readReceive pkt) s = .next (((u.addOp 1024 wDramRead (16 * n)).addOp 1024 wFeltTx (16 * n)).launchPkt 3
              { dst := hSrc p, src := u.pkgId, via := hSrc p, type := tyRData, last := false, poison := bad,
                tagged := false, stable := false, xfer := hXfer p } (land / 16) (xferHdr land 0 0 :: toUnits bs)))
          ∧ (e.fabricRead = false → exec (.readReceive pkt) s = .next (t.ack (hSrc p) (hXfer p) n stBadParam)))
        ∧ (∀ id o, s.arrival [tyAck] pkt = some ((l, vc, p), t) → t.refusePkt vc p = none → t.oneOf (hXfer p) = some (id, o) →
          o.get_ = false → let u := t.trkFree id
          let o' := { o with acked := o.acked + fld (pktCw p 1) 0 4, status := Max.max o.status (fld (pktCw p 1) 4 2) }
          (o'.units ≤ o'.acked → exec (.ackReceive pkt) s = .next (u.endOne id (o'.status, 0)))
          ∧ (o'.acked < o'.units → exec (.ackReceive pkt) s = .next (u.setOne id o'))))

/-- R390, R392, R393, R398: a routed packet that is not at its destination goes on to its next hop; a circuit's packet is
copied to its other edges, kept where this member is on the circuit, or sent on toward the member it names. A packet
of another job is discarded and counted. R421 to R425: TRANSIT_GRANT keeps a stretch of this job's packages under the
lowest free grant id, which it answers, and TRANSIT_REVOKE drops it where no placement uses it. A VC 7 packet on a
stretch goes on within the borrower's share, or back to its own channel at the far end, which sends the credit it
frees; one to this package is discarded and counted. Credit frames run back along the stretch to the package that
enters it. -/
def Obligations.PacketsAreForwarded : Prop :=
  (∀ (s t : State) (l vc : Nat) (pkt p : Packet),
        (s.takeRx (fun l v q => l != 24 && v == vc && vc ≤ 4 && q == pkt && (hDst q != s.pkgId || hType q == tyFrame))
            = some ((l, vc, p), t) →
          (hDst p ≠ t.pkgId → t.ownJob vc p = true → exec (.packetForward vc pkt) s = .next (t.forward vc p))
          ∧ (hDst p ≠ t.pkgId → t.ownJob vc p = false → exec (.packetForward vc pkt) s = .next (t.bump (slotRoute 1) 1))
          ∧ (hDst p = t.pkgId → exec (.packetForward vc pkt) s = .next t))
        ∧ (∀ edge j me, edge < 6 → s.takeRx (fun l vc q => l != 24 && (vc == 5 || vc == 6) && q == pkt &&
              s.physLink (byteLink ((s.circuit (hVia q % 256)).edge edge % 32)) == l
              && ((s.circuit (hVia q % 256)).edge edge).testBit 5) = some ((l, vc, p), t) →
          let id := hVia p % 256
          let k := t.circuit id
          k.valid = true → t.ownJob vc p = true → t.me = some (j, me) →
          (hType p = tyData → hDst p = hSrc p → k.member = true → let u := t.deliverHere 5 p
            exec (.circuitPacketReceive edge pkt) s = .next (u.toEdges id (some edge) p (u.sinkCopy p)))
          ∧ (hType p = tyData → hDst p = hSrc p → k.member = false →
            exec (.circuitPacketReceive edge pkt) s = .next (t.toEdges id (some edge) p (t.sinkCopy p)))
          ∧ (hType p = tyPartial → k.member = true → exec (.circuitPacketReceive edge pkt) s = .next (t.deliverHere 5 p))
          ∧ (∀ r m, hType p = tyReady → (j.entries me)[id]? = some (.member r) → j.index (j.group me r) (hDst p) = some m →
            (k.dirs[m]?).getD 7 ≠ 7 → exec (.circuitPacketReceive edge pkt) s = .next (t.toMember id m p))))
  ∧ (∀ (s : State) (id : Nat) (c : CmdRec), let t := s.startCmd id
        (∀ bs j g, s.Ready id c 0x318 → let k := c.packet
          let count := fld k 29 1
          let es := (chunks count 8 bs).map leNat
          t.hostRead (fld k 32 8) (8 * count) = some bs → 1 ≤ fld k 28 1 → fld k 28 1 ≤ 32 → 1 ≤ count → count ≤ 14 →
          (∀ e ∈ es, e / 2 ^ 32 = 0 ∧ e / 2 ^ 16 % 256 < 32 ∧ e / 2 ^ 24 % 256 < 32 ∧ e / 2 ^ 16 % 8 < 6 ∧ e / 2 ^ 24 % 8 < 6) →
          t.job.job = some j → (∀ e ∈ es, (j.pos (e % 2 ^ 16)).isSome = true) →
          (List.range 16).find? (fun g => (tget t.xfer.grants g).isNone) = some g →
          exec (.transitGrant id) s = .next ((setGrants t (tset t.xfer.grants g
            { borrower := fld k 24 4, share := fld k 28 1,
              stretch := es.map (fun e => (e % 2 ^ 16, e / 2 ^ 16 % 256 + 32, e / 2 ^ 24 % 256 + 32)),
              slotsUsed := 0, windowAt := t.time })).finish id (stOk, g)))
        ∧ (s.Ready id c 0x319 → let g := fld c.packet 24 1
          needJob t = .ok () → (tget t.xfer.grants g).isSome = true →
          exec (.transitRevoke id false) s = .next ((setGrants t (tdel t.xfer.grants g)).finish id (stOk, 0))
          ∧ exec (.transitRevoke id true) s = .next (s.turnAway id (stConflict, 0)))
        ∧ (∀ pkt now l vc p u gi g, let t := s.advance now
          t.takeRx (fun l v q => l != 24 && v == 7 && hTransit q && q == pkt && (t.onStretch l).isSome) = some ((l, vc, p), u) →
          t.onStretch l = some (gi, g) →
          (hDst p = t.pkgId → exec (.transitPacket pkt now) s = .next (u.bump (slotRoute 5) 1))
          ∧ (hDst p ≠ t.pkgId → g.stretch.any (fun e => t.isFenced e.1) = false →
            (∀ out, t.stretchNext g l = some (out, true) → exec (.transitPacket pkt now) s =
              .next ((u.enqueue out (hResume p) (setTransit p false 0)).send (.stretchCredit l (hResume p) p.length)))
            ∧ (∀ out, t.stretchNext g l = some (out, false) → g.windowAt + us 1 ≤ t.time → p.length ≤ t.shareSlots g out →
              exec (.transitPacket pkt now) s = .next ((setGrants u (tset u.xfer.grants gi
                { g with slotsUsed := p.length, windowAt := t.time })).enqueue out 7 p))
            ∧ (∀ out, t.stretchNext g l = some (out, false) → t.time < g.windowAt + us 1 →
              g.slotsUsed + p.length ≤ t.shareSlots g out →
              exec (.transitPacket pkt now) s = .next ((setGrants u (tset u.xfer.grants gi
                { g with slotsUsed := g.slotsUsed + p.length })).enqueue out 7 p))))
        ∧ (∀ l vc n, l < 24 → vc < 7 →
          (∀ out far, (s.onStretch l).bind (fun g => s.stretchNext g.2 l) = some (out, far) →
            exec (.transitCreditFrame l vc n) s = .next (s.send (.stretchCredit out vc n)))
          ∧ ((s.onStretch l).bind (fun g => s.stretchNext g.2 l) = none → exec (.transitCreditFrame l vc n) s = .next { s with
              xfer := { s.xfer with stretchCredit := tupd s.xfer.stretchCredit (8 * l + vc) 0 (· + n) } })))

/-- R403, R405, R407, R411, R412: a collective whose checks pass starts on this member with its instance's parameters and
reports READY toward its senders; it completes later. -/
def Obligations.CollectivesStart : Prop :=
  ∀ (s : State) (id : Nat) (c : CmdRec) (j : Job) (me : Nat), let t := s.startCmd id
    let k := c.packet
    let g := j.group me (fld k 24 1)
    t.me = some (j, me) → needJob t = .ok () → fld k 24 1 ≤ 3 →
    (∀ bs, s.Ready id c 0x300 → let count := fld k 38 1
      let shards := (chunks count 4 bs).map leNat
      fld k 25 1 < 2 → 1 ≤ count → count ≤ 64 → t.hostRead (fld k 56 8) (4 * count) = some bs →
      shards.all (fun x => decide (x < j.shards.length)) = true →
      (shards.filter (fun x => j.shardOwner x == some me)).all (fun x => (tget t.press.shards x).isSome) = true →
      t.needDst id (fld k 40 4) (fld k 44 6) ((shards.map j.shardBytes).sum) = .ok () →
      let places := (List.range count).filter (fun p => ((shards[p]?).bind j.shardOwner) == some me)
      let i := Inst.start c 0 t.time 0 shards places
      let others := (j.senders g i).filter (fun x => g[x]? != some me)
      exec (.gatherJit id) s = .next (t.beginInst id { i with land := { i.land with expect := others.length } }))
    ∧ (s.Ready id c 0x301 → fld k 32 2 < g.length →
      (g[fld k 32 2]? = some me → t.needSrc id (fld k 40 4) (fld k 44 6) (16 * fld k 36 4) = .ok () →
        exec (.broadcast id) s = .next (t.beginInst id (Inst.start c 1 t.time 0 [] [])))
      ∧ (g[fld k 32 2]? ≠ some me → t.needDst id (fld k 40 4) (fld k 44 6) (16 * fld k 36 4) = .ok () →
        exec (.broadcast id) s = .next (t.beginInst id (Inst.start c 1 t.time 1 [] []))))
    ∧ (let fi := fld k 33 1 % 16
      let fo := fld k 33 1 / 16
      let n := fld k 36 4
      fld k 32 1 ≤ 2 → fi ≤ 1 → fo ≤ 1 → n % (32 * g.length) = 0 →
      t.needSrc id (fld k 40 4) (fld k 44 6) (n * redSize fi) = .ok () →
      (s.Ready id c 0x302 → let i := Inst.start c 2 t.time 0 [] []
        t.needDst id (fld k 50 4) (fld k 54 6) (j.instBytes i g.length) = .ok () →
        exec (.reduceScatter id) s = .next (t.beginInst id i))
      ∧ (s.Ready id c 0x303 → let i := Inst.start c 3 t.time (g.length - 1) [] []
        t.needDst id (fld k 50 4) (fld k 54 6) (j.instBytes i g.length) = .ok () →
        exec (.allReduce id) s = .next (t.beginInst id i)))
    ∧ (∀ bs, s.Ready id c 0x304 → let cap := fld k 32 4
      cap % 16 = 0 → t.hostRead (fld k 56 8) (4 * g.length) = some bs → let cs := (chunks g.length 4 bs).map leNat
      cs.all (fun x => decide (x ≤ cap)) = true → t.needSrc id (fld k 36 4) (fld k 40 6) (g.length * cap) = .ok () →
      t.needDst id (fld k 46 4) (fld k 50 6) (g.length * cap) = .ok () →
      exec (.allToAll id) s = .next (t.beginInst id (Inst.start c 4 t.time (g.length - 1) [] cs)))

/-- R400, R401, R403, R404, R407: a sender that every member it serves has reported READY to sends; the owner of a
gather's next shard reads it out once its step token is there; DATA lands at its offset, a PARTIAL is combined, a
READY is counted; an instance that its timeout ends completes with ST_TIMEOUT. -/
def Obligations.CollectivesProgress : Prop :=
  ∀ (s : State) (id : Nat) (j : Job) (me : Nat) (i : Inst),
    (s.me = some (j, me) → s.inst id = some i → i.kind ≠ 0 → i.sent = false → i.isOver = false → s.mayStart' j me i = true →
      exec (.collectiveSendStart id) s = .next ((s.sendInst id j me i).checkInst id))
    ∧ (∀ pos rest p w d, s.me = some (j, me) → s.inst id = some i → i.kind = 0 → i.left = pos :: rest →
      let sh := (i.shards[pos]?).getD 0
      let n := j.shardBytes sh
      tget s.press.shards sh = some p → s.range p.weight 0 n = .ok w →
      s.range (instDst i).1 (instDst i).2 (j.instBytes i 1) = .ok d →
      (fld i.packet 32 6 ≤ s.token p.token → s.mayStart' j me i = true →
        let before := ((i.shards.take pos).map j.shardBytes).sum
        let total := ((i.shards.filter (fun x => j.shardOwner x == some me)).map j.shardBytes).sum / 16
        let out := (List.range (ceilDiv n 992)).foldl (fun a q =>
          State.gatherPiece i (s.token p.token) before (if rest.isEmpty then some total else none) n w d a q) (s, false)
        let t := (((out.1.addOp i.ctx wDramRead n).addOp i.ctx wDramWrite n).addOp i.ctx wFeltTx n).setInst id
          { i with left := rest, poison := i.poison || out.2 }
        (rest ≠ [] → exec (.gatherReadoutStart id) s = .next (t.checkInst id))
        ∧ (rest = [] → fld i.packet 50 2 ≠ 0xFFFF →
            exec (.gatherReadoutStart id) s = .next ((t.addToken (fld i.packet 50 2) 1).checkInst id)))
      ∧ (s.token p.token < fld i.packet 32 6 → exec (.gatherReadoutStart id) s = .next s))
    ∧ (∀ now, let t := s.advance now
      t.inst id = some i → i.isOver = false → instTimeout i ≠ 0 →
      (i.since + ms (instTimeout i) ≤ t.time → exec (.collectiveTimeout id now) s = .next (t.endInst id (stTimeout, 0)))
      ∧ (t.time < i.since + ms (instTimeout i) → exec (.collectiveTimeout id now) s = .next s))
    ∧ (∀ pkt l vc p t e, s.arrival [tyData, tyRData] pkt = some ((l, vc, p), t) → t.refusePkt vc p = none → 5 ≤ vc →
      t.me = some (j, me) → t.instOf (hXfer p) = some (id, i) → i.isOver = false →
      let g := j.group me (instGroup i)
      let src := (j.index g (hSrc p)).getD 0xFFFF
      let n := pktUnits p
      let size := j.instBytes i g.length
      tOff p + 16 * n ≤ size → ¬ (i.land.lasts.length = i.land.expect ∧ i.land.totals < i.land.units + n) →
      t.range (instDst i).1 (instDst i).2 size = .ok e →
      let u := ((t.extWrite e ((instDst i).2 + tOff p) (pktData p)).addOp i.ctx wDramWrite (16 * n)).addOp i.ctx wFeltRx (16 * n)
      let i' := { i with
        land := { i.land with
          units := i.land.units + n
          lasts := if hLast p then i.land.lasts ++ [src] else i.land.lasts
          totals := i.land.totals + (if hLast p then tTotal p else 0) }
        poison := i.poison || hPoison p
        counts := if i.kind = 4 ∧ hLast p then tset i.counts src (16 * tTotal p) else i.counts }
      exec (.dataReceive pkt) s = .next ((u.setInst id i').checkInst id))
    ∧ (∀ pkt l vc p t seg, s.arrival [tyPartial] pkt = some ((l, vc, p), t) → t.refusePkt vc p = none →
      t.me = some (j, me) → t.instOf (hXfer p) = some (id, i) → (i.kind = 2 ∨ i.kind = 3) → i.isOver = false →
      let g := j.group me (instGroup i)
      let c := tTotal p
      let u0 := tOff p / 16
      let n := pktUnits p
      j.index g (hDst p) = some seg → u0 + n ≤ segUnits i g.length →
      ((∀ x, x < n → (tget i.sums (seg * 2 ^ 32 + u0 + x)).elim 0 Prod.fst + c ≤ g.length) →
        let r := combineUnits i ((g[seg]?) == some me) seg u0 c (p.drop 2)
        let u := (((t.setInst id r.1).cmdFlags id r.2.1).addOp r.1.ctx wCombine r.2.2).addOp r.1.ctx wFeltRx (16 * n)
        (g[seg]? = some me → exec (.partialReceive pkt) s = .next ((u.landSegment id j me).checkInst id))
        ∧ (g[seg]? ≠ some me → exec (.partialReceive pkt) s = .next ((u.passUnits id j me seg u0 n).checkInst id)))
      ∧ ((∃ x, x < n ∧ g.length < (tget i.sums (seg * 2 ^ 32 + u0 + x)).elim 0 Prod.fst + c) →
        exec (.partialReceive pkt) s = .next (t.endInst id (stDataMismatch, (j.index g (hSrc p)).getD 0xFFFF))))
    ∧ (∀ pkt l vc p t, s.arrival [tyReady] pkt = some ((l, vc, p), t) → t.refusePkt vc p = none →
      (t.instOf (hXfer p) = some (id, i) →
        exec (.readyReceive pkt) s = .next ((t.setInst id { i with
          ready := i.ready ++ [(fld (pktCw p 1) 0 2, hSrc p, fld (pktCw p 1) 2 2)] }).reportReady id))
      ∧ (t.instOf (hXfer p) = none → exec (.readyReceive pkt) s = .next s))

/-- R366, R367, R376, R377, R428: FELT_PLAN whose plan passes its checks and disturbs no link of a placed job takes effect
and is measured; FELT_LINK turns a link on or retrains it, and turns one off once its packets are acknowledged;
FELT_QUERY writes 24 link records; FELT_CONG writes the maps kept from a sequence number on and answers the first
one's. R426, R427: the waiting codewords are sampled every 10 µs, and 100 samples fold into a map; the last 64 maps
are kept. -/
def Obligations.FeltCommandsAndCongestion : Prop :=
  (∀ (s : State) (id : Nat) (c : CmdRec), let t := s.startCmd id
        (∀ (h : BitVec 256) (es : List (BitVec 128)), s.Ready id c 0x310 → let a := fld c.packet 24 8
          let modes := fld h 18 2
          let ps := es.map planEntry
          t.hostRec 256 a = some h → fld h 20 1 ≤ 24 → es.length = fld h 20 1 →
          (List.range (fld h 20 1)).mapM (fun i => t.hostRec 128 (a + 32 + 16 * i)) = some es →
          fld h 21 11 = 0 → modes < 4096 → (∀ e ∈ es, fld e 0 1 < 32 ∧ fld e 1 1 < 2 ∧ fld e 2 1 < 32 ∧ fld e 3 1 = 0 ∧ fld e 14 2 = 0) →
          a % 64 = 0 → BitVec.ofNat 64 (fld h 8 8) = Config.serial → (List.range 6).all (fun i => modes / 4 ^ i % 4 != 3) = true →
          (∀ p ∈ ps, p.link < 24 ∧ p.expected < 24 ∧ linkGroup p.link < 2 ^ (modes / 4 ^ linkPort p.link % 4)) →
          noDup (ps.map PlanEntry.link) = true →
          let plan : Plan := { id := fld h 0 4, generation := fld h 4 4, pkg := fld h 16 2, modes := modes, entries := ps }
          (t.keepsSlice plan = true → exec (.feltPlan id) s =
            .next (((t.loadPlan plan).setMeasure 4 (sm3 (recBytes h ++ es.flatMap recBytes))).finish id (stOk, 0)))
          ∧ (t.keepsSlice plan = false → exec (.feltPlan id) s = .next (s.turnAway id (stConflict, 0))))
        ∧ (s.Ready id c 0x311 → let l := byteLink (fld c.packet 24 1)
          let k := t.link l
          t.linkHas l = true →
          (fld c.packet 25 1 = 1 ∨ fld c.packet 25 1 = 2 → exec (.feltLink id) s = .next ((t.setLink l
            { k with on := true, step := 1, again := k.judged != 0, settled := false, idFailed := false, laneMap := 0,
                     sendMap := 0, peerKey := none, outType := 0 }).finish id (stOk, 0)))
          ∧ (fld c.packet 25 1 = 0 → t.sliceLinks.contains l = false → k.unacked = [] → exec (.feltLink id) s =
              .next ((t.setLink l { k with on := false, step := 0, oldSerial := 0, laneMap := 0, sendMap := 0, settled := false }).finish id (stOk, 0)))
          ∧ (fld c.packet 25 1 = 0 → t.sliceLinks.contains l = true → exec (.feltLink id) s = .next (s.turnAway id (stConflict, 0))))
        ∧ (s.Ready id c 0x312 → fld c.packet 24 8 % 32 = 0 → exec (.feltQuery id) s = .next
            ((t.hostWrite (fld c.packet 24 8) ((List.range 24).flatMap (fun l => recBytes (t.linkRecord l)))).finish id (stOk, 0)))
        ∧ (s.Ready id c 0x313 → fld c.packet 32 8 % 32 = 0 → ∀ m r,
            t.xfer.congest.maps.filter (fun m => decide (fld c.packet 24 4 ≤ m.1)) = m :: r →
            exec (.feltCong id) s = .next ((t.hostWrite (fld c.packet 32 8) ((m :: r).flatMap Prod.snd)).finish id (stOk, m.1))))
  ∧ (∀ (s : State) (now : Nat), let t := s.advance now
        let c := t.xfer.congest
        (c.samples.length < 100 → c.sampleAt + us 10 ≤ t.time → exec (.congestionSample now) s =
          .next { t with xfer := { t.xfer with congest := { c with samples := c.samples ++ [t.waitingCw], sampleAt := t.time } } })
        ∧ (c.samples.length < 100 → t.time < c.sampleAt + us 10 → exec (.congestionSample now) s = .next s)
        ∧ (c.samples.length = 100 → ∃ u m, exec (.congestionMapFold now) s = .next u ∧ u.xfer.congest.samples = []
            ∧ u.xfer.congest.seq = (c.seq + 1) % 2 ^ 32 ∧ m.length = 800
            ∧ u.xfer.congest.maps = (c.maps ++ [((c.seq + 1) % 2 ^ 32, m)]).drop (c.maps.length + 1 - 64))
        ∧ (c.samples.length ≠ 100 → exec (.congestionMapFold now) s = .next s))

/-- R34 to R36, R43, R72, R77, R79 to R81, R478 to R480: SRC_REGISTER appends well-formed sources and answers their count;
SRC_RELEASE drops those registered last; VAT_CONFIG takes a valid profile whose areas fit the carve-out and answers a
batch handle; VAT_START runs a configured Vat from its position; VAT_STOP completes once no fill is in flight;
VAT_GET_POSITION writes the position record; VAT_SET_POSITION takes one that fits this rank and profile. While the Vat
runs, what changes its sources, profile or position completes with ST_CONFLICT. -/
def Obligations.VatCommandsComplete : Prop :=
  ∀ (s : State) (id : Nat) (c : CmdRec), let t := s.startCmd id
    needJob t = .ok () →
    (∀ bs, s.Ready id c 0x400 → let n := fld c.packet 32 4
      let ds : List (BitVec 512) := (chunks n 64 bs).map (fun l => BitVec.ofNat 512 (leNat l))
      let all := t.vat.sources ++ ds
      1 ≤ n → n ≤ 2 ^ 20 → t.hostRead (fld c.packet 24 8) (64 * n) = some bs → ds.all srcReservedOk = true →
      ds.all srcLimitsOk = true →
      (t.vat.running = false → all.length ≤ 2 ^ 20 → (all.map srcCount).sum ≤ 2 ^ 40 → (basesOk t.chunkCount ds).isSome = true →
        noDup (all.map (fun d => fld d 0 4)) = true →
        exec (.srcRegister id) s = .next (State.finish { t with vat := { t.vat with sources := all } } id (stOk, n)))
      ∧ (t.vat.running = true → exec (.srcRegister id) s = .next (s.turnAway id (stConflict, 0))))
    ∧ (s.Ready id c 0x401 → t.vat.running = false → let k := t.vat.sources.length
      let n := if fld c.packet 24 4 = 0 then k else Min.min (fld c.packet 24 4) k
      exec (.srcRelease id) s = .next
        (State.finish { t with vat := { t.vat with sources := t.vat.sources.take (k - n) } } id (stOk, n)))
    ∧ (∀ r slot gen, s.Ready id c 0x408 → fld c.packet 24 8 % 64 = 0 → t.hostRec 1024 (fld c.packet 24 8) = some r →
      fld r 65 1 = 0 → fld r 70 58 = 0 → profileOk r = true → let p := readProfile r
      t.vat.running = false → t.mem.carve.vat ≠ 0 → p.batchOff + p.regions * p.batch * p.slot ≤ t.mem.carve.vat →
      let v := match t.vat.cfg with
        | some o => t.releaseHandle o.handle
        | none => t
      v.nextSlot = some (slot, gen) →
      let e : Extent := { cls := 7, stripe := 3, place := 0, hostVisible := false, fabricRead := false,
                          size := p.regions * p.batch * p.slot, base := v.mem.carve.base 0, hdm := 2 ^ 64 - 1,
                          skip := p.batchOff }
      let u := v.makeHandle slot gen true e
      let q := { profile := r, handle := mkHandle slot gen }
      ((∀ o, t.vat.cfg = some o → (readProfile o.profile).win = p.win) → exec (.vatConfig id) s = .next (State.finish
        { u with vat := { u.vat with cfg := some q, position := v.vat.position } } id (stOk, mkHandle slot gen)))
      ∧ (∀ o, t.vat.cfg = some o → (readProfile o.profile).win ≠ p.win → exec (.vatConfig id) s = .next (State.finish
        { u with vat := { u.vat with cfg := some q, position := ⟨0, 0, 0, 0, 0⟩ } } id (stOk, mkHandle slot gen))))
    ∧ (∀ v, s.Ready id c 0x409 → t.vat.running = false → t.vat.cfg = some v → t.dataRank.2 ≤ t.chunkCount →
      ∃ u, exec (.vatStart id) s = .next (State.finish u id (stOk, 0)) ∧ u.vat.running = true ∧ u.vat.stopping = none
        ∧ u.vat.epoch = t.vat.position.epoch ∧ u.vat.k = t.vat.position.k ∧ u.vat.skip = t.vat.position.i
        ∧ u.vat.copied = t.vat.position.g ∧ u.vat.drawn = t.vat.position.g ∧ u.vat.fetches = [] ∧ u.vat.held = []
        ∧ { u with vat := t.vat } = t)
    ∧ (s.Ready id c 0x40A → t.vat.running = true →
      let u : State := { t with vat := { t.vat with stopping := some id } }
      (t.vat.fetches.all (fun f => f.done.isSome) = true → exec (.vatStop id) s = .next (u.vatHalt.finish id (stOk, 0)))
      ∧ (t.vat.fetches.all (fun f => f.done.isSome) = false → exec (.vatStop id) s = .next u))
    ∧ (s.Ready id c 0x40A → t.vat.running = false → exec (.vatStop id) s = .next (t.finish id (stOk, 0)))
    ∧ (s.Ready id c 0x40B → fld c.packet 24 8 % 32 = 0 → exec (.vatGetPosition id) s =
        .next ((t.hostWrite (fld c.packet 24 8) (recBytes (t.positionRec t.vat.position))).finish id (stOk, 0)))
    ∧ (∀ r v, s.Ready id c 0x40C → t.hostRec 320 (fld c.packet 24 8) = some r → fld r 28 4 = 0 → fld r 21 2 = 0 →
      t.vat.running = false → t.vat.cfg = some v → let g := fld r 8 8 / t.dataRank.2
      fld r 4 2 = t.dataRank.1 → fld r 6 2 = t.dataRank.2 → fld r 24 4 = (readProfile v.profile).win →
      fld r 8 8 % t.dataRank.2 = 0 →
      let u : State := { t with vat := { t.vat with position := ⟨fld r 0 4, fld r 16 5, fld r 23 1, g, g⟩ } }
      (fld r 32 8 = g → exec (.vatSetPosition id) s = .next (u.finish id (stOk, 0)))
      ∧ (fld r 32 8 = g + 1 → exec (.vatSetPosition id) s = .next
          (((u.bump (slotBeat 9) 1).finish id (stOk, 0)).detectOpen nRestoreAligned c.ctx (BitVec.ofNat 64 g)))
      ∧ (fld r 32 8 ≠ g → fld r 32 8 ≠ g + 1 → exec (.vatSetPosition id) s = .next (s.turnAway id (stDataMismatch, 0))))

/-- R41, R49, R59, R70, R71, R73 to R76, R78, R25: the Vat fetches the chunks of its share in permuted order, numbers the
samples of decoded chunks in share order, draws a full window in its permuted order into the batch, and hands over a
full batch by raising its token; the next region waits until its release token allows. -/
def Obligations.VatDrawsSamples : Prop :=
  ∀ (s : State) (v : VatCfg), s.vat.cfg = some v → s.vat.active = true → let p := readProfile v.profile
    (∀ src x, s.vat.held = [] → s.vat.fetches.length < p.streams → s.domOn 3 = true →
      s.vat.k < shareLen s.vat.chunks s.dataRank.1 s.dataRank.2 →
      let ch := permute (s.dataRank.1 + s.vat.k * s.dataRank.2) s.vat.chunks (epochKeys s.seed s.vat.epoch)
      let next : State := { s with vat := { s.vat with k := s.vat.k + 1, skip := 0 } }
      sourceOf s.vat.sources ch = some src → s.hostRec 256 (fld src 32 8 + 32 * (ch - srcBase src)) = some x →
      (entrySkipped x = true → exec .chunkFetch s = .next (next.bump (slotBeat 0) 1))
      ∧ (entrySkipped x = false →
        let f : Fetch := { epoch := s.vat.epoch, k := s.vat.k, chunk := ch, skip := s.vat.skip, source := fld src 0 4,
                           entry := x, done := none }
        exec .chunkFetch s = .next { next with vat := { next.vat with fetches := s.vat.fetches ++ [f] } }))
    ∧ (∀ pos f res, s.vat.fetches[pos]? = some f → f.done = none → res.samples.length = samplesOf p res →
      let t := State.countChunk { s with vat := { s.vat with
        fetches := lupd s.vat.fetches pos (fun f => { f with done := some res }) } } res
      t.vat.stopping = none →
      let u := t.retireChunks (t.vat.fetches.length + 1) p
      exec (.chunkDecodeDone pos res) s = .next (u.fillSlots (u.vat.held.length + 1) p))
    ∧ (∀ n, s.vat.window = none → s.vat.full p (s.vat.drawWindow p) = true →
      let t := s.bump (slotBeat 7) (if s.vat.stalled then n else 0)
      exec (.windowDrawStart n) s = .next
        { t with vat := { t.vat with window := some (s.vat.drawWindow p), stalled := false } })
    ∧ (∀ w, s.vat.window = some w →
      (s.vat.drawn = s.vat.copied → exec .vatDraw s = .next { s with vat := { s.vat with drawn := s.vat.copied + 1 } })
      ∧ (s.vat.drawn ≠ s.vat.copied → s.vat.regionWait = false → s.vat.inBatch < p.batch →
          exec .vatDraw s = .next (s.copyDraw p w)))
    ∧ (∀ e k i, s.vat.inBatch = p.batch → tget s.vat.starts (s.vat.copied / p.win) = some (e, k, i) →
      ∃ t, exec .batchHandover s = .next t ∧ t.vat.inBatch = 0 ∧ t.vat.batches = s.vat.batches + 1
        ∧ t.vat.position = ⟨e, k, i, s.vat.copied, s.vat.drawn⟩
        ∧ t.token p.batchToken = Max.max (s.token p.batchToken) ((s.vat.batches + 1) % 2 ^ 48) ∧ t.mem = s.mem)
    ∧ (∀ n, s.vat.regionWait = true → s.regionFree p s.vat.batches = true →
      let t := s.bump (slotBeat 8) n
      exec (.batchRegionReuse n) s = .next { t with vat := { t.vat with regionWait := false } })

/-- R310 to R316, R320, R324, R339, R340: MOULD_DECLARE copies a matrix of finite values and answers the lowest free
matrix id; one that is not finite names its first such tile. MOULD_APPLY runs in light on the units that R324 gives,
at once where every tile stands on a unit, or electronically; the outputs and status are those of the shared
computation. MOULD_RELEASE discards a matrix that no apply names; MOULD_QUERY writes four records; MOULD_RETUNE takes
a unit through its bring-up. -/
def Obligations.MouldCommandsComplete : Prop :=
  ∀ (s : State) (id : Nat) (c : CmdRec), let t := s.startCmd id
    (∀ e bs u, s.Ready id c 0x500 → let k := c.packet
      let h := fld k 24 4
      let off := fld k 28 6
      let f := fld k 34 1
      let m := fld k 36 2
      let kk := fld k 38 2
      let n := m * kk * (fmtBits f / 8)
      fld k 35 1 % 4 = 0 → mouldMatFmt f = true → 1 ≤ m → m ≤ 16384 → 1 ≤ kk → kk ≤ 16384 →
      t.rangeFor id h off n = .ok e → e.hostVisible = false → (t.shardOf h).filter (fun p => p.2.weight == h) = none →
      t.lowPlane h off n = false → t.extRead e off n = (bs, false, u) →
      let copy := (unpackBits (fmtBits f) bs (m * kk)).map (BitVec.ofNat 32)
      let value (x : BitVec 32) : FVal := decodeAs (srcFmt f) x.toNat
      (∀ i, tilesWhere m kk copy (fun x => !(value x).isFinite) = [] → u.freeMatrix = some i →
        let x : Matrix := { copy := copy, fmt := srcFmt f, m := m, k := kk, pin := 0, optical := (fld k 35 1).testBit 2,
                            tiles := tilesWhere m kk copy (fun x => !(value x).isZero), shard := none }
        u.tileTotal + x.tiles.length ≤ 256 →
        exec (.mouldDeclare id) s = .next (((u.addOp c.ctx wDramRead bs.length).declareMatrix i x).finish id (stOk, i)))
      ∧ (∀ i r, tilesWhere m kk copy (fun x => !(value x).isFinite) = i :: r →
        exec (.mouldDeclare id) s = .next (s.turnAway id (stBadParam, i))))
    ∧ (∀ x e o, s.Ready id c 0x501 → let a := applyCmd c.packet
      mouldInFmt a.fin_ = true → mouldOutFmt a.fout = true → 1 ≤ a.n → tget t.mould.mats a.mat = some x →
      let il := (a.n - 1) * a.inStride + a.inBytes x
      let ol := (a.n - 1) * a.outStride + a.outBytes x
      t.rangeFor id a.inH a.inOff il = .ok e → t.rangeFor id a.outH a.outOff ol = .ok o →
      t.lowPlane a.inH a.inOff il = false → t.writeGuarded a.outH = false →
      (t.lightChoice a x = none → ∀ st u, t.mouldCompute id c a x [] = (st, u) →
        exec (.mouldApply id) s = .next (u.finish id st))
      ∧ (∀ us, t.lightChoice a x = some us → let v := t.placeUnits id us.length
        let work := (t.unloaded a.mat x us).map (fun k => (v.rowUnit a.mat us (k / 128), k))
        (work = [] → ∀ st u, v.mouldCompute id c a x us = (st, u) → exec (.mouldApply id) s = .next (u.finish id st))
        ∧ (work ≠ [] → exec (.mouldApply id) s = .next (State.nextLoads { v with mould := { v.mould with
            runs := v.mould.runs ++ [{ cmd := id, id := a.mat, mat := x, units := us, work := work }] } }))))
    ∧ (s.Ready id c 0x502 → (tget t.mould.mats (fld c.packet 24 1)).isSome = true →
      let used := t.host.cmds.any (fun e => pktOp e.2.packet == 0x501 && fld e.2.packet 24 1 == fld c.packet 24 1)
      (used = false → exec (.mouldRelease id) s = .next ((t.dropMatrix (fld c.packet 24 1)).finish id (stOk, 0)))
      ∧ (used = true → exec (.mouldRelease id) s = .next (s.turnAway id (stConflict, 0))))
    ∧ (s.Ready id c 0x503 → fld c.packet 24 8 % 32 = 0 → (fld c.packet 32 1).testBit 0 = false →
      exec (.mouldQuery id) s = .next ((t.hostWrite (fld c.packet 24 8)
        ((List.range 4).flatMap (fun u => recBytes (t.unit u).record))).finish id (stOk, 0)))
    ∧ (s.Ready id c 0x504 → let u := fld c.packet 24 1
      u < 4 → (t.unit u).retune = none → exec (.mouldRetune id) s =
        .next (t.setUnit u { (t.unit u).tune with reason := 6, retune := some id, failures := 0 }))

/-- R325, R327 to R330, R336, R337: a tile load ends 40 µs after it began and the runs that waited for it go on; a lost
comb takes a serving unit out with reason 4; once the comb has started every bus is searched from ring 0; each ring
found or lost moves the search on, and the last one leads to calibration, which leads to probing; a wrongly locked
ring is searched again, and with no line left the unit leaves service with reason 2. R331 to R338: a serving unit
captures a probe every 10 ms; an excess loss of 3.0 dB or more takes it out of service with reason 3. A probe whose
errors are within their bounds passes; ten passes on Hadamard vectors return a unit to service, a third drifting pass
in service starts a calibration with reason 5; a failed probe takes a serving unit out with reason 1, and ends another
unit's recovery. -/
def Obligations.MouldUnitsAreTunedAndProbed : Prop :=
  (∀ (s : State) (u : Nat), u < 4 → let m := s.unit u
        (∀ now i k, let t := s.advance now
          (t.unit u).loading = some (i, k) →
          (tget t.mould.mats i).isSome = true →
          ((t.unit u).loadAt + us 40 ≤ t.time → exec (.tileLoadDone u now) s =
            .next ((t.setUnit u { t.unit u with loading := none, loaded := some (i, k) }).loadedTile u i k))
          ∧ (t.time < (t.unit u).loadAt + us 40 → exec (.tileLoadDone u now) s = .next s))
        ∧ (m.serving = true → exec (.combLost u) s = .next (s.fallback u 4 0xFF))
        ∧ (m.serving = false → m.state ≠ 0 → m.state ≠ 6 → exec (.combLost u) s = .next (s.setUnit u m.tune))
        ∧ (m.comb = true → exec (.combStartDone u) s = .next (s.setUnit u
            { m with comb := false, searching := (List.range 256).map (· * 32), parked := [], lines := 0 }))
        ∧ (∀ bus ring locked, bus < 256 → ring < 32 → m.searching.contains (bus * 32 + ring) = true →
          let r := bus * 32 + ring
          let rest := m.searching.filter (· != r)
          let m1 := { m with searching := if ring < 31 then rest ++ [r + 1] else rest,
                             parked := if locked then m.parked else m.parked ++ [r] }
          let m2 := { m1 with lines := m1.linesNow }
          (m.state = 1 → m2.searching ≠ [] → exec (.ringSearchDone u bus ring locked) s = .next (s.setUnit u m2))
          ∧ (m.state = 1 → m2.searching = [] → m2.lines ≠ 0 → exec (.ringSearchDone u bus ring locked) s =
              .next ((s.setUnit u m2).setUnit u { m2 with state := 2, calibrating := true })))
        ∧ (∀ bus ring, bus < 256 → ring < 32 → m.state ≠ 0 → m.state ≠ 6 → m.comb = false →
          let r := bus * 32 + ring
          m.parked.contains r = false → m.searching.any (fun q => q / 32 == bus && decide (q ≤ r)) = false →
          let m1 := { m with parked := m.parked.filter (fun q => !(q / 32 == bus && decide (r ≤ q))),
                             searching := m.searching.filter (fun q => q / 32 != bus) ++ [r] }
          let m2 := { m1 with lines := m1.linesNow }
          let t := (s.setUnit u m2).bump (slotMould 7 u) 1
          (m.serving = true → m2.lines = 0 → exec (.ringDitherCheck u bus ring true) s = .next (t.fallback u 2 ring))
          ∧ (m.serving = true → m2.lines ≠ 0 →
              exec (.ringDitherCheck u bus ring true) s = .next (t.setUnit u { m2 with state := 4 }))
          ∧ exec (.ringDitherCheck u bus ring false) s = .next s)
        ∧ (m.calibrating = true → let t := s.setUnit u { m with calibrating := false, hadamard := true, passes := 0, tCal := s.dk.now }
          exec (.recalibrationDone u) s = .next (if m.reason = 0 then t else t.bump (slotMould 6 u) 1)))
  ∧ (∀ (s : State) (u : Nat), u < 4 →
        (∀ now sect excess, let t := s.advance now
          let m := t.unit u
          sect < 17 → m.serving = true → m.probing = false → (m.probeSeq = 0 ∨ m.captureAt + ms 10 ≤ t.time) →
          let v := t.setUnit u { m with probeSeq := (m.probeSeq + 1) % 2 ^ 32, captureAt := t.time, probing := true,
                                        excess := excess, sect := if f32Le dB1 excess then sect else 0xFF }
          (f32Le dB3 excess = false → exec (.probeCapture u now sect excess) s = .next v)
          ∧ (f32Le dB3 excess = true → exec (.probeCapture u now sect excess) s = .next (v.fallback u 3 sect)))
        ∧ (∀ rms err, let m0 := s.unit u
          m0.probing = true →
          let m := { m0 with probing := false, rms := rms, maxErr := err, lastPass := m0.probeSeq, tPass := s.dk.now,
                             done := m0.done.filter (fun d => decide (m0.probeSeq ≤ d)) }
          let t := s.bump (slotMould 3 u) 1
          let drift := if f32Le rms rmsDrift then 0 else m.drift + 1
          (f32Le rms rmsMax = true → f32Le err errMax = true →
            (m.hadamard = true → m.passes < 9 → exec (.probeVerdict u rms err) s =
              .next (t.setUnit u { m with passes := m.passes + 1 }))
            ∧ (m.hadamard = true → 9 ≤ m.passes → exec (.probeVerdict u rms err) s =
              .next ((t.setUnit u { m with passes := m.passes + 1 }).enterService u))
            ∧ (m.hadamard = false → drift < 3 → exec (.probeVerdict u rms err) s =
              .next (t.setUnit u { m with drift := drift }))
            ∧ (m.hadamard = false → 3 ≤ drift → exec (.probeVerdict u rms err) s = .next (t.setUnit u
              { m with state := 2, reason := 5, calibrating := true, drift := 0, failures := 0 })))
          ∧ ((f32Le rms rmsMax = false ∨ f32Le err errMax = false) →
            let v := (s.setUnit u { m0 with probing := false, rms := rms, maxErr := err }).bump (slotMould 4 u) 1
            (m0.serving = true → exec (.probeVerdict u rms err) s = .next (v.fallback u 1 0xFF))
            ∧ (m0.serving = false → exec (.probeVerdict u rms err) s = .next (v.failRecovery u)))))

/-- R269 to R276, R285, R286, R296 to R298, R304, R481: PRESS_ATTACH checks the shard's shape, rule and handles, writes
the initial state and raises the step token, or takes the state that stands in memory; PRESS_APPLY starts a step later
than the last, by slices or by a list of rows; PRESS_FREEZE sets or clears frozen bits of a block range; PRESS_DETACH
lets the shard go where no launch streams to it. A shard that is not attached is answered ST_BAD_PARAM. -/
def Obligations.PressCommandsComplete : Prop :=
  ∀ (s : State) (id : Nat) (c : CmdRec), let t := s.startCmd id
    let k := c.packet
    let shard := fld k 24 4
    needJob t = .ok () →
    (∀ j i w st l, s.Ready id c 0x600 →
      let p : PShard := { weight := fld k 28 4, state := fld k 32 4, landing := fld k 36 4, config := BitVec.ofNat 8 (fld k 40 1),
                          rows := fld k 44 4, cols := fld k 48 4, s0 := fld k 52 6, token := fld k 42 2, form := none,
                          resident := [], run := none, later := false }
      let n := p.rows * p.cols
      p.rows ≠ 0 → p.cols ≠ 0 → p.cols % 32 = 0 → n % 128 = 0 → n ≤ 2 ^ 32 → (128 ≤ p.cols ∨ p.cols = 32 ∨ p.cols = 64) →
      p.allowed = true → fld k 41 1 ≤ 1 → (p.rule = 1 → p.rows % 32 = 0) → t.me = some (j, i) → shard < j.shards.length →
      j.ownerPlace shard = some i → j.shards[shard]? = some (n, b2n p.rounded) →
      t.handleFor id p.weight = some w → t.handleFor id p.state = some st → t.handleFor id p.landing = some l →
      (w.ext.cls = 2 ∨ w.ext.cls = 5) → st.ext.cls = 3 → l.ext.cls = 4 → w.ext.hostVisible = false →
      st.ext.hostVisible = false → l.ext.hostVisible = false → p.weightBytes ≤ w.ext.size → p.regions.fin_ ≤ st.ext.size →
      (p.rule = 1 → 128 * p.cols ≤ l.ext.size) →
      (tget t.press.shards shard = none → t.shardOf p.weight = none → t.shardOf p.state = none → t.shardOf p.landing = none →
        let q := { p with form := if p.rule = 1 then some false else if p.rule = 3 then some true else none }
        (fld k 41 1 = 0 → t.token p.token ≤ p.s0 → exec (.pressAttach id) s =
          .next (((t.pressInit shard q (fld k 58 4)).attachShard shard q p.s0).finish id (stOk, 0)))
        ∧ (fld k 41 1 = 1 → ∀ bs u, t.extRead st.ext 0 64 = (bs, false, u) → let last := leNat ((bs.drop 24).take 6)
          (bs = pressHeader shard q last → u.token p.token ≤ last →
            exec (.pressAttach id) s = .next ((u.attachShard shard q last).finish id (stOk, 0)))
          ∧ (bs ≠ pressHeader shard q last → exec (.pressAttach id) s = .next (s.turnAway id (stDataMismatch, 0)))))
      ∧ ((tget t.press.shards shard).isSome = true → exec (.pressAttach id) s = .next (s.turnAway id (stConflict, 0))))
    ∧ (∀ r p last u, s.Ready id c 0x601 → s.pressFree id shard = true → fld k 36 8 % 64 = 0 →
      t.hostRec 512 (fld k 36 8) = some r → fld r 32 32 = 0 → tget t.press.shards shard = some p → (Hp.read r).limits p = true →
      let n := fld k 28 6
      let guard := (fld k 34 1).testBit 1
      t.pressLast p = (last, false, u) →
      ((fld k 34 1).testBit 0 = false → fld k 44 4 = 0 → fld k 48 6 = 0 → fld k 56 4 = 0 → p.form ≠ some true →
        p.rows % 32 = 0 → 128 * p.cols ≤ (t.pressExt p.landing).size →
        (last < n → exec (.pressApply id) s = .next ((u.stepForm shard false).sliceStart id shard p n r guard))
        ∧ (n ≤ last → exec (.pressApply id) s = .next (s.turnAway id (stBadParam, 0))))
      ∧ (∀ ie ib v, (fld k 34 1).testBit 0 = true → p.form ≠ some false → last < n → let count := fld k 56 4
        count ≠ 0 → u.rangeFor id (fld k 44 4) (fld k 48 6) (4 * count) = .ok ie →
        u.lowPlane (fld k 44 4) (fld k 48 6) (4 * count) = false → u.extRead ie (fld k 48 6) (4 * count) = (ib, false, v) →
        let ix := (chunks count 4 ib).map leNat
        (badRow p.rows ix = none → 4 * count * p.cols ≤ (t.pressExt p.landing).size →
          ∀ work, pressListForm id c.ctx shard p (Hp.read r) guard n ix (v.stepForm shard true) = .ok (.busy work) →
          exec (.pressApply id) s = .next work)
        ∧ (∀ pos, badRow p.rows ix = some pos → exec (.pressApply id) s = .next (s.turnAway id (stBadParam, pos)))))
    ∧ (∀ p last u map v, s.Ready id c 0x602 → s.pressFree id shard = true → tget t.press.shards shard = some p →
      let first := fld k 28 4
      let count := fld k 32 4
      let b0 := first / 8
      let len := (first + count + 7) / 8 - b0
      first + count ≤ p.nb → (fld k 36 1).testBit 0 = true → t.pressLast p = (last, false, u) →
      u.extRead (t.pressExt p.state) (p.regions.frozen + b0) len = (map, false, v) →
      ∃ new, exec (.pressFreeze id) s = .next (((v.extWrite (t.pressExt p.state) (p.regions.frozen + b0) (leBytes len new)).modShard
          shard (fun q => { q with later := true })).finish id (stOk, 0))
        ∧ ∀ b, b < 8 * len → (new.testBit b ↔ (first ≤ 8 * b0 + b ∧ 8 * b0 + b < first + count) ∨ (leNat map).testBit b = true))
    ∧ (s.Ready id c 0x603 → (tget t.press.shards shard).isSome = true →
      (s.pressFree id shard = true → t.detachBlocked shard = false →
        exec (.pressDetach id) s = .next ((t.detachShard shard).finish id (stOk, 0)))
      ∧ (s.detachBlocked shard = true → t.detachBlocked shard = true →
        exec (.pressDetach id) s = .next (s.turnAway id (stConflict, 0))))
    ∧ (s.Ready id c 0x603 → s.pressFree id shard = true → tget t.press.shards shard = none →
      exec (.pressDetach id) s = .next (s.turnAway id (stBadParam, 0)))

/-- R234, R236 to R238, R241, R284, R642: the owner keeps a credit request while its shard meets the conditions and
refuses it otherwise; it grants a tile row while the row's buffer is free; credit passes to the children; a partial is
combined, and discarded where its step is refused or abandoned; the Press consumes complete slices in order. A slice
incomplete for 1 s without progress abandons the step with ST_TIMEOUT; refusals and abandonments go down the tree and
stop the launches. -/
def Obligations.ReduceToTheOwner : Prop :=
  ∀ (s : State) (shard step : Nat),
    (∀ j i o, s.redPath shard = some (j, i, o) → let r := s.redStep shard step
      (∀ rows cols m,
        (i ≠ o → exec (.reduceCreditRequest shard step rows cols m) s =
          .next (s.toParent shard (fun d => .creditRequest d shard step rows cols)))
        ∧ (i = o → s.ownerMeets shard rows cols = true → exec (.reduceCreditRequest shard step rows cols m) s =
          .next (s.setRed shard step { r with rows := rows, cols := cols, waiters := r.waiters ++ [m] }))
        ∧ (i = o → s.ownerMeets shard rows cols = false → exec (.reduceCreditRequest shard step rows cols m) s =
          .next (s.refuse shard step false)))
      ∧ (∀ row col n ws fl, ws.length = 1024 → 1 ≤ n → (i ≠ o ∨ r.credit.contains row = true) →
        (r.refused = false → r.abandoned = false → i ≠ o → exec (.partialTileArrival shard step row col n ws fl) s =
          .next (s.memberCombine j i o shard step row col n ws fl))
        ∧ (r.refused = false → r.abandoned = false → i = o → exec (.partialTileArrival shard step row col n ws fl) s =
          .next (s.ownerCombine shard step row col n ws fl))
        ∧ ((r.refused = true ∨ r.abandoned = true) → exec (.partialTileArrival shard step row col n ws fl) s = .next s))
      ∧ (∀ row, i ≠ o → r.credit.contains row = false → r.refused = false → r.abandoned = false →
        exec (.reduceCreditReceive shard step row) s = .next (s.takeCredit shard step row))
      ∧ (i ≠ o → (∀ later, exec (.reduceRefusal shard step later) s = .next (s.refuse shard step later))
        ∧ exec (.reduceAbandon shard step) s = .next (s.abandonHere shard step)))
    ∧ (∀ p run e l row, tget s.press.shards shard = some p → p.run = some run → s.landing p = some (e, l) → 1 ≤ l →
      32 * row < p.rows → let r := s.redStep shard run.step
      r.credit.contains row = false → r.refused = false → r.abandoned = false →
      (bufferFree p.run r run.step l row = true → exec (.reduceCreditGrant shard row) s = .next (s.takeCredit shard run.step row))
      ∧ (bufferFree p.run r run.step l row = false → exec (.reduceCreditGrant shard row) s = .next s))
    ∧ (∀ p run e l t last bad u, tget s.press.shards shard = some p → p.run = some run → s.landing p = some (e, l) →
      let r := s.redStep shard run.step
      r.complete[r.consumed]? = some t → s.pressLast p = (last, bad, u) →
      exec (.pressSliceConsume shard) s = .next (((PressAcc.start u).sliceRun shard p run last t l).sliceTaken shard p run r
        ((s.cmd run.cmd).elim 1024 CmdRec.ctx) bad))
    ∧ (∀ now p run, let t := s.advance now
      tget t.press.shards shard = some p → p.run = some run → let r := t.redStep shard run.step
      32 * r.complete.length < p.rows →
      (r.movedAt + sec 1 ≤ t.time → exec (.reduceWatchdogExpiry shard now) s = .next (t.ownerAbandon shard stTimeout))
      ∧ (t.time < r.movedAt + sec 1 → exec (.reduceWatchdogExpiry shard now) s = .next s))

/-- R579, R581, R583 to R585: SINK_START takes the couch carve-out and says hello to the lead; the lead answers with its
shard list; the list makes the sink choose its mode and completes SINK_START, which otherwise ends with ST_TIMEOUT 10
s after its start. SINK_STOP abandons an open round and releases the couch once no packet is being assembled. After
its interval the sink opens a round, which calls step high + 3. R32, R581, R585, R586, R589: the sink takes the tagged
packets of its shards; entries join its open round, which is judged; the lead's abandon ends a round here and opens
the next. A member holds the shards whose last step is the called one and answers late for those past it; a hold ends
after 60 s, and the shard is late. -/
def Obligations.SinkTakesItsRoleAndGathers : Prop :=
  (∀ (s : State) (id : Nat) (c : CmdRec), let t := s.startCmd id
        (s.Ready id c 0x700 → let k := c.packet
          fld k 28 1 % 8 ≤ 5 → fld k 30 2 ≤ 1440 →
          (t.mem.couchBy = none → t.mem.carve.couch ≠ 0 → ∃ y, exec (.sinkStart id) s =
              .next ((State.setSink { t with mem := { t.mem with couchBy := some .sink } } (some y)).toLead y 1 0
                [mkRec 128 [(0, 8, Config.serial.toNat)]])
            ∧ y.job = fld k 24 4 ∧ y.cmd = some id ∧ y.startAt = t.time ∧ y.round = none ∧ y.rounds = 0 ∧ y.shards = []
            ∧ y.interval = if fld k 30 2 = 0 then 60 else fld k 30 2)
          ∧ (t.mem.couchBy ≠ none → exec (.sinkStart id) s = .next (s.turnAway id (stConflict, 0))))
        ∧ (∀ y, s.Ready id c 0x701 → t.ckpt.sink = some y → y.job = fld c.packet 24 4 → y.cmd = none → y.round = none →
          ((t.link y.link).partialCw = [] → exec (.sinkStop id) s = .next (t.endSink.finish id (stOk, 0)))
          ∧ ((t.link y.link).partialCw ≠ [] → exec (.sinkStop id) s = .next t))
        ∧ (∀ now y, let t := s.advance now
          t.ckpt.sink = some y → y.cmd = some id →
          (y.startAt + sec 10 ≤ t.time → exec (.sinkHelloTimeout id now) s = .next (t.endSink.finish id (stTimeout, 0)))
          ∧ (t.time < y.startAt + sec 10 → exec (.sinkHelloTimeout id now) s = .next s))
        ∧ (∀ j l n, s.job.job = some j → s.sinkEdge j = some l → s.isLead = true →
          exec (.sinkHelloReceive j.id n) s = .next ((shardListFrames j).foldl
            (fun s w => s.linkFrame l 6 (sinkFrame 2 j.id j.generation 0 w)) { s with job := { s.job with sinkOn := true } }))
        ∧ (∀ y gen xs, s.ckpt.sink = some y →
          (y.cmd = some id →
            let y1 := { y with cmd := none, generation := gen, shards := xs, startAt := s.time, sealedAt := s.time }
            let y2 := { y1 with whole := decide (2 * y1.gathered + 64 * 2 ^ 20 ≤ s.mem.carve.couch) }
            exec (.shardListReceive y.job gen xs) s = .next ((s.setSink (some y2)).finish id (stOk, 0)))
          ∧ (y.cmd = none → y.generation ≠ gen →
            exec (.shardListReceive y.job gen xs) s = .next (s.newGeneration { y with shards := xs } gen)))
        ∧ (∀ now y, let t := s.advance now
          t.ckpt.sink = some y → y.cmd = none → y.round = none →
          (y.sealedAt + sec 60 * y.interval ≤ t.time → exec (.checkpointRoundOpen now) s = .next (t.openRound y))
          ∧ (t.time < y.sealedAt + sec 60 * y.interval → exec (.checkpointRoundOpen now) s = .next s))
        ∧ (∀ (t : State) y, ∃ r, (t.openRound y).ckpt.sink = some { y with rounds := y.rounds + 1, round := some r }
            ∧ r.number = y.rounds + 1 ∧ r.step = y.high + 3 ∧ r.copied = false))
  ∧ (∀ (s : State),
        (∀ y pkt, s.ckpt.sink = some y → y.cmd = none → hTagged pkt = true → hType pkt = tyData →
          let shard := tArg pkt % 2 ^ 32
          let tag := fullTag y.high (tArg pkt / 2 ^ 32 % 2 ^ 16)
          shard < y.shards.length →
          (y.copy ≠ some tag → exec (.sinkPacketReceive pkt) s = .next (s.sinkTake y shard tag pkt))
          ∧ (y.copy = some tag → exec (.sinkPacketReceive pkt) s = .next s))
        ∧ (∀ y r e rank, s.ckpt.sink = some y → y.cmd = none → y.round = some r →
          (rank = true ∨ entryShard e < y.shards.length) →
          let r' := if rank then { r with ranks := tset r.ranks (fld e 0 2) (BitVec.ofNat 512 e.toNat) }
                    else { r with entries := tset r.entries (entryShard e) e }
          exec (.shardEntryReceive y.generation r.number e rank) s =
            .next (s.setSink (some { y with round := some r' })).judgeRound)
        ∧ (∀ j n e, s.ckpt.sink = none → s.job.job = some j → s.isLead = true → s.job.sinkOn = true →
          exec (.shardEntryReceive j.generation n e false) s = .next (s.sendEntry 4 n (toUnits (recBytes e)))
          ∧ exec (.shardEntryReceive j.generation n e true) s = .next (s.sendEntry 5 n (toUnits ((recBytes e).take 64))))
        ∧ (∀ y, s.ckpt.sink = some y → y.cmd = none →
          exec (.sinkAbandonReceive y.job y.generation) s = .next (s.reopenRound y)
          ∧ ∀ g, g ≠ y.generation → exec (.sinkAbandonReceive y.job g) s = .next (s.newGeneration y g))
        ∧ (∀ j g, s.ckpt.sink = none → s.job.job = some j → s.isLead = false →
          exec (.sinkAbandonReceive j.id g) s = .next s.dropRound)
        ∧ (∀ j n step now, let t := s.advance now
          t.job.job = some j → t.fail.selfFenced = none → t.dropRound.isLead = false → let u := t.dropRound
          let u : State := { u with ckpt := { u.ckpt with called := some step, round := n, holds := [], late := [] } }
          exec (.callReceive j.id n step now) s = .next (u.press.shards.foldl (fun t e =>
            let (last, _, t) := t.pressLast e.2
            if last < step then t
            else if last = step ∧ e.2.run.isNone ∧ ¬ e.2.later then
              { t with ckpt := { t.ckpt with holds := tset t.ckpt.holds e.1 t.time } }
            else t.lateShard e.1 e.2) u))
        ∧ (∀ shard now h p, let t := s.advance now
          tget t.ckpt.holds shard = some h → tget t.press.shards shard = some p →
          (h + sec 60 ≤ t.time → exec (.shardHoldExpiry shard now) s = .next (t.lateShard shard p))
          ∧ (t.time < h + sec 60 → exec (.shardHoldExpiry shard now) s = .next s)))

/-- R587, R588, R590 to R595: a scope-1 CKPT_SAVE writes its shard's bytes once the shard is held, sends its entry and
ends the hold, or a rank's entry; a scope-0 save writes a manifest. CKPT_RESTORE checks signature, digests and fit,
writes the shard's weights and state back and raises the step token; a bad signature ends it with ST_SECURITY, a bad
digest with ST_DIGEST_MISMATCH. -/
def Obligations.CheckpointsSaveAndRestore : Prop :=
  ∀ (s : State) (id : Nat) (c : CmdRec), let t := s.startCmd id
    let k := c.packet
    (∀ p nc, s.Ready id c 0x702 → fld k 30 1 = 1 → fld k 36 8 % 32 = 0 → fld k 44 8 % 32 = 0 → let shard := fld k 32 4
      shard ≠ 0xFFFFFFFF → tget t.press.shards shard = some p →
      (t.ckpt.called = none → exec (.ckptSave id) s = .next t)
      ∧ (t.ckpt.called = some nc → (fld k 24 6 = 0 ∨ fld k 24 6 = nc) → t.ckpt.late.contains shard = false →
        (tget t.ckpt.holds shard).isSome = true → p.weightBytes + p.regions.fin_ ≤ fld k 52 8 →
        let r := t.saveShard c.ctx shard (fld k 44 8) nc p
        exec (.ckptSave id) s = .next (r.2.finish id r.1))
      ∧ (t.ckpt.called = some nc → (fld k 24 6 = 0 ∨ fld k 24 6 = nc) → t.ckpt.late.contains shard = true →
        exec (.ckptSave id) s = .next (t.finish id (stNoResource, 0))))
    ∧ (∀ nc, s.Ready id c 0x702 → fld k 30 1 = 1 → fld k 36 8 % 32 = 0 → fld k 44 8 % 32 = 0 → fld k 32 4 = 0xFFFFFFFF →
      t.rankHolder = true → t.ckpt.called = some nc → let r := t.saveRank (fld k 24 6) nc
      exec (.ckptSave id) s = .next (r.2.finish id r.1))
    ∧ (∀ m, s.Ready id c 0x702 → fld k 30 1 = 0 → fld k 36 8 % 32 = 0 → fld k 44 8 % 32 = 0 → fld k 24 6 ≠ 0 →
      t.ckpt.manifests.reverse.find? (fun m => m.step == fld k 24 6) = some m →
      t.ckpt.sink = none → exec (.ckptSave id) s = .next (State.finish { t.hostWrite (fld k 36 8) m.bytes with
        ckpt := { t.ckpt with manifests := t.ckpt.manifests.map (fun x =>
          if x.step = m.step ∧ x.bytes = m.bytes then { x with saved := true } else x) } } id (stOk, m.step % 2 ^ 32)))
    ∧ (∀ p m e key bs, s.Ready id c 0x703 → let shard := fld k 24 4
      s.pressFree id shard = true → needJob t = .ok () → tget t.press.shards shard = some p →
      let size := p.weightBytes + p.regions.fin_
      t.mem.couchBy = none → t.mem.carve.couch ≠ 0 → size ≤ t.mem.carve.couch → t.readManifest (fld k 32 8) = some m →
      fld m.head 0 2 = 1 → 1 ≤ m.cert.length → m.cert.length ≤ 1024 →
      m.shards.find? (fun e => entryShard e == shard && entryStatus e == 0) = some e → let step := fld m.head 8 6
      t.token p.token ≤ step → fld e 4 1 = p.config.toNat → fld m.head 32 32 = (sm3 (recBytes t.seed)).toNat →
      let head := bs.drop p.weightBytes
      (Config.certKey m.cert = some key → Config.sm2Verify key 2 m.root m.sig = true →
        sm3 (recBytes m.head ++ m.entries) = m.root → fld e 8 8 = fld k 48 8 → t.hostRead (fld k 40 8) (fld k 48 8) = some bs →
        pieceDigest bs = BitVec.ofNat 256 (fld e 16 32) → leNat ((head.drop 4).take 4) = p.rows →
        leNat ((head.drop 8).take 4) = p.cols → bs.length = size →
        let u := t.extWrite (t.pressExt p.weight) 0 (bs.take p.weightBytes)
        let u := ((u.extWrite (t.pressExt p.state) 0 head).addOp c.ctx wDramWrite size).raiseToken p.token step
        exec (.ckptRestore id) s = .next (State.finish { u with press := { u.press with
          shards := tmod u.press.shards shard (fun q => { q with s0 := leNat ((head.drop 16).take 6), later := false }) } }
            id (stOk, 0)))
      ∧ (Config.certKey m.cert = none →
        exec (.ckptRestore id) s = .next ((t.signFail c (stSecurity, 0)).finish id (stSecurity, 0)))
      ∧ (Config.certKey m.cert = some key → Config.sm2Verify key 2 m.root m.sig = true →
        sm3 (recBytes m.head ++ m.entries) ≠ m.root →
        exec (.ckptRestore id) s = .next ((t.signFail c (stDigestMismatch, 0)).finish id (stDigestMismatch, 0))))

/-- R482, R551, R558, R560, R561, R564: COUNTER_COPY writes the counter records held from an index on and answers how
many; TRACE_CONFIG turns tracing on where the trace carve-out is free, or off; TRACE_COPY writes the trace records
from a sequence number on; DECKLE_CONFIG takes the role and source, and the ball where the pulse is the source. -/
def Obligations.TelemetryCommands : Prop :=
  ∀ (s : State) (id : Nat) (c : CmdRec), let t := s.startCmd id
    let k := c.packet
    (s.Ready id c 0x800 → fld k 32 8 % 32 = 0 →
      (t.ctr.overwritten (fld k 24 4) = false → let rs := counterRun (fld k 28 4) t.ctr.recs (fld k 24 4) t.ctr.next
        exec (.counterCopy id) s = .next ((t.hostWrite (fld k 32 8) (rs.flatMap recBytes)).finish id (stOk, rs.length)))
      ∧ (t.ctr.overwritten (fld k 24 4) = true → exec (.counterCopy id) s = .next (s.turnAway id (stBadParam, 0))))
    ∧ (s.Ready id c 0x801 → let mask := BitVec.ofNat 32 (fld k 28 4)
      ((fld k 24 1).testBit 0 = true → t.trc.enabled = false → t.mem.traceBy = none → t.mem.carve.trace ≠ 0 →
        exec (.traceConfig id) s = .next (State.finish { t with trc := { t.trc with enabled := true, mask := mask }
                                                                mem := { t.mem with traceBy := some .trace } } id (stOk, 0)))
      ∧ ((fld k 24 1).testBit 0 = true → t.trc.enabled = false → t.mem.traceBy ≠ none →
        exec (.traceConfig id) s = .next (s.turnAway id (stConflict, 0)))
      ∧ ((fld k 24 1).testBit 0 = true → t.trc.enabled = true → exec (.traceConfig id) s =
          .next (State.finish { t with trc := { t.trc with mask := mask } } id (stOk, 0)))
      ∧ ((fld k 24 1).testBit 0 = false → ∃ u, exec (.traceConfig id) s = .next (State.finish u id (stOk, 0))
          ∧ u.trc = { t.trc with enabled := false } ∧ u.mem.traceBy ≠ some .trace))
    ∧ (s.Ready id c 0x802 → fld k 32 8 % 32 = 0 → fld k 40 4 % 64 = 0 →
      let rs := (t.trc.recs.filter (fun r => decide (fld k 24 8 ≤ r.1))).take (fld k 40 4 / 64)
      exec (.traceCopy id) s =
        .next ((t.hostWrite (fld k 32 8) (rs.flatMap (fun r => recBytes r.2))).finish id (stOk, 64 * rs.length)))
    ∧ (s.Ready id c 0x803 → fld k 24 1 ≤ 1 → fld k 25 1 ≤ fld k 24 1 → (fld k 25 1 = 1 → t.pins.ball ≠ 2) →
      ∃ u : State, exec (.deckleConfig id) s = .next (u.chooseMaster.finish id (stOk, 0))
        ∧ (u.dk.role = true ↔ fld k 24 1 = 1) ∧ (u.dk.source = true ↔ fld k 25 1 = 1)
        ∧ (fld k 25 1 = 1 → u.pins.ball = 1) ∧ u.dk.now = t.dk.now ∧ { u with dk := t.dk, pins := t.pins } = t)
    ∧ (s.Ready id c 0x803 → fld k 24 1 < fld k 25 1 → exec (.deckleConfig id) s = .next (s.turnAway id (stBadParam, 0)))

/-- R545, R546, R549, R550: a master announces itself on its data links every 1 ms; an announce is remembered and the
master chosen from what has been heard in 3 ms; every 125 µs a sync goes out on every other data link; a sync is
answered by a delay request, a request by a response, and the response corrects the Deckle by θ. Without its upstream
the Deckle holds over. An edge of the pulse brings a master on the pulse to the nearest second; 1.5 s without an edge
end it. R547: the Deckle is set at once while it acquires, stepped forward where θ is −1 µs or less, and otherwise
slewed. -/
def Obligations.TimeIsKept : Prop :=
  (∀ (s : State) (now : Nat), let t := s.advance now
        ((t.dk.state = 4 ∨ t.dk.state = 5) → t.domOn 1 = true →
          (t.dk.announceAt + ms 1 ≤ t.time →
            let w := [timeWord 1 0 (t.timeFlags (t.dk.state == 5)) t.pkgId 0 Config.serial, 0]
            exec (.timeAnnounceTimer now) s = .next { t.dataLinks.foldl (fun t l => t.linkFrame l 0 w) t with
              dk := { t.dk with announceAt := t.time } })
          ∧ (t.time < t.dk.announceAt + ms 1 → exec (.timeAnnounceTimer now) s = .next s))
        ∧ (∀ l (f : BitVec 128), l < 24 → (t.link l).data = true → t.domOn 1 = true → fld f 0 1 = 1 → fld f 1 1 = 1 →
          let a : Announce := { link := t.logicalLink l, serial := BitVec.ofNat 64 (fld f 8 8), pkg := fld f 4 2,
                                hops := fld f 2 1, flags := fld f 3 1, heardAt := t.time }
          a.serial ≠ Config.serial →
          let u := State.chooseMaster { t with dk := { t.dk with
            announces := t.dk.announces.filter (fun b => !(b.link == a.link && b.serial == a.serial)) ++ [a] } }
          ((u.dk.up ≠ some a.link ∨ u.dk.mserial ≠ a.serial) → exec (.announceReceive l f now) s = .next u)
          ∧ (u.dk.up = some a.link → u.dk.mserial = a.serial →
            let w := [timeWord 1 (a.hops + 1) (u.timeFlags (a.flags.testBit 0)) a.pkg (fld f 6 2) a.serial, 0]
            exec (.announceReceive l f now) s = .next ((u.dataLinks.filter (· != l)).foldl (fun u l => u.linkFrame l 0 w) u)))
        ∧ (t.dk.announces.any (fun a => decide (a.heardAt + ms 3 ≤ t.time)) = true → exec (.announceExpiry now) s =
            .next (State.chooseMaster { t with dk := { t.dk with
              announces := t.dk.announces.filter (fun a => decide (t.time < a.heardAt + ms 3)) } }))
        ∧ (t.domOn 1 = true → t.dk.state ≠ 0 → t.dk.syncAt + 125000 ≤ t.time → let q := (t.dk.seq + 1) % 65536
          let u : State := { t with dk := { t.dk with
            syncAt := t.time, seq := q, t3 := none, unanswered := if t.upLink.isSome then t.dk.unanswered + 1 else 0 } }
          let w := [timeWord 2 u.dk.hops (u.timeFlags (u.dk.state == 5)) u.dk.master q u.dk.mserial, timeField u.stamp]
          exec (.syncExchangeTimer now) s =
            .next ((u.dataLinks.filter (fun l => t.upLink != some l)).foldl (fun u l => u.linkFrame l 0 w) u))
        ∧ (∀ l f x, l < 24 → t.upLink = some l → t.domOn 1 = true → fld f 1 1 = 2 →
          let u : State := { t with dk := { t.dk with t1 := readTime x, t2 := t.stamp, t3 := some t.stamp, seq := fld f 6 2 } }
          exec (.syncReceive l f x now) s = .next (u.linkFrame l 0
            [timeWord 3 u.dk.hops (u.timeFlags false) u.dk.master (fld f 6 2) u.dk.mserial, 0]))
        ∧ (∀ l f, l < 24 → (t.link l).data = true → t.domOn 1 = true → t.upLink ≠ some l → fld f 1 1 = 3 →
          exec (.delayRequestReceive l f now) s = .next (t.linkFrame l 0
            [timeWord 4 t.dk.hops (t.timeFlags (t.dk.state == 5)) t.dk.master (fld f 6 2) t.dk.mserial, timeField t.stamp]))
        ∧ (∀ l f x t3, l < 24 → s.dk.t3 = some t3 → s.upLink = some l → s.domOn 1 = true → fld f 1 1 = 4 → fld f 6 2 = s.dk.seq →
          let a := tgetD s.dk.asym (s.logicalLink l) 0 * 65536 / 1000
          let theta := ((s.dk.t2 - s.dk.t1) - (readTime x - t3) - a) / 2
          ∃ u, exec (.delayResponseReceive l f x) s = .next u ∧ u.dk.now = (s.dk.correct theta).now ∧ u.dk.state = 2
            ∧ u.dk.slew = (s.dk.correct theta).slew ∧ u.dk.theta = theta * 1000 / 65536 ∧ u.dk.t3 = none ∧ u.dk.unanswered = 0
            ∧ u.host = s.host ∧ u.mem = s.mem)
        ∧ (∀ l, t.upLink = some l → ((t.link l).data = false ∨ 3 ≤ t.dk.unanswered) → let d := t.dk.become 3
          exec (.holdoverEntry now) s = .next (State.chooseMaster { t with dk := { d with
            up := none, unanswered := 0, t3 := none, announces := d.announces.filter (fun a => some a.link != t.dk.up) } }))
        ∧ (t.pins.ball = 1 → t.domOn 1 = true → ∃ u, exec (.timePulseEdge now) s = .next u ∧ u.dk.edge = t.dk.now
            ∧ u.dk.edges = true ∧ (t.pulseMaster = false → u.dk.now = t.dk.now)
            ∧ (t.pulseMaster = true → t.dk.acquiring = true → u.dk.now = (t.dk.now + 500000000) / 1000000000 * 1000000000
                ∧ u.dk.state = 5))
        ∧ (∀ p, t.dk.pulseAt = some p → t.pins.ball = 1 →
          (p + ms 1500 ≤ t.time → ∃ u, exec (.pulseMissingTimeout now) s = .next u ∧ u.dk.pulse = false ∧ u.dk.edges = false
            ∧ u.dk.pulseAt = none ∧ u.dk.state ≠ 5 ∧ bit u.dk.events 4 = true)
          ∧ (t.time < p + ms 1500 → exec (.pulseMissingTimeout now) s = .next s)))
  ∧ (∀ (d : Deckle) (theta : Int),
        (d.acquiring = true → (d.correct theta).now = ((d.now : Int) - theta / 65536).toNat ∧ (d.correct theta).acquiring = false
          ∧ bit (d.correct theta).events 1 = true)
        ∧ (d.acquiring = false → theta ≤ -(65536000 : Int) →
          (d.correct theta).now = ((d.now : Int) - theta / 65536).toNat ∧ d.now + 1000 ≤ (d.correct theta).now)
        ∧ (d.acquiring = false → -(65536000 : Int) < theta → (d.correct theta).now = d.now ∧ (d.correct theta).slew = theta))

/-- R520 to R522, R540 to R542: POWER_SET takes its ceilings, plans the domains to switch, offs before ons, and completes
once every switch and ramp has ended; a domain in use cannot be taken off. SELFTEST starts while no job is placed and
completes once the clusters of its scopes are free and its Mould units have come up, with its code. -/
def Obligations.PowerSetAndSelfTest : Prop :=
  ∀ (s : State) (id : Nat) (c : CmdRec), let t := s.startCmd id
    (s.Ready id c 0x906 → s.host.cmds.any (fun e => e.1 < id && pktOp e.2.packet == 0x906) = false →
      let mask := fld c.packet 24 3
      let ceil (d : Nat) : Nat := fld c.packet (32 + 2 * d) 2
      let want := domClosure (domOrder.filter (fun d => mask.testBit d))
      mask % 2 = 1 → (∀ d, d < 4 → ceil d = 0 ∨ (400 ≤ ceil d ∧ ceil d ≤ 1500)) →
      (t.domsUsed.all (fun d => want.contains d || !t.domUp d) = true →
        let u := (List.range 4).foldl (fun s d => s.setDie d { s.die d with ceiling := ceilingOf (ceil d) (s.die d).ceiling }) t
        let off := (domOrder.reverse.filter (fun d => !want.contains d && u.domUp d)).map (fun d => (d, false))
        let on := (domOrder.filter (fun d => want.contains d && !u.domUp d)).map (fun d => (d, true))
        exec (.powerSet id) s = .next (State.powerDone { u with pwr := { u.pwr with sequence := off ++ on, cmd := some id } }))
      ∧ (t.domsUsed.all (fun d => want.contains d || !t.domUp d) = false →
        exec (.powerSet id) s = .next (s.turnAway id (stConflict, 0))))
    ∧ (∀ u : State, u.pwr.cmd = some id → (u.powerSettled = true → u.pwr.tripped = false → u.powerDone = State.finish
        { u with pwr := { u.pwr with cmd := none, tripped := false }, pins := { u.pins with thermLow := u.pins.thermLow } } id (stOk, 0))
      ∧ (u.powerSettled = false → u.powerDone = u))
    ∧ (∀ code, s.Running id c 0x905 →
      (∀ st v, selftestFin code id c s = some (st, v) → exec (.selftest id code) s = .next (v.finish id st))
      ∧ (selftestFin code id c s = none → exec (.selftest id code) s = .next s))
    ∧ (∀ code : BitVec 8, s.Ready id c 0x905 → let scope := BitVec.ofNat 8 (fld c.packet 24 1)
      t.job.job = none → bit scope 0 = false → bit scope 1 = false → bit scope 2 = false → bit scope 3 = false →
      t.host.cmds.any (fun e => e.1 < id && e.2.phase == .started && pktOp e.2.packet == 0x905) = false →
      t.mem.stackBy ≠ some .selfTest →
      let r := t.selftestEnd scope code
      exec (.selftest id code) s = .next (r.1.finish id (stOk, r.2.toNat)))
    ∧ (∀ code : BitVec 8, s.Ready id c 0x905 → t.job.job.isSome = true →
      exec (.selftest id code) s = .next (s.turnAway id (stConflict, 0)))
    ∧ (s.domOn 13 = true → s.domOn 14 = true → s.domOn 15 = true → s.domOn 16 = true → s.host.dramReady = false →
      exec .dramTrainingDone s = .next { s with host := { s.host with dramReady := true } })
    ∧ (∀ code, s.mgmt.fwState = 2 → s.host.dramReady = true → s.host.dramTested = false →
      let t := (s.selftestEnd 0x1F code).1
      exec (.startupSelftestDone code) s = .next { t with host := { t.host with dramTested := true } })

/-- R509, R510, R512 to R518, R633: a PLL whose clock is wanted locks after 8,192 reference cycles; one that loses lock
stops its clock and fences the package, TCLK's puts the Deckle into holdover. A divider moves one step at a time
toward its target, MCLK asking for its voltage before a step up. A domain goes through its stages: 200 µs for its
switches, lock, ramp; off, its clocks stop, its outputs are isolated and 20 µs pass. The next domain of a sequence
starts 1 ms after the last. -/
def Obligations.ClocksAndDomains : Prop :=
  ∀ (s : State) (now : Nat), let t := s.advance now
    (∀ i, i < 16 → t.clkWanted i = true → (t.clk i).locked = false →
      let wait := if i = 9 then 81920 else 327680
      ((t.clk i).stepAt + wait ≤ t.time → exec (.pllLock i now) s =
        .next (t.setClk i { t.clk i with locked := true, j := 0, stepAt := t.time }))
      ∧ (t.time < (t.clk i).stepAt + wait → exec (.pllLock i now) s = .next s))
    ∧ (∀ i, i < 16 → (s.clk i).locked = true → let u := s.setClk i { s.clk i with locked := false, j := 0, stepAt := s.time }
      (i = 10 → exec (.pllLockLoss i) s = .next { u with dk := u.dk.become 3 })
      ∧ (i ≠ 10 → exec (.pllLockLoss i) s = .next ((u.bbPush 12 0 (leBytes 1 i)).selfFence 4)))
    ∧ (∀ i, i < 16 → (t.clk i).locked = true →
      ((t.clk i).stepAt + t.stepTime i ≤ t.time → exec (.dividerStep i now) s = .next (t.takeStep i).powerDone)
      ∧ (t.time < (t.clk i).stepAt + t.stepTime i → exec (.dividerStep i now) s = .next s))
    ∧ (∀ i, (t.clk i).j < t.clkTarget i → (i = 0 ∨ 4 < i) →
      t.takeStep i = t.setClk i { t.clk i with target := t.clkTarget i, j := (t.clk i).j + 1, stepAt := t.time })
    ∧ (∀ i, 1 ≤ i → i ≤ 4 → (t.clk i).j < t.clkTarget i → 3 ≤ (t.clk i).j → (t.die (i - 1)).vcore < vcoreMv (i - 1) ((t.clk i).j + 1) →
      t.takeStep i = (t.setClk i { t.clk i with target := t.clkTarget i, stepAt := t.time }).askVolts (i - 1)
        (vcoreMv (i - 1) ((t.clk i).j + 1)))
    ∧ (∀ d, d < 4 → let x := t.die d
      (x.avsFails = 0 → exec (.avsWriteRetry d true now) s = .next (t.setDie d { x with avsFails := 0, avsAt := t.time }))
      ∧ (x.avsFails = 0 → exec (.avsWriteRetry d false now) s = .next (t.setDie d { x with avsFails := 1, avsAt := t.time }))
      ∧ (x.avsFails = 99 → x.avsAt + us 10 ≤ t.time → exec (.avsWriteRetry d false now) s =
          .next ((State.setDie (t.send (.avs d x.vcore)) d { x with avsFails := 100, avsAt := t.time }).selfFence 4)))
    ∧ (∀ d, d < 20 →
      (∀ a, tget t.pwr.stage d = some (true, 0, a) → (t.time < a + us 200 → exec (.domainSwitchStage d now) s = .next s)
        ∧ (a + us 200 ≤ t.time → (∀ i ∈ domClocks d, (t.clk i).locked = true) →
          exec (.domainSwitchStage d now) s = .next (t.setStage d (true, 1, t.time))))
      ∧ (∀ a, tget t.pwr.stage d = some (true, 1, a) → (∀ i ∈ domClocks d, (t.clk i).locked = true) →
        exec (.domainSwitchStage d now) s = .next (t.setStage d (true, 2, t.time)))
      ∧ (∀ a, tget t.pwr.stage d = some (true, 2, a) → (∀ i ∈ domClocks d, (t.clk i).j = t.clkTarget i) →
        exec (.domainSwitchStage d now) s = .next ((t.endStage d).domainUp d).powerDone)
      ∧ (∀ a, tget t.pwr.stage d = some (false, 0, a) → (∀ i ∈ t.ownClocks d, (t.clk i).j = 0) →
        exec (.domainSwitchStage d now) s = .next ((t.domainOff d).setStage d (false, 1, t.time)))
      ∧ (∀ a, tget t.pwr.stage d = some (false, 1, a) → a + us 20 ≤ t.time → t.ownClocks d = [] →
        exec (.domainSwitchStage d now) s = .next (t.endStage d).powerDone))
    ∧ (∀ d up rest, t.pwr.sequence = (d, up) :: rest → t.pwr.startedAt + ms 1 ≤ t.time → tget t.pwr.stage d = none →
      t.pwr.crystal = true → t.pwr.tripped = false →
      (if up then (domDeps d).all t.domOn else domOrder.all (fun e => !((domDeps e).contains d && t.domOn e))) = true →
      let u := t.setStage d (up, 0, t.time)
      exec (.domainSequenceTick now) s = .next { u with pwr := { u.pwr with sequence := rest, startedAt := t.time } })

/-- R525 to R535: a sample stores its readings newest first and the power, begins a clamp on a die whose sensor has risen
by more than 8 °C, a critical reduction at its limits, and a trip at the trip values. The throttle loop of a die steps
down by one while it is hot, and up by one while it is cool. A clamp ends 10 ms after its level was reached, once
nothing rises and the die is cool enough. -/
def Obligations.ThermalControl : Prop :=
  ∀ (s : State) (now : Nat), let t := s.advance now
    (∀ logic dram power, t.pwr.crystal = true → logic.length = 256 → dram.length = 64 → let u := t.takeSamples logic dram
      let hot (st : Nat) : Bool := (List.range 4).any (fun k =>
        decide (680 ≤ (((u.die (st / 4)).dram)[4 * (st % 4) + k]?).getD 0))
      let v : State := { u with pwr := { u.pwr with power := power % 2 ^ 16, fastRefresh := (List.range 16).filter hot } }
      let w := (List.range 4).foldl State.criticalCheck ((List.range 4).foldl State.clampCheck v)
      (w.tripSensor = none → exec (.sensorSample logic dram power now) s = .next w)
      ∧ (∀ d k r, w.tripSensor = some (d, k, r) → w.pwr.tripped = false →
          exec (.sensorSample logic dram power now) s = .next (w.trip d k r)))
    ∧ (∀ d, d < 4 → t.pwr.crystal = true → let x := t.die d
      x.loopAt + ms 1 ≤ t.time →
      ((760 ≤ x.logicHot ∨ 680 ≤ x.dramHot) → ∃ u, exec (.throttleLoopTick d now) s = .next u
        ∧ u.die d = { x with loopAt := t.time, throttle := Max.max 4 (x.throttle - 1) })
      ∧ (x.logicHot < 760 → x.dramHot < 680 → x.cool = true → exec (.throttleLoopTick d now) s =
          .next (t.setDie d { x with loopAt := t.time, throttle := Min.min 15 (x.throttle + 1) }))
      ∧ (x.logicHot < 760 → x.dramHot < 680 → x.cool = false → exec (.throttleLoopTick d now) s =
          .next (t.setDie d { x with loopAt := t.time })))
    ∧ (∀ d, d < 4 → t.pwr.crystal = true → t.time < (t.die d).loopAt + ms 1 → exec (.throttleLoopTick d now) s = .next s)
    ∧ (∀ d r, d < 4 → let x := t.die d
      x.reachedAt = some r → x.clampActive = true → x.logic.any rises = false → x.logicHot < 760 →
      (r + ms 10 ≤ t.time → exec (.clampHoldExpiry d now) s = .next (t.setDie d
        { x with clampActive := false, reachedAt := none, throttle := Min.min x.throttle x.clampLevel }))
      ∧ (t.time < r + ms 10 → exec (.clampHoldExpiry d now) s = .next s))

/-- R508, R537, R609, R612, R613, R626: RESET_N takes every register to its reset value but the fuses, the banks, the bank
flag and the black box; the release counts a boot; the crystal, stable 65,536 cycles later, queues the power-on record
and the first domains. The boot ROM runs the active bank where it is valid, else the other; ready firmware raises
admin_ready and brings the other domains up; one fuse is blown while the running version asks for it. -/
def Obligations.ResetAndBringUp : Prop :=
  ∀ (s : State),
    (exec .resetNAssert s = .next (s.intoReset s.bb.charged))
    ∧ ((s.intoReset s.bb.charged).iden.fuses = s.iden.fuses ∧ (s.intoReset s.bb.charged).iden.bankA = s.iden.bankA
      ∧ (s.intoReset s.bb.charged).iden.bankB = s.iden.bankB ∧ (s.intoReset s.bb.charged).iden.flag = s.iden.flag
      ∧ (s.intoReset s.bb.charged).bb.recs = s.bb.recs ∧ (s.intoReset s.bb.charged).bb.next = s.bb.next
      ∧ (s.intoReset s.bb.charged).host.session = false ∧ (s.intoReset s.bb.charged).host.tokens = []
      ∧ (s.intoReset s.bb.charged).job.job = none ∧ (s.intoReset s.bb.charged).pwr.resetLow = true)
    ∧ (s.pwr.resetLow = true → exec .resetRelease s = .next { s with
        pwr := { s.pwr with resetLow := false, startedAt := s.time }
        bb := { s.bb with boot := (s.bb.boot + 1) % 2 ^ 32 } })
    ∧ (∀ now, let t := s.advance now
      t.pwr.resetLow = false → t.pwr.crystal = false →
      (t.pwr.startedAt + 2621440 ≤ t.time → let u := t.bbPush 1 0 (leBytes 4 t.bb.lost)
        exec (.crystalStable now) s = .next { u with pwr := { u.pwr with crystal := true, sequence := [(1, true), (2, true)] }
                                                     bb := { u.bb with lost := 0 } })
      ∧ (t.time < t.pwr.startedAt + 2621440 → exec (.crystalStable now) s = .next s))
    ∧ (∀ x y, s.mgmt.fwState = 0 → s.mgmt.romDone = false → s.domOn 1 = true →
      bankCheck (s.iden.bank s.iden.flag) s.iden.fuses = .ok (x, y) → Config.trustListOk (y.head ++ y.body) = true →
      exec .bootRomVerify s = .next (State.runBank { s with mgmt := { s.mgmt with romDone := true, fwState := 1 } } x y))
    ∧ (∀ e x y, s.mgmt.fwState = 0 → s.mgmt.romDone = false → s.domOn 1 = true →
      bankCheck (s.iden.bank s.iden.flag) s.iden.fuses = .error e →
      bankCheck (s.iden.bank (!s.iden.flag)) s.iden.fuses = .ok (x, y) → Config.trustListOk (y.head ++ y.body) = true →
      ∃ t, exec .bootRomVerify s = .next t ∧ t.mgmt.fwState = 1 ∧ t.iden.flag = !s.iden.flag)
    ∧ (∀ e f, s.mgmt.fwState = 0 → s.mgmt.romDone = false → s.domOn 1 = true →
      bankCheck (s.iden.bank s.iden.flag) s.iden.fuses = .error e → bankCheck (s.iden.bank (!s.iden.flag)) s.iden.fuses = .error f →
      ∃ t, exec .bootRomVerify s = .next t ∧ t.mgmt.fwState = 0 ∧ t.mgmt.romDone = true ∧ t.iden.flag = !s.iden.flag)
    ∧ (∀ now, let t := s.advance now
      t.mgmt.fwState = 1 → t.domOn 1 = true → t.mgmt.sleep = 0 → exec (.firmwareAdminReady now) s = .next t.adminUp)
    ∧ (s.mgmt.fwState = 2 → s.ready = true → s.iden.fuses < s.svn → s.iden.fuses < 64 →
      exec .fuseBlow s = .next (State.measure3 { s with iden := { s.iden with fuses := s.iden.fuses + 1 } }))
    ∧ (s.iden.fuses = 64 → exec .fuseBlow s = .next s)

/-- R606, R614 to R616, R618: FW_STAGE keeps an image whose checks pass in the bank that does not run and answers its
security version, or ends with ST_SECURITY and the first failed check; FW_ACTIVATE waits for the commands before it
and takes the firmware down; ready within 5 s, the staged bank runs and the command completes with ST_OK, otherwise
with ST_BAD_PARAM and detail 1. ATTEST writes a quote where its length fits. R619 to R621: an SPDM request of a code
that R619 names is answered by the standard's response, any other by an error, over the mailbox or the sideband; the
sideband answers a quote and a debug challenge; a debug unlock whose serial, challenge and signatures hold unlocks and
changes slot 3, any other fails with a record of kind 13; each challenge serves once. -/
def Obligations.FirmwareQuotesAndSideband : Prop :=
  (∀ (s : State) (id : Nat) (c : CmdRec), let t := s.startCmd id
        (secureGate id c s = true → s.Ready id c 0x901 → let len := fld c.packet 32 4
          (∀ l a b, len ≤ 2 ^ 24 → t.hostRead (fld c.packet 24 8) len = some l → bankCheck l t.iden.fuses = .ok (a, b) →
            exec (.fwStage id) s = .next (State.finish { t with iden := { t.iden.setBank (!t.iden.flag) l with staged := true } } id
              (stOk, a.num 12 2)))
          ∧ (∀ l d, len ≤ 2 ^ 24 → t.hostRead (fld c.packet 24 8) len = some l → bankCheck l t.iden.fuses = .error d →
            exec (.fwStage id) s = .next ((t.signFail c (stSecurity, d)).finish id (stSecurity, d)))
          ∧ (2 ^ 24 < len → exec (.fwStage id) s = .next ((t.signFail c (stSecurity, 1)).finish id (stSecurity, 1))))
        ∧ (secureGate id c s = true → s.Ready id c 0x902 → t.iden.staged = true →
          (t.job.job = none → exec (.fwActivate id) s = .next (t.tryActivate id))
          ∧ (t.job.job.isSome = true → exec (.fwActivate id) s = .next (s.turnAway id (stConflict, 0))))
        ∧ (t.mgmt.activating = none → t.host.cmds.any (fun e => decide (e.1 < id)) = false → t.tryActivate id = { t with
            mgmt := { t.mgmt with activating := some (id, t.time), fwState := 6 }
            host := { t.host with adminReady := false } })
        ∧ (∀ now a, let t := s.advance now
          t.mgmt.activating = some (id, a) →
          (∀ x y, t.mgmt.fwState ≠ 1 → bankCheck (t.iden.bank (!t.iden.flag)) t.iden.fuses = .ok (x, y) →
            t.time ≤ a + sec 5 → Config.trustListOk (y.head ++ y.body) = true →
            let u : State := { t with iden := { t.iden with flag := !t.iden.flag, staged := false }
                                      mgmt := { t.mgmt with activating := none } }
            exec (.firmwareAdminReady now) s = .next (((u.runBank x y).bbPush 10 0 []).finish id (stOk, 0)).adminUp)
          ∧ (a + sec 5 ≤ t.time → exec (.fwActivateTimeout now) s = .next (State.finish
            { t with iden := { t.iden with staged := false }
                     mgmt := { t.mgmt with activating := none, fwState := 1 } } id (stBadParam, 1)))
          ∧ (t.time < a + sec 5 → exec (.fwActivateTimeout now) s = .next s))
        ∧ (secureGate id c s = true → s.Ready id c 0x900 → fld c.packet 52 4 < 256 → fld c.packet 40 8 % 32 = 0 →
          (quoteLength (fld c.packet 52 4) ≤ fld c.packet 48 4 → ∀ q u,
            t.quote (BitVec.ofNat 128 (fld c.packet 24 16)) (fld c.packet 52 4) = (q, u) →
            exec (.attest id) s = .next ((u.hostWrite (fld c.packet 40 8) q).finish id (stOk, quoteLength (fld c.packet 52 4))))
          ∧ (fld c.packet 48 4 < quoteLength (fld c.packet 52 4) → exec (.attest id) s =
              .next (s.turnAway id (stNoResource, quoteLength (fld c.packet 52 4))))))
  ∧ (∀ (s : State),
        (∀ code payload r t, s.spdm code payload = (r, t) →
          (s.host.linkUp = true → exec (.spdmRequest code payload) s = .next (t.send (.doe r)))
          ∧ (s.pwr.crystal = true → exec (.sidebandSpdm code payload) s = .next (t.send (.sideband 0 r)))
          ∧ (spdmCodes.contains code = false → r = [0x12, 0x7F, 0x07, code] ∧ t = s))
        ∧ (s.pwr.crystal = true →
          (∀ nonce mask q t, s.quote nonce mask.toNat = (q, t) → exec (.sidebandQuote nonce mask) s = .next (t.send (.sideband 0 q)))
          ∧ (∃ t n, exec .sidebandDebugChallenge s = .next t ∧ t.iden.challenge = some n
            ∧ t.xfer.out = .sideband 0 (recBytes n) :: s.xfer.out)
          ∧ (∀ serial chal key e g, let t : State := { s with iden := { s.iden with challenge := none } }
            let good := serial = Config.serial ∧ s.iden.challenge = some chal
              ∧ Config.sm2Verify Config.rootKey 3 (sm3 (recBytes key)) e = true
              ∧ Config.sm2Verify key 3 (sm3 (recBytes serial ++ recBytes chal)) g = true
            (good → exec (.sidebandDebugUnlock serial chal key e g) s =
              .next ((State.measure3 { t with iden := { t.iden with unlocked := true } }).send (.sideband 0 [])))
            ∧ (¬ good → exec (.sidebandDebugUnlock serial chal key e g) s = .next ((t.bbPush 13 0 []).send (.sideband 1 []))))))

/-- R482, R597 to R604, R630, R634: the entry that has waited longest becomes the next record; BLACKBOX_READ copies
records from a sequence number on and moves the mark; BLACKBOX_CONFIG takes or gives back the shared ball; a dump
trigger queues a record of kind 14, at most one each 100 ms; the sideband reads up to four records; the hold-up alarm
writes the last record while the capacitor is charged and leaves the package in reset. -/
def Obligations.BlackBoxKeepsRecords : Prop :=
  ∀ (s : State),
    (∀ k e b rest, s.bb.queue = (k, e, b) :: rest → s.pwr.crystal = true →
      exec .blackboxRecordWrite s = .next (State.bbWrite { s with bb := { s.bb with queue := rest } } k e b))
    ∧ (∀ (id : Nat) (c : CmdRec), let t := s.startCmd id
      (s.Ready id c 0x903 → fld c.packet 32 8 % 32 = 0 →
        let rs := (t.bb.recs.filter (fun r => decide (t.bbFirst (fld c.packet 24 4) ≤ r.1))).take (fld c.packet 28 4)
        let u := t.hostWrite (fld c.packet 32 8) (rs.flatMap (fun r => recBytes r.2))
        (∀ r, rs.getLast? = some r → exec (.blackboxRead id) s = .next ((State.bbNear
          { u with bb := { u.bb with mark := Max.max u.bb.mark (r.1 + 1) } }).finish id (stOk, rs.length)))
        ∧ (rs = [] → exec (.blackboxRead id) s = .next (u.bbNear.finish id (stOk, 0))))
      ∧ (s.Ready id c 0x904 →
        (fld c.packet 24 1 = 1 → t.pins.ball ≠ 1 → exec (.blackboxConfig id) s =
          .next (State.finish { t with pins := { t.pins with ball := 2 } } id (stOk, 0)))
        ∧ (fld c.packet 24 1 = 1 → t.pins.ball = 1 → exec (.blackboxConfig id) s = .next (s.turnAway id (stConflict, 0)))
        ∧ (fld c.packet 24 1 = 0 → exec (.blackboxConfig id) s = .next (State.finish
          { t with pins := { t.pins with ball := if t.pins.ball = 2 then 0 else t.pins.ball } } id (stOk, 0)))
        ∧ (2 ≤ fld c.packet 24 1 → exec (.blackboxConfig id) s = .next (s.turnAway id (stBadParam, 0)))))
    ∧ (∀ now, let t := s.advance now
      t.pins.ball = 2 →
      (t.bb.dumpAt = none → exec (.dumpTriggerEdge now) s = .next (State.bbPush { t with bb := { t.bb with dumpAt := some t.time } }
        14 0 (recBytes t.idStatus ++ recBytes t.ptStatus ++ leBytes 8 t.fwNow ++ t.bb.notices.flatMap recBytes)))
      ∧ (∀ a, t.bb.dumpAt = some a → t.time < a + ms 100 → exec (.dumpTriggerEdge now) s = .next s))
    ∧ (∀ first n, s.pwr.crystal = true → 1 ≤ n → n ≤ 4 →
      (first < s.bbOldest → exec (.sidebandBlackboxRead first n) s = .next (s.send (.sideband 1 [])))
      ∧ (s.bbOldest ≤ first → exec (.sidebandBlackboxRead first n) s = .next (s.send (.sideband 0
          (((s.bb.recs.filter (fun r => decide (first ≤ r.1))).take n).flatMap (fun r => recBytes r.2))))))
    ∧ (exec .holdupCharged s = .next { s with bb := { s.bb with charged := true } })
    ∧ (s.bb.charged = true → s.pwr.crystal = true → s.bb.queue = [] →
      exec .holdupAlarm s = .next ((s.bbWrite 11 0 []).intoReset false))
    ∧ (∀ k e b rest, s.bb.charged = true → s.pwr.crystal = true → s.bb.queue = (k, e, b) :: rest → exec .holdupAlarm s =
        .next (((State.bbWrite { s with bb := { s.bb with queue := rest } } k e b).bbWrite 11 0 []).intoReset false))
    ∧ (s.bb.charged = false → exec .holdupAlarm s = .next (s.intoReset false))

/-- R599, R600: a record's self digest is the SM3 of its first 480 bytes and each record carries the self digest of the
one before it; a full flash loses its 128 oldest records before it takes another. -/
def Obligations.BlackBoxChains : Prop :=
  ∀ (s : State) (k : Nat) (e : BitVec 256) (b : List Byte), ∃ r,
    (s.bbWrite k e b).bb.recs = (if s.bb.recs.length < 131072 then s.bb.recs else s.bb.recs.drop 128) ++ [(s.bb.next, r)]
    ∧ (s.bbWrite k e b).bb.next = s.bb.next + 1
    ∧ r.extractLsb' 192 256 = s.bb.lastSelf
    ∧ (s.bbWrite k e b).bb.lastSelf = r.extractLsb' 3840 256
    ∧ r.extractLsb' 3840 256 = sm3 ((recBytes r).take 480)
end

