-- ==== Sys2Proof/Laws/Table.lean ====
section
/-! SUPPORT. Sparse tables: what is read after a change, and that every change keeps the keys strictly rising. -/
namespace Sys2Proof.Machine

variable {α β : Type}

@[simp] theorem tget_nil (k : Nat) : tget ([] : Tab α) k = none := rfl

theorem tget_tset (t : Tab α) (k : Nat) (v : α) (j : Nat) : tget (tset t k v) j = if k = j then some v else tget t j := by
  induction t with
  | nil => simp [tset, tget]
  | cons e r ih =>
    obtain ⟨i, w⟩ := e
    simp only [tset]
    grind [tget]

@[simp] theorem tget_tset_self (t : Tab α) (k : Nat) (v : α) : tget (tset t k v) k = some v := by simp [tget_tset]

theorem tget_tset_ne (t : Tab α) {k j : Nat} (v : α) (h : k ≠ j) : tget (tset t k v) j = tget t j := by simp [tget_tset, h]

theorem tget_tdel (t : Tab α) (k j : Nat) : tget (tdel t k) j = if k = j then none else tget t j := by
  induction t with
  | nil => simp [tdel, tget]
  | cons e r ih =>
    obtain ⟨i, w⟩ := e
    simp only [tdel]
    grind [tget]

theorem tget_tmap (t : Tab α) (f : Nat → α → β) (k : Nat) : tget (tmap t f) k = (tget t k).map (f k) := by
  induction t with
  | nil => rfl
  | cons e r ih =>
    obtain ⟨i, w⟩ := e
    simp only [tmap, tget]
    grind

theorem tget_tmod (t : Tab α) (k : Nat) (f : α → α) (j : Nat) :
    tget (tmod t k f) j = if k = j then (tget t k).map f else tget t j := by
  unfold tmod
  cases h : tget t k with
  | none => grind
  | some v => simp [tget_tset]

/-! ### The canonical form -/

theorem tabove_mono {lo hi : Nat} (t : Tab α) (h : lo ≤ hi) (ht : tabove hi t) : tabove lo t := by
  cases t with
  | nil => rfl
  | cons e r => simp_all [tabove]; omega

theorem tabove_tset (t : Tab α) (lo k : Nat) (v : α) (h : tabove lo t) (hk : lo < k) : tabove lo (tset t k v) := by
  cases t with
  | nil => simpa [tset, tabove]
  | cons e r =>
    obtain ⟨i, w⟩ := e
    simp only [tset]
    grind [tabove]

theorem twf_tset (t : Tab α) (k : Nat) (v : α) (h : twf t) : twf (tset t k v) := by
  induction t with
  | nil => rfl
  | cons e r ih =>
    obtain ⟨i, w⟩ := e
    simp only [twf, Bool.and_eq_true] at h
    simp only [tset]
    split
    · simp only [twf, Bool.and_eq_true]
      exact ⟨by simpa [tabove], h⟩
    · split
      · subst k; simp [twf, h]
      · simp only [twf, Bool.and_eq_true]
        exact ⟨tabove_tset _ _ _ _ h.1 (by omega), ih h.2⟩

theorem tabove_trans {lo i : Nat} (t : Tab α) (w : α) (h : tabove lo ((i, w) :: t)) (ht : twf ((i, w) :: t)) : tabove lo t := by
  simp only [twf, Bool.and_eq_true] at ht
  exact tabove_mono t (by simp [tabove] at h; omega) ht.1

theorem tabove_tdel (t : Tab α) (lo k : Nat) (h : tabove lo t) (ht : twf t) : tabove lo (tdel t k) := by
  induction t with
  | nil => rfl
  | cons e r ih =>
    obtain ⟨i, w⟩ := e
    simp only [tdel]
    have h2 := tabove_trans r w h ht
    simp only [twf, Bool.and_eq_true] at ht
    split
    · exact ih h2 ht.2
    · simpa [tabove] using h

theorem twf_tdel (t : Tab α) (k : Nat) (h : twf t) : twf (tdel t k) := by
  induction t with
  | nil => rfl
  | cons e r ih =>
    obtain ⟨i, w⟩ := e
    simp only [twf, Bool.and_eq_true] at h
    simp only [tdel]
    split
    · exact ih h.2
    · simp only [twf, Bool.and_eq_true]
      exact ⟨tabove_tdel _ _ _ h.1 h.2, ih h.2⟩

theorem twf_tmap (t : Tab α) (f : Nat → α → β) (h : twf t) : twf (tmap t f) := by
  induction t with
  | nil => rfl
  | cons e r ih =>
    obtain ⟨i, w⟩ := e
    simp only [twf, Bool.and_eq_true] at h
    simp only [tmap, twf, Bool.and_eq_true]
    refine ⟨?_, ih h.2⟩
    cases r with
    | nil => rfl
    | cons e r => simpa [tmap, tabove] using h.1

theorem twf_tmod (t : Tab α) (k : Nat) (f : α → α) (h : twf t) : twf (tmod t k f) := by
  unfold tmod; split
  · exact h
  · exact twf_tset _ _ _ h

theorem twf_tupd (t : Tab α) (k : Nat) (d : α) (f : α → α) (h : twf t) : twf (tupd t k d f) := twf_tset _ _ _ h

end Sys2Proof.Machine
end

