-- ==== Sys2Proof/Laws/State.lean ====
section
/-! SUPPORT. What each update of the state leaves alone, field by field, and what reading back after it gives; what the
start of a command leaves alone. No proof over a meaning needs to unfold an update. -/
namespace Sys2Proof.Machine

/-! `setPair` changes host -/
@[simp] theorem State.setPair_time (s : State) (n : Nat) (p : Pair) : (s.setPair n p).time = s.time := rfl
@[simp] theorem State.setPair_free (s : State) (n : Nat) (p : Pair) : (s.setPair n p).free = s.free := rfl
@[simp] theorem State.setPair_mem (s : State) (n : Nat) (p : Pair) : (s.setPair n p).mem = s.mem := rfl
@[simp] theorem State.setPair_trk (s : State) (n : Nat) (p : Pair) : (s.setPair n p).trk = s.trk := rfl
@[simp] theorem State.setPair_job (s : State) (n : Nat) (p : Pair) : (s.setPair n p).job = s.job := rfl
@[simp] theorem State.setPair_vat (s : State) (n : Nat) (p : Pair) : (s.setPair n p).vat = s.vat := rfl
@[simp] theorem State.setPair_sheet (s : State) (n : Nat) (p : Pair) : (s.setPair n p).sheet = s.sheet := rfl
@[simp] theorem State.setPair_red (s : State) (n : Nat) (p : Pair) : (s.setPair n p).red = s.red := rfl
@[simp] theorem State.setPair_press (s : State) (n : Nat) (p : Pair) : (s.setPair n p).press = s.press := rfl
@[simp] theorem State.setPair_mould (s : State) (n : Nat) (p : Pair) : (s.setPair n p).mould = s.mould := rfl
@[simp] theorem State.setPair_felt (s : State) (n : Nat) (p : Pair) : (s.setPair n p).felt = s.felt := rfl
@[simp] theorem State.setPair_xfer (s : State) (n : Nat) (p : Pair) : (s.setPair n p).xfer = s.xfer := rfl
@[simp] theorem State.setPair_mgmt (s : State) (n : Nat) (p : Pair) : (s.setPair n p).mgmt = s.mgmt := rfl
@[simp] theorem State.setPair_evc (s : State) (n : Nat) (p : Pair) : (s.setPair n p).evc = s.evc := rfl
@[simp] theorem State.setPair_pwr (s : State) (n : Nat) (p : Pair) : (s.setPair n p).pwr = s.pwr := rfl
@[simp] theorem State.setPair_dk (s : State) (n : Nat) (p : Pair) : (s.setPair n p).dk = s.dk := rfl
@[simp] theorem State.setPair_ctr (s : State) (n : Nat) (p : Pair) : (s.setPair n p).ctr = s.ctr := rfl
@[simp] theorem State.setPair_trc (s : State) (n : Nat) (p : Pair) : (s.setPair n p).trc = s.trc := rfl
@[simp] theorem State.setPair_fail (s : State) (n : Nat) (p : Pair) : (s.setPair n p).fail = s.fail := rfl
@[simp] theorem State.setPair_ckpt (s : State) (n : Nat) (p : Pair) : (s.setPair n p).ckpt = s.ckpt := rfl
@[simp] theorem State.setPair_bb (s : State) (n : Nat) (p : Pair) : (s.setPair n p).bb = s.bb := rfl
@[simp] theorem State.setPair_iden (s : State) (n : Nat) (p : Pair) : (s.setPair n p).iden = s.iden := rfl
@[simp] theorem State.setPair_pins (s : State) (n : Nat) (p : Pair) : (s.setPair n p).pins = s.pins := rfl
@[simp] theorem State.setPair_pending (s : State) (n : Nat) (p : Pair) : (s.setPair n p).pending = s.pending := rfl

/-! `setCmd` changes host -/
@[simp] theorem State.setCmd_time (s : State) (id : Nat) (c : CmdRec) : (s.setCmd id c).time = s.time := rfl
@[simp] theorem State.setCmd_free (s : State) (id : Nat) (c : CmdRec) : (s.setCmd id c).free = s.free := rfl
@[simp] theorem State.setCmd_mem (s : State) (id : Nat) (c : CmdRec) : (s.setCmd id c).mem = s.mem := rfl
@[simp] theorem State.setCmd_trk (s : State) (id : Nat) (c : CmdRec) : (s.setCmd id c).trk = s.trk := rfl
@[simp] theorem State.setCmd_job (s : State) (id : Nat) (c : CmdRec) : (s.setCmd id c).job = s.job := rfl
@[simp] theorem State.setCmd_vat (s : State) (id : Nat) (c : CmdRec) : (s.setCmd id c).vat = s.vat := rfl
@[simp] theorem State.setCmd_sheet (s : State) (id : Nat) (c : CmdRec) : (s.setCmd id c).sheet = s.sheet := rfl
@[simp] theorem State.setCmd_red (s : State) (id : Nat) (c : CmdRec) : (s.setCmd id c).red = s.red := rfl
@[simp] theorem State.setCmd_press (s : State) (id : Nat) (c : CmdRec) : (s.setCmd id c).press = s.press := rfl
@[simp] theorem State.setCmd_mould (s : State) (id : Nat) (c : CmdRec) : (s.setCmd id c).mould = s.mould := rfl
@[simp] theorem State.setCmd_felt (s : State) (id : Nat) (c : CmdRec) : (s.setCmd id c).felt = s.felt := rfl
@[simp] theorem State.setCmd_xfer (s : State) (id : Nat) (c : CmdRec) : (s.setCmd id c).xfer = s.xfer := rfl
@[simp] theorem State.setCmd_mgmt (s : State) (id : Nat) (c : CmdRec) : (s.setCmd id c).mgmt = s.mgmt := rfl
@[simp] theorem State.setCmd_evc (s : State) (id : Nat) (c : CmdRec) : (s.setCmd id c).evc = s.evc := rfl
@[simp] theorem State.setCmd_pwr (s : State) (id : Nat) (c : CmdRec) : (s.setCmd id c).pwr = s.pwr := rfl
@[simp] theorem State.setCmd_dk (s : State) (id : Nat) (c : CmdRec) : (s.setCmd id c).dk = s.dk := rfl
@[simp] theorem State.setCmd_ctr (s : State) (id : Nat) (c : CmdRec) : (s.setCmd id c).ctr = s.ctr := rfl
@[simp] theorem State.setCmd_trc (s : State) (id : Nat) (c : CmdRec) : (s.setCmd id c).trc = s.trc := rfl
@[simp] theorem State.setCmd_fail (s : State) (id : Nat) (c : CmdRec) : (s.setCmd id c).fail = s.fail := rfl
@[simp] theorem State.setCmd_ckpt (s : State) (id : Nat) (c : CmdRec) : (s.setCmd id c).ckpt = s.ckpt := rfl
@[simp] theorem State.setCmd_bb (s : State) (id : Nat) (c : CmdRec) : (s.setCmd id c).bb = s.bb := rfl
@[simp] theorem State.setCmd_iden (s : State) (id : Nat) (c : CmdRec) : (s.setCmd id c).iden = s.iden := rfl
@[simp] theorem State.setCmd_pins (s : State) (id : Nat) (c : CmdRec) : (s.setCmd id c).pins = s.pins := rfl
@[simp] theorem State.setCmd_pending (s : State) (id : Nat) (c : CmdRec) : (s.setCmd id c).pending = s.pending := rfl

/-! `setWin` changes host -/
@[simp] theorem State.setWin_time (s : State) (b : Nat) (w : NWin) : (s.setWin b w).time = s.time := rfl
@[simp] theorem State.setWin_free (s : State) (b : Nat) (w : NWin) : (s.setWin b w).free = s.free := rfl
@[simp] theorem State.setWin_mem (s : State) (b : Nat) (w : NWin) : (s.setWin b w).mem = s.mem := rfl
@[simp] theorem State.setWin_trk (s : State) (b : Nat) (w : NWin) : (s.setWin b w).trk = s.trk := rfl
@[simp] theorem State.setWin_job (s : State) (b : Nat) (w : NWin) : (s.setWin b w).job = s.job := rfl
@[simp] theorem State.setWin_vat (s : State) (b : Nat) (w : NWin) : (s.setWin b w).vat = s.vat := rfl
@[simp] theorem State.setWin_sheet (s : State) (b : Nat) (w : NWin) : (s.setWin b w).sheet = s.sheet := rfl
@[simp] theorem State.setWin_red (s : State) (b : Nat) (w : NWin) : (s.setWin b w).red = s.red := rfl
@[simp] theorem State.setWin_press (s : State) (b : Nat) (w : NWin) : (s.setWin b w).press = s.press := rfl
@[simp] theorem State.setWin_mould (s : State) (b : Nat) (w : NWin) : (s.setWin b w).mould = s.mould := rfl
@[simp] theorem State.setWin_felt (s : State) (b : Nat) (w : NWin) : (s.setWin b w).felt = s.felt := rfl
@[simp] theorem State.setWin_xfer (s : State) (b : Nat) (w : NWin) : (s.setWin b w).xfer = s.xfer := rfl
@[simp] theorem State.setWin_mgmt (s : State) (b : Nat) (w : NWin) : (s.setWin b w).mgmt = s.mgmt := rfl
@[simp] theorem State.setWin_evc (s : State) (b : Nat) (w : NWin) : (s.setWin b w).evc = s.evc := rfl
@[simp] theorem State.setWin_pwr (s : State) (b : Nat) (w : NWin) : (s.setWin b w).pwr = s.pwr := rfl
@[simp] theorem State.setWin_dk (s : State) (b : Nat) (w : NWin) : (s.setWin b w).dk = s.dk := rfl
@[simp] theorem State.setWin_ctr (s : State) (b : Nat) (w : NWin) : (s.setWin b w).ctr = s.ctr := rfl
@[simp] theorem State.setWin_trc (s : State) (b : Nat) (w : NWin) : (s.setWin b w).trc = s.trc := rfl
@[simp] theorem State.setWin_fail (s : State) (b : Nat) (w : NWin) : (s.setWin b w).fail = s.fail := rfl
@[simp] theorem State.setWin_ckpt (s : State) (b : Nat) (w : NWin) : (s.setWin b w).ckpt = s.ckpt := rfl
@[simp] theorem State.setWin_bb (s : State) (b : Nat) (w : NWin) : (s.setWin b w).bb = s.bb := rfl
@[simp] theorem State.setWin_iden (s : State) (b : Nat) (w : NWin) : (s.setWin b w).iden = s.iden := rfl
@[simp] theorem State.setWin_pins (s : State) (b : Nat) (w : NWin) : (s.setWin b w).pins = s.pins := rfl
@[simp] theorem State.setWin_pending (s : State) (b : Nat) (w : NWin) : (s.setWin b w).pending = s.pending := rfl

/-! `putToken` changes host -/
@[simp] theorem State.putToken_time (s : State) (t v : Nat) : (s.putToken t v).time = s.time := rfl
@[simp] theorem State.putToken_free (s : State) (t v : Nat) : (s.putToken t v).free = s.free := rfl
@[simp] theorem State.putToken_mem (s : State) (t v : Nat) : (s.putToken t v).mem = s.mem := rfl
@[simp] theorem State.putToken_trk (s : State) (t v : Nat) : (s.putToken t v).trk = s.trk := rfl
@[simp] theorem State.putToken_job (s : State) (t v : Nat) : (s.putToken t v).job = s.job := rfl
@[simp] theorem State.putToken_vat (s : State) (t v : Nat) : (s.putToken t v).vat = s.vat := rfl
@[simp] theorem State.putToken_sheet (s : State) (t v : Nat) : (s.putToken t v).sheet = s.sheet := rfl
@[simp] theorem State.putToken_red (s : State) (t v : Nat) : (s.putToken t v).red = s.red := rfl
@[simp] theorem State.putToken_press (s : State) (t v : Nat) : (s.putToken t v).press = s.press := rfl
@[simp] theorem State.putToken_mould (s : State) (t v : Nat) : (s.putToken t v).mould = s.mould := rfl
@[simp] theorem State.putToken_felt (s : State) (t v : Nat) : (s.putToken t v).felt = s.felt := rfl
@[simp] theorem State.putToken_xfer (s : State) (t v : Nat) : (s.putToken t v).xfer = s.xfer := rfl
@[simp] theorem State.putToken_mgmt (s : State) (t v : Nat) : (s.putToken t v).mgmt = s.mgmt := rfl
@[simp] theorem State.putToken_evc (s : State) (t v : Nat) : (s.putToken t v).evc = s.evc := rfl
@[simp] theorem State.putToken_pwr (s : State) (t v : Nat) : (s.putToken t v).pwr = s.pwr := rfl
@[simp] theorem State.putToken_dk (s : State) (t v : Nat) : (s.putToken t v).dk = s.dk := rfl
@[simp] theorem State.putToken_ctr (s : State) (t v : Nat) : (s.putToken t v).ctr = s.ctr := rfl
@[simp] theorem State.putToken_trc (s : State) (t v : Nat) : (s.putToken t v).trc = s.trc := rfl
@[simp] theorem State.putToken_fail (s : State) (t v : Nat) : (s.putToken t v).fail = s.fail := rfl
@[simp] theorem State.putToken_ckpt (s : State) (t v : Nat) : (s.putToken t v).ckpt = s.ckpt := rfl
@[simp] theorem State.putToken_bb (s : State) (t v : Nat) : (s.putToken t v).bb = s.bb := rfl
@[simp] theorem State.putToken_iden (s : State) (t v : Nat) : (s.putToken t v).iden = s.iden := rfl
@[simp] theorem State.putToken_pins (s : State) (t v : Nat) : (s.putToken t v).pins = s.pins := rfl
@[simp] theorem State.putToken_pending (s : State) (t v : Nat) : (s.putToken t v).pending = s.pending := rfl

/-! `hostWrite` changes host -/
@[simp] theorem State.hostWrite_time (s : State) (a : Nat) (bs : List Byte) : (s.hostWrite a bs).time = s.time := rfl
@[simp] theorem State.hostWrite_free (s : State) (a : Nat) (bs : List Byte) : (s.hostWrite a bs).free = s.free := rfl
@[simp] theorem State.hostWrite_mem (s : State) (a : Nat) (bs : List Byte) : (s.hostWrite a bs).mem = s.mem := rfl
@[simp] theorem State.hostWrite_trk (s : State) (a : Nat) (bs : List Byte) : (s.hostWrite a bs).trk = s.trk := rfl
@[simp] theorem State.hostWrite_job (s : State) (a : Nat) (bs : List Byte) : (s.hostWrite a bs).job = s.job := rfl
@[simp] theorem State.hostWrite_vat (s : State) (a : Nat) (bs : List Byte) : (s.hostWrite a bs).vat = s.vat := rfl
@[simp] theorem State.hostWrite_sheet (s : State) (a : Nat) (bs : List Byte) : (s.hostWrite a bs).sheet = s.sheet := rfl
@[simp] theorem State.hostWrite_red (s : State) (a : Nat) (bs : List Byte) : (s.hostWrite a bs).red = s.red := rfl
@[simp] theorem State.hostWrite_press (s : State) (a : Nat) (bs : List Byte) : (s.hostWrite a bs).press = s.press := rfl
@[simp] theorem State.hostWrite_mould (s : State) (a : Nat) (bs : List Byte) : (s.hostWrite a bs).mould = s.mould := rfl
@[simp] theorem State.hostWrite_felt (s : State) (a : Nat) (bs : List Byte) : (s.hostWrite a bs).felt = s.felt := rfl
@[simp] theorem State.hostWrite_xfer (s : State) (a : Nat) (bs : List Byte) : (s.hostWrite a bs).xfer = s.xfer := rfl
@[simp] theorem State.hostWrite_mgmt (s : State) (a : Nat) (bs : List Byte) : (s.hostWrite a bs).mgmt = s.mgmt := rfl
@[simp] theorem State.hostWrite_evc (s : State) (a : Nat) (bs : List Byte) : (s.hostWrite a bs).evc = s.evc := rfl
@[simp] theorem State.hostWrite_pwr (s : State) (a : Nat) (bs : List Byte) : (s.hostWrite a bs).pwr = s.pwr := rfl
@[simp] theorem State.hostWrite_dk (s : State) (a : Nat) (bs : List Byte) : (s.hostWrite a bs).dk = s.dk := rfl
@[simp] theorem State.hostWrite_ctr (s : State) (a : Nat) (bs : List Byte) : (s.hostWrite a bs).ctr = s.ctr := rfl
@[simp] theorem State.hostWrite_trc (s : State) (a : Nat) (bs : List Byte) : (s.hostWrite a bs).trc = s.trc := rfl
@[simp] theorem State.hostWrite_fail (s : State) (a : Nat) (bs : List Byte) : (s.hostWrite a bs).fail = s.fail := rfl
@[simp] theorem State.hostWrite_ckpt (s : State) (a : Nat) (bs : List Byte) : (s.hostWrite a bs).ckpt = s.ckpt := rfl
@[simp] theorem State.hostWrite_bb (s : State) (a : Nat) (bs : List Byte) : (s.hostWrite a bs).bb = s.bb := rfl
@[simp] theorem State.hostWrite_iden (s : State) (a : Nat) (bs : List Byte) : (s.hostWrite a bs).iden = s.iden := rfl
@[simp] theorem State.hostWrite_pins (s : State) (a : Nat) (bs : List Byte) : (s.hostWrite a bs).pins = s.pins := rfl
@[simp] theorem State.hostWrite_pending (s : State) (a : Nat) (bs : List Byte) : (s.hostWrite a bs).pending = s.pending := rfl

/-! `hostSees` changes host -/
@[simp] theorem State.hostSees_time (s : State) (ws : HostWrites) : (s.hostSees ws).time = s.time := rfl
@[simp] theorem State.hostSees_free (s : State) (ws : HostWrites) : (s.hostSees ws).free = s.free := rfl
@[simp] theorem State.hostSees_mem (s : State) (ws : HostWrites) : (s.hostSees ws).mem = s.mem := rfl
@[simp] theorem State.hostSees_trk (s : State) (ws : HostWrites) : (s.hostSees ws).trk = s.trk := rfl
@[simp] theorem State.hostSees_job (s : State) (ws : HostWrites) : (s.hostSees ws).job = s.job := rfl
@[simp] theorem State.hostSees_vat (s : State) (ws : HostWrites) : (s.hostSees ws).vat = s.vat := rfl
@[simp] theorem State.hostSees_sheet (s : State) (ws : HostWrites) : (s.hostSees ws).sheet = s.sheet := rfl
@[simp] theorem State.hostSees_red (s : State) (ws : HostWrites) : (s.hostSees ws).red = s.red := rfl
@[simp] theorem State.hostSees_press (s : State) (ws : HostWrites) : (s.hostSees ws).press = s.press := rfl
@[simp] theorem State.hostSees_mould (s : State) (ws : HostWrites) : (s.hostSees ws).mould = s.mould := rfl
@[simp] theorem State.hostSees_felt (s : State) (ws : HostWrites) : (s.hostSees ws).felt = s.felt := rfl
@[simp] theorem State.hostSees_xfer (s : State) (ws : HostWrites) : (s.hostSees ws).xfer = s.xfer := rfl
@[simp] theorem State.hostSees_mgmt (s : State) (ws : HostWrites) : (s.hostSees ws).mgmt = s.mgmt := rfl
@[simp] theorem State.hostSees_evc (s : State) (ws : HostWrites) : (s.hostSees ws).evc = s.evc := rfl
@[simp] theorem State.hostSees_pwr (s : State) (ws : HostWrites) : (s.hostSees ws).pwr = s.pwr := rfl
@[simp] theorem State.hostSees_dk (s : State) (ws : HostWrites) : (s.hostSees ws).dk = s.dk := rfl
@[simp] theorem State.hostSees_ctr (s : State) (ws : HostWrites) : (s.hostSees ws).ctr = s.ctr := rfl
@[simp] theorem State.hostSees_trc (s : State) (ws : HostWrites) : (s.hostSees ws).trc = s.trc := rfl
@[simp] theorem State.hostSees_fail (s : State) (ws : HostWrites) : (s.hostSees ws).fail = s.fail := rfl
@[simp] theorem State.hostSees_ckpt (s : State) (ws : HostWrites) : (s.hostSees ws).ckpt = s.ckpt := rfl
@[simp] theorem State.hostSees_bb (s : State) (ws : HostWrites) : (s.hostSees ws).bb = s.bb := rfl
@[simp] theorem State.hostSees_iden (s : State) (ws : HostWrites) : (s.hostSees ws).iden = s.iden := rfl
@[simp] theorem State.hostSees_pins (s : State) (ws : HostWrites) : (s.hostSees ws).pins = s.pins := rfl
@[simp] theorem State.hostSees_pending (s : State) (ws : HostWrites) : (s.hostSees ws).pending = s.pending := rfl

/-! `bump` changes ctr -/
@[simp] theorem State.bump_time (s : State) (slot n : Nat) : (s.bump slot n).time = s.time := by
  unfold State.bump; split <;> rfl
@[simp] theorem State.bump_free (s : State) (slot n : Nat) : (s.bump slot n).free = s.free := by
  unfold State.bump; split <;> rfl
@[simp] theorem State.bump_host (s : State) (slot n : Nat) : (s.bump slot n).host = s.host := by
  unfold State.bump; split <;> rfl
@[simp] theorem State.bump_mem (s : State) (slot n : Nat) : (s.bump slot n).mem = s.mem := by
  unfold State.bump; split <;> rfl
@[simp] theorem State.bump_trk (s : State) (slot n : Nat) : (s.bump slot n).trk = s.trk := by
  unfold State.bump; split <;> rfl
@[simp] theorem State.bump_job (s : State) (slot n : Nat) : (s.bump slot n).job = s.job := by
  unfold State.bump; split <;> rfl
@[simp] theorem State.bump_vat (s : State) (slot n : Nat) : (s.bump slot n).vat = s.vat := by
  unfold State.bump; split <;> rfl
@[simp] theorem State.bump_sheet (s : State) (slot n : Nat) : (s.bump slot n).sheet = s.sheet := by
  unfold State.bump; split <;> rfl
@[simp] theorem State.bump_red (s : State) (slot n : Nat) : (s.bump slot n).red = s.red := by
  unfold State.bump; split <;> rfl
@[simp] theorem State.bump_press (s : State) (slot n : Nat) : (s.bump slot n).press = s.press := by
  unfold State.bump; split <;> rfl
@[simp] theorem State.bump_mould (s : State) (slot n : Nat) : (s.bump slot n).mould = s.mould := by
  unfold State.bump; split <;> rfl
@[simp] theorem State.bump_felt (s : State) (slot n : Nat) : (s.bump slot n).felt = s.felt := by
  unfold State.bump; split <;> rfl
@[simp] theorem State.bump_xfer (s : State) (slot n : Nat) : (s.bump slot n).xfer = s.xfer := by
  unfold State.bump; split <;> rfl
@[simp] theorem State.bump_mgmt (s : State) (slot n : Nat) : (s.bump slot n).mgmt = s.mgmt := by
  unfold State.bump; split <;> rfl
@[simp] theorem State.bump_evc (s : State) (slot n : Nat) : (s.bump slot n).evc = s.evc := by
  unfold State.bump; split <;> rfl
@[simp] theorem State.bump_pwr (s : State) (slot n : Nat) : (s.bump slot n).pwr = s.pwr := by
  unfold State.bump; split <;> rfl
@[simp] theorem State.bump_dk (s : State) (slot n : Nat) : (s.bump slot n).dk = s.dk := by
  unfold State.bump; split <;> rfl
@[simp] theorem State.bump_trc (s : State) (slot n : Nat) : (s.bump slot n).trc = s.trc := by
  unfold State.bump; split <;> rfl
@[simp] theorem State.bump_fail (s : State) (slot n : Nat) : (s.bump slot n).fail = s.fail := by
  unfold State.bump; split <;> rfl
@[simp] theorem State.bump_ckpt (s : State) (slot n : Nat) : (s.bump slot n).ckpt = s.ckpt := by
  unfold State.bump; split <;> rfl
@[simp] theorem State.bump_bb (s : State) (slot n : Nat) : (s.bump slot n).bb = s.bb := by
  unfold State.bump; split <;> rfl
@[simp] theorem State.bump_iden (s : State) (slot n : Nat) : (s.bump slot n).iden = s.iden := by
  unfold State.bump; split <;> rfl
@[simp] theorem State.bump_pins (s : State) (slot n : Nat) : (s.bump slot n).pins = s.pins := by
  unfold State.bump; split <;> rfl
@[simp] theorem State.bump_pending (s : State) (slot n : Nat) : (s.bump slot n).pending = s.pending := by
  unfold State.bump; split <;> rfl

/-! `send` changes xfer -/
@[simp] theorem State.send_time (s : State) (o : Out) : (s.send o).time = s.time := rfl
@[simp] theorem State.send_free (s : State) (o : Out) : (s.send o).free = s.free := rfl
@[simp] theorem State.send_host (s : State) (o : Out) : (s.send o).host = s.host := rfl
@[simp] theorem State.send_mem (s : State) (o : Out) : (s.send o).mem = s.mem := rfl
@[simp] theorem State.send_trk (s : State) (o : Out) : (s.send o).trk = s.trk := rfl
@[simp] theorem State.send_job (s : State) (o : Out) : (s.send o).job = s.job := rfl
@[simp] theorem State.send_vat (s : State) (o : Out) : (s.send o).vat = s.vat := rfl
@[simp] theorem State.send_sheet (s : State) (o : Out) : (s.send o).sheet = s.sheet := rfl
@[simp] theorem State.send_red (s : State) (o : Out) : (s.send o).red = s.red := rfl
@[simp] theorem State.send_press (s : State) (o : Out) : (s.send o).press = s.press := rfl
@[simp] theorem State.send_mould (s : State) (o : Out) : (s.send o).mould = s.mould := rfl
@[simp] theorem State.send_felt (s : State) (o : Out) : (s.send o).felt = s.felt := rfl
@[simp] theorem State.send_mgmt (s : State) (o : Out) : (s.send o).mgmt = s.mgmt := rfl
@[simp] theorem State.send_evc (s : State) (o : Out) : (s.send o).evc = s.evc := rfl
@[simp] theorem State.send_pwr (s : State) (o : Out) : (s.send o).pwr = s.pwr := rfl
@[simp] theorem State.send_dk (s : State) (o : Out) : (s.send o).dk = s.dk := rfl
@[simp] theorem State.send_ctr (s : State) (o : Out) : (s.send o).ctr = s.ctr := rfl
@[simp] theorem State.send_trc (s : State) (o : Out) : (s.send o).trc = s.trc := rfl
@[simp] theorem State.send_fail (s : State) (o : Out) : (s.send o).fail = s.fail := rfl
@[simp] theorem State.send_ckpt (s : State) (o : Out) : (s.send o).ckpt = s.ckpt := rfl
@[simp] theorem State.send_bb (s : State) (o : Out) : (s.send o).bb = s.bb := rfl
@[simp] theorem State.send_iden (s : State) (o : Out) : (s.send o).iden = s.iden := rfl
@[simp] theorem State.send_pins (s : State) (o : Out) : (s.send o).pins = s.pins := rfl
@[simp] theorem State.send_pending (s : State) (o : Out) : (s.send o).pending = s.pending := rfl

/-! `setMeasure` changes iden -/
@[simp] theorem State.setMeasure_time (s : State) (i : Nat) (d : BitVec 256) : (s.setMeasure i d).time = s.time := rfl
@[simp] theorem State.setMeasure_free (s : State) (i : Nat) (d : BitVec 256) : (s.setMeasure i d).free = s.free := rfl
@[simp] theorem State.setMeasure_host (s : State) (i : Nat) (d : BitVec 256) : (s.setMeasure i d).host = s.host := rfl
@[simp] theorem State.setMeasure_mem (s : State) (i : Nat) (d : BitVec 256) : (s.setMeasure i d).mem = s.mem := rfl
@[simp] theorem State.setMeasure_trk (s : State) (i : Nat) (d : BitVec 256) : (s.setMeasure i d).trk = s.trk := rfl
@[simp] theorem State.setMeasure_job (s : State) (i : Nat) (d : BitVec 256) : (s.setMeasure i d).job = s.job := rfl
@[simp] theorem State.setMeasure_vat (s : State) (i : Nat) (d : BitVec 256) : (s.setMeasure i d).vat = s.vat := rfl
@[simp] theorem State.setMeasure_sheet (s : State) (i : Nat) (d : BitVec 256) : (s.setMeasure i d).sheet = s.sheet := rfl
@[simp] theorem State.setMeasure_red (s : State) (i : Nat) (d : BitVec 256) : (s.setMeasure i d).red = s.red := rfl
@[simp] theorem State.setMeasure_press (s : State) (i : Nat) (d : BitVec 256) : (s.setMeasure i d).press = s.press := rfl
@[simp] theorem State.setMeasure_mould (s : State) (i : Nat) (d : BitVec 256) : (s.setMeasure i d).mould = s.mould := rfl
@[simp] theorem State.setMeasure_felt (s : State) (i : Nat) (d : BitVec 256) : (s.setMeasure i d).felt = s.felt := rfl
@[simp] theorem State.setMeasure_xfer (s : State) (i : Nat) (d : BitVec 256) : (s.setMeasure i d).xfer = s.xfer := rfl
@[simp] theorem State.setMeasure_mgmt (s : State) (i : Nat) (d : BitVec 256) : (s.setMeasure i d).mgmt = s.mgmt := rfl
@[simp] theorem State.setMeasure_evc (s : State) (i : Nat) (d : BitVec 256) : (s.setMeasure i d).evc = s.evc := rfl
@[simp] theorem State.setMeasure_pwr (s : State) (i : Nat) (d : BitVec 256) : (s.setMeasure i d).pwr = s.pwr := rfl
@[simp] theorem State.setMeasure_dk (s : State) (i : Nat) (d : BitVec 256) : (s.setMeasure i d).dk = s.dk := rfl
@[simp] theorem State.setMeasure_ctr (s : State) (i : Nat) (d : BitVec 256) : (s.setMeasure i d).ctr = s.ctr := rfl
@[simp] theorem State.setMeasure_trc (s : State) (i : Nat) (d : BitVec 256) : (s.setMeasure i d).trc = s.trc := rfl
@[simp] theorem State.setMeasure_fail (s : State) (i : Nat) (d : BitVec 256) : (s.setMeasure i d).fail = s.fail := rfl
@[simp] theorem State.setMeasure_ckpt (s : State) (i : Nat) (d : BitVec 256) : (s.setMeasure i d).ckpt = s.ckpt := rfl
@[simp] theorem State.setMeasure_bb (s : State) (i : Nat) (d : BitVec 256) : (s.setMeasure i d).bb = s.bb := rfl
@[simp] theorem State.setMeasure_pins (s : State) (i : Nat) (d : BitVec 256) : (s.setMeasure i d).pins = s.pins := rfl
@[simp] theorem State.setMeasure_pending (s : State) (i : Nat) (d : BitVec 256) : (s.setMeasure i d).pending = s.pending := rfl

/-! `bbPush` changes bb -/
@[simp] theorem State.bbPush_time (s : State) (kind : Nat) (event : BitVec 256) (body : List Byte) : (s.bbPush kind event body).time = s.time := rfl
@[simp] theorem State.bbPush_free (s : State) (kind : Nat) (event : BitVec 256) (body : List Byte) : (s.bbPush kind event body).free = s.free := rfl
@[simp] theorem State.bbPush_host (s : State) (kind : Nat) (event : BitVec 256) (body : List Byte) : (s.bbPush kind event body).host = s.host := rfl
@[simp] theorem State.bbPush_mem (s : State) (kind : Nat) (event : BitVec 256) (body : List Byte) : (s.bbPush kind event body).mem = s.mem := rfl
@[simp] theorem State.bbPush_trk (s : State) (kind : Nat) (event : BitVec 256) (body : List Byte) : (s.bbPush kind event body).trk = s.trk := rfl
@[simp] theorem State.bbPush_job (s : State) (kind : Nat) (event : BitVec 256) (body : List Byte) : (s.bbPush kind event body).job = s.job := rfl
@[simp] theorem State.bbPush_vat (s : State) (kind : Nat) (event : BitVec 256) (body : List Byte) : (s.bbPush kind event body).vat = s.vat := rfl
@[simp] theorem State.bbPush_sheet (s : State) (kind : Nat) (event : BitVec 256) (body : List Byte) : (s.bbPush kind event body).sheet = s.sheet := rfl
@[simp] theorem State.bbPush_red (s : State) (kind : Nat) (event : BitVec 256) (body : List Byte) : (s.bbPush kind event body).red = s.red := rfl
@[simp] theorem State.bbPush_press (s : State) (kind : Nat) (event : BitVec 256) (body : List Byte) : (s.bbPush kind event body).press = s.press := rfl
@[simp] theorem State.bbPush_mould (s : State) (kind : Nat) (event : BitVec 256) (body : List Byte) : (s.bbPush kind event body).mould = s.mould := rfl
@[simp] theorem State.bbPush_felt (s : State) (kind : Nat) (event : BitVec 256) (body : List Byte) : (s.bbPush kind event body).felt = s.felt := rfl
@[simp] theorem State.bbPush_xfer (s : State) (kind : Nat) (event : BitVec 256) (body : List Byte) : (s.bbPush kind event body).xfer = s.xfer := rfl
@[simp] theorem State.bbPush_mgmt (s : State) (kind : Nat) (event : BitVec 256) (body : List Byte) : (s.bbPush kind event body).mgmt = s.mgmt := rfl
@[simp] theorem State.bbPush_evc (s : State) (kind : Nat) (event : BitVec 256) (body : List Byte) : (s.bbPush kind event body).evc = s.evc := rfl
@[simp] theorem State.bbPush_pwr (s : State) (kind : Nat) (event : BitVec 256) (body : List Byte) : (s.bbPush kind event body).pwr = s.pwr := rfl
@[simp] theorem State.bbPush_dk (s : State) (kind : Nat) (event : BitVec 256) (body : List Byte) : (s.bbPush kind event body).dk = s.dk := rfl
@[simp] theorem State.bbPush_ctr (s : State) (kind : Nat) (event : BitVec 256) (body : List Byte) : (s.bbPush kind event body).ctr = s.ctr := rfl
@[simp] theorem State.bbPush_trc (s : State) (kind : Nat) (event : BitVec 256) (body : List Byte) : (s.bbPush kind event body).trc = s.trc := rfl
@[simp] theorem State.bbPush_fail (s : State) (kind : Nat) (event : BitVec 256) (body : List Byte) : (s.bbPush kind event body).fail = s.fail := rfl
@[simp] theorem State.bbPush_ckpt (s : State) (kind : Nat) (event : BitVec 256) (body : List Byte) : (s.bbPush kind event body).ckpt = s.ckpt := rfl
@[simp] theorem State.bbPush_iden (s : State) (kind : Nat) (event : BitVec 256) (body : List Byte) : (s.bbPush kind event body).iden = s.iden := rfl
@[simp] theorem State.bbPush_pins (s : State) (kind : Nat) (event : BitVec 256) (body : List Byte) : (s.bbPush kind event body).pins = s.pins := rfl
@[simp] theorem State.bbPush_pending (s : State) (kind : Nat) (event : BitVec 256) (body : List Byte) : (s.bbPush kind event body).pending = s.pending := rfl

/-! `setClus` changes sheet -/
@[simp] theorem State.setClus_time (s : State) (cl : Nat) (c : Cluster) : (s.setClus cl c).time = s.time := rfl
@[simp] theorem State.setClus_free (s : State) (cl : Nat) (c : Cluster) : (s.setClus cl c).free = s.free := rfl
@[simp] theorem State.setClus_host (s : State) (cl : Nat) (c : Cluster) : (s.setClus cl c).host = s.host := rfl
@[simp] theorem State.setClus_mem (s : State) (cl : Nat) (c : Cluster) : (s.setClus cl c).mem = s.mem := rfl
@[simp] theorem State.setClus_trk (s : State) (cl : Nat) (c : Cluster) : (s.setClus cl c).trk = s.trk := rfl
@[simp] theorem State.setClus_job (s : State) (cl : Nat) (c : Cluster) : (s.setClus cl c).job = s.job := rfl
@[simp] theorem State.setClus_vat (s : State) (cl : Nat) (c : Cluster) : (s.setClus cl c).vat = s.vat := rfl
@[simp] theorem State.setClus_red (s : State) (cl : Nat) (c : Cluster) : (s.setClus cl c).red = s.red := rfl
@[simp] theorem State.setClus_press (s : State) (cl : Nat) (c : Cluster) : (s.setClus cl c).press = s.press := rfl
@[simp] theorem State.setClus_mould (s : State) (cl : Nat) (c : Cluster) : (s.setClus cl c).mould = s.mould := rfl
@[simp] theorem State.setClus_felt (s : State) (cl : Nat) (c : Cluster) : (s.setClus cl c).felt = s.felt := rfl
@[simp] theorem State.setClus_xfer (s : State) (cl : Nat) (c : Cluster) : (s.setClus cl c).xfer = s.xfer := rfl
@[simp] theorem State.setClus_mgmt (s : State) (cl : Nat) (c : Cluster) : (s.setClus cl c).mgmt = s.mgmt := rfl
@[simp] theorem State.setClus_evc (s : State) (cl : Nat) (c : Cluster) : (s.setClus cl c).evc = s.evc := rfl
@[simp] theorem State.setClus_pwr (s : State) (cl : Nat) (c : Cluster) : (s.setClus cl c).pwr = s.pwr := rfl
@[simp] theorem State.setClus_dk (s : State) (cl : Nat) (c : Cluster) : (s.setClus cl c).dk = s.dk := rfl
@[simp] theorem State.setClus_ctr (s : State) (cl : Nat) (c : Cluster) : (s.setClus cl c).ctr = s.ctr := rfl
@[simp] theorem State.setClus_trc (s : State) (cl : Nat) (c : Cluster) : (s.setClus cl c).trc = s.trc := rfl
@[simp] theorem State.setClus_fail (s : State) (cl : Nat) (c : Cluster) : (s.setClus cl c).fail = s.fail := rfl
@[simp] theorem State.setClus_ckpt (s : State) (cl : Nat) (c : Cluster) : (s.setClus cl c).ckpt = s.ckpt := rfl
@[simp] theorem State.setClus_bb (s : State) (cl : Nat) (c : Cluster) : (s.setClus cl c).bb = s.bb := rfl
@[simp] theorem State.setClus_iden (s : State) (cl : Nat) (c : Cluster) : (s.setClus cl c).iden = s.iden := rfl
@[simp] theorem State.setClus_pins (s : State) (cl : Nat) (c : Cluster) : (s.setClus cl c).pins = s.pins := rfl
@[simp] theorem State.setClus_pending (s : State) (cl : Nat) (c : Cluster) : (s.setClus cl c).pending = s.pending := rfl

/-! `setStack` changes sheet -/
@[simp] theorem State.setStack_time (s : State) (cl : Nat) (l : List StackRec) : (s.setStack cl l).time = s.time := rfl
@[simp] theorem State.setStack_free (s : State) (cl : Nat) (l : List StackRec) : (s.setStack cl l).free = s.free := rfl
@[simp] theorem State.setStack_host (s : State) (cl : Nat) (l : List StackRec) : (s.setStack cl l).host = s.host := rfl
@[simp] theorem State.setStack_mem (s : State) (cl : Nat) (l : List StackRec) : (s.setStack cl l).mem = s.mem := rfl
@[simp] theorem State.setStack_trk (s : State) (cl : Nat) (l : List StackRec) : (s.setStack cl l).trk = s.trk := rfl
@[simp] theorem State.setStack_job (s : State) (cl : Nat) (l : List StackRec) : (s.setStack cl l).job = s.job := rfl
@[simp] theorem State.setStack_vat (s : State) (cl : Nat) (l : List StackRec) : (s.setStack cl l).vat = s.vat := rfl
@[simp] theorem State.setStack_red (s : State) (cl : Nat) (l : List StackRec) : (s.setStack cl l).red = s.red := rfl
@[simp] theorem State.setStack_press (s : State) (cl : Nat) (l : List StackRec) : (s.setStack cl l).press = s.press := rfl
@[simp] theorem State.setStack_mould (s : State) (cl : Nat) (l : List StackRec) : (s.setStack cl l).mould = s.mould := rfl
@[simp] theorem State.setStack_felt (s : State) (cl : Nat) (l : List StackRec) : (s.setStack cl l).felt = s.felt := rfl
@[simp] theorem State.setStack_xfer (s : State) (cl : Nat) (l : List StackRec) : (s.setStack cl l).xfer = s.xfer := rfl
@[simp] theorem State.setStack_mgmt (s : State) (cl : Nat) (l : List StackRec) : (s.setStack cl l).mgmt = s.mgmt := rfl
@[simp] theorem State.setStack_evc (s : State) (cl : Nat) (l : List StackRec) : (s.setStack cl l).evc = s.evc := rfl
@[simp] theorem State.setStack_pwr (s : State) (cl : Nat) (l : List StackRec) : (s.setStack cl l).pwr = s.pwr := rfl
@[simp] theorem State.setStack_dk (s : State) (cl : Nat) (l : List StackRec) : (s.setStack cl l).dk = s.dk := rfl
@[simp] theorem State.setStack_ctr (s : State) (cl : Nat) (l : List StackRec) : (s.setStack cl l).ctr = s.ctr := rfl
@[simp] theorem State.setStack_trc (s : State) (cl : Nat) (l : List StackRec) : (s.setStack cl l).trc = s.trc := rfl
@[simp] theorem State.setStack_fail (s : State) (cl : Nat) (l : List StackRec) : (s.setStack cl l).fail = s.fail := rfl
@[simp] theorem State.setStack_ckpt (s : State) (cl : Nat) (l : List StackRec) : (s.setStack cl l).ckpt = s.ckpt := rfl
@[simp] theorem State.setStack_bb (s : State) (cl : Nat) (l : List StackRec) : (s.setStack cl l).bb = s.bb := rfl
@[simp] theorem State.setStack_iden (s : State) (cl : Nat) (l : List StackRec) : (s.setStack cl l).iden = s.iden := rfl
@[simp] theorem State.setStack_pins (s : State) (cl : Nat) (l : List StackRec) : (s.setStack cl l).pins = s.pins := rfl
@[simp] theorem State.setStack_pending (s : State) (cl : Nat) (l : List StackRec) : (s.setStack cl l).pending = s.pending := rfl

/-! `setLaunch` changes sheet -/
@[simp] theorem State.setLaunch_time (s : State) (id : Nat) (l : Launch) : (s.setLaunch id l).time = s.time := rfl
@[simp] theorem State.setLaunch_free (s : State) (id : Nat) (l : Launch) : (s.setLaunch id l).free = s.free := rfl
@[simp] theorem State.setLaunch_host (s : State) (id : Nat) (l : Launch) : (s.setLaunch id l).host = s.host := rfl
@[simp] theorem State.setLaunch_mem (s : State) (id : Nat) (l : Launch) : (s.setLaunch id l).mem = s.mem := rfl
@[simp] theorem State.setLaunch_trk (s : State) (id : Nat) (l : Launch) : (s.setLaunch id l).trk = s.trk := rfl
@[simp] theorem State.setLaunch_job (s : State) (id : Nat) (l : Launch) : (s.setLaunch id l).job = s.job := rfl
@[simp] theorem State.setLaunch_vat (s : State) (id : Nat) (l : Launch) : (s.setLaunch id l).vat = s.vat := rfl
@[simp] theorem State.setLaunch_red (s : State) (id : Nat) (l : Launch) : (s.setLaunch id l).red = s.red := rfl
@[simp] theorem State.setLaunch_press (s : State) (id : Nat) (l : Launch) : (s.setLaunch id l).press = s.press := rfl
@[simp] theorem State.setLaunch_mould (s : State) (id : Nat) (l : Launch) : (s.setLaunch id l).mould = s.mould := rfl
@[simp] theorem State.setLaunch_felt (s : State) (id : Nat) (l : Launch) : (s.setLaunch id l).felt = s.felt := rfl
@[simp] theorem State.setLaunch_xfer (s : State) (id : Nat) (l : Launch) : (s.setLaunch id l).xfer = s.xfer := rfl
@[simp] theorem State.setLaunch_mgmt (s : State) (id : Nat) (l : Launch) : (s.setLaunch id l).mgmt = s.mgmt := rfl
@[simp] theorem State.setLaunch_evc (s : State) (id : Nat) (l : Launch) : (s.setLaunch id l).evc = s.evc := rfl
@[simp] theorem State.setLaunch_pwr (s : State) (id : Nat) (l : Launch) : (s.setLaunch id l).pwr = s.pwr := rfl
@[simp] theorem State.setLaunch_dk (s : State) (id : Nat) (l : Launch) : (s.setLaunch id l).dk = s.dk := rfl
@[simp] theorem State.setLaunch_ctr (s : State) (id : Nat) (l : Launch) : (s.setLaunch id l).ctr = s.ctr := rfl
@[simp] theorem State.setLaunch_trc (s : State) (id : Nat) (l : Launch) : (s.setLaunch id l).trc = s.trc := rfl
@[simp] theorem State.setLaunch_fail (s : State) (id : Nat) (l : Launch) : (s.setLaunch id l).fail = s.fail := rfl
@[simp] theorem State.setLaunch_ckpt (s : State) (id : Nat) (l : Launch) : (s.setLaunch id l).ckpt = s.ckpt := rfl
@[simp] theorem State.setLaunch_bb (s : State) (id : Nat) (l : Launch) : (s.setLaunch id l).bb = s.bb := rfl
@[simp] theorem State.setLaunch_iden (s : State) (id : Nat) (l : Launch) : (s.setLaunch id l).iden = s.iden := rfl
@[simp] theorem State.setLaunch_pins (s : State) (id : Nat) (l : Launch) : (s.setLaunch id l).pins = s.pins := rfl
@[simp] theorem State.setLaunch_pending (s : State) (id : Nat) (l : Launch) : (s.setLaunch id l).pending = s.pending := rfl

/-! `setInst` changes xfer -/
@[simp] theorem State.setInst_time (s : State) (id : Nat) (i : Inst) : (s.setInst id i).time = s.time := rfl
@[simp] theorem State.setInst_free (s : State) (id : Nat) (i : Inst) : (s.setInst id i).free = s.free := rfl
@[simp] theorem State.setInst_host (s : State) (id : Nat) (i : Inst) : (s.setInst id i).host = s.host := rfl
@[simp] theorem State.setInst_mem (s : State) (id : Nat) (i : Inst) : (s.setInst id i).mem = s.mem := rfl
@[simp] theorem State.setInst_trk (s : State) (id : Nat) (i : Inst) : (s.setInst id i).trk = s.trk := rfl
@[simp] theorem State.setInst_job (s : State) (id : Nat) (i : Inst) : (s.setInst id i).job = s.job := rfl
@[simp] theorem State.setInst_vat (s : State) (id : Nat) (i : Inst) : (s.setInst id i).vat = s.vat := rfl
@[simp] theorem State.setInst_sheet (s : State) (id : Nat) (i : Inst) : (s.setInst id i).sheet = s.sheet := rfl
@[simp] theorem State.setInst_red (s : State) (id : Nat) (i : Inst) : (s.setInst id i).red = s.red := rfl
@[simp] theorem State.setInst_press (s : State) (id : Nat) (i : Inst) : (s.setInst id i).press = s.press := rfl
@[simp] theorem State.setInst_mould (s : State) (id : Nat) (i : Inst) : (s.setInst id i).mould = s.mould := rfl
@[simp] theorem State.setInst_felt (s : State) (id : Nat) (i : Inst) : (s.setInst id i).felt = s.felt := rfl
@[simp] theorem State.setInst_mgmt (s : State) (id : Nat) (i : Inst) : (s.setInst id i).mgmt = s.mgmt := rfl
@[simp] theorem State.setInst_evc (s : State) (id : Nat) (i : Inst) : (s.setInst id i).evc = s.evc := rfl
@[simp] theorem State.setInst_pwr (s : State) (id : Nat) (i : Inst) : (s.setInst id i).pwr = s.pwr := rfl
@[simp] theorem State.setInst_dk (s : State) (id : Nat) (i : Inst) : (s.setInst id i).dk = s.dk := rfl
@[simp] theorem State.setInst_ctr (s : State) (id : Nat) (i : Inst) : (s.setInst id i).ctr = s.ctr := rfl
@[simp] theorem State.setInst_trc (s : State) (id : Nat) (i : Inst) : (s.setInst id i).trc = s.trc := rfl
@[simp] theorem State.setInst_fail (s : State) (id : Nat) (i : Inst) : (s.setInst id i).fail = s.fail := rfl
@[simp] theorem State.setInst_ckpt (s : State) (id : Nat) (i : Inst) : (s.setInst id i).ckpt = s.ckpt := rfl
@[simp] theorem State.setInst_bb (s : State) (id : Nat) (i : Inst) : (s.setInst id i).bb = s.bb := rfl
@[simp] theorem State.setInst_iden (s : State) (id : Nat) (i : Inst) : (s.setInst id i).iden = s.iden := rfl
@[simp] theorem State.setInst_pins (s : State) (id : Nat) (i : Inst) : (s.setInst id i).pins = s.pins := rfl
@[simp] theorem State.setInst_pending (s : State) (id : Nat) (i : Inst) : (s.setInst id i).pending = s.pending := rfl

/-! `setOne` changes xfer -/
@[simp] theorem State.setOne_time (s : State) (id : Nat) (o : OneSided) : (s.setOne id o).time = s.time := rfl
@[simp] theorem State.setOne_free (s : State) (id : Nat) (o : OneSided) : (s.setOne id o).free = s.free := rfl
@[simp] theorem State.setOne_host (s : State) (id : Nat) (o : OneSided) : (s.setOne id o).host = s.host := rfl
@[simp] theorem State.setOne_mem (s : State) (id : Nat) (o : OneSided) : (s.setOne id o).mem = s.mem := rfl
@[simp] theorem State.setOne_trk (s : State) (id : Nat) (o : OneSided) : (s.setOne id o).trk = s.trk := rfl
@[simp] theorem State.setOne_job (s : State) (id : Nat) (o : OneSided) : (s.setOne id o).job = s.job := rfl
@[simp] theorem State.setOne_vat (s : State) (id : Nat) (o : OneSided) : (s.setOne id o).vat = s.vat := rfl
@[simp] theorem State.setOne_sheet (s : State) (id : Nat) (o : OneSided) : (s.setOne id o).sheet = s.sheet := rfl
@[simp] theorem State.setOne_red (s : State) (id : Nat) (o : OneSided) : (s.setOne id o).red = s.red := rfl
@[simp] theorem State.setOne_press (s : State) (id : Nat) (o : OneSided) : (s.setOne id o).press = s.press := rfl
@[simp] theorem State.setOne_mould (s : State) (id : Nat) (o : OneSided) : (s.setOne id o).mould = s.mould := rfl
@[simp] theorem State.setOne_felt (s : State) (id : Nat) (o : OneSided) : (s.setOne id o).felt = s.felt := rfl
@[simp] theorem State.setOne_mgmt (s : State) (id : Nat) (o : OneSided) : (s.setOne id o).mgmt = s.mgmt := rfl
@[simp] theorem State.setOne_evc (s : State) (id : Nat) (o : OneSided) : (s.setOne id o).evc = s.evc := rfl
@[simp] theorem State.setOne_pwr (s : State) (id : Nat) (o : OneSided) : (s.setOne id o).pwr = s.pwr := rfl
@[simp] theorem State.setOne_dk (s : State) (id : Nat) (o : OneSided) : (s.setOne id o).dk = s.dk := rfl
@[simp] theorem State.setOne_ctr (s : State) (id : Nat) (o : OneSided) : (s.setOne id o).ctr = s.ctr := rfl
@[simp] theorem State.setOne_trc (s : State) (id : Nat) (o : OneSided) : (s.setOne id o).trc = s.trc := rfl
@[simp] theorem State.setOne_fail (s : State) (id : Nat) (o : OneSided) : (s.setOne id o).fail = s.fail := rfl
@[simp] theorem State.setOne_ckpt (s : State) (id : Nat) (o : OneSided) : (s.setOne id o).ckpt = s.ckpt := rfl
@[simp] theorem State.setOne_bb (s : State) (id : Nat) (o : OneSided) : (s.setOne id o).bb = s.bb := rfl
@[simp] theorem State.setOne_iden (s : State) (id : Nat) (o : OneSided) : (s.setOne id o).iden = s.iden := rfl
@[simp] theorem State.setOne_pins (s : State) (id : Nat) (o : OneSided) : (s.setOne id o).pins = s.pins := rfl
@[simp] theorem State.setOne_pending (s : State) (id : Nat) (o : OneSided) : (s.setOne id o).pending = s.pending := rfl

/-! `setLink` changes felt -/
@[simp] theorem State.setLink_time (s : State) (l : Nat) (k : Link) : (s.setLink l k).time = s.time := rfl
@[simp] theorem State.setLink_free (s : State) (l : Nat) (k : Link) : (s.setLink l k).free = s.free := rfl
@[simp] theorem State.setLink_host (s : State) (l : Nat) (k : Link) : (s.setLink l k).host = s.host := rfl
@[simp] theorem State.setLink_mem (s : State) (l : Nat) (k : Link) : (s.setLink l k).mem = s.mem := rfl
@[simp] theorem State.setLink_trk (s : State) (l : Nat) (k : Link) : (s.setLink l k).trk = s.trk := rfl
@[simp] theorem State.setLink_job (s : State) (l : Nat) (k : Link) : (s.setLink l k).job = s.job := rfl
@[simp] theorem State.setLink_vat (s : State) (l : Nat) (k : Link) : (s.setLink l k).vat = s.vat := rfl
@[simp] theorem State.setLink_sheet (s : State) (l : Nat) (k : Link) : (s.setLink l k).sheet = s.sheet := rfl
@[simp] theorem State.setLink_red (s : State) (l : Nat) (k : Link) : (s.setLink l k).red = s.red := rfl
@[simp] theorem State.setLink_press (s : State) (l : Nat) (k : Link) : (s.setLink l k).press = s.press := rfl
@[simp] theorem State.setLink_mould (s : State) (l : Nat) (k : Link) : (s.setLink l k).mould = s.mould := rfl
@[simp] theorem State.setLink_xfer (s : State) (l : Nat) (k : Link) : (s.setLink l k).xfer = s.xfer := rfl
@[simp] theorem State.setLink_mgmt (s : State) (l : Nat) (k : Link) : (s.setLink l k).mgmt = s.mgmt := rfl
@[simp] theorem State.setLink_evc (s : State) (l : Nat) (k : Link) : (s.setLink l k).evc = s.evc := rfl
@[simp] theorem State.setLink_pwr (s : State) (l : Nat) (k : Link) : (s.setLink l k).pwr = s.pwr := rfl
@[simp] theorem State.setLink_dk (s : State) (l : Nat) (k : Link) : (s.setLink l k).dk = s.dk := rfl
@[simp] theorem State.setLink_ctr (s : State) (l : Nat) (k : Link) : (s.setLink l k).ctr = s.ctr := rfl
@[simp] theorem State.setLink_trc (s : State) (l : Nat) (k : Link) : (s.setLink l k).trc = s.trc := rfl
@[simp] theorem State.setLink_fail (s : State) (l : Nat) (k : Link) : (s.setLink l k).fail = s.fail := rfl
@[simp] theorem State.setLink_ckpt (s : State) (l : Nat) (k : Link) : (s.setLink l k).ckpt = s.ckpt := rfl
@[simp] theorem State.setLink_bb (s : State) (l : Nat) (k : Link) : (s.setLink l k).bb = s.bb := rfl
@[simp] theorem State.setLink_iden (s : State) (l : Nat) (k : Link) : (s.setLink l k).iden = s.iden := rfl
@[simp] theorem State.setLink_pins (s : State) (l : Nat) (k : Link) : (s.setLink l k).pins = s.pins := rfl
@[simp] theorem State.setLink_pending (s : State) (l : Nat) (k : Link) : (s.setLink l k).pending = s.pending := rfl

/-! `setUnit` changes mould -/
@[simp] theorem State.setUnit_time (s : State) (u : Nat) (m : MouldUnit) : (s.setUnit u m).time = s.time := rfl
@[simp] theorem State.setUnit_free (s : State) (u : Nat) (m : MouldUnit) : (s.setUnit u m).free = s.free := rfl
@[simp] theorem State.setUnit_host (s : State) (u : Nat) (m : MouldUnit) : (s.setUnit u m).host = s.host := rfl
@[simp] theorem State.setUnit_mem (s : State) (u : Nat) (m : MouldUnit) : (s.setUnit u m).mem = s.mem := rfl
@[simp] theorem State.setUnit_trk (s : State) (u : Nat) (m : MouldUnit) : (s.setUnit u m).trk = s.trk := rfl
@[simp] theorem State.setUnit_job (s : State) (u : Nat) (m : MouldUnit) : (s.setUnit u m).job = s.job := rfl
@[simp] theorem State.setUnit_vat (s : State) (u : Nat) (m : MouldUnit) : (s.setUnit u m).vat = s.vat := rfl
@[simp] theorem State.setUnit_sheet (s : State) (u : Nat) (m : MouldUnit) : (s.setUnit u m).sheet = s.sheet := rfl
@[simp] theorem State.setUnit_red (s : State) (u : Nat) (m : MouldUnit) : (s.setUnit u m).red = s.red := rfl
@[simp] theorem State.setUnit_press (s : State) (u : Nat) (m : MouldUnit) : (s.setUnit u m).press = s.press := rfl
@[simp] theorem State.setUnit_felt (s : State) (u : Nat) (m : MouldUnit) : (s.setUnit u m).felt = s.felt := rfl
@[simp] theorem State.setUnit_xfer (s : State) (u : Nat) (m : MouldUnit) : (s.setUnit u m).xfer = s.xfer := rfl
@[simp] theorem State.setUnit_mgmt (s : State) (u : Nat) (m : MouldUnit) : (s.setUnit u m).mgmt = s.mgmt := rfl
@[simp] theorem State.setUnit_evc (s : State) (u : Nat) (m : MouldUnit) : (s.setUnit u m).evc = s.evc := rfl
@[simp] theorem State.setUnit_pwr (s : State) (u : Nat) (m : MouldUnit) : (s.setUnit u m).pwr = s.pwr := rfl
@[simp] theorem State.setUnit_dk (s : State) (u : Nat) (m : MouldUnit) : (s.setUnit u m).dk = s.dk := rfl
@[simp] theorem State.setUnit_ctr (s : State) (u : Nat) (m : MouldUnit) : (s.setUnit u m).ctr = s.ctr := rfl
@[simp] theorem State.setUnit_trc (s : State) (u : Nat) (m : MouldUnit) : (s.setUnit u m).trc = s.trc := rfl
@[simp] theorem State.setUnit_fail (s : State) (u : Nat) (m : MouldUnit) : (s.setUnit u m).fail = s.fail := rfl
@[simp] theorem State.setUnit_ckpt (s : State) (u : Nat) (m : MouldUnit) : (s.setUnit u m).ckpt = s.ckpt := rfl
@[simp] theorem State.setUnit_bb (s : State) (u : Nat) (m : MouldUnit) : (s.setUnit u m).bb = s.bb := rfl
@[simp] theorem State.setUnit_iden (s : State) (u : Nat) (m : MouldUnit) : (s.setUnit u m).iden = s.iden := rfl
@[simp] theorem State.setUnit_pins (s : State) (u : Nat) (m : MouldUnit) : (s.setUnit u m).pins = s.pins := rfl
@[simp] theorem State.setUnit_pending (s : State) (u : Nat) (m : MouldUnit) : (s.setUnit u m).pending = s.pending := rfl

/-! `setRed` changes red -/
@[simp] theorem State.setRed_time (s : State) (shard step : Nat) (r : RedStep) : (s.setRed shard step r).time = s.time := rfl
@[simp] theorem State.setRed_free (s : State) (shard step : Nat) (r : RedStep) : (s.setRed shard step r).free = s.free := rfl
@[simp] theorem State.setRed_host (s : State) (shard step : Nat) (r : RedStep) : (s.setRed shard step r).host = s.host := rfl
@[simp] theorem State.setRed_mem (s : State) (shard step : Nat) (r : RedStep) : (s.setRed shard step r).mem = s.mem := rfl
@[simp] theorem State.setRed_trk (s : State) (shard step : Nat) (r : RedStep) : (s.setRed shard step r).trk = s.trk := rfl
@[simp] theorem State.setRed_job (s : State) (shard step : Nat) (r : RedStep) : (s.setRed shard step r).job = s.job := rfl
@[simp] theorem State.setRed_vat (s : State) (shard step : Nat) (r : RedStep) : (s.setRed shard step r).vat = s.vat := rfl
@[simp] theorem State.setRed_sheet (s : State) (shard step : Nat) (r : RedStep) : (s.setRed shard step r).sheet = s.sheet := rfl
@[simp] theorem State.setRed_press (s : State) (shard step : Nat) (r : RedStep) : (s.setRed shard step r).press = s.press := rfl
@[simp] theorem State.setRed_mould (s : State) (shard step : Nat) (r : RedStep) : (s.setRed shard step r).mould = s.mould := rfl
@[simp] theorem State.setRed_felt (s : State) (shard step : Nat) (r : RedStep) : (s.setRed shard step r).felt = s.felt := rfl
@[simp] theorem State.setRed_xfer (s : State) (shard step : Nat) (r : RedStep) : (s.setRed shard step r).xfer = s.xfer := rfl
@[simp] theorem State.setRed_mgmt (s : State) (shard step : Nat) (r : RedStep) : (s.setRed shard step r).mgmt = s.mgmt := rfl
@[simp] theorem State.setRed_evc (s : State) (shard step : Nat) (r : RedStep) : (s.setRed shard step r).evc = s.evc := rfl
@[simp] theorem State.setRed_pwr (s : State) (shard step : Nat) (r : RedStep) : (s.setRed shard step r).pwr = s.pwr := rfl
@[simp] theorem State.setRed_dk (s : State) (shard step : Nat) (r : RedStep) : (s.setRed shard step r).dk = s.dk := rfl
@[simp] theorem State.setRed_ctr (s : State) (shard step : Nat) (r : RedStep) : (s.setRed shard step r).ctr = s.ctr := rfl
@[simp] theorem State.setRed_trc (s : State) (shard step : Nat) (r : RedStep) : (s.setRed shard step r).trc = s.trc := rfl
@[simp] theorem State.setRed_fail (s : State) (shard step : Nat) (r : RedStep) : (s.setRed shard step r).fail = s.fail := rfl
@[simp] theorem State.setRed_ckpt (s : State) (shard step : Nat) (r : RedStep) : (s.setRed shard step r).ckpt = s.ckpt := rfl
@[simp] theorem State.setRed_bb (s : State) (shard step : Nat) (r : RedStep) : (s.setRed shard step r).bb = s.bb := rfl
@[simp] theorem State.setRed_iden (s : State) (shard step : Nat) (r : RedStep) : (s.setRed shard step r).iden = s.iden := rfl
@[simp] theorem State.setRed_pins (s : State) (shard step : Nat) (r : RedStep) : (s.setRed shard step r).pins = s.pins := rfl
@[simp] theorem State.setRed_pending (s : State) (shard step : Nat) (r : RedStep) : (s.setRed shard step r).pending = s.pending := rfl

/-! `setSrc` changes evc -/
@[simp] theorem State.setSrc_time (s : State) (i : Nat) (x : Source) : (s.setSrc i x).time = s.time := rfl
@[simp] theorem State.setSrc_free (s : State) (i : Nat) (x : Source) : (s.setSrc i x).free = s.free := rfl
@[simp] theorem State.setSrc_host (s : State) (i : Nat) (x : Source) : (s.setSrc i x).host = s.host := rfl
@[simp] theorem State.setSrc_mem (s : State) (i : Nat) (x : Source) : (s.setSrc i x).mem = s.mem := rfl
@[simp] theorem State.setSrc_trk (s : State) (i : Nat) (x : Source) : (s.setSrc i x).trk = s.trk := rfl
@[simp] theorem State.setSrc_job (s : State) (i : Nat) (x : Source) : (s.setSrc i x).job = s.job := rfl
@[simp] theorem State.setSrc_vat (s : State) (i : Nat) (x : Source) : (s.setSrc i x).vat = s.vat := rfl
@[simp] theorem State.setSrc_sheet (s : State) (i : Nat) (x : Source) : (s.setSrc i x).sheet = s.sheet := rfl
@[simp] theorem State.setSrc_red (s : State) (i : Nat) (x : Source) : (s.setSrc i x).red = s.red := rfl
@[simp] theorem State.setSrc_press (s : State) (i : Nat) (x : Source) : (s.setSrc i x).press = s.press := rfl
@[simp] theorem State.setSrc_mould (s : State) (i : Nat) (x : Source) : (s.setSrc i x).mould = s.mould := rfl
@[simp] theorem State.setSrc_felt (s : State) (i : Nat) (x : Source) : (s.setSrc i x).felt = s.felt := rfl
@[simp] theorem State.setSrc_xfer (s : State) (i : Nat) (x : Source) : (s.setSrc i x).xfer = s.xfer := rfl
@[simp] theorem State.setSrc_mgmt (s : State) (i : Nat) (x : Source) : (s.setSrc i x).mgmt = s.mgmt := rfl
@[simp] theorem State.setSrc_pwr (s : State) (i : Nat) (x : Source) : (s.setSrc i x).pwr = s.pwr := rfl
@[simp] theorem State.setSrc_dk (s : State) (i : Nat) (x : Source) : (s.setSrc i x).dk = s.dk := rfl
@[simp] theorem State.setSrc_ctr (s : State) (i : Nat) (x : Source) : (s.setSrc i x).ctr = s.ctr := rfl
@[simp] theorem State.setSrc_trc (s : State) (i : Nat) (x : Source) : (s.setSrc i x).trc = s.trc := rfl
@[simp] theorem State.setSrc_fail (s : State) (i : Nat) (x : Source) : (s.setSrc i x).fail = s.fail := rfl
@[simp] theorem State.setSrc_ckpt (s : State) (i : Nat) (x : Source) : (s.setSrc i x).ckpt = s.ckpt := rfl
@[simp] theorem State.setSrc_bb (s : State) (i : Nat) (x : Source) : (s.setSrc i x).bb = s.bb := rfl
@[simp] theorem State.setSrc_iden (s : State) (i : Nat) (x : Source) : (s.setSrc i x).iden = s.iden := rfl
@[simp] theorem State.setSrc_pins (s : State) (i : Nat) (x : Source) : (s.setSrc i x).pins = s.pins := rfl
@[simp] theorem State.setSrc_pending (s : State) (i : Nat) (x : Source) : (s.setSrc i x).pending = s.pending := rfl

/-! `setEvCore` changes evc -/
@[simp] theorem State.setEvCore_time (s : State) (c : Nat) (x : EvCore) : (s.setEvCore c x).time = s.time := rfl
@[simp] theorem State.setEvCore_free (s : State) (c : Nat) (x : EvCore) : (s.setEvCore c x).free = s.free := rfl
@[simp] theorem State.setEvCore_host (s : State) (c : Nat) (x : EvCore) : (s.setEvCore c x).host = s.host := rfl
@[simp] theorem State.setEvCore_mem (s : State) (c : Nat) (x : EvCore) : (s.setEvCore c x).mem = s.mem := rfl
@[simp] theorem State.setEvCore_trk (s : State) (c : Nat) (x : EvCore) : (s.setEvCore c x).trk = s.trk := rfl
@[simp] theorem State.setEvCore_job (s : State) (c : Nat) (x : EvCore) : (s.setEvCore c x).job = s.job := rfl
@[simp] theorem State.setEvCore_vat (s : State) (c : Nat) (x : EvCore) : (s.setEvCore c x).vat = s.vat := rfl
@[simp] theorem State.setEvCore_sheet (s : State) (c : Nat) (x : EvCore) : (s.setEvCore c x).sheet = s.sheet := rfl
@[simp] theorem State.setEvCore_red (s : State) (c : Nat) (x : EvCore) : (s.setEvCore c x).red = s.red := rfl
@[simp] theorem State.setEvCore_press (s : State) (c : Nat) (x : EvCore) : (s.setEvCore c x).press = s.press := rfl
@[simp] theorem State.setEvCore_mould (s : State) (c : Nat) (x : EvCore) : (s.setEvCore c x).mould = s.mould := rfl
@[simp] theorem State.setEvCore_felt (s : State) (c : Nat) (x : EvCore) : (s.setEvCore c x).felt = s.felt := rfl
@[simp] theorem State.setEvCore_xfer (s : State) (c : Nat) (x : EvCore) : (s.setEvCore c x).xfer = s.xfer := rfl
@[simp] theorem State.setEvCore_mgmt (s : State) (c : Nat) (x : EvCore) : (s.setEvCore c x).mgmt = s.mgmt := rfl
@[simp] theorem State.setEvCore_pwr (s : State) (c : Nat) (x : EvCore) : (s.setEvCore c x).pwr = s.pwr := rfl
@[simp] theorem State.setEvCore_dk (s : State) (c : Nat) (x : EvCore) : (s.setEvCore c x).dk = s.dk := rfl
@[simp] theorem State.setEvCore_ctr (s : State) (c : Nat) (x : EvCore) : (s.setEvCore c x).ctr = s.ctr := rfl
@[simp] theorem State.setEvCore_trc (s : State) (c : Nat) (x : EvCore) : (s.setEvCore c x).trc = s.trc := rfl
@[simp] theorem State.setEvCore_fail (s : State) (c : Nat) (x : EvCore) : (s.setEvCore c x).fail = s.fail := rfl
@[simp] theorem State.setEvCore_ckpt (s : State) (c : Nat) (x : EvCore) : (s.setEvCore c x).ckpt = s.ckpt := rfl
@[simp] theorem State.setEvCore_bb (s : State) (c : Nat) (x : EvCore) : (s.setEvCore c x).bb = s.bb := rfl
@[simp] theorem State.setEvCore_iden (s : State) (c : Nat) (x : EvCore) : (s.setEvCore c x).iden = s.iden := rfl
@[simp] theorem State.setEvCore_pins (s : State) (c : Nat) (x : EvCore) : (s.setEvCore c x).pins = s.pins := rfl
@[simp] theorem State.setEvCore_pending (s : State) (c : Nat) (x : EvCore) : (s.setEvCore c x).pending = s.pending := rfl

/-! `setClk` changes pwr -/
@[simp] theorem State.setClk_time (s : State) (i : Nat) (c : Clk) : (s.setClk i c).time = s.time := rfl
@[simp] theorem State.setClk_free (s : State) (i : Nat) (c : Clk) : (s.setClk i c).free = s.free := rfl
@[simp] theorem State.setClk_host (s : State) (i : Nat) (c : Clk) : (s.setClk i c).host = s.host := rfl
@[simp] theorem State.setClk_mem (s : State) (i : Nat) (c : Clk) : (s.setClk i c).mem = s.mem := rfl
@[simp] theorem State.setClk_trk (s : State) (i : Nat) (c : Clk) : (s.setClk i c).trk = s.trk := rfl
@[simp] theorem State.setClk_job (s : State) (i : Nat) (c : Clk) : (s.setClk i c).job = s.job := rfl
@[simp] theorem State.setClk_vat (s : State) (i : Nat) (c : Clk) : (s.setClk i c).vat = s.vat := rfl
@[simp] theorem State.setClk_sheet (s : State) (i : Nat) (c : Clk) : (s.setClk i c).sheet = s.sheet := rfl
@[simp] theorem State.setClk_red (s : State) (i : Nat) (c : Clk) : (s.setClk i c).red = s.red := rfl
@[simp] theorem State.setClk_press (s : State) (i : Nat) (c : Clk) : (s.setClk i c).press = s.press := rfl
@[simp] theorem State.setClk_mould (s : State) (i : Nat) (c : Clk) : (s.setClk i c).mould = s.mould := rfl
@[simp] theorem State.setClk_felt (s : State) (i : Nat) (c : Clk) : (s.setClk i c).felt = s.felt := rfl
@[simp] theorem State.setClk_xfer (s : State) (i : Nat) (c : Clk) : (s.setClk i c).xfer = s.xfer := rfl
@[simp] theorem State.setClk_mgmt (s : State) (i : Nat) (c : Clk) : (s.setClk i c).mgmt = s.mgmt := rfl
@[simp] theorem State.setClk_evc (s : State) (i : Nat) (c : Clk) : (s.setClk i c).evc = s.evc := rfl
@[simp] theorem State.setClk_dk (s : State) (i : Nat) (c : Clk) : (s.setClk i c).dk = s.dk := rfl
@[simp] theorem State.setClk_ctr (s : State) (i : Nat) (c : Clk) : (s.setClk i c).ctr = s.ctr := rfl
@[simp] theorem State.setClk_trc (s : State) (i : Nat) (c : Clk) : (s.setClk i c).trc = s.trc := rfl
@[simp] theorem State.setClk_fail (s : State) (i : Nat) (c : Clk) : (s.setClk i c).fail = s.fail := rfl
@[simp] theorem State.setClk_ckpt (s : State) (i : Nat) (c : Clk) : (s.setClk i c).ckpt = s.ckpt := rfl
@[simp] theorem State.setClk_bb (s : State) (i : Nat) (c : Clk) : (s.setClk i c).bb = s.bb := rfl
@[simp] theorem State.setClk_iden (s : State) (i : Nat) (c : Clk) : (s.setClk i c).iden = s.iden := rfl
@[simp] theorem State.setClk_pins (s : State) (i : Nat) (c : Clk) : (s.setClk i c).pins = s.pins := rfl
@[simp] theorem State.setClk_pending (s : State) (i : Nat) (c : Clk) : (s.setClk i c).pending = s.pending := rfl

/-! `setDie` changes pwr -/
@[simp] theorem State.setDie_time (s : State) (d : Nat) (x : Die) : (s.setDie d x).time = s.time := rfl
@[simp] theorem State.setDie_free (s : State) (d : Nat) (x : Die) : (s.setDie d x).free = s.free := rfl
@[simp] theorem State.setDie_host (s : State) (d : Nat) (x : Die) : (s.setDie d x).host = s.host := rfl
@[simp] theorem State.setDie_mem (s : State) (d : Nat) (x : Die) : (s.setDie d x).mem = s.mem := rfl
@[simp] theorem State.setDie_trk (s : State) (d : Nat) (x : Die) : (s.setDie d x).trk = s.trk := rfl
@[simp] theorem State.setDie_job (s : State) (d : Nat) (x : Die) : (s.setDie d x).job = s.job := rfl
@[simp] theorem State.setDie_vat (s : State) (d : Nat) (x : Die) : (s.setDie d x).vat = s.vat := rfl
@[simp] theorem State.setDie_sheet (s : State) (d : Nat) (x : Die) : (s.setDie d x).sheet = s.sheet := rfl
@[simp] theorem State.setDie_red (s : State) (d : Nat) (x : Die) : (s.setDie d x).red = s.red := rfl
@[simp] theorem State.setDie_press (s : State) (d : Nat) (x : Die) : (s.setDie d x).press = s.press := rfl
@[simp] theorem State.setDie_mould (s : State) (d : Nat) (x : Die) : (s.setDie d x).mould = s.mould := rfl
@[simp] theorem State.setDie_felt (s : State) (d : Nat) (x : Die) : (s.setDie d x).felt = s.felt := rfl
@[simp] theorem State.setDie_xfer (s : State) (d : Nat) (x : Die) : (s.setDie d x).xfer = s.xfer := rfl
@[simp] theorem State.setDie_mgmt (s : State) (d : Nat) (x : Die) : (s.setDie d x).mgmt = s.mgmt := rfl
@[simp] theorem State.setDie_evc (s : State) (d : Nat) (x : Die) : (s.setDie d x).evc = s.evc := rfl
@[simp] theorem State.setDie_dk (s : State) (d : Nat) (x : Die) : (s.setDie d x).dk = s.dk := rfl
@[simp] theorem State.setDie_ctr (s : State) (d : Nat) (x : Die) : (s.setDie d x).ctr = s.ctr := rfl
@[simp] theorem State.setDie_trc (s : State) (d : Nat) (x : Die) : (s.setDie d x).trc = s.trc := rfl
@[simp] theorem State.setDie_fail (s : State) (d : Nat) (x : Die) : (s.setDie d x).fail = s.fail := rfl
@[simp] theorem State.setDie_ckpt (s : State) (d : Nat) (x : Die) : (s.setDie d x).ckpt = s.ckpt := rfl
@[simp] theorem State.setDie_bb (s : State) (d : Nat) (x : Die) : (s.setDie d x).bb = s.bb := rfl
@[simp] theorem State.setDie_iden (s : State) (d : Nat) (x : Die) : (s.setDie d x).iden = s.iden := rfl
@[simp] theorem State.setDie_pins (s : State) (d : Nat) (x : Die) : (s.setDie d x).pins = s.pins := rfl
@[simp] theorem State.setDie_pending (s : State) (d : Nat) (x : Die) : (s.setDie d x).pending = s.pending := rfl

/-! `setStage` changes pwr -/
@[simp] theorem State.setStage_time (s : State) (d : Nat) (x : Bool × Nat × Nat) : (s.setStage d x).time = s.time := rfl
@[simp] theorem State.setStage_free (s : State) (d : Nat) (x : Bool × Nat × Nat) : (s.setStage d x).free = s.free := rfl
@[simp] theorem State.setStage_host (s : State) (d : Nat) (x : Bool × Nat × Nat) : (s.setStage d x).host = s.host := rfl
@[simp] theorem State.setStage_mem (s : State) (d : Nat) (x : Bool × Nat × Nat) : (s.setStage d x).mem = s.mem := rfl
@[simp] theorem State.setStage_trk (s : State) (d : Nat) (x : Bool × Nat × Nat) : (s.setStage d x).trk = s.trk := rfl
@[simp] theorem State.setStage_job (s : State) (d : Nat) (x : Bool × Nat × Nat) : (s.setStage d x).job = s.job := rfl
@[simp] theorem State.setStage_vat (s : State) (d : Nat) (x : Bool × Nat × Nat) : (s.setStage d x).vat = s.vat := rfl
@[simp] theorem State.setStage_sheet (s : State) (d : Nat) (x : Bool × Nat × Nat) : (s.setStage d x).sheet = s.sheet := rfl
@[simp] theorem State.setStage_red (s : State) (d : Nat) (x : Bool × Nat × Nat) : (s.setStage d x).red = s.red := rfl
@[simp] theorem State.setStage_press (s : State) (d : Nat) (x : Bool × Nat × Nat) : (s.setStage d x).press = s.press := rfl
@[simp] theorem State.setStage_mould (s : State) (d : Nat) (x : Bool × Nat × Nat) : (s.setStage d x).mould = s.mould := rfl
@[simp] theorem State.setStage_felt (s : State) (d : Nat) (x : Bool × Nat × Nat) : (s.setStage d x).felt = s.felt := rfl
@[simp] theorem State.setStage_xfer (s : State) (d : Nat) (x : Bool × Nat × Nat) : (s.setStage d x).xfer = s.xfer := rfl
@[simp] theorem State.setStage_mgmt (s : State) (d : Nat) (x : Bool × Nat × Nat) : (s.setStage d x).mgmt = s.mgmt := rfl
@[simp] theorem State.setStage_evc (s : State) (d : Nat) (x : Bool × Nat × Nat) : (s.setStage d x).evc = s.evc := rfl
@[simp] theorem State.setStage_dk (s : State) (d : Nat) (x : Bool × Nat × Nat) : (s.setStage d x).dk = s.dk := rfl
@[simp] theorem State.setStage_ctr (s : State) (d : Nat) (x : Bool × Nat × Nat) : (s.setStage d x).ctr = s.ctr := rfl
@[simp] theorem State.setStage_trc (s : State) (d : Nat) (x : Bool × Nat × Nat) : (s.setStage d x).trc = s.trc := rfl
@[simp] theorem State.setStage_fail (s : State) (d : Nat) (x : Bool × Nat × Nat) : (s.setStage d x).fail = s.fail := rfl
@[simp] theorem State.setStage_ckpt (s : State) (d : Nat) (x : Bool × Nat × Nat) : (s.setStage d x).ckpt = s.ckpt := rfl
@[simp] theorem State.setStage_bb (s : State) (d : Nat) (x : Bool × Nat × Nat) : (s.setStage d x).bb = s.bb := rfl
@[simp] theorem State.setStage_iden (s : State) (d : Nat) (x : Bool × Nat × Nat) : (s.setStage d x).iden = s.iden := rfl
@[simp] theorem State.setStage_pins (s : State) (d : Nat) (x : Bool × Nat × Nat) : (s.setStage d x).pins = s.pins := rfl
@[simp] theorem State.setStage_pending (s : State) (d : Nat) (x : Bool × Nat × Nat) : (s.setStage d x).pending = s.pending := rfl

/-! `setKick` changes mgmt -/
@[simp] theorem State.setKick_time (s : State) (core : Nat) (k : Kick) : (s.setKick core k).time = s.time := rfl
@[simp] theorem State.setKick_free (s : State) (core : Nat) (k : Kick) : (s.setKick core k).free = s.free := rfl
@[simp] theorem State.setKick_host (s : State) (core : Nat) (k : Kick) : (s.setKick core k).host = s.host := rfl
@[simp] theorem State.setKick_mem (s : State) (core : Nat) (k : Kick) : (s.setKick core k).mem = s.mem := rfl
@[simp] theorem State.setKick_trk (s : State) (core : Nat) (k : Kick) : (s.setKick core k).trk = s.trk := rfl
@[simp] theorem State.setKick_job (s : State) (core : Nat) (k : Kick) : (s.setKick core k).job = s.job := rfl
@[simp] theorem State.setKick_vat (s : State) (core : Nat) (k : Kick) : (s.setKick core k).vat = s.vat := rfl
@[simp] theorem State.setKick_sheet (s : State) (core : Nat) (k : Kick) : (s.setKick core k).sheet = s.sheet := rfl
@[simp] theorem State.setKick_red (s : State) (core : Nat) (k : Kick) : (s.setKick core k).red = s.red := rfl
@[simp] theorem State.setKick_press (s : State) (core : Nat) (k : Kick) : (s.setKick core k).press = s.press := rfl
@[simp] theorem State.setKick_mould (s : State) (core : Nat) (k : Kick) : (s.setKick core k).mould = s.mould := rfl
@[simp] theorem State.setKick_felt (s : State) (core : Nat) (k : Kick) : (s.setKick core k).felt = s.felt := rfl
@[simp] theorem State.setKick_xfer (s : State) (core : Nat) (k : Kick) : (s.setKick core k).xfer = s.xfer := rfl
@[simp] theorem State.setKick_evc (s : State) (core : Nat) (k : Kick) : (s.setKick core k).evc = s.evc := rfl
@[simp] theorem State.setKick_pwr (s : State) (core : Nat) (k : Kick) : (s.setKick core k).pwr = s.pwr := rfl
@[simp] theorem State.setKick_dk (s : State) (core : Nat) (k : Kick) : (s.setKick core k).dk = s.dk := rfl
@[simp] theorem State.setKick_ctr (s : State) (core : Nat) (k : Kick) : (s.setKick core k).ctr = s.ctr := rfl
@[simp] theorem State.setKick_trc (s : State) (core : Nat) (k : Kick) : (s.setKick core k).trc = s.trc := rfl
@[simp] theorem State.setKick_fail (s : State) (core : Nat) (k : Kick) : (s.setKick core k).fail = s.fail := rfl
@[simp] theorem State.setKick_ckpt (s : State) (core : Nat) (k : Kick) : (s.setKick core k).ckpt = s.ckpt := rfl
@[simp] theorem State.setKick_bb (s : State) (core : Nat) (k : Kick) : (s.setKick core k).bb = s.bb := rfl
@[simp] theorem State.setKick_iden (s : State) (core : Nat) (k : Kick) : (s.setKick core k).iden = s.iden := rfl
@[simp] theorem State.setKick_pins (s : State) (core : Nat) (k : Kick) : (s.setKick core k).pins = s.pins := rfl
@[simp] theorem State.setKick_pending (s : State) (core : Nat) (k : Kick) : (s.setKick core k).pending = s.pending := rfl

/-! `setSink` changes ckpt -/
@[simp] theorem State.setSink_time (s : State) (k : Option Sink) : (s.setSink k).time = s.time := rfl
@[simp] theorem State.setSink_free (s : State) (k : Option Sink) : (s.setSink k).free = s.free := rfl
@[simp] theorem State.setSink_host (s : State) (k : Option Sink) : (s.setSink k).host = s.host := rfl
@[simp] theorem State.setSink_mem (s : State) (k : Option Sink) : (s.setSink k).mem = s.mem := rfl
@[simp] theorem State.setSink_trk (s : State) (k : Option Sink) : (s.setSink k).trk = s.trk := rfl
@[simp] theorem State.setSink_job (s : State) (k : Option Sink) : (s.setSink k).job = s.job := rfl
@[simp] theorem State.setSink_vat (s : State) (k : Option Sink) : (s.setSink k).vat = s.vat := rfl
@[simp] theorem State.setSink_sheet (s : State) (k : Option Sink) : (s.setSink k).sheet = s.sheet := rfl
@[simp] theorem State.setSink_red (s : State) (k : Option Sink) : (s.setSink k).red = s.red := rfl
@[simp] theorem State.setSink_press (s : State) (k : Option Sink) : (s.setSink k).press = s.press := rfl
@[simp] theorem State.setSink_mould (s : State) (k : Option Sink) : (s.setSink k).mould = s.mould := rfl
@[simp] theorem State.setSink_felt (s : State) (k : Option Sink) : (s.setSink k).felt = s.felt := rfl
@[simp] theorem State.setSink_xfer (s : State) (k : Option Sink) : (s.setSink k).xfer = s.xfer := rfl
@[simp] theorem State.setSink_mgmt (s : State) (k : Option Sink) : (s.setSink k).mgmt = s.mgmt := rfl
@[simp] theorem State.setSink_evc (s : State) (k : Option Sink) : (s.setSink k).evc = s.evc := rfl
@[simp] theorem State.setSink_pwr (s : State) (k : Option Sink) : (s.setSink k).pwr = s.pwr := rfl
@[simp] theorem State.setSink_dk (s : State) (k : Option Sink) : (s.setSink k).dk = s.dk := rfl
@[simp] theorem State.setSink_ctr (s : State) (k : Option Sink) : (s.setSink k).ctr = s.ctr := rfl
@[simp] theorem State.setSink_trc (s : State) (k : Option Sink) : (s.setSink k).trc = s.trc := rfl
@[simp] theorem State.setSink_fail (s : State) (k : Option Sink) : (s.setSink k).fail = s.fail := rfl
@[simp] theorem State.setSink_bb (s : State) (k : Option Sink) : (s.setSink k).bb = s.bb := rfl
@[simp] theorem State.setSink_iden (s : State) (k : Option Sink) : (s.setSink k).iden = s.iden := rfl
@[simp] theorem State.setSink_pins (s : State) (k : Option Sink) : (s.setSink k).pins = s.pins := rfl
@[simp] theorem State.setSink_pending (s : State) (k : Option Sink) : (s.setSink k).pending = s.pending := rfl

/-! `writeBytes` changes mem -/
@[simp] theorem State.writeBytes_time (s : State) (as : List Nat) (bs : List Byte) : (s.writeBytes as bs).time = s.time := rfl
@[simp] theorem State.writeBytes_free (s : State) (as : List Nat) (bs : List Byte) : (s.writeBytes as bs).free = s.free := rfl
@[simp] theorem State.writeBytes_host (s : State) (as : List Nat) (bs : List Byte) : (s.writeBytes as bs).host = s.host := rfl
@[simp] theorem State.writeBytes_trk (s : State) (as : List Nat) (bs : List Byte) : (s.writeBytes as bs).trk = s.trk := rfl
@[simp] theorem State.writeBytes_job (s : State) (as : List Nat) (bs : List Byte) : (s.writeBytes as bs).job = s.job := rfl
@[simp] theorem State.writeBytes_vat (s : State) (as : List Nat) (bs : List Byte) : (s.writeBytes as bs).vat = s.vat := rfl
@[simp] theorem State.writeBytes_sheet (s : State) (as : List Nat) (bs : List Byte) : (s.writeBytes as bs).sheet = s.sheet := rfl
@[simp] theorem State.writeBytes_red (s : State) (as : List Nat) (bs : List Byte) : (s.writeBytes as bs).red = s.red := rfl
@[simp] theorem State.writeBytes_press (s : State) (as : List Nat) (bs : List Byte) : (s.writeBytes as bs).press = s.press := rfl
@[simp] theorem State.writeBytes_mould (s : State) (as : List Nat) (bs : List Byte) : (s.writeBytes as bs).mould = s.mould := rfl
@[simp] theorem State.writeBytes_felt (s : State) (as : List Nat) (bs : List Byte) : (s.writeBytes as bs).felt = s.felt := rfl
@[simp] theorem State.writeBytes_xfer (s : State) (as : List Nat) (bs : List Byte) : (s.writeBytes as bs).xfer = s.xfer := rfl
@[simp] theorem State.writeBytes_mgmt (s : State) (as : List Nat) (bs : List Byte) : (s.writeBytes as bs).mgmt = s.mgmt := rfl
@[simp] theorem State.writeBytes_evc (s : State) (as : List Nat) (bs : List Byte) : (s.writeBytes as bs).evc = s.evc := rfl
@[simp] theorem State.writeBytes_pwr (s : State) (as : List Nat) (bs : List Byte) : (s.writeBytes as bs).pwr = s.pwr := rfl
@[simp] theorem State.writeBytes_dk (s : State) (as : List Nat) (bs : List Byte) : (s.writeBytes as bs).dk = s.dk := rfl
@[simp] theorem State.writeBytes_ctr (s : State) (as : List Nat) (bs : List Byte) : (s.writeBytes as bs).ctr = s.ctr := rfl
@[simp] theorem State.writeBytes_trc (s : State) (as : List Nat) (bs : List Byte) : (s.writeBytes as bs).trc = s.trc := rfl
@[simp] theorem State.writeBytes_fail (s : State) (as : List Nat) (bs : List Byte) : (s.writeBytes as bs).fail = s.fail := rfl
@[simp] theorem State.writeBytes_ckpt (s : State) (as : List Nat) (bs : List Byte) : (s.writeBytes as bs).ckpt = s.ckpt := rfl
@[simp] theorem State.writeBytes_bb (s : State) (as : List Nat) (bs : List Byte) : (s.writeBytes as bs).bb = s.bb := rfl
@[simp] theorem State.writeBytes_iden (s : State) (as : List Nat) (bs : List Byte) : (s.writeBytes as bs).iden = s.iden := rfl
@[simp] theorem State.writeBytes_pins (s : State) (as : List Nat) (bs : List Byte) : (s.writeBytes as bs).pins = s.pins := rfl
@[simp] theorem State.writeBytes_pending (s : State) (as : List Nat) (bs : List Byte) : (s.writeBytes as bs).pending = s.pending := rfl

/-! `beatFlag` changes vat -/
@[simp] theorem State.beatFlag_time (s : State) (fl : Flags) : (s.beatFlag fl).time = s.time := rfl
@[simp] theorem State.beatFlag_free (s : State) (fl : Flags) : (s.beatFlag fl).free = s.free := rfl
@[simp] theorem State.beatFlag_host (s : State) (fl : Flags) : (s.beatFlag fl).host = s.host := rfl
@[simp] theorem State.beatFlag_mem (s : State) (fl : Flags) : (s.beatFlag fl).mem = s.mem := rfl
@[simp] theorem State.beatFlag_trk (s : State) (fl : Flags) : (s.beatFlag fl).trk = s.trk := rfl
@[simp] theorem State.beatFlag_job (s : State) (fl : Flags) : (s.beatFlag fl).job = s.job := rfl
@[simp] theorem State.beatFlag_sheet (s : State) (fl : Flags) : (s.beatFlag fl).sheet = s.sheet := rfl
@[simp] theorem State.beatFlag_red (s : State) (fl : Flags) : (s.beatFlag fl).red = s.red := rfl
@[simp] theorem State.beatFlag_press (s : State) (fl : Flags) : (s.beatFlag fl).press = s.press := rfl
@[simp] theorem State.beatFlag_mould (s : State) (fl : Flags) : (s.beatFlag fl).mould = s.mould := rfl
@[simp] theorem State.beatFlag_felt (s : State) (fl : Flags) : (s.beatFlag fl).felt = s.felt := rfl
@[simp] theorem State.beatFlag_xfer (s : State) (fl : Flags) : (s.beatFlag fl).xfer = s.xfer := rfl
@[simp] theorem State.beatFlag_mgmt (s : State) (fl : Flags) : (s.beatFlag fl).mgmt = s.mgmt := rfl
@[simp] theorem State.beatFlag_evc (s : State) (fl : Flags) : (s.beatFlag fl).evc = s.evc := rfl
@[simp] theorem State.beatFlag_pwr (s : State) (fl : Flags) : (s.beatFlag fl).pwr = s.pwr := rfl
@[simp] theorem State.beatFlag_dk (s : State) (fl : Flags) : (s.beatFlag fl).dk = s.dk := rfl
@[simp] theorem State.beatFlag_ctr (s : State) (fl : Flags) : (s.beatFlag fl).ctr = s.ctr := rfl
@[simp] theorem State.beatFlag_trc (s : State) (fl : Flags) : (s.beatFlag fl).trc = s.trc := rfl
@[simp] theorem State.beatFlag_fail (s : State) (fl : Flags) : (s.beatFlag fl).fail = s.fail := rfl
@[simp] theorem State.beatFlag_ckpt (s : State) (fl : Flags) : (s.beatFlag fl).ckpt = s.ckpt := rfl
@[simp] theorem State.beatFlag_bb (s : State) (fl : Flags) : (s.beatFlag fl).bb = s.bb := rfl
@[simp] theorem State.beatFlag_iden (s : State) (fl : Flags) : (s.beatFlag fl).iden = s.iden := rfl
@[simp] theorem State.beatFlag_pins (s : State) (fl : Flags) : (s.beatFlag fl).pins = s.pins := rfl
@[simp] theorem State.beatFlag_pending (s : State) (fl : Flags) : (s.beatFlag fl).pending = s.pending := rfl

/-! ### Reading back -/

@[simp] theorem State.setPair_pair (s : State) (n : Nat) (p : Pair) (m : Nat) :
    (s.setPair n p).pair m = if n = m then p else s.pair m := by
  unfold State.pair State.setPair tgetD; dsimp only; rw [tget_tset]; split <;> rfl

@[simp] theorem State.setPair_cmd (s : State) (n : Nat) (p : Pair) (id : Nat) : (s.setPair n p).cmd id = s.cmd id := rfl
@[simp] theorem State.setPair_token (s : State) (n : Nat) (p : Pair) (t : Nat) : (s.setPair n p).token t = s.token t := rfl

@[simp] theorem State.setCmd_cmd (s : State) (n : Nat) (c : CmdRec) (m : Nat) :
    (s.setCmd n c).cmd m = if n = m then some c else s.cmd m := by
  unfold State.cmd State.setCmd; dsimp only; rw [tget_tset]

@[simp] theorem State.setCmd_pair (s : State) (n : Nat) (c : CmdRec) (m : Nat) : (s.setCmd n c).pair m = s.pair m := rfl
@[simp] theorem State.setCmd_token (s : State) (n : Nat) (c : CmdRec) (t : Nat) : (s.setCmd n c).token t = s.token t := rfl

@[simp] theorem State.putToken_token (s : State) (t v x : Nat) : (s.putToken t v).token x = if x = t then v else s.token x := by
  unfold State.token State.putToken tgetD; dsimp only
  split
  · rename_i h; rw [tget_tdel]; by_cases q : t = x <;> simp [q, h, eq_comm]
  · rw [tget_tset]; by_cases q : t = x <;> simp [q, eq_comm]

@[simp] theorem State.putToken_pair (s : State) (t v n : Nat) : (s.putToken t v).pair n = s.pair n := rfl
@[simp] theorem State.putToken_cmd (s : State) (t v n : Nat) : (s.putToken t v).cmd n = s.cmd n := rfl

@[simp] theorem State.setClus_clus (s : State) (n : Nat) (c : Cluster) (m : Nat) :
    (s.setClus n c).clus m = if n = m then c else s.clus m := by
  unfold State.clus State.setClus tgetD; dsimp only; rw [tget_tset]; split <;> rfl

@[simp] theorem State.setLink_link (s : State) (n : Nat) (k : Link) (m : Nat) :
    (s.setLink n k).link m = if n = m then k else s.link m := by
  unfold State.link State.setLink tgetD; dsimp only; rw [tget_tset]; split <;> rfl

@[simp] theorem State.setUnit_unit (s : State) (n : Nat) (u : MouldUnit) (m : Nat) :
    (s.setUnit n u).unit m = if n = m then u else s.unit m := by
  unfold State.unit State.setUnit tgetD; dsimp only; rw [tget_tset]; split <;> rfl

@[simp] theorem State.setInst_inst (s : State) (n : Nat) (i : Inst) (m : Nat) :
    (s.setInst n i).inst m = if n = m then some i else s.inst m := by
  unfold State.inst State.setInst; dsimp only; rw [tget_tset]

@[simp] theorem State.bump_cmd (s : State) (x n id : Nat) : (s.bump x n).cmd id = s.cmd id := by
  unfold State.bump; split <;> rfl
@[simp] theorem State.bump_pair (s : State) (x n m : Nat) : (s.bump x n).pair m = s.pair m := by
  unfold State.bump; split <;> rfl
@[simp] theorem State.bump_token (s : State) (x n t : Nat) : (s.bump x n).token t = s.token t := by
  unfold State.bump; split <;> rfl

/-! ### The start of a command changes the table of commands and the trace -/

@[simp] theorem State.startCmd_time (s : State) (id : Nat) : (s.startCmd id).time = s.time := by
  unfold State.startCmd; split
  · rfl
  · unfold State.trace; split <;> rfl

@[simp] theorem State.startCmd_free (s : State) (id : Nat) : (s.startCmd id).free = s.free := by
  unfold State.startCmd; split
  · rfl
  · unfold State.trace; split <;> rfl

@[simp] theorem State.startCmd_mem (s : State) (id : Nat) : (s.startCmd id).mem = s.mem := by
  unfold State.startCmd; split
  · rfl
  · unfold State.trace; split <;> rfl

@[simp] theorem State.startCmd_trk (s : State) (id : Nat) : (s.startCmd id).trk = s.trk := by
  unfold State.startCmd; split
  · rfl
  · unfold State.trace; split <;> rfl

@[simp] theorem State.startCmd_job (s : State) (id : Nat) : (s.startCmd id).job = s.job := by
  unfold State.startCmd; split
  · rfl
  · unfold State.trace; split <;> rfl

@[simp] theorem State.startCmd_vat (s : State) (id : Nat) : (s.startCmd id).vat = s.vat := by
  unfold State.startCmd; split
  · rfl
  · unfold State.trace; split <;> rfl

@[simp] theorem State.startCmd_sheet (s : State) (id : Nat) : (s.startCmd id).sheet = s.sheet := by
  unfold State.startCmd; split
  · rfl
  · unfold State.trace; split <;> rfl

@[simp] theorem State.startCmd_red (s : State) (id : Nat) : (s.startCmd id).red = s.red := by
  unfold State.startCmd; split
  · rfl
  · unfold State.trace; split <;> rfl

@[simp] theorem State.startCmd_press (s : State) (id : Nat) : (s.startCmd id).press = s.press := by
  unfold State.startCmd; split
  · rfl
  · unfold State.trace; split <;> rfl

@[simp] theorem State.startCmd_mould (s : State) (id : Nat) : (s.startCmd id).mould = s.mould := by
  unfold State.startCmd; split
  · rfl
  · unfold State.trace; split <;> rfl

@[simp] theorem State.startCmd_felt (s : State) (id : Nat) : (s.startCmd id).felt = s.felt := by
  unfold State.startCmd; split
  · rfl
  · unfold State.trace; split <;> rfl

@[simp] theorem State.startCmd_xfer (s : State) (id : Nat) : (s.startCmd id).xfer = s.xfer := by
  unfold State.startCmd; split
  · rfl
  · unfold State.trace; split <;> rfl

@[simp] theorem State.startCmd_mgmt (s : State) (id : Nat) : (s.startCmd id).mgmt = s.mgmt := by
  unfold State.startCmd; split
  · rfl
  · unfold State.trace; split <;> rfl

@[simp] theorem State.startCmd_evc (s : State) (id : Nat) : (s.startCmd id).evc = s.evc := by
  unfold State.startCmd; split
  · rfl
  · unfold State.trace; split <;> rfl

@[simp] theorem State.startCmd_pwr (s : State) (id : Nat) : (s.startCmd id).pwr = s.pwr := by
  unfold State.startCmd; split
  · rfl
  · unfold State.trace; split <;> rfl

@[simp] theorem State.startCmd_dk (s : State) (id : Nat) : (s.startCmd id).dk = s.dk := by
  unfold State.startCmd; split
  · rfl
  · unfold State.trace; split <;> rfl

@[simp] theorem State.startCmd_ctr (s : State) (id : Nat) : (s.startCmd id).ctr = s.ctr := by
  unfold State.startCmd; split
  · rfl
  · unfold State.trace; split <;> rfl

@[simp] theorem State.startCmd_fail (s : State) (id : Nat) : (s.startCmd id).fail = s.fail := by
  unfold State.startCmd; split
  · rfl
  · unfold State.trace; split <;> rfl

@[simp] theorem State.startCmd_ckpt (s : State) (id : Nat) : (s.startCmd id).ckpt = s.ckpt := by
  unfold State.startCmd; split
  · rfl
  · unfold State.trace; split <;> rfl

@[simp] theorem State.startCmd_bb (s : State) (id : Nat) : (s.startCmd id).bb = s.bb := by
  unfold State.startCmd; split
  · rfl
  · unfold State.trace; split <;> rfl

@[simp] theorem State.startCmd_iden (s : State) (id : Nat) : (s.startCmd id).iden = s.iden := by
  unfold State.startCmd; split
  · rfl
  · unfold State.trace; split <;> rfl

@[simp] theorem State.startCmd_pins (s : State) (id : Nat) : (s.startCmd id).pins = s.pins := by
  unfold State.startCmd; split
  · rfl
  · unfold State.trace; split <;> rfl

@[simp] theorem State.startCmd_pending (s : State) (id : Nat) : (s.startCmd id).pending = s.pending := by
  unfold State.startCmd; split
  · rfl
  · unfold State.trace; split <;> rfl

@[simp] theorem State.startCmd_host_linkUp (s : State) (id : Nat) : (s.startCmd id).host.linkUp = s.host.linkUp := by
  unfold State.startCmd; split
  · rfl
  · unfold State.trace; split <;> rfl

@[simp] theorem State.startCmd_host_cxlMode (s : State) (id : Nat) : (s.startCmd id).host.cxlMode = s.host.cxlMode := by
  unfold State.startCmd; split
  · rfl
  · unfold State.trace; split <;> rfl

@[simp] theorem State.startCmd_host_session (s : State) (id : Nat) : (s.startCmd id).host.session = s.host.session := by
  unfold State.startCmd; split
  · rfl
  · unfold State.trace; split <;> rfl

@[simp] theorem State.startCmd_host_tokens (s : State) (id : Nat) : (s.startCmd id).host.tokens = s.host.tokens := by
  unfold State.startCmd; split
  · rfl
  · unfold State.trace; split <;> rfl

@[simp] theorem State.startCmd_host_pairs (s : State) (id : Nat) : (s.startCmd id).host.pairs = s.host.pairs := by
  unfold State.startCmd; split
  · rfl
  · unfold State.trace; split <;> rfl

@[simp] theorem State.startCmd_host_mem (s : State) (id : Nat) : (s.startCmd id).host.mem = s.host.mem := by
  unfold State.startCmd; split
  · rfl
  · unfold State.trace; split <;> rfl

@[simp] theorem State.startCmd_host_idPkg (s : State) (id : Nat) : (s.startCmd id).host.idPkg = s.host.idPkg := by
  unfold State.startCmd; split
  · rfl
  · unfold State.trace; split <;> rfl

@[simp] theorem State.startCmd_host_idFw (s : State) (id : Nat) : (s.startCmd id).host.idFw = s.host.idFw := by
  unfold State.startCmd; split
  · rfl
  · unfold State.trace; split <;> rfl

@[simp] theorem State.startCmd_host_nextSeq (s : State) (id : Nat) : (s.startCmd id).host.nextSeq = s.host.nextSeq := by
  unfold State.startCmd; split
  · rfl
  · unfold State.trace; split <;> rfl

@[simp] theorem State.startCmd_host_hnCtrl (s : State) (id : Nat) : (s.startCmd id).host.hnCtrl = s.host.hnCtrl := by
  unfold State.startCmd; split
  · rfl
  · unfold State.trace; split <;> rfl

@[simp] theorem State.startCmd_host_hnMask (s : State) (id : Nat) : (s.startCmd id).host.hnMask = s.host.hnMask := by
  unfold State.startCmd; split
  · rfl
  · unfold State.trace; split <;> rfl

@[simp] theorem State.startCmd_host_adminReady (s : State) (id : Nat) : (s.startCmd id).host.adminReady = s.host.adminReady := by
  unfold State.startCmd; split
  · rfl
  · unfold State.trace; split <;> rfl

@[simp] theorem State.startCmd_token (s : State) (id t : Nat) : (s.startCmd id).token t = s.token t := by
  unfold State.token; simp

@[simp] theorem State.startCmd_handle (s : State) (id h : Nat) : (s.startCmd id).handle h = s.handle h := by
  unfold State.handle; simp

@[simp] theorem State.startCmd_pair (s : State) (id n : Nat) : (s.startCmd id).pair n = s.pair n := by
  unfold State.pair; simp

@[simp] theorem State.startCmd_domOn (s : State) (id d : Nat) : (s.startCmd id).domOn d = s.domOn d := by
  unfold State.domOn; simp

@[simp] theorem State.startCmd_hostByte (s : State) (id a : Nat) : (s.startCmd id).hostByte a = s.hostByte a := by
  unfold State.hostByte; simp

@[simp] theorem State.startCmd_dramByte (s : State) (id a : Nat) : (s.startCmd id).dramByte a = s.dramByte a := by
  unfold State.dramByte; simp

/-! ### Checks -/

theorem need_of (c : Bool) (st : Cause) (h : c = true) : need c st = .ok () := by subst h; rfl
theorem need_not (c : Bool) (st : Cause) (h : c = false) : need c st = .error st := by subst h; rfl
@[simp] theorem ok_bind {ε α β : Type} (a : α) (f : α → Except ε β) : (Except.ok a >>= f) = f a := rfl
@[simp] theorem error_bind {ε α β : Type} (e : ε) (f : α → Except ε β) : (Except.error e >>= f) = .error e := rfl

end Sys2Proof.Machine
end

