-- ==== Sys2Proof/Laws/Memory.lean ====
section
/-! SUPPORT. Every operation that writes bonded DRAM, host memory or scratch keeps the canonical form of its memory, and the
memory after reset has it. -/
namespace Sys2Proof.Machine

theorem memPut_wf (m : Mem) (a : Nat) (bs : List Byte) (h : Memory.wf m = true) : Memory.wf (memPut m a bs) = true := by
  induction bs generalizing m a with
  | nil => exact h
  | cons b r ih => exact ih _ _ (twf_tset m a b h)

theorem hostPut_wf (m : Tab (Option Byte)) (a : Nat) (bs : List Byte) (h : twf m = true) : twf (hostPut m a bs) = true := by
  induction bs generalizing m a with
  | nil => exact h
  | cons b r ih => exact ih _ _ (twf_tset m a _ h)

theorem foldl_tset_wf {α : Type} (l : List (Nat × α)) (m : Tab α) (h : twf m = true) :
    twf (l.foldl (fun m p => tset m p.1 p.2) m) = true := by
  induction l generalizing m with
  | nil => exact h
  | cons p r ih => exact ih _ (twf_tset m _ _ h)

/-- Bytes written at listed device addresses. -/
theorem State.writeBytes_wf (s : State) (as : List Nat) (bs : List Byte) (h : Memory.wf s.mem.dram = true) :
    Memory.wf (s.writeBytes as bs).mem.dram = true := foldl_tset_wf _ _ h

/-- A corrected word written back. -/
theorem State.writeBack_wf (s : State) (w : Nat) (d : BitVec 128) (h : Memory.wf s.mem.dram = true) :
    Memory.wf (s.writeBack w d).mem.dram = true := by
  unfold State.writeBack; rw [State.bump_mem]; exact memPut_wf _ _ _ h

theorem State.hostWrite_wf (s : State) (a : Nat) (bs : List Byte) (h : twf s.host.mem = true) :
    twf (s.hostWrite a bs).host.mem = true := hostPut_wf _ _ _ h

theorem State.hostSees_wf (s : State) (ws : HostWrites) (h : twf s.host.mem = true) : twf (s.hostSees ws).host.mem = true :=
  foldl_tset_wf _ _ h

theorem swrite_wf (s : State) (cl u : Nat) (bs : List Byte) (h : Memory.wf (s.clus cl).scratch = true) :
    Memory.wf ((s.swrite cl u bs).clus cl).scratch = true := by
  unfold State.swrite; rw [State.setClus_clus, if_pos rfl]; exact memPut_wf _ _ _ h

theorem reset_memory_wf : Memory.wf State.reset.mem.dram = true ∧ twf State.reset.host.mem = true := ⟨rfl, rfl⟩

end Sys2Proof.Machine
end

