-- ==== Sys2Proof/Laws/Planes.lean ====
section
/-! SUPPORT. How many bytes and elements the vector engine's operands have, so that an operand that fits scratch is read and
a result that fits scratch is written. -/
namespace Sys2Proof.Machine

theorem chunks_length {α : Type} (n : Nat) (hn : 0 < n) (fuel : Nat) (l : List α) :
    (chunks fuel n l).length = Min.min fuel (ceilDiv l.length n) := by
  induction fuel generalizing l with
  | zero => simp [chunks]
  | succ k ih =>
    unfold chunks
    cases l with
    | nil => simp [ceilDiv, Nat.div_eq_of_lt (show n - 1 < n by omega)]
    | cons a r =>
      simp only [List.length_cons, ih, List.length_drop]
      unfold ceilDiv
      by_cases h : r.length + 1 ≤ n
      · have h1 : (r.length + 1 - n + n - 1) / n = 0 := Nat.div_eq_of_lt (by omega)
        have h2 : (r.length + 1 + n - 1) / n = 1 := by
          rw [show r.length + 1 + n - 1 = r.length + n by omega, Nat.add_div_right _ hn, Nat.div_eq_of_lt (by omega)]
        omega
      · have h2 : (r.length + 1 + n - 1) / n = (r.length + 1 - n + n - 1) / n + 1 := by
          rw [show r.length + 1 + n - 1 = (r.length + 1 - n + n - 1) + n by omega, Nat.add_div_right _ hn]
        omega

/-- With fuel for every element, the pieces hold them all. -/
theorem chunks_total {α : Type} (n : Nat) (hn : 0 < n) (fuel : Nat) (l : List α) (h : l.length ≤ fuel) :
    ((chunks fuel n l).map List.length).sum = l.length := by
  induction fuel generalizing l with
  | zero => cases l with
    | nil => rfl
    | cons a r => simp at h
  | succ k ih =>
    unfold chunks
    cases l with
    | nil => rfl
    | cons a r =>
      simp only [List.map_cons, List.sum_cons]
      rw [ih _ (by simp at h ⊢; omega)]
      simp; omega

@[simp] theorem leBytes_length (n v : Nat) : (leBytes n v).length = n := by
  induction n generalizing v with
  | zero => rfl
  | succ k ih => simp [leBytes, ih]

theorem flatMap_length_const {α β : Type} (f : α → List β) (k : Nat) (l : List α) (h : ∀ x ∈ l, (f x).length = k) :
    (l.flatMap f).length = l.length * k := by
  induction l with
  | nil => simp
  | cons a r ih =>
    simp only [List.flatMap_cons, List.length_append, List.length_cons]
    rw [h a (by simp), ih (fun x hx => h x (by simp [hx]))]
    rw [Nat.add_mul]; omega

theorem packBits_length (w : Nat) (cs : List Nat) (h : w = 4 ∨ w = 8 ∨ w = 16 ∨ w = 32) :
    (packBits w cs).length = ceilDiv (cs.length * w) 8 := by
  unfold packBits
  split
  · subst w
    rw [List.length_map, chunks_length 2 (by decide)]
    unfold ceilDiv; omega
  · rw [flatMap_length_const _ (w / 8) _ (by simp)]
    rcases h with rfl | rfl | rfl | rfl
    · contradiction
    all_goals (unfold ceilDiv; omega)

theorem fmtBits_width (f : Nat) : fmtBits f = 4 ∨ fmtBits f = 8 ∨ fmtBits f = 16 ∨ fmtBits f = 32 := by
  unfold fmtBits; split <;> simp

theorem fmtBlock_bits {f : Nat} (h : fmtBlock f = true) : fmtBits f = 4 := by
  simp [fmtBlock] at h; rcases h with rfl | rfl <;> rfl

theorem blockEncode_length (f : Nat) (rnd : Nat → Rnd) (vs : List FVal) : (blockEncode f rnd vs).2.1.length = vs.length := by
  unfold blockEncode; split <;> simp

/-- Blocks encoded one after another give as many codes as there are values. -/
theorem blocks_length (f : Nat) (g : Nat → Nat → Rnd) (bs : List (List FVal)) (k : Nat) :
    (((bs.zipIdx k).map (fun p => blockEncode f (g p.2) p.1)).flatMap (fun b => b.2.1)).length
      = (bs.map List.length).sum := by
  induction bs generalizing k with
  | nil => rfl
  | cons a r ih => simp only [List.zipIdx_cons, List.map_cons, List.flatMap_cons, List.length_append, List.sum_cons, ih, blockEncode_length]

theorem encodePlanes_data (f : Nat) (rnd : Nat → Rnd) (vs : List FVal) :
    (encodePlanes f rnd vs).1.length = ceilDiv (vs.length * fmtBits f) 8 := by
  unfold encodePlanes
  split
  · rename_i h
    rw [fmtBlock_bits h]
    dsimp only
    rw [packBits_length 4 _ (by simp), blocks_length f (fun j i => rnd (32 * j + i)), chunks_total 32 (by decide) _ _ (Nat.le_refl _)]
  · dsimp only
    rw [packBits_length _ _ (fmtBits_width f)]; simp

theorem encodePlanes_scales (f : Nat) (rnd : Nat → Rnd) (vs : List FVal) :
    (encodePlanes f rnd vs).2.1.length = if fmtBlock f then ceilDiv vs.length 32 else 0 := by
  unfold encodePlanes
  split
  · simp only [List.length_map, List.length_zipIdx]
    rw [chunks_length 32 (by decide)]; unfold ceilDiv; omega
  · rfl

/-- A range within scratch is read. -/
theorem State.sread_some (s : State) (d cl u n : Nat) (h : scratchOk u n = true) :
    ∃ bs, s.sread d cl u n = some bs ∧ bs.length = n := by
  unfold scratchOk at h
  simp only [decide_eq_true_eq] at h
  exact ⟨_, if_pos h, by simp⟩

theorem nibbles_length (bs : List Byte) : (bs.flatMap (fun b => [b.toNat % 16, b.toNat / 16])).length = bs.length * 2 :=
  flatMap_length_const _ 2 _ (fun _ _ => rfl)

theorem unpackBits_length (w : Nat) (bs : List Byte) (n : Nat) (h : w = 4 ∨ w = 8 ∨ w = 16 ∨ w = 32)
    (hb : bs.length = ceilDiv (n * w) 8) : (unpackBits w bs n).length = n := by
  unfold unpackBits
  split
  · subst w
    rw [List.length_take, nibbles_length, hb]; unfold ceilDiv; omega
  · rw [List.length_map, chunks_length _ (by rcases h with rfl | rfl | rfl | rfl <;> first | contradiction | decide), hb]
    rcases h with rfl | rfl | rfl | rfl
    · contradiction
    all_goals (simp only [ceilDiv, Nat.reduceDiv]; omega)

/-- Every chunk is paired with a scale, so the values are as many as the codes. -/
theorem blockValues_length (f : Nat) (cs : List (List Nat)) (sc : List Byte) (h : cs.length ≤ sc.length) :
    ((cs.zip sc).flatMap (fun p => p.1.map (fun c => blockDecode f c p.2.toNat))).length = (cs.map List.length).sum := by
  induction cs generalizing sc with
  | nil => rfl
  | cons a r ih =>
    cases sc with
    | nil => simp at h
    | cons b t =>
      simp only [List.zip_cons_cons, List.flatMap_cons, List.length_append, List.length_map, List.map_cons, List.sum_cons]
      rw [ih t (by simpa using h)]

theorem decodePlanes_length (f n : Nat) (data sc : List Byte) (hd : data.length = ceilDiv (n * fmtBits f) 8)
    (hs : fmtBlock f = true → sc.length = ceilDiv n 32) : (decodePlanes f n data sc).length = n := by
  have hu := unpackBits_length _ data n (fmtBits_width f) hd
  unfold decodePlanes
  dsimp only
  split
  · rename_i h
    rw [blockValues_length, chunks_total 32 (by decide) _ _ (by omega), hu]
    rw [chunks_length 32 (by decide), hu, hs h]; omega
  · simp [hu]

/-- A source that lies within scratch is read, with as many elements as it has. -/
theorem State.vRead_some (s : State) (d cl f u total n : Nat) (h1 : scratchOk u (ceilDiv (n * fmtBits f) 8) = true)
    (h2 : fmtBlock f = true → scratchOk (u + scaleOff total / 16) (ceilDiv n 32) = true) :
    ∃ a, s.vRead d cl f u total n = some a ∧ a.length = n := by
  obtain ⟨bs, hb, hl⟩ := s.sread_some d cl u _ h1
  unfold State.vRead
  rw [hb]
  cases hf : fmtBlock f with
  | true =>
    obtain ⟨sc, hc, hk⟩ := s.sread_some d cl _ _ (h2 hf)
    simp only [if_true, hc]
    exact ⟨_, rfl, by rw [List.length_map, decodePlanes_length f n bs sc hl (fun _ => hk)]⟩
  | false =>
    exact ⟨_, rfl, by rw [List.length_map, decodePlanes_length f n bs _ hl (fun h => by simp [hf] at h)]⟩

/-- A source with its own planes. -/
theorem State.vRead_planes (s : State) (d cl f u n : Nat) (h : planesFit f u n = true) :
    ∃ a, s.vRead d cl f u n n = some a ∧ a.length = n := by
  simp only [planesFit, Bool.and_eq_true, Bool.or_eq_true, Bool.not_eq_true'] at h
  exact s.vRead_some d cl f u n n h.1 (fun hf => by simpa [hf] using h.2)

/-- A second or third source, broadcast or not. -/
theorem State.vOperand_some (s : State) (d cl u n : Nat) (q : QWord) (b : Bool) (h : q.operandFits u n b = true) :
    ∃ a, s.vOperand d cl (wFa q.word) u n b = some a ∧ a.length = n := by
  unfold QWord.operandFits at h
  simp only [Bool.and_eq_true, Bool.or_eq_true, Bool.not_eq_true'] at h
  unfold State.vOperand
  cases b with
  | true =>
    obtain ⟨a, ha, -⟩ := s.vRead_some d cl (wFa q.word) u 64 1 (by simpa using h.1) (fun hf => by simpa [hf] using h.2)
    exact ⟨_, by simp only [if_true, ha]; rfl, by simp⟩
  | false => exact s.vRead_some d cl _ u n n (by simpa using h.1) (fun hf => by simpa [hf] using h.2)

/-- A result whose planes lie within scratch is written. -/
theorem vWrite_done (cl : Nat) (q : QWord) (rs : List VElem) (s : State)
    (h : planesFit (wFd q.word) (vD q.word + q.reg (vXd q.word)) rs.length = true) : ∃ u, vWrite cl q rs s = .done u := by
  unfold vWrite
  simp only [planesFit, Bool.and_eq_true, Bool.or_eq_true, Bool.not_eq_true'] at h
  have hd := encodePlanes_data (wFd q.word) (convRnd fmtFP32 (wFd q.word)
    (s.wordRandom q (vRnd q.word && wFd q.word != fmtFP32) (vRctx q.word))) (rs.map (fun r => f32 r.1))
  have hs := encodePlanes_scales (wFd q.word) (convRnd fmtFP32 (wFd q.word)
    (s.wordRandom q (vRnd q.word && wFd q.word != fmtFP32) (vRctx q.word))) (rs.map (fun r => f32 r.1))
  simp only [List.length_map] at hd hs
  dsimp only
  rw [if_pos]
  · exact ⟨_, rfl⟩
  · rw [hd, hs, h.1]
    cases hf : fmtBlock (wFd q.word) with
    | true => simpa [hf] using Or.inr (by simpa [hf] using h.2)
    | false =>
      rw [hf] at hs
      simp only [Bool.false_eq_true, ↓reduceIte] at hs
      simp [List.length_eq_zero_iff.1 hs]

theorem packMask_length (bs : List Bool) : (packMask bs).length = ceilDiv bs.length 8 := by
  unfold packMask
  rw [List.length_map, chunks_length 8 (by decide)]; unfold ceilDiv; omega

end Sys2Proof.Machine
end

