-- ==== Sys2Proof/Laws/Bytes.lean ====
section
/-! SUPPORT. Little-endian bytes and numbers, reading host memory, and words built bit by bit. -/
namespace Sys2Proof.Machine

theorem leNat_leBytes (n v : Nat) : leNat (leBytes n v) = v % 256 ^ n := by
  induction n generalizing v with
  | zero => simp [leBytes, leNat, Nat.mod_one]
  | succ k ih =>
    have h : 256 ^ (k + 1) = 256 * 256 ^ k := Nat.pow_succ'
    show (BitVec.ofNat 8 v).toNat + 256 * leNat (leBytes k (v / 256)) = _
    rw [ih, h, Nat.mod_mul]
    rfl

theorem leNat_lt (l : List Byte) : leNat l < 256 ^ l.length := by
  induction l with
  | nil => simp [leNat]
  | cons b r ih =>
    simp only [leNat, List.length_cons, Nat.pow_succ']
    have : b.toNat < 256 := b.isLt
    omega

theorem leBytes_leNat (l : List Byte) : leBytes l.length (leNat l) = l := by
  induction l with
  | nil => rfl
  | cons b r ih =>
    have hb : b.toNat < 256 := b.isLt
    simp only [leNat, List.length_cons, leBytes]
    rw [show (b.toNat + 256 * leNat r) / 256 = leNat r by omega, ih]
    congr 1
    apply BitVec.eq_of_toNat_eq
    simp only [BitVec.toNat_ofNat]
    omega

/-- Host memory that reads as `l` from `a` on is read as `l`. -/
theorem State.hostRead_eq (s : State) (l : List Byte) (a : Nat) (h : ∀ i b, l[i]? = some b → s.hostByte (a + i) = some b) :
    s.hostRead a l.length = some l := by
  unfold State.hostRead
  have key : ∀ (k : Nat) (r : List Byte) (acc : List Byte), (∀ i b, r[i]? = some b → s.hostByte (a + k + i) = some b) →
      (List.range' k r.length).foldr (fun i x => match s.hostByte (a + i), x with
        | some b, some l => some (b :: l)
        | _, _ => none) (some acc) = some (r ++ acc) := by
    intro k r
    induction r generalizing k with
    | nil => intros; rfl
    | cons b r ih =>
      intro acc h
      rw [List.length_cons, List.range'_succ, List.foldr_cons, ih (k + 1) acc (fun i x hx => by
        have := h (i + 1) x (by simpa using hx)
        rwa [show a + k + (i + 1) = a + (k + 1) + i by omega] at this)]
      rw [show s.hostByte (a + k) = some b from h 0 b rfl]
      rfl
  have := key 0 l [] (by simpa using h)
  rw [List.append_nil] at this
  rw [List.range_eq_range']
  exact this

theorem tget_listed {α : Type} (l : List α) (a k : Nat) : tget (l.zipIdx.map (fun p => (a + p.2, p.1))) (a + k) = l[k]? := by
  have key : ∀ (l : List α) (n k : Nat), tget ((l.zipIdx n).map (fun p => (a + p.2, p.1))) (a + (n + k)) = l[k]? := by
    intro l
    induction l with
    | nil => intros; rfl
    | cons x r ih =>
      intro n k
      simp only [List.zipIdx_cons, List.map_cons, tget]
      cases k with
      | zero => simp
      | succ k =>
        rw [if_neg (by omega), show n + (k + 1) = n + 1 + k by omega, ih]
        simp
  simpa using key l 0 k

/-- A number built from a test of each bit has those bits. -/
theorem testBit_bits (p : Nat → Bool) (n i : Nat) :
    ((List.range n).foldl (fun v i => if p i then v + 2 ^ i else v) 0).testBit i = (decide (i < n) && p i) := by
  have key : ∀ n, (List.range n).foldl (fun v i => if p i then v + 2 ^ i else v) 0 < 2 ^ n ∧ ∀ i,
      ((List.range n).foldl (fun v i => if p i then v + 2 ^ i else v) 0).testBit i = (decide (i < n) && p i) := by
    intro n
    induction n with
    | zero => simp
    | succ n ih =>
      obtain ⟨h1, h2⟩ := ih
      simp only [List.range_succ, List.foldl_append, List.foldl_cons, List.foldl_nil]
      generalize (List.range n).foldl (fun v i => if p i then v + 2 ^ i else v) 0 = v at h1 h2
      cases hp : p n with
      | false =>
        refine ⟨by simp only [Bool.false_eq_true, ↓reduceIte]; rw [Nat.pow_succ]; omega, fun i => ?_⟩
        simp only [Bool.false_eq_true, ↓reduceIte, h2]
        by_cases hi : i = n
        · subst hi; simp [hp]
        · have : (i < n + 1) ↔ (i < n) := by omega
          simp [this]
      | true =>
        refine ⟨by simp only [↓reduceIte]; rw [Nat.pow_succ]; omega, fun i => ?_⟩
        simp only [↓reduceIte]
        rw [Nat.add_comm]
        rcases Nat.lt_trichotomy i n with hi | hi | hi
        · rw [Nat.testBit_two_pow_add_gt hi, h2]; simp [hi, Nat.lt_succ_of_lt hi]
        · subst hi; rw [Nat.testBit_two_pow_add_eq, h2]; simp [hp]
        · have : 2 ^ n + v < 2 ^ i := Nat.lt_of_lt_of_le (by omega : 2 ^ n + v < 2 ^ (n + 1)) (Nat.pow_le_pow_right (by decide) hi)
          rw [Nat.testBit_lt_two_pow this]
          simp; omega
  exact (key n).2 i

/-- The same of a sum of bits. -/
theorem testBit_bitSum (p : Nat → Bool) (n i : Nat) :
    ((List.range n).foldl (fun v i => v + (if p i then 2 ^ i else 0)) 0).testBit i = (decide (i < n) && p i) := by
  rw [← testBit_bits p n i]
  congr 2
  funext v i
  split <;> rfl

end Sys2Proof.Machine
end

