-- ==== Sys2Proof/Laws/Still.lean ====
section
/-! SUPPORT. What most meanings leave alone, in one value: the queue of commands, the event controller, the power domains
that are on or being switched, the clocks, the dies, the fuses and the use of the shared ball. Lemmas named `…_still` say it of each
operation. -/
namespace Sys2Proof.Machine

/-- The parts of the state that only the commands of ch. 13, 14, 17 and of the shared ball change. -/
structure Still where
  pending : List Instr
  evc : Evc
  on : BitVec 20
  clks : Tab Clk
  dies : Tab Die
  stage : Tab (Bool × Nat × Nat)
  sequence : List (Nat × Bool)
  fuses : Nat
  ball : Nat

def State.still (s : State) : Still :=
  { pending := s.pending, evc := s.evc, on := s.pwr.on, clks := s.pwr.clks, dies := s.pwr.dies,
    stage := s.pwr.stage, sequence := s.pwr.sequence, fuses := s.iden.fuses,
    ball := s.pins.ball }

theorem still_mk (t f h m k j v c r p mo fe x mg e pw d ct tr fa ck b i pi q) :
    (State.mk t f h m k j v c r p mo fe x mg e pw d ct tr fa ck b i pi q).still
      = ⟨q, e, pw.on, pw.clks, pw.dies, pw.stage, pw.sequence, i.fuses, pi.ball⟩ := rfl

theorem still_eta (s : State) :
    (⟨s.pending, s.evc, s.pwr.on, s.pwr.clks, s.pwr.dies, s.pwr.stage, s.pwr.sequence, s.iden.fuses, s.pins.ball⟩ : Still) = s.still := rfl

/-- The same for what a meaning answers. -/
def OutKeeps (k : Still) : Out' → Prop
  | .next t => t.still = k
  | _ => True

def WorkKeeps (k : Still) : Except Cause Work → Prop
  | .ok (.done _ t) => t.still = k
  | .ok (.busy t) => t.still = k
  | .error _ => True

def OptKeeps (k : Still) : Option State → Prop
  | some t => t.still = k
  | none => True

/-- The same for an optional pair with a state. -/
def FinKeeps {α : Type} (k : Still) : Option (α × State) → Prop
  | some p => p.2.still = k
  | none => True

/-- The same for checks that answer a pair with a state. -/
def OkKeeps {α : Type} (k : Still) : Except Cause (α × State) → Prop
  | .ok p => p.2.still = k
  | .error _ => True

@[simp] theorem okKeeps_ok {α : Type} (k : Still) (p : α × State) : OkKeeps k (.ok p) = (p.2.still = k) := rfl
@[simp] theorem okKeeps_pure {α : Type} (k : Still) (p : α × State) : OkKeeps k (pure p) = (p.2.still = k) := rfl
@[simp] theorem okKeeps_error {α : Type} (k : Still) (c : Cause) : OkKeeps (α := α) k (.error c) = True := rfl
@[simp] theorem outKeeps_next (k : Still) (t : State) : OutKeeps k (.next t) = (t.still = k) := rfl
@[simp] theorem outKeeps_fault (k : Still) (f : Fault) : OutKeeps k (.fault f) = True := rfl
@[simp] theorem outKeeps_refused (k : Still) (f : Refusal) : OutKeeps k (.refused f) = True := rfl
@[simp] theorem workKeeps_done (k : Still) (c : Cause) (t : State) : WorkKeeps k (.ok (.done c t)) = (t.still = k) := rfl
@[simp] theorem workKeeps_busy (k : Still) (t : State) : WorkKeeps k (.ok (.busy t)) = (t.still = k) := rfl
@[simp] theorem workKeeps_error (k : Still) (c : Cause) : WorkKeeps k (.error c) = True := rfl
@[simp] theorem optKeeps_some (k : Still) (t : State) : OptKeeps k (some t) = (t.still = k) := rfl
@[simp] theorem optKeeps_none (k : Still) : OptKeeps k none = True := rfl
@[simp] theorem finKeeps_some {α : Type} (k : Still) (p : α × State) : FinKeeps k (some p) = (p.2.still = k) := rfl
@[simp] theorem finKeeps_none {α : Type} (k : Still) : FinKeeps (α := α) k none = True := rfl

@[simp] theorem workKeeps_pureDone (k : Still) (c : Cause) (t : State) : WorkKeeps k (pure (.done c t)) = (t.still = k) := rfl
@[simp] theorem workKeeps_pureBusy (k : Still) (t : State) : WorkKeeps k (pure (.busy t)) = (t.still = k) := rfl

/-- A fold of operations that keep it keeps it. -/
theorem foldl_still {α : Type} (f : State → α → State) (h : ∀ t a, (f t a).still = t.still) (l : List α) (s : State) :
    (l.foldl f s).still = s.still := by
  induction l generalizing s with
  | nil => rfl
  | cons a l ih => simp only [List.foldl_cons, ih, h]

theorem workKeeps_bind {α : Type} (k : Still) (x : Except Cause α) (f : α → Except Cause Work)
    (h : ∀ a, x = .ok a → WorkKeeps k (f a)) : WorkKeeps k (x >>= f) := by
  cases x with
  | error e => trivial
  | ok a => exact h a rfl

theorem okKeeps_bind {α β : Type} (k : Still) (x : Except Cause α) (f : α → Except Cause (β × State))
    (h : ∀ a, x = .ok a → OkKeeps k (f a)) : OkKeeps k (x >>= f) := by
  cases x with
  | error e => trivial
  | ok a => exact h a rfl

theorem okKeeps_use {α : Type} {k : Still} {x : Except Cause (α × State)} {p : α × State} (h : OkKeeps k x)
    (e : x = .ok p) : p.2.still = k := by
  rw [e] at h; exact h

theorem whenThen_still (k : Still) (c : Bool) (s t : State) (hs : s.still = k) (ht : t.still = k) :
    OutKeeps k (whenThen c s t) := by
  unfold whenThen; split <;> assumption

theorem inRange_still (k : Still) (c : Bool) (x : Nat) (o : Out') (h : OutKeeps k o) : OutKeeps k (inRange c x o) := by
  unfold inRange; split
  · exact h
  · trivial

end Sys2Proof.Machine
end

