-- ==== Sys2Proof/Laws/StillOps.lean ====
section
/-! SUPPORT. The operations of Machine/Ops.lean leave alone what `State.still` holds. -/
namespace Sys2Proof.Machine

set_option linter.unusedSimpArgs false
set_option linter.unusedTactic false
set_option linter.unreachableTactic false

@[simp] theorem State.draw_still (x1 : _) : (State.draw x1).2.still = x1.still := by
  rfl

@[simp] theorem State.bump_still (x1 : _) (x2 : _) (x3 : _) : (State.bump x1 x2 x3).still = x1.still := by
  simp [State.bump, still_mk, still_eta, apply_ite State.still, foldl_still]

@[simp] theorem State.advance_still (x1 : _) (x2 : _) : (State.advance x1 x2).still = x1.still := by
  simp [State.advance, State.passCycles, still_mk, still_eta, apply_ite State.still, foldl_still]

@[simp] theorem State.addOp_still (x1 : _) (x2 : _) (x3 : _) (x4 : _) : (State.addOp x1 x2 x3 x4).still = x1.still := by
  simp [State.addOp, still_mk, still_eta, apply_ite State.still, foldl_still]

@[simp] theorem State.trace_still (x1 : _) (x2 : _) (x3 : _) (x4 : _) (x5 : _) (x6 : _) : (State.trace x1 x2 x3 x4 x5 x6).still = x1.still := by
  simp [State.trace, still_mk, still_eta, apply_ite State.still, foldl_still]

@[simp] theorem State.hostWrite_still (x1 : _) (x2 : _) (x3 : _) : (State.hostWrite x1 x2 x3).still = x1.still := by
  rfl

@[simp] theorem State.hostSees_still (x1 : _) (x2 : _) : (State.hostSees x1 x2).still = x1.still := by
  rfl

@[simp] theorem State.writeBack_still (x1 : _) (x2 : _) (x3 : _) : (State.writeBack x1 x2 x3).still = x1.still := by
  unfold State.writeBack
  rw [State.bump_still]
  rfl

@[simp] theorem State.decoded_still (x1 : _) (x2 : _) (x3 : _) : (State.decoded x1 x2 x3).2.2.still = x1.still := by
  unfold State.decoded
  cases x3 with
  | clean d => rfl
  | corrected d => exact State.writeBack_still _ _ _
  | bad d => rfl

@[simp] theorem State.readWord_still (x1 : _) (x2 : _) : (State.readWord x1 x2).2.2.still = x1.still := by
  unfold State.readWord
  generalize tget x1.mem.err x2 = e
  cases e with
  | none => rfl
  | some e => exact State.decoded_still _ _ _

@[simp] theorem State.bbPush_still (x1 : _) (x2 : _) (x3 : _) (x4 : _) : (State.bbPush x1 x2 x3 x4).still = x1.still := by
  rfl

@[simp] theorem State.noteBad_still (x1 : _) (x2 : _) : (State.noteBad x1 x2).still = x1.still := by
  rfl

@[simp] theorem State.readByte_still (x1 : _) (x2 : _) : (State.readByte x1 x2).2.2.still = x1.still := by
  unfold State.readByte
  simp only []
  repeat' split
  all_goals (try (rename_i h; have h2 := congrArg Prod.snd h; simp only at h2; subst h2))
  all_goals simp [still_mk, still_eta, apply_ite State.still, foldl_still]

@[simp] theorem State.readBytes_still (x1 : _) (x2 : _) : (State.readBytes x1 x2).2.2.still = x1.still := by
  unfold State.readBytes
  split
  · rfl
  · simp only []
    generalize ([] : List Byte) = a
    generalize false = b
    suffices h : ∀ (l : List Nat) (acc : List Byte × Bool × State),
        (l.foldl (fun (acc : List Byte × Bool × State) a =>
          (((acc.2.2.readByte a).1 :: acc.1, acc.2.1 || (acc.2.2.readByte a).2.1, (acc.2.2.readByte a).2.2) :
            List Byte × Bool × State)) acc).2.2.still = acc.2.2.still from h x2 (a, b, x1)
    intro l
    induction l with
    | nil => intro acc; rfl
    | cons y l ih => intro acc; simp only [List.foldl_cons, ih, State.readByte_still]

@[simp] theorem State.writeBytes_still (x1 : _) (x2 : _) (x3 : _) : (State.writeBytes x1 x2 x3).still = x1.still := by
  rfl

@[simp] theorem State.extRead_still (x1 : _) (x2 : _) (x3 : _) (x4 : _) : (State.extRead x1 x2 x3 x4).2.2.still = x1.still := by
  simp [State.extRead, still_mk, still_eta, apply_ite State.still, foldl_still]

@[simp] theorem State.extWrite_still (x1 : _) (x2 : _) (x3 : _) (x4 : _) : (State.extWrite x1 x2 x3 x4).still = x1.still := by
  rfl

@[simp] theorem State.putToken_still (x1 : _) (x2 : _) (x3 : _) : (State.putToken x1 x2 x3).still = x1.still := by
  rfl

@[simp] theorem State.raiseToken_still (x1 : _) (x2 : _) (x3 : _) : (State.raiseToken x1 x2 x3).still = x1.still := by
  rfl

@[simp] theorem State.addToken_still (x1 : _) (x2 : _) (x3 : _) : (State.addToken x1 x2 x3).still = x1.still := by
  rfl

@[simp] theorem State.send_still (x1 : _) (x2 : _) : (State.send x1 x2).still = x1.still := by
  rfl

@[simp] theorem State.setMeasure_still (x1 : _) (x2 : _) (x3 : _) : (State.setMeasure x1 x2 x3).still = x1.still := by
  rfl

end Sys2Proof.Machine
end

