-- ==== Sys2Proof/Laws/StillQueue.lean ====
section
/-! SUPPORT. The operations of Machine/Queue.lean leave alone what `State.still` holds. -/
namespace Sys2Proof.Machine

set_option linter.unusedSimpArgs false
set_option linter.unusedTactic false
set_option linter.unreachableTactic false

@[simp] theorem State.setPair_still (x1 : _) (x2 : _) (x3 : _) : (State.setPair x1 x2 x3).still = x1.still := by
  rfl

@[simp] theorem State.post_still (x1 : _) (x2 : _) (x3 : _) : (State.post x1 x2 x3).still = x1.still := by
  rfl

@[simp] theorem State.setWin_still (x1 : _) (x2 : _) (x3 : _) : (State.setWin x1 x2 x3).still = x1.still := by
  rfl

@[simp] theorem State.suppress_still (x1 : _) (x2 : _) : (State.suppress x1 x2).still = x1.still := by
  simp [State.suppress, still_mk, still_eta, apply_ite State.still, foldl_still]

@[simp] theorem State.postNotice_still (x1 : _) (x2 : _) (x3 : _) (x4 : _) : (State.postNotice x1 x2 x3 x4).still = x1.still := by
  simp [State.postNotice, still_mk, still_eta, apply_ite State.still, foldl_still]

@[simp] theorem State.waitNotice_still (x1 : _) (x2 : _) (x3 : _) (x4 : _) : (State.waitNotice x1 x2 x3 x4).still = x1.still := by
  simp [State.waitNotice, still_mk, still_eta, apply_ite State.still, foldl_still]

@[simp] theorem State.detect_still (x1 : _) (x2 : _) (x3 : _) (x4 : _) (x5 : _) : (State.detect x1 x2 x3 x4 x5).still = x1.still := by
  simp [State.detect, still_mk, still_eta, apply_ite State.still, foldl_still]

@[simp] theorem State.detectOpen_still (x1 : _) (x2 : _) (x3 : _) (x4 : _) : (State.detectOpen x1 x2 x3 x4).still = x1.still := by
  simp [State.detectOpen]

@[simp] theorem State.releaseNotices_still (x1 : _) : (State.releaseNotices x1).still = x1.still := by
  unfold State.releaseNotices
  apply foldl_still
  intro t a
  repeat' split
  all_goals simp [still_mk, still_eta, apply_ite State.still, foldl_still]

@[simp] theorem State.setCmd_still (x1 : _) (x2 : _) (x3 : _) : (State.setCmd x1 x2 x3).still = x1.still := by
  rfl

@[simp] theorem State.refreshReady_still (x1 : _) : (State.refreshReady x1).still = x1.still := by
  rfl

@[simp] theorem State.counterRec_still (x1 : _) (x2 : _) (x3 : _) : (State.counterRec x1 x2 x3).still = x1.still := by
  rfl

@[simp] theorem State.dropCmd_still (x1 : _) (x2 : _) : (State.dropCmd x1 x2).still = x1.still := by
  rfl

@[simp] theorem State.endUnstarted_still (x1 : _) (x2 : _) (x3 : _) (x4 : _) : (State.endUnstarted x1 x2 x3 x4).still = x1.still := by
  simp [State.endUnstarted, still_mk, still_eta, apply_ite State.still, foldl_still]

@[simp] theorem State.haltAfter_still (x1 : _) (x2 : _) (x3 : _) (x4 : _) : (State.haltAfter x1 x2 x3 x4).still = x1.still := by
  simp [State.haltAfter, still_mk, still_eta, apply_ite State.still, foldl_still]

@[simp] theorem State.failCmd_still (x1 : _) (x2 : _) (x3 : _) : (State.failCmd x1 x2 x3).still = x1.still := by
  unfold State.failCmd
  repeat' (first | apply inRange_still | apply whenThen_still | split)
  all_goals first | trivial | simp [still_mk, still_eta, apply_ite State.still, foldl_still] | rfl

@[simp] theorem State.startCmd_still (x1 : _) (x2 : _) : (State.startCmd x1 x2).still = x1.still := by
  unfold State.startCmd
  repeat' (first | apply inRange_still | apply whenThen_still | split)
  all_goals first | trivial | simp [still_mk, still_eta, apply_ite State.still, foldl_still] | rfl

@[simp] theorem State.finish_still (x1 : _) (x2 : _) (x3 : _) : (State.finish x1 x2 x3).still = x1.still := by
  unfold State.finish
  repeat' (first | apply inRange_still | apply whenThen_still | split)
  all_goals first | trivial | simp [still_mk, still_eta, apply_ite State.still, foldl_still] | rfl

@[simp] theorem State.cmdFlags_still (x1 : _) (x2 : _) (x3 : _) : (State.cmdFlags x1 x2 x3).still = x1.still := by
  rfl

theorem jeisk_id (op : Nat) (body : Body) (id : Nat) (s : State) : jeisk op body id s = jeisk op body id s := rfl

@[simp] theorem State.ringError_still (x1 : _) (x2 : _) (x3 : _) : (State.ringError x1 x2 x3).still = x1.still := by
  simp [State.ringError, still_mk, still_eta, apply_ite State.still, foldl_still]

@[simp] theorem State.readEntry_still (x1 : _) (x2 : _) (x3 : _) : (State.readEntry x1 x2 x3).still = x1.still := by
  unfold State.readEntry
  repeat' (first | apply inRange_still | apply whenThen_still | split | simp only [foldl_still, outKeeps_next, workKeeps_done])
  all_goals first | trivial | simp [still_mk, still_eta, apply_ite State.still, foldl_still] | rfl

@[simp] theorem State.readLoop_still (x1 : _) (x2 : _) (x3 : _) : (State.readLoop x1 x2 x3).still = x2.still := by
  induction x1 generalizing x2 with
  | zero => rfl
  | succ k ih =>
    unfold State.readLoop
    simp only []
    split
    · split
      · rw [ih, State.readEntry_still]
      · rw [State.ringError_still]
    · rfl

@[simp] theorem State.readPair_still (x1 : _) (x2 : _) : (State.readPair x1 x2).still = x1.still := by
  simp [State.readPair, still_mk, still_eta, apply_ite State.still, foldl_still]

@[simp] theorem State.takeTail_still (x1 : _) (x2 : _) (x3 : _) : (State.takeTail x1 x2 x3).still = x1.still := by
  simp [State.takeTail, still_mk, still_eta, apply_ite State.still, foldl_still]

@[simp] theorem State.takeHead_still (x1 : _) (x2 : _) (x3 : _) : (State.takeHead x1 x2 x3).still = x1.still := by
  simp [State.takeHead, still_mk, still_eta, apply_ite State.still, foldl_still]

@[simp] theorem State.readAll_still (x1 : _) : (State.readAll x1).still = x1.still := by
  simp [State.readAll, still_mk, still_eta, apply_ite State.still, foldl_still]

@[simp] theorem State.readLine_still (x1 : _) (x2 : _) : (State.readLine x1 x2).still = x1.still := by
  unfold State.readLine
  repeat' (first | apply inRange_still | apply whenThen_still | split | simp only [foldl_still, outKeeps_next, workKeeps_done])
  all_goals first | trivial | simp [still_mk, still_eta, apply_ite State.still, foldl_still] | rfl

@[simp] theorem State.msix_still (x1 : _) (x2 : _) : (State.msix x1 x2).still = x1.still := by
  rfl

@[simp] theorem State.writeRec_still (x1 : _) (x2 : _) (x3 : _) (x4 : _) : (State.writeRec x1 x2 x3 x4).still = x1.still := by
  simp [State.writeRec, still_mk, still_eta, apply_ite State.still, foldl_still]

theorem jeisk_still (op : Nat) (body : Body) (id : Nat) (s : State)
    (h : ∀ i c t, WorkKeeps t.still (body i c t)) : OutKeeps s.still (jeisk op body id s) := by
  unfold jeisk
  split
  · simp
  · rename_i c _
    split
    · simp only []
      split
      · simp
      · have hb := h id c (s.startCmd id)
        split <;> rename_i hw <;> rw [hw] at hb <;> simp_all
    · simp

end Sys2Proof.Machine
end

