-- ==== Sys2Proof/Laws/StillRoute.lean ====
section
/-! SUPPORT. The operations of Machine/Route.lean leave alone what `State.still` holds. -/
namespace Sys2Proof.Machine

set_option linter.unusedSimpArgs false
set_option linter.unusedTactic false
set_option linter.unreachableTactic false

@[simp] theorem State.setLink_still (x1 : _) (x2 : _) (x3 : _) : (State.setLink x1 x2 x3).still = x1.still := by
  rfl

@[simp] theorem State.onLink_still (x1 : _) (x2 : _) (x3 : _) : (State.onLink x1 x2 x3).still = x1.still := by
  rfl

@[simp] theorem State.enqueue_still (x1 : _) (x2 : _) (x3 : _) (x4 : _) : (State.enqueue x1 x2 x3 x4).still = x1.still := by
  rfl

@[simp] theorem State.enqueueHop_still (x1 : _) (x2 : _) (x3 : _) (x4 : _) : (State.enqueueHop x1 x2 x3 x4).still = x1.still := by
  simp [State.enqueueHop, still_mk, still_eta, apply_ite State.still, foldl_still]

@[simp] theorem State.deliverHere_still (x1 : _) (x2 : _) (x3 : _) : (State.deliverHere x1 x2 x3).still = x1.still := by
  rfl

@[simp] theorem State.forward_still (x1 : _) (x2 : _) (x3 : _) : (State.forward x1 x2 x3).still = x1.still := by
  unfold State.forward
  repeat' (first | apply inRange_still | apply whenThen_still | split | simp only [foldl_still, outKeeps_next, workKeeps_done])
  all_goals first | trivial | simp [still_mk, still_eta, apply_ite State.still, foldl_still] | rfl

@[simp] theorem State.sendFrame_still (x1 : _) (x2 : _) (x3 : _) : (State.sendFrame x1 x2 x3).still = x1.still := by
  simp [State.sendFrame, still_mk, still_eta, apply_ite State.still, foldl_still]

@[simp] theorem State.linkFrame_still (x1 : _) (x2 : _) (x3 : _) (x4 : _) : (State.linkFrame x1 x2 x3 x4).still = x1.still := by
  rfl

@[simp] theorem State.launchPkt_still (x1 : _) (x2 : _) (x3 : _) (x4 : _) (x5 : _) : (State.launchPkt x1 x2 x3 x4 x5).still = x1.still := by
  simp [State.launchPkt, still_mk, still_eta, apply_ite State.still, foldl_still]

@[simp] theorem State.takeRx_still (x1 : _) (x2 : _) : FinKeeps x1.still (State.takeRx x1 x2) := by
  unfold State.takeRx
  repeat' (first | apply inRange_still | apply whenThen_still | split)
  all_goals first | trivial | simp [still_mk, still_eta, apply_ite State.still, foldl_still] | rfl

end Sys2Proof.Machine
end

