-- ==== Sys2Proof/Laws/StillLife.lean ====
section
/-! SUPPORT. The operations of Machine/Life.lean leave alone what `State.still` holds. -/
namespace Sys2Proof.Machine

set_option linter.unusedSimpArgs false
set_option linter.unusedTactic false
set_option linter.unreachableTactic false

@[simp] theorem State.dropLaunch_still (x1 : _) (x2 : _) : (State.dropLaunch x1 x2).still = x1.still := by
  rfl

@[simp] theorem State.abortWork_still (x1 : _) (x2 : _) : (State.abortWork x1 x2).still = x1.still := by
  unfold State.abortWork
  repeat' (first | apply inRange_still | apply whenThen_still | split | simp only [foldl_still, outKeeps_next, workKeeps_done])
  all_goals first | trivial | simp [still_mk, still_eta, apply_ite State.still, foldl_still] | rfl

@[simp] theorem State.endCmd_still (x1 : _) (x2 : _) (x3 : _) : (State.endCmd x1 x2 x3).still = x1.still := by
  unfold State.endCmd
  repeat' (first | apply inRange_still | apply whenThen_still | split)
  all_goals first | trivial | simp [still_mk, still_eta, apply_ite State.still, foldl_still] | rfl

@[simp] theorem State.endCmds_still (x1 : _) (x2 : _) (x3 : _) : (State.endCmds x1 x2 x3).still = x1.still := by
  simp [State.endCmds, still_mk, still_eta, apply_ite State.still, foldl_still]

@[simp] theorem State.flr_still (x1 : _) : (State.flr x1).still = x1.still := by
  simp [State.flr, still_mk, still_eta, apply_ite State.still, foldl_still]

@[simp] theorem State.signFail_still (x1 : _) (x2 : _) (x3 : _) : (State.signFail x1 x2 x3).still = x1.still := by
  rfl

@[simp] theorem State.sendFenceList_still (x1 : _) : (State.sendFenceList x1).still = x1.still := by
  unfold State.sendFenceList
  repeat' (first | apply inRange_still | apply whenThen_still | split)
  all_goals first | trivial | simp [still_mk, still_eta, apply_ite State.still, foldl_still] | rfl

@[simp] theorem State.becomeFenced_still (x1 : _) (x2 : _) : (State.becomeFenced x1 x2).still = x1.still := by
  simp [State.becomeFenced, still_mk, still_eta, apply_ite State.still, foldl_still]

@[simp] theorem State.selfFence_still (x1 : _) (x2 : _) : (State.selfFence x1 x2).still = x1.still := by
  unfold State.selfFence
  repeat' (first | apply inRange_still | apply whenThen_still | split)
  all_goals first | trivial | simp [still_mk, still_eta, apply_ite State.still, foldl_still] | rfl

end Sys2Proof.Machine
end

