-- ==== Sys2Proof/Laws/StillHostOps.lean ====
section
/-! SUPPORT. The operations of Machine/HostOps.lean leave alone what `State.still` holds. -/
namespace Sys2Proof.Machine

set_option linter.unusedSimpArgs false
set_option linter.unusedTactic false
set_option linter.unreachableTactic false

@[simp] theorem State.doorbell_still (x1 : _) (x2 : _) (x3 : _) : (State.doorbell x1 x2 x3).still = x1.still := by
  simp [State.doorbell, still_mk, still_eta, apply_ite State.still, foldl_still]

@[simp] theorem execDbSetTail_still (x1 : _) (x2 : _) (x3 : _) (x4 : _) : OutKeeps x4.still (execDbSetTail x1 x2 x3 x4) := by
  unfold execDbSetTail
  repeat' (first | apply inRange_still | apply whenThen_still | split)
  all_goals first | trivial | simp [still_mk, still_eta, apply_ite State.still, foldl_still] | rfl

@[simp] theorem execDbSetHead_still (x1 : _) (x2 : _) (x3 : _) (x4 : _) : OutKeeps x4.still (execDbSetHead x1 x2 x3 x4) := by
  unfold execDbSetHead
  repeat' (first | apply inRange_still | apply whenThen_still | split)
  all_goals first | trivial | simp [still_mk, still_eta, apply_ite State.still, foldl_still] | rfl

@[simp] theorem execRingLineSnoop_still (x1 : _) (x2 : _) (x3 : _) : OutKeeps x3.still (execRingLineSnoop x1 x2 x3) := by
  unfold execRingLineSnoop
  repeat' (first | apply inRange_still | apply whenThen_still | split)
  all_goals first | trivial | simp [still_mk, still_eta, apply_ite State.still, foldl_still] | rfl

@[simp] theorem execRingLinePollTimer_still (x1 : _) (x2 : _) (x3 : _) : OutKeeps x3.still (execRingLinePollTimer x1 x2 x3) := by
  unfold execRingLinePollTimer
  repeat' (first | apply inRange_still | apply whenThen_still | split)
  all_goals first | trivial | simp [still_mk, still_eta, apply_ite State.still, foldl_still] | rfl

@[simp] theorem State.takeIndices_still (x1 : _) (x2 : _) : (State.takeIndices x1 x2).still = x1.still := by
  simp [State.takeIndices, still_mk, still_eta, apply_ite State.still, foldl_still]

@[simp] theorem State.ctlWrite_still (x1 : _) (x2 : _) (x3 : _) : (State.ctlWrite x1 x2 x3).still = x1.still := by
  simp [State.ctlWrite, still_mk, still_eta, apply_ite State.still, foldl_still]

@[simp] theorem execQcfgEnable_still (x1 : _) (x2 : _) (x3 : _) : OutKeeps x3.still (execQcfgEnable x1 x2 x3) := by
  unfold execQcfgEnable
  repeat' (first | apply inRange_still | apply whenThen_still | split)
  all_goals first | trivial | simp [still_mk, still_eta, apply_ite State.still, foldl_still] | rfl

@[simp] theorem execQcfgDisable_still (x1 : _) (x2 : _) (x3 : _) : OutKeeps x3.still (execQcfgDisable x1 x2 x3) := by
  unfold execQcfgDisable
  repeat' (first | apply inRange_still | apply whenThen_still | split)
  all_goals first | trivial | simp [still_mk, still_eta, apply_ite State.still, foldl_still] | rfl

@[simp] theorem execQcfgResume_still (x1 : _) (x2 : _) (x3 : _) : OutKeeps x3.still (execQcfgResume x1 x2 x3) := by
  unfold execQcfgResume
  repeat' (first | apply inRange_still | apply whenThen_still | split)
  all_goals first | trivial | simp [still_mk, still_eta, apply_ite State.still, foldl_still] | rfl

@[simp] theorem execCqRecordWrite_still (x1 : _) (x2 : _) (x3 : _) : OutKeeps x3.still (execCqRecordWrite x1 x2 x3) := by
  unfold execCqRecordWrite
  apply inRange_still
  split
  · simp
  · apply whenThen_still
    · rfl
    · cases x2
      · simp
      · simp [State.bbPush_still, State.setPair_still, State.bump_still]

@[simp] theorem execMsixDelayExpiry_still (x1 : _) (x2 : _) (x3 : _) : OutKeeps x3.still (execMsixDelayExpiry x1 x2 x3) := by
  unfold execMsixDelayExpiry
  repeat' (first | apply inRange_still | apply whenThen_still | split)
  all_goals first | trivial | simp [still_mk, still_eta, apply_ite State.still, foldl_still] | rfl

@[simp] theorem State.unmask_still (x1 : _) (x2 : _) : (State.unmask x1 x2).still = x1.still := by
  rfl

@[simp] theorem execMsixVectorUnmask_still (x1 : _) (x2 : _) : OutKeeps x2.still (execMsixVectorUnmask x1 x2) := by
  unfold execMsixVectorUnmask
  repeat' (first | apply inRange_still | apply whenThen_still | split)
  all_goals first | trivial | simp [still_mk, still_eta, apply_ite State.still, foldl_still] | rfl

@[simp] theorem State.hnCtrlWrite_still (x1 : _) (x2 : _) : (State.hnCtrlWrite x1 x2).still = x1.still := by
  simp [State.hnCtrlWrite, still_mk, still_eta, apply_ite State.still, foldl_still]

@[simp] theorem State.hnMaskWrite_still (x1 : _) (x2 : _) : (State.hnMaskWrite x1 x2).still = x1.still := by
  rfl

@[simp] theorem execHnCtrlWrite_still (x1 : _) (x2 : _) : OutKeeps x2.still (execHnCtrlWrite x1 x2) := by
  unfold execHnCtrlWrite
  repeat' (first | apply inRange_still | apply whenThen_still | (apply workKeeps_bind; intro _ _) | (apply foldl_still; intro t a) | split | dsimp only [State.draw] | dsimp only)
  all_goals first | trivial | simp [still_mk, still_eta, apply_ite State.still, foldl_still] | rfl

@[simp] theorem execHnMaskWrite_still (x1 : _) (x2 : _) : OutKeeps x2.still (execHnMaskWrite x1 x2) := by
  unfold execHnMaskWrite
  repeat' (first | apply inRange_still | apply whenThen_still | split)
  all_goals first | trivial | simp [still_mk, still_eta, apply_ite State.still, foldl_still] | rfl

@[simp] theorem execNoticeWindowClose_still (x1 : _) (x2 : _) (x3 : _) : OutKeeps x3.still (execNoticeWindowClose x1 x2 x3) := by
  unfold execNoticeWindowClose
  repeat' (first | apply inRange_still | apply whenThen_still | split | simp only [foldl_still, outKeeps_next, workKeeps_done])
  all_goals first | trivial | simp [still_mk, still_eta, apply_ite State.still, foldl_still] | rfl

@[simp] theorem execHeartbeatTick_still (x1 : _) (x2 : _) : OutKeeps x2.still (execHeartbeatTick x1 x2) := by
  unfold execHeartbeatTick
  repeat' (first | apply inRange_still | apply whenThen_still | split)
  all_goals first | trivial | simp [still_mk, still_eta, apply_ite State.still, foldl_still] | rfl

@[simp] theorem execDkNowLowRead_still (x1 : _) : OutKeeps x1.still (execDkNowLowRead x1) := by
  unfold execDkNowLowRead
  repeat' (first | apply inRange_still | apply whenThen_still | split)
  all_goals first | trivial | simp [still_mk, still_eta, apply_ite State.still, foldl_still] | rfl

@[simp] theorem State.respond_still (x1 : _) (x2 : _) (x3 : _) : (State.respond x1 x2 x3).still = x1.still := by
  rfl

@[simp] theorem execBar2Read_still (x1 : _) (x2 : _) (x3 : _) : OutKeeps x3.still (execBar2Read x1 x2 x3) := by
  unfold execBar2Read
  repeat' (first | apply inRange_still | apply whenThen_still | split)
  all_goals first | trivial | simp [still_mk, still_eta, apply_ite State.still, foldl_still] | rfl

@[simp] theorem execBar2Write_still (x1 : _) (x2 : _) (x3 : _) : OutKeeps x3.still (execBar2Write x1 x2 x3) := by
  unfold execBar2Write
  repeat' (first | apply inRange_still | apply whenThen_still | split | simp only [foldl_still, outKeeps_next, workKeeps_done])
  all_goals first | trivial | simp [still_mk, still_eta, apply_ite State.still, foldl_still] | rfl

@[simp] theorem execHostMemRead_still (x1 : _) (x2 : _) (x3 : _) : OutKeeps x3.still (execHostMemRead x1 x2 x3) := by
  unfold execHostMemRead
  repeat' (first | apply inRange_still | apply whenThen_still | split)
  all_goals first | trivial | simp [still_mk, still_eta, apply_ite State.still, foldl_still] | rfl

@[simp] theorem execHostMemWrite_still (x1 : _) (x2 : _) (x3 : _) : OutKeeps x3.still (execHostMemWrite x1 x2 x3) := by
  unfold execHostMemWrite
  repeat' (first | apply inRange_still | apply whenThen_still | split)
  all_goals first | trivial | simp [still_mk, still_eta, apply_ite State.still, foldl_still] | rfl

@[simp] theorem execFunctionLevelReset_still (x1 : _) : OutKeeps x1.still (execFunctionLevelReset x1) := by
  unfold execFunctionLevelReset
  repeat' (first | apply inRange_still | apply whenThen_still | split)
  all_goals first | trivial | simp [still_mk, still_eta, apply_ite State.still, foldl_still] | rfl

@[simp] theorem State.linkDown_still (x1 : _) : (State.linkDown x1).still = x1.still := by
  simp [State.linkDown, still_mk, still_eta, apply_ite State.still, foldl_still]

@[simp] theorem execCxlPerstAssert_still (x1 : _) (x2 : _) : OutKeeps x2.still (execCxlPerstAssert x1 x2) := by
  simp [execCxlPerstAssert, still_mk, still_eta, apply_ite State.still, foldl_still]

@[simp] theorem execCxlPerstRelease_still (x1 : _) (x2 : _) : OutKeeps x2.still (execCxlPerstRelease x1 x2) := by
  simp [execCxlPerstRelease, still_mk, still_eta, apply_ite State.still, foldl_still]

@[simp] theorem execCxlLinkStateChange_still (x1 : _) (x2 : _) (x3 : _) (x4 : _) : OutKeeps x4.still (execCxlLinkStateChange x1 x2 x3 x4) := by
  unfold execCxlLinkStateChange
  repeat' (first | apply inRange_still | apply whenThen_still | split)
  all_goals first | trivial | simp [still_mk, still_eta, apply_ite State.still, foldl_still] | rfl

@[simp] theorem execHostLinkLossTimeout_still (x1 : _) (x2 : _) : OutKeeps x2.still (execHostLinkLossTimeout x1 x2) := by
  unfold execHostLinkLossTimeout
  repeat' (first | apply inRange_still | apply whenThen_still | split)
  all_goals first | trivial | simp [still_mk, still_eta, apply_ite State.still, foldl_still] | rfl

end Sys2Proof.Machine
end

