-- ==== Sys2Proof/Laws/StillSession.lean ====
section
/-! SUPPORT. The operations of Machine/Session.lean leave alone what `State.still` holds. -/
namespace Sys2Proof.Machine

set_option linter.unusedSimpArgs false
set_option linter.unusedTactic false
set_option linter.unreachableTactic false

@[simp] theorem okDone_still (k : Still) (s : State) (d : Nat) : WorkKeeps k (okDone s d) = (s.still = k) := rfl

@[simp] theorem failDone_still (k : Still) (s : State) (st : Cause) : WorkKeeps k (failDone s st) = (s.still = k) := rfl

theorem jeiskWait_still (op : Nat) (body : Body) (fin : Nat → CmdRec → State → Option (Cause × State)) (id : Nat)
    (s : State) (h : ∀ i c t, WorkKeeps t.still (body i c t)) (hf : ∀ i c t, FinKeeps t.still (fin i c t)) :
    OutKeeps s.still (jeiskWait op body fin id s) := by
  unfold jeiskWait
  split
  · rfl
  · rename_i c _
    split
    · split
      · have hb := hf id c s
        split <;> rename_i hw
        · rw [hw] at hb; simp_all
        · rfl
      · rfl
    · apply jeisk_still
      intro i c t
      apply workKeeps_bind
      intro w hw
      have hb := h i c t
      rw [hw] at hb
      cases w with
      | done st u => exact hb
      | busy u =>
        have hc := hf i c u
        simp only [workKeeps_busy] at hb
        simp only []
        split <;> rename_i hx
        · rw [hx] at hc; exact hc.trans hb
        · exact hb

@[simp] theorem helloBody_still (x1 : _) (x2 : _) (x3 : _) : WorkKeeps x3.still (helloBody x1 x2 x3) := by
  unfold helloBody
  repeat' (first | (apply workKeeps_bind; intro _ _) | (apply foldl_still; intro t a) | split | dsimp only [State.draw] | dsimp only)
  all_goals simp [still_mk, still_eta, apply_ite State.still, foldl_still]

@[simp] theorem execHello_still (x1 : _) (x2 : _) : OutKeeps x2.still (execHello x1 x2) := by
  unfold execHello; apply jeisk_still; intros; simp

@[simp] theorem fenceBody_still (x1 : _) (x2 : _) (x3 : _) : WorkKeeps x3.still (fenceBody x1 x2 x3) := by
  rfl

@[simp] theorem fenceDone_still (x1 : _) (x2 : _) (x3 : _) : FinKeeps x3.still (fenceDone x1 x2 x3) := by
  unfold fenceDone
  repeat' (first | apply inRange_still | apply whenThen_still | split | simp only [foldl_still, outKeeps_next, workKeeps_done])
  all_goals first | trivial | simp [still_mk, still_eta, apply_ite State.still, foldl_still] | rfl

@[simp] theorem execFence_still (x1 : _) (x2 : _) : OutKeeps x2.still (execFence x1 x2) := by
  unfold execFence; apply jeiskWait_still <;> intros <;> simp

@[simp] theorem tokenSetBody_still (x1 : _) (x2 : _) (x3 : _) : WorkKeeps x3.still (tokenSetBody x1 x2 x3) := by
  rfl

@[simp] theorem execTokenSet_still (x1 : _) (x2 : _) : OutKeeps x2.still (execTokenSet x1 x2) := by
  unfold execTokenSet; apply jeisk_still; intros; simp

@[simp] theorem tokenResetBody_still (x1 : _) (x2 : _) (x3 : _) : WorkKeeps x3.still (tokenResetBody x1 x2 x3) := by
  unfold tokenResetBody
  repeat' (first | (apply workKeeps_bind; intro _ _) | (apply foldl_still; intro t a) | split | dsimp only [State.draw] | dsimp only)
  all_goals simp [still_mk, still_eta, apply_ite State.still, foldl_still]

@[simp] theorem execTokenReset_still (x1 : _) (x2 : _) : OutKeeps x2.still (execTokenReset x1 x2) := by
  unfold execTokenReset; apply jeisk_still; intros; simp

@[simp] theorem tokenReadBody_still (x1 : _) (x2 : _) (x3 : _) : WorkKeeps x3.still (tokenReadBody x1 x2 x3) := by
  unfold tokenReadBody
  repeat' (first | (apply workKeeps_bind; intro _ _) | (apply foldl_still; intro t a) | split | dsimp only [State.draw] | dsimp only)
  all_goals simp [still_mk, still_eta, apply_ite State.still, foldl_still]

@[simp] theorem execTokenRead_still (x1 : _) (x2 : _) : OutKeeps x2.still (execTokenRead x1 x2) := by
  unfold execTokenRead; apply jeisk_still; intros; simp

@[simp] theorem execTokenWaitTimeout_still (x1 : _) (x2 : _) (x3 : _) : OutKeeps x3.still (execTokenWaitTimeout x1 x2 x3) := by
  unfold execTokenWaitTimeout
  repeat' (first | apply inRange_still | apply whenThen_still | split | simp only [foldl_still, outKeeps_next, workKeeps_done])
  all_goals first | trivial | simp [still_mk, still_eta, apply_ite State.still, foldl_still] | rfl

end Sys2Proof.Machine
end

