-- ==== Sys2Proof/Laws/StillFelt.lean ====
section
/-! SUPPORT. The operations of Machine/Felt.lean leave alone what `State.still` holds. -/
namespace Sys2Proof.Machine

set_option linter.unusedSimpArgs false
set_option linter.unusedTactic false
set_option linter.unreachableTactic false

@[simp] theorem State.feltBump_still (x1 : _) (x2 : _) (x3 : _) (x4 : _) : (State.feltBump x1 x2 x3 x4).still = x1.still := by
  simp [State.feltBump, still_mk, still_eta, apply_ite State.still, foldl_still]

@[simp] theorem State.emit_still (x1 : _) (x2 : _) (x3 : _) : (State.emit x1 x2 x3).still = x1.still := by
  rfl

@[simp] theorem State.noteSent_still (x1 : _) (x2 : _) (x3 : _) (x4 : _) : (State.noteSent x1 x2 x3 x4).still = x1.still := by
  rfl

@[simp] theorem execLinkPacketSend_still (x1 : _) (x2 : _) (x3 : _) : OutKeeps x3.still (execLinkPacketSend x1 x2 x3) := by
  unfold execLinkPacketSend
  repeat' (first | apply inRange_still | apply whenThen_still | split | simp only [foldl_still, outKeeps_next, workKeeps_done])
  all_goals first | trivial | simp [still_mk, still_eta, apply_ite State.still, foldl_still] | rfl

@[simp] theorem State.retrain_still (x1 : _) (x2 : _) : (State.retrain x1 x2).still = x1.still := by
  rfl

@[simp] theorem State.askReplay_still (x1 : _) (x2 : _) : (State.askReplay x1 x2).still = x1.still := by
  rfl

@[simp] theorem State.parseRx_still (x1 : _) (x2 : _) (x3 : _) (x4 : _) : (State.parseRx x1 x2 x3 x4).still = x2.still := by
  induction x1 generalizing x2 x4 with
  | zero => rw [State.parseRx]
  | succ f ih =>
    cases x4 with
    | nil => rw [State.parseRx, State.onLink_still]; simp
    | cons lead rest =>
      rw [State.parseRx]
      split
      · simp [State.askReplay_still, State.feltBump_still]
      · dsimp only
        split
        · simp [State.onLink_still]
        · rw [ih]
          split <;> simp [State.setLink_still, still_mk, still_eta]

@[simp] theorem execLinkPacketReceive_still (x1 : _) (x2 : _) (x3 : _) : OutKeeps x3.still (execLinkPacketReceive x1 x2 x3) := by
  unfold execLinkPacketReceive
  repeat' (first | apply inRange_still | apply whenThen_still | split)
  all_goals first | trivial | simp [still_mk, still_eta, apply_ite State.still, foldl_still] | rfl

@[simp] theorem execCreditCodewordReceive_still (x1 : _) (x2 : _) (x3 : _) : OutKeeps x3.still (execCreditCodewordReceive x1 x2 x3) := by
  unfold execCreditCodewordReceive
  repeat' (first | apply inRange_still | apply whenThen_still | split)
  all_goals first | trivial | simp [still_mk, still_eta, apply_ite State.still, foldl_still] | rfl

@[simp] theorem execCreditSendTimer_still (x1 : _) (x2 : _) (x3 : _) : OutKeeps x3.still (execCreditSendTimer x1 x2 x3) := by
  unfold execCreditSendTimer
  repeat' (first | apply inRange_still | apply whenThen_still | split)
  all_goals first | trivial | simp [still_mk, still_eta, apply_ite State.still, foldl_still] | rfl

@[simp] theorem execReplayRequestReceive_still (x1 : _) (x2 : _) (x3 : _) : OutKeeps x3.still (execReplayRequestReceive x1 x2 x3) := by
  unfold execReplayRequestReceive
  repeat' (first | apply inRange_still | apply whenThen_still | split)
  all_goals first | trivial | simp [still_mk, still_eta, apply_ite State.still, foldl_still] | rfl

@[simp] theorem State.linkLost_still (x1 : _) (x2 : _) : (State.linkLost x1 x2).still = x1.still := by
  unfold State.linkLost
  repeat' (first | apply inRange_still | apply whenThen_still | split | simp only [foldl_still, outKeeps_next, workKeeps_done])
  all_goals first | trivial | simp [still_mk, still_eta, apply_ite State.still, foldl_still] | rfl

@[simp] theorem execLinkRetrainTimeout_still (x1 : _) (x2 : _) (x3 : _) : OutKeeps x3.still (execLinkRetrainTimeout x1 x2 x3) := by
  unfold execLinkRetrainTimeout
  repeat' (first | apply inRange_still | apply whenThen_still | split | simp only [foldl_still, outKeeps_next, workKeeps_done])
  all_goals first | trivial | simp [still_mk, still_eta, apply_ite State.still, foldl_still] | rfl

@[simp] theorem State.newLanes_still (x1 : _) (x2 : _) (x3 : _) : (State.newLanes x1 x2 x3).still = x1.still := by
  simp [State.newLanes, still_mk, still_eta, apply_ite State.still, foldl_still]

@[simp] theorem State.loseLanes_still (x1 : _) (x2 : _) (x3 : _) : (State.loseLanes x1 x2 x3).still = x1.still := by
  simp [State.loseLanes, still_mk, still_eta, apply_ite State.still, foldl_still]

@[simp] theorem execLaneLoss_still (x1 : _) (x2 : _) (x3 : _) : OutKeeps x3.still (execLaneLoss x1 x2 x3) := by
  unfold execLaneLoss
  repeat' (first | apply inRange_still | apply whenThen_still | split)
  all_goals first | trivial | simp [still_mk, still_eta, apply_ite State.still, foldl_still] | rfl

@[simp] theorem execLaneMarkerReceive_still (x1 : _) (x2 : _) (x3 : _) (x4 : _) : OutKeeps x4.still (execLaneMarkerReceive x1 x2 x3 x4) := by
  unfold execLaneMarkerReceive
  repeat' (first | apply inRange_still | apply whenThen_still | split)
  all_goals first | trivial | simp [still_mk, still_eta, apply_ite State.still, foldl_still] | rfl

@[simp] theorem execLaneMapReceive_still (x1 : _) (x2 : _) (x3 : _) : OutKeeps x3.still (execLaneMapReceive x1 x2 x3) := by
  unfold execLaneMapReceive
  repeat' (first | apply inRange_still | apply whenThen_still | split)
  all_goals first | trivial | simp [still_mk, still_eta, apply_ite State.still, foldl_still] | rfl

@[simp] theorem execLaneRejoin_still (x1 : _) (x2 : _) (x3 : _) (x4 : _) : OutKeeps x4.still (execLaneRejoin x1 x2 x3 x4) := by
  unfold execLaneRejoin
  repeat' (first | apply inRange_still | apply whenThen_still | split | simp only [foldl_still, outKeeps_next, workKeeps_done])
  all_goals first | trivial | simp [still_mk, still_eta, apply_ite State.still, foldl_still] | rfl

@[simp] theorem execLoopProbeReceive_still (x1 : _) (x2 : _) (x3 : _) (x4 : _) : OutKeeps x4.still (execLoopProbeReceive x1 x2 x3 x4) := by
  unfold execLoopProbeReceive
  repeat' (first | apply inRange_still | apply whenThen_still | split)
  all_goals first | trivial | simp [still_mk, still_eta, apply_ite State.still, foldl_still] | rfl

@[simp] theorem execFclkLaneSwitch_still (x1 : _) (x2 : _) : OutKeeps x2.still (execFclkLaneSwitch x1 x2) := by
  unfold execFclkLaneSwitch
  repeat' (first | apply inRange_still | apply whenThen_still | split)
  all_goals first | trivial | simp [still_mk, still_eta, apply_ite State.still, foldl_still] | rfl

@[simp] theorem State.feltCheck_still (x1 : _) : (State.feltCheck x1).still = x1.still := by
  rfl

@[simp] theorem State.sendRecord_still (x1 : _) (x2 : _) (x3 : _) : (State.sendRecord x1 x2 x3).still = x1.still := by
  simp [State.sendRecord, still_mk, still_eta, apply_ite State.still, foldl_still]

@[simp] theorem execDiscoveryRepeatTimer_still (x1 : _) (x2 : _) (x3 : _) : OutKeeps x3.still (execDiscoveryRepeatTimer x1 x2 x3) := by
  unfold execDiscoveryRepeatTimer
  repeat' (first | apply inRange_still | apply whenThen_still | split)
  all_goals first | trivial | simp [still_mk, still_eta, apply_ite State.still, foldl_still] | rfl

@[simp] theorem execLinkTrainingStep_still (x1 : _) (x2 : _) (x3 : _) (x4 : _) : OutKeeps x4.still (execLinkTrainingStep x1 x2 x3 x4) := by
  unfold execLinkTrainingStep
  repeat' (first | apply inRange_still | apply whenThen_still | split | simp only [foldl_still, outKeeps_next, workKeeps_done])
  all_goals first | trivial | simp [still_mk, still_eta, apply_ite State.still, foldl_still] | rfl

@[simp] theorem execDiscoveryRecordReceive_still (x1 : _) (x2 : _) (x3 : _) : OutKeeps x3.still (execDiscoveryRecordReceive x1 x2 x3) := by
  unfold execDiscoveryRecordReceive
  repeat' (first | apply inRange_still | apply whenThen_still | split | simp only [foldl_still, outKeeps_next, workKeeps_done])
  all_goals first | trivial | simp [still_mk, still_eta, apply_ite State.still, foldl_still] | rfl

@[simp] theorem State.cableNotice_still (x1 : _) (x2 : _) (x3 : _) : (State.cableNotice x1 x2 x3).still = x1.still := by
  simp [State.cableNotice, still_mk, still_eta, apply_ite State.still, foldl_still]

@[simp] theorem State.judge_still (x1 : _) (x2 : _) : (State.judge x1 x2).still = x1.still := by
  unfold State.judge
  repeat' (first | apply inRange_still | apply whenThen_still | split | simp only [foldl_still, outKeeps_next, workKeeps_done])
  all_goals first | trivial | simp [still_mk, still_eta, apply_ite State.still, foldl_still] | rfl

@[simp] theorem execLinkJudge_still (x1 : _) (x2 : _) : OutKeeps x2.still (execLinkJudge x1 x2) := by
  unfold execLinkJudge
  repeat' (first | apply inRange_still | apply whenThen_still | split)
  all_goals first | trivial | simp [still_mk, still_eta, apply_ite State.still, foldl_still] | rfl

@[simp] theorem execLinkMissingTimeout_still (x1 : _) (x2 : _) (x3 : _) : OutKeeps x3.still (execLinkMissingTimeout x1 x2 x3) := by
  unfold execLinkMissingTimeout
  repeat' (first | apply inRange_still | apply whenThen_still | split)
  all_goals first | trivial | simp [still_mk, still_eta, apply_ite State.still, foldl_still] | rfl

@[simp] theorem State.loadPlan_still (x1 : _) (x2 : _) : (State.loadPlan x1 x2).still = x1.still := by
  rfl

@[simp] theorem feltPlanBody_still (x1 : _) (x2 : _) (x3 : _) : WorkKeeps x3.still (feltPlanBody x1 x2 x3) := by
  unfold feltPlanBody
  repeat' (first | (apply workKeeps_bind; intro _ _) | (apply foldl_still; intro t a) | split | dsimp only [State.draw] | dsimp only)
  all_goals simp [still_mk, still_eta, apply_ite State.still, foldl_still]

@[simp] theorem execFeltPlan_still (x1 : _) (x2 : _) : OutKeeps x2.still (execFeltPlan x1 x2) := by
  unfold execFeltPlan; apply jeisk_still; intros; simp

@[simp] theorem feltLinkBody_still (x1 : _) (x2 : _) (x3 : _) : WorkKeeps x3.still (feltLinkBody x1 x2 x3) := by
  unfold feltLinkBody
  repeat' (first | (apply workKeeps_bind; intro _ _) | (apply foldl_still; intro t a) | split | dsimp only [State.draw] | dsimp only)
  all_goals simp [still_mk, still_eta, apply_ite State.still, foldl_still]

@[simp] theorem feltLinkDone_still (x1 : _) (x2 : _) (x3 : _) : FinKeeps x3.still (feltLinkDone x1 x2 x3) := by
  unfold feltLinkDone
  repeat' (first | apply inRange_still | apply whenThen_still | split | simp only [foldl_still, outKeeps_next, workKeeps_done])
  all_goals first | trivial | simp [still_mk, still_eta, apply_ite State.still, foldl_still] | rfl

@[simp] theorem execFeltLink_still (x1 : _) (x2 : _) : OutKeeps x2.still (execFeltLink x1 x2) := by
  unfold execFeltLink; apply jeiskWait_still <;> intros <;> simp

@[simp] theorem feltQueryBody_still (x1 : _) (x2 : _) (x3 : _) : WorkKeeps x3.still (feltQueryBody x1 x2 x3) := by
  unfold feltQueryBody
  repeat' (first | (apply workKeeps_bind; intro _ _) | (apply foldl_still; intro t a) | split | dsimp only [State.draw] | dsimp only)
  all_goals simp [still_mk, still_eta, apply_ite State.still, foldl_still]

@[simp] theorem execFeltQuery_still (x1 : _) (x2 : _) : OutKeeps x2.still (execFeltQuery x1 x2) := by
  unfold execFeltQuery; apply jeisk_still; intros; simp

end Sys2Proof.Machine
end

