-- ==== Sys2Proof/Laws/StillHandles.lean ====
section
/-! SUPPORT. The operations of Machine/Handles.lean leave alone what `State.still` holds. -/
namespace Sys2Proof.Machine

set_option linter.unusedSimpArgs false
set_option linter.unusedTactic false
set_option linter.unreachableTactic false

@[simp] theorem State.makeHandle_still (x1 : _) (x2 : _) (x3 : _) (x4 : _) (x5 : _) : (State.makeHandle x1 x2 x3 x4 x5).still = x1.still := by
  rfl

@[simp] theorem State.releaseHandle_still (x1 : _) (x2 : _) : (State.releaseHandle x1 x2).still = x1.still := by
  rfl

@[simp] theorem handleAllocBody_still (x1 : _) (x2 : _) (x3 : _) : WorkKeeps x3.still (handleAllocBody x1 x2 x3) := by
  unfold handleAllocBody
  repeat' (first | apply inRange_still | apply whenThen_still | (apply workKeeps_bind; intro _ _) | (apply foldl_still; intro t a) | dsimp only [State.draw] | dsimp only | split)
  all_goals (try (rename_i h; have h2 := congrArg (fun p => p.2.2) h; simp only at h2; subst h2))
  all_goals first | trivial | simp [still_mk, still_eta, apply_ite State.still, foldl_still] | rfl

@[simp] theorem execHandleAlloc_still (x1 : _) (x2 : _) : OutKeeps x2.still (execHandleAlloc x1 x2) := by
  unfold execHandleAlloc; apply jeisk_still; intros; simp

@[simp] theorem handleFreeBody_still (x1 : _) (x2 : _) (x3 : _) : WorkKeeps x3.still (handleFreeBody x1 x2 x3) := by
  unfold handleFreeBody
  repeat' (first | (apply workKeeps_bind; intro _ _) | (apply foldl_still; intro t a) | split | dsimp only [State.draw] | dsimp only)
  all_goals simp [still_mk, still_eta, apply_ite State.still, foldl_still]

@[simp] theorem handleFreeDone_still (x1 : _) (x2 : _) (x3 : _) : FinKeeps x3.still (handleFreeDone x1 x2 x3) := by
  unfold handleFreeDone
  repeat' (first | apply inRange_still | apply whenThen_still | split)
  all_goals first | trivial | simp [still_mk, still_eta, apply_ite State.still, foldl_still] | rfl

@[simp] theorem execHandleFree_still (x1 : _) (x2 : _) : OutKeeps x2.still (execHandleFree x1 x2) := by
  unfold execHandleFree; apply jeiskWait_still <;> intros <;> simp

@[simp] theorem handleQueryBody_still (x1 : _) (x2 : _) (x3 : _) : WorkKeeps x3.still (handleQueryBody x1 x2 x3) := by
  unfold handleQueryBody
  repeat' (first | (apply workKeeps_bind; intro _ _) | (apply foldl_still; intro t a) | split | dsimp only [State.draw] | dsimp only)
  all_goals simp [still_mk, still_eta, apply_ite State.still, foldl_still]

@[simp] theorem execHandleQuery_still (x1 : _) (x2 : _) : OutKeeps x2.still (execHandleQuery x1 x2) := by
  unfold execHandleQuery; apply jeisk_still; intros; simp

@[simp] theorem State.freeStats_still (x1 : _) : (State.freeStats x1).still = x1.still := by
  simp [State.freeStats, still_mk, still_eta, apply_ite State.still, foldl_still]

@[simp] theorem memConfigBody_still (x1 : _) (x2 : _) (x3 : _) : WorkKeeps x3.still (memConfigBody x1 x2 x3) := by
  unfold memConfigBody
  repeat' (first | (apply workKeeps_bind; intro _ _) | (apply foldl_still; intro t a) | split | dsimp only [State.draw] | dsimp only)
  all_goals simp [still_mk, still_eta, apply_ite State.still, foldl_still]

@[simp] theorem execMemConfig_still (x1 : _) (x2 : _) : OutKeeps x2.still (execMemConfig x1 x2) := by
  unfold execMemConfig; apply jeisk_still; intros; simp

@[simp] theorem State.poolNotice_still (x1 : _) (x2 : _) : (State.poolNotice x1 x2).still = x2.still := by
  simp [State.poolNotice, still_mk, still_eta, apply_ite State.still, foldl_still]

@[simp] theorem State.trkTake_still (x1 : _) (x2 : _) (x3 : _) (x4 : _) (x5 : _) : (State.trkTake x1 x2 x3 x4 x5).still = x1.still := by
  simp [State.trkTake, still_mk, still_eta, apply_ite State.still, foldl_still]

@[simp] theorem State.trkFree_still (x1 : _) (x2 : _) : (State.trkFree x1 x2).still = x1.still := by
  unfold State.trkFree
  repeat' (first | apply inRange_still | apply whenThen_still | split)
  all_goals first | trivial | simp [still_mk, still_eta, apply_ite State.still, foldl_still] | rfl

@[simp] theorem trackConfigBody_still (x1 : _) (x2 : _) (x3 : _) : WorkKeeps x3.still (trackConfigBody x1 x2 x3) := by
  unfold trackConfigBody
  repeat' (first | (apply workKeeps_bind; intro _ _) | (apply foldl_still; intro t a) | split | dsimp only [State.draw] | dsimp only)
  all_goals simp [still_mk, still_eta, apply_ite State.still, foldl_still]

@[simp] theorem execTrackConfig_still (x1 : _) (x2 : _) : OutKeeps x2.still (execTrackConfig x1 x2) := by
  unfold execTrackConfig; apply jeisk_still; intros; simp

@[simp] theorem stackOpenBody_still (x1 : _) (x2 : _) (x3 : _) : WorkKeeps x3.still (stackOpenBody x1 x2 x3) := by
  unfold stackOpenBody
  repeat' (first | (apply workKeeps_bind; intro _ _) | (apply foldl_still; intro t a) | split | dsimp only [State.draw] | dsimp only)
  all_goals simp [still_mk, still_eta, apply_ite State.still, foldl_still]

@[simp] theorem execStackOpen_still (x1 : _) (x2 : _) : OutKeeps x2.still (execStackOpen x1 x2) := by
  unfold execStackOpen; apply jeisk_still; intros; simp

@[simp] theorem stackCloseBody_still (x1 : _) (x2 : _) (x3 : _) : WorkKeeps x3.still (stackCloseBody x1 x2 x3) := by
  unfold stackCloseBody
  repeat' (first | (apply workKeeps_bind; intro _ _) | (apply foldl_still; intro t a) | split | dsimp only [State.draw] | dsimp only)
  all_goals simp [still_mk, still_eta, apply_ite State.still, foldl_still]

@[simp] theorem execStackClose_still (x1 : _) (x2 : _) : OutKeeps x2.still (execStackClose x1 x2) := by
  unfold execStackClose; apply jeisk_still; intros; simp

@[simp] theorem execPatrolScrubRead_still (x1 : _) (x2 : _) : OutKeeps x2.still (execPatrolScrubRead x1 x2) := by
  unfold execPatrolScrubRead
  apply inRange_still
  apply whenThen_still
  · rfl
  · have h := State.readWord_still x2 x1
    revert h
    generalize x2.readWord x1 = r
    obtain ⟨d, bad, t⟩ := r
    intro h
    simp only at h ⊢
    split
    · split <;> simp [State.selfFence_still, State.noteBad_still, h]
    · exact h

end Sys2Proof.Machine
end

