-- ==== Sys2Proof/Laws/StillIndexed.lean ====
section
/-! SUPPORT. The operations of Machine/Indexed.lean leave alone what `State.still` holds. -/
namespace Sys2Proof.Machine

set_option linter.unusedSimpArgs false
set_option linter.unusedTactic false
set_option linter.unreachableTactic false

@[simp] theorem gatherRows_still (x1 : _) (x2 : _) (x3 : _) (x4 : _) (x5 : _) (x6 : _) (x7 : _) (x8 : _) : (gatherRows x1 x2 x3 x4 x5 x6 x7 x8).2.2.2.still = x1.still := by
  unfold gatherRows
  dsimp only
  suffices h : ∀ (l : List (Option Nat × Nat)) (acc : List (List Byte) × Bool × Flags × State),
      (l.foldl (fun (acc : List (List Byte) × Bool × Flags × State) p =>
        match p.1 with
        | none => (List.replicate x6 0 :: acc.1, acc.2)
        | some i =>
          let (bs, bad, s) := acc.2.2.2.readBytes ((List.range x2.len).map (fun k => x2.addr (i * x2.len + k)))
          let (out, fl) := convertRow x3 x4 x7 x5 x6 bs (p.2 * x5)
          (out :: acc.1, acc.2.1 || bad, acc.2.2.1 ||| fl, s)) acc).2.2.2.still = acc.2.2.2.still from
    h x8.zipIdx ([], false, 0, x1)
  intro l
  induction l with
  | nil => intro acc; rfl
  | cons p l ih =>
    intro acc
    rw [List.foldl_cons, ih]
    split
    · rfl
    · exact State.readBytes_still _ _

@[simp] theorem scatterRows_still (x1 : _) (x2 : _) (x3 : _) (x4 : _) : (scatterRows x1 x2 x3 x4).still = x1.still := by
  simp [scatterRows, still_mk, still_eta, apply_ite State.still, foldl_still]

@[simp] theorem idxChecks_still (x1 : _) (x2 : _) (x3 : _) (x4 : _) (x5 : _) : OkKeeps x5.still (idxChecks x1 x2 x3 x4 x5) := by
  unfold idxChecks
  dsimp only
  apply okKeeps_bind; intro _ _
  apply okKeeps_bind; intro _ _
  apply okKeeps_bind; intro _ _
  split
  · trivial
  · apply okKeeps_bind; intro tx _
    apply okKeeps_bind; intro lx _
    apply okKeeps_bind; intro dx _
    apply okKeeps_bind; intro _ _
    apply okKeeps_bind; intro _ _
    apply okKeeps_bind; intro _ _
    have h := State.extRead_still x5 lx x2.listOff (x2.count * if x2.idx64 then 8 else 4)
    revert h
    generalize x5.extRead lx x2.listOff (x2.count * if x2.idx64 then 8 else 4) = r
    obtain ⟨bs, bad, t⟩ := r
    intro h
    dsimp only at h ⊢
    split
    · exact h
    · split
      · trivial
      · apply okKeeps_bind; intro _ _
        exact h

@[simp] theorem indexGatherBody_still (x1 : _) (x2 : _) (x3 : _) : WorkKeeps x3.still (indexGatherBody x1 x2 x3) := by
  unfold indexGatherBody
  dsimp only
  apply workKeeps_bind
  rintro ⟨o, t⟩ e
  have h := okKeeps_use (idxChecks_still _ _ _ _ _) e
  cases o with
  | none => exact h
  | some r =>
    dsimp only at h ⊢
    have h2 := gatherRows_still t r.tbl (idxCmd x2.packet).fa (idxCmd x2.packet).fd r.n r.ob none r.ix
    revert h2
    generalize gatherRows t r.tbl (idxCmd x2.packet).fa (idxCmd x2.packet).fd r.n r.ob none r.ix = q
    obtain ⟨out, bad, fl, u⟩ := q
    intro h2
    dsimp only at h2 ⊢
    split <;> simp [h, h2, State.extWrite_still, State.addOp_still, State.cmdFlags_still]

@[simp] theorem execIndexGather_still (x1 : _) (x2 : _) : OutKeeps x2.still (execIndexGather x1 x2) := by
  unfold execIndexGather; apply jeisk_still; intros; simp

@[simp] theorem indexScatterBody_still (x1 : _) (x2 : _) (x3 : _) : WorkKeeps x3.still (indexScatterBody x1 x2 x3) := by
  unfold indexScatterBody
  dsimp only
  apply workKeeps_bind
  rintro ⟨o, t⟩ e
  have h := okKeeps_use (idxChecks_still _ _ _ _ _) e
  cases o with
  | none => exact h
  | some r =>
    dsimp only at h ⊢
    have h2 := State.extRead_still t r.ext (idxCmd x2.packet).dataOff ((idxCmd x2.packet).count * r.ob)
    revert h2
    generalize t.extRead r.ext (idxCmd x2.packet).dataOff ((idxCmd x2.packet).count * r.ob) = q
    obtain ⟨src, bad, u⟩ := q
    intro h2
    dsimp only at h2 ⊢
    split <;> simp [h, h2]

@[simp] theorem execIndexScatter_still (x1 : _) (x2 : _) : OutKeeps x2.still (execIndexScatter x1 x2) := by
  unfold execIndexScatter; apply jeisk_still; intros; simp

@[simp] theorem indexScatterAddBody_still (x1 : _) (x2 : _) (x3 : _) : WorkKeeps x3.still (indexScatterAddBody x1 x2 x3) := by
  unfold indexScatterAddBody
  dsimp only
  apply workKeeps_bind
  rintro ⟨o, t⟩ e
  have h := okKeeps_use (idxChecks_still _ _ _ _ _) e
  cases o with
  | none => exact h
  | some r =>
    dsimp only at h ⊢
    have h2 := State.extRead_still t r.ext (idxCmd x2.packet).dataOff ((idxCmd x2.packet).count * r.ob)
    revert h2
    generalize t.extRead r.ext (idxCmd x2.packet).dataOff ((idxCmd x2.packet).count * r.ob) = q
    obtain ⟨src, bad, u⟩ := q
    intro h2
    dsimp only at h2 ⊢
    split
    · simp [h, h2]
    · split
      · simp [h, h2]
      · simp [still_mk, still_eta, h, h2]

@[simp] theorem execIndexScatterAdd_still (x1 : _) (x2 : _) : OutKeeps x2.still (execIndexScatterAdd x1 x2) := by
  unfold execIndexScatterAdd; apply jeisk_still; intros; simp

end Sys2Proof.Machine
end

