-- ==== Sys2Proof/Laws/StillFlags.lean ====
section
/-! SUPPORT. The operations of Machine/Flags.lean leave alone what `State.still` holds. -/
namespace Sys2Proof.Machine

set_option linter.unusedSimpArgs false
set_option linter.unusedTactic false
set_option linter.unreachableTactic false

@[simp] theorem State.setClus_still (x1 : _) (x2 : _) (x3 : _) : (State.setClus x1 x2 x3).still = x1.still := by
  rfl

@[simp] theorem State.copyFlag_still (x1 : _) (x2 : _) (x3 : _) : (State.copyFlag x1 x2 x3).still = x1.still := by
  rfl

@[simp] theorem State.matFlag_still (x1 : _) (x2 : _) (x3 : _) : (State.matFlag x1 x2 x3).still = x1.still := by
  rfl

@[simp] theorem State.vecFlag_still (x1 : _) (x2 : _) (x3 : _) : (State.vecFlag x1 x2 x3).still = x1.still := by
  rfl

@[simp] theorem State.rowFlag_still (x1 : _) (x2 : _) (x3 : _) : (State.rowFlag x1 x2 x3).still = x1.still := by
  rfl

@[simp] theorem State.mouldFlag_still (x1 : _) (x2 : _) (x3 : _) : (State.mouldFlag x1 x2 x3).still = x1.still := by
  rfl

@[simp] theorem State.beatFlag_still (x1 : _) (x2 : _) : (State.beatFlag x1 x2).still = x1.still := by
  rfl

end Sys2Proof.Machine
end

