-- ==== Sys2Proof/Laws/StillSheet.lean ====
section
/-! SUPPORT. The operations of Machine/Sheet.lean leave alone what `State.still` holds. -/
namespace Sys2Proof.Machine

set_option linter.unusedSimpArgs false
set_option linter.unusedTactic false
set_option linter.unreachableTactic false

/-- What running a queue word comes to keeps it. -/
def RanKeeps (k : Still) : Ran → Prop
  | .done t => t.still = k
  | .hold t => t.still = k
  | .stop t _ => t.still = k

theorem ranKeeps_of {k k' : Still} {r : Ran} (h : RanKeeps k r) (e : k = k') : RanKeeps k' r := e ▸ h

@[simp] theorem ranKeeps_done (k : Still) (t : State) : RanKeeps k (.done t) = (t.still = k) := rfl
@[simp] theorem ranKeeps_hold (k : Still) (t : State) : RanKeeps k (.hold t) = (t.still = k) := rfl
@[simp] theorem ranKeeps_stop (k : Still) (t : State) (c : Cause) : RanKeeps k (.stop t c) = (t.still = k) := rfl

@[simp] theorem State.swrite_still (x1 : _) (x2 : _) (x3 : _) (x4 : _) : (State.swrite x1 x2 x3 x4).still = x1.still := by
  rfl

@[simp] theorem State.setPage_still (x1 : _) (x2 : _) (x3 : _) (x4 : _) : (State.setPage x1 x2 x3 x4).still = x1.still := by
  rfl

@[simp] theorem State.setLaunch_still (x1 : _) (x2 : _) (x3 : _) : (State.setLaunch x1 x2 x3).still = x1.still := by
  rfl

@[simp] theorem State.stopLaunch_still (x1 : _) (x2 : _) (x3 : _) : (State.stopLaunch x1 x2 x3).still = x1.still := by
  unfold State.stopLaunch
  split
  · rfl
  · dsimp only
    rw [foldl_still]
    · simp
    · intro t a
      split <;> simp

@[simp] theorem State.stopAt_still (x1 : _) (x2 : _) (x3 : _) (x4 : _) : (State.stopAt x1 x2 x3 x4).still = x1.still := by
  simp [State.stopAt, still_mk, still_eta, apply_ite State.still, foldl_still]

@[simp] theorem State.instrError_still (x1 : _) (x2 : _) (x3 : _) : (State.instrError x1 x2 x3).still = x1.still := by
  simp [State.instrError, still_mk, still_eta, apply_ite State.still, foldl_still]

@[simp] theorem State.distribute_still (x1 : _) (x2 : _) (x3 : _) : (State.distribute x1 x2 x3).still = x2.still := by
  induction x1 generalizing x2 with
  | zero => rfl
  | succ k ih =>
    rw [State.distribute]
    split
    · rfl
    · dsimp only
      split
      · rfl
      · split <;> (try split) <;> simp [ih]

@[simp] theorem State.checkGroups_still (x1 : _) (x2 : _) : (State.checkGroups x1 x2).still = x1.still := by
  simp [State.checkGroups, still_mk, still_eta, apply_ite State.still, foldl_still]

@[simp] theorem State.signal_still (x1 : _) (x2 : _) (x3 : _) (x4 : _) : (State.signal x1 x2 x3 x4).still = x1.still := by
  simp [State.signal, still_mk, still_eta, apply_ite State.still, foldl_still]

@[simp] theorem State.settle_still (x1 : _) (x2 : _) : (State.settle x1 x2).still = x1.still := by
  simp [State.settle, still_mk, still_eta, apply_ite State.still, foldl_still]

theorem State.afterRun_still (q cl : Nat) (w : QWord) (r : Ran) (k : Still) (h : RanKeeps k r) :
    (State.afterRun q cl w r).still = k := by
  unfold State.afterRun
  cases r <;> simp_all [RanKeeps]

theorem runQueue_still (q o : Nat) (sel : Word128 → Bool) (f : OpFn) (cl : Nat) (s : State)
    (h : ∀ cl w t, RanKeeps t.still (f cl w t)) : OutKeeps s.still (runQueue q o sel f cl s) := by
  unfold runQueue
  apply inRange_still
  split
  · rfl
  · dsimp only
    split
    · rw [outKeeps_next]
      apply State.afterRun_still
      exact (State.setClus_still s cl _) ▸ h cl _ (s.setClus cl _)
    · rfl

theorem runControl_still (o : Nat) (f : Nat → Word128 → State → Option State) (cl : Nat) (s : State)
    (h : ∀ cl w t, OptKeeps t.still (f cl w t)) : OutKeeps s.still (runControl o f cl s) := by
  unfold runControl
  apply inRange_still
  split
  · rfl
  · dsimp only
    split
    · rename_i w _ _
      have hh := h cl w (s.setClus cl { (s.clus cl).takeWait w with pc := (s.clus cl).pc + 1 })
      simp only [State.setClus_still] at hh
      split <;> rename_i hx
      · simp
      · rw [hx] at hh
        simp_all
    · rfl

@[simp] theorem State.onClus_still (x1 : _) (x2 : _) (x3 : _) : (State.onClus x1 x2 x3).still = x1.still := by
  rfl

@[simp] theorem execNop_still (x1 : _) (x2 : _) : OutKeeps x2.still (execNop x1 x2) := by
  unfold execNop
  repeat' (first | apply inRange_still | apply whenThen_still | split | simp only [foldl_still, outKeeps_next, workKeeps_done])
  all_goals first | trivial | simp [still_mk, still_eta, apply_ite State.still, foldl_still] | rfl

@[simp] theorem setIx_still (x1 : _) (x2 : _) (x3 : _) : OptKeeps x3.still (setIx x1 x2 x3) := by
  rfl

@[simp] theorem execSetIx_still (x1 : _) (x2 : _) : OutKeeps x2.still (execSetIx x1 x2) := by
  unfold execSetIx; apply runControl_still; intros; simp

@[simp] theorem addIx_still (x1 : _) (x2 : _) (x3 : _) : OptKeeps x3.still (addIx x1 x2 x3) := by
  rfl

@[simp] theorem execAddIx_still (x1 : _) (x2 : _) : OutKeeps x2.still (execAddIx x1 x2) := by
  unfold execAddIx; apply runControl_still; intros; simp

@[simp] theorem loopOp_still (x1 : _) (x2 : _) (x3 : _) : OptKeeps x3.still (loopOp x1 x2 x3) := by
  unfold loopOp
  repeat' (first | apply inRange_still | apply whenThen_still | split)
  all_goals first | trivial | simp [still_mk, still_eta, apply_ite State.still, foldl_still] | rfl

@[simp] theorem execLoop_still (x1 : _) (x2 : _) : OutKeeps x2.still (execLoop x1 x2) := by
  unfold execLoop; apply runControl_still; intros; simp

@[simp] theorem branchLoop_still (x1 : _) (x2 : _) (x3 : _) : OptKeeps x3.still (branchLoop x1 x2 x3) := by
  rfl

@[simp] theorem execBranchLoop_still (x1 : _) (x2 : _) : OutKeeps x2.still (execBranchLoop x1 x2) := by
  unfold execBranchLoop; apply runControl_still; intros; simp

@[simp] theorem jumpOp_still (x1 : _) (x2 : _) (x3 : _) : OptKeeps x3.still (jumpOp x1 x2 x3) := by
  rfl

@[simp] theorem execJump_still (x1 : _) (x2 : _) : OutKeeps x2.still (execJump x1 x2) := by
  unfold execJump; apply runControl_still; intros; simp

@[simp] theorem setRndStream_still (x1 : _) (x2 : _) (x3 : _) : OptKeeps x3.still (setRndStream x1 x2 x3) := by
  rfl

@[simp] theorem execSetRndStream_still (x1 : _) (x2 : _) : OutKeeps x2.still (execSetRndStream x1 x2) := by
  unfold execSetRndStream; apply runControl_still; intros; simp

@[simp] theorem setRndStep_still (x1 : _) (x2 : _) (x3 : _) : OptKeeps x3.still (setRndStep x1 x2 x3) := by
  rfl

@[simp] theorem execSetRndStep_still (x1 : _) (x2 : _) : OutKeeps x2.still (execSetRndStep x1 x2) := by
  unfold execSetRndStep; apply runControl_still; intros; simp

@[simp] theorem flagsRc_still (x1 : _) (x2 : _) (x3 : _) : OptKeeps x3.still (flagsRc x1 x2 x3) := by
  unfold flagsRc
  repeat' (first | apply inRange_still | apply whenThen_still | split)
  all_goals first | trivial | simp [still_mk, still_eta, apply_ite State.still, foldl_still] | rfl

@[simp] theorem execFlagsRc_still (x1 : _) (x2 : _) : OutKeeps x2.still (execFlagsRc x1 x2) := by
  unfold execFlagsRc; apply runControl_still; intros; simp

@[simp] theorem latchOp_still (x1 : _) (x2 : _) (x3 : _) : OptKeeps x3.still (latchOp x1 x2 x3) := by
  simp [latchOp, still_mk, still_eta, apply_ite State.still, foldl_still]

@[simp] theorem execLatch_still (x1 : _) (x2 : _) : OutKeeps x2.still (execLatch x1 x2) := by
  unfold execLatch; apply runControl_still; intros; simp

@[simp] theorem stopOp_still (x1 : _) (x2 : _) (x3 : _) : OptKeeps x3.still (stopOp x1 x2 x3) := by
  rfl

@[simp] theorem execStop_still (x1 : _) (x2 : _) : OutKeeps x2.still (execStop x1 x2) := by
  unfold execStop; apply runControl_still; intros; simp

end Sys2Proof.Machine
end

