-- ==== Sys2Proof/Laws/StillCopyOps.lean ====
section
/-! SUPPORT. The operations of Machine/CopyOps.lean leave alone what `State.still` holds. -/
namespace Sys2Proof.Machine

set_option linter.unusedSimpArgs false
set_option linter.unusedTactic false
set_option linter.unreachableTactic false

theorem runCopy_still (o : Nat) (f : OpFn) (cl pos : Nat) (s : State)
    (h : ∀ cl w t, RanKeeps t.still (f cl w t)) : OutKeeps s.still (runCopy o f cl pos s) := by
  unfold runCopy
  apply inRange_still
  dsimp only
  split
  · rfl
  · split
    · split
      · rfl
      · rw [outKeeps_next]
        apply State.afterRun_still
        exact (State.setClus_still s cl _) ▸ h cl _ (s.setClus cl _)
    · rfl

@[simp] theorem State.countIn_still (x1 : _) (x2 : _) (x3 : _) : (State.countIn x1 x2 x3).still = x1.still := by
  simp [State.countIn, still_mk, still_eta, apply_ite State.still, foldl_still]

@[simp] theorem State.countOut_still (x1 : _) (x2 : _) (x3 : _) : (State.countOut x1 x2 x3).still = x1.still := by
  simp [State.countOut, still_mk, still_eta, apply_ite State.still, foldl_still]

@[simp] theorem State.countGen_still (x1 : _) (x2 : _) (x3 : _) (x4 : _) (x5 : _) (x6 : _) : (State.countGen x1 x2 x3 x4 x5 x6).still = x1.still := by
  simp [State.countGen, still_mk, still_eta, apply_ite State.still, foldl_still]

@[simp] theorem State.writePacked_still (x1 : _) (x2 : _) (x3 : _) (x4 : _) (x5 : _) : (State.writePacked x1 x2 x3 x4 x5).still = x1.still := by
  rfl

@[simp] theorem cpLoad_still (x1 : _) (x2 : _) (x3 : _) : RanKeeps x3.still (cpLoad x1 x2 x3) := by
  unfold cpLoad
  repeat' (first | apply inRange_still | apply whenThen_still | split | simp only [foldl_still, outKeeps_next, workKeeps_done])
  all_goals first | trivial | simp [still_mk, still_eta, apply_ite State.still, foldl_still] | rfl

@[simp] theorem execCpLoad_still (x1 : _) (x2 : _) (x3 : _) : OutKeeps x3.still (execCpLoad x1 x2 x3) := by
  unfold execCpLoad; apply runCopy_still; intros; simp

@[simp] theorem cpStore_still (x1 : _) (x2 : _) (x3 : _) : RanKeeps x3.still (cpStore x1 x2 x3) := by
  unfold cpStore
  simp only []
  repeat' split
  all_goals (try (rename_i h; have h2 := congrArg Prod.snd h; simp only at h2; subst h2))
  all_goals simp [still_mk, still_eta, apply_ite State.still, foldl_still]

@[simp] theorem execCpStore_still (x1 : _) (x2 : _) (x3 : _) : OutKeeps x3.still (execCpStore x1 x2 x3) := by
  unfold execCpStore; apply runCopy_still; intros; simp

@[simp] theorem cpMove_still (x1 : _) (x2 : _) (x3 : _) : RanKeeps x3.still (cpMove x1 x2 x3) := by
  unfold cpMove
  simp only []
  repeat' split
  all_goals (try (rename_i h; have h2 := congrArg Prod.snd h; simp only at h2; subst h2))
  all_goals simp [still_mk, still_eta, apply_ite State.still, foldl_still]

@[simp] theorem execCpMove_still (x1 : _) (x2 : _) (x3 : _) : OutKeeps x3.still (execCpMove x1 x2 x3) := by
  unfold execCpMove; apply runCopy_still; intros; simp

@[simp] theorem cpFill_still (x1 : _) (x2 : _) (x3 : _) : RanKeeps x3.still (cpFill x1 x2 x3) := by
  unfold cpFill
  repeat' (first | apply inRange_still | apply whenThen_still | split | simp only [foldl_still, outKeeps_next, workKeeps_done])
  all_goals first | trivial | simp [still_mk, still_eta, apply_ite State.still, foldl_still] | rfl

@[simp] theorem execCpFill_still (x1 : _) (x2 : _) (x3 : _) : OutKeeps x3.still (execCpFill x1 x2 x3) := by
  unfold execCpFill; apply runCopy_still; intros; simp

@[simp] theorem State.setStack_still (x1 : _) (x2 : _) (x3 : _) : (State.setStack x1 x2 x3).still = x1.still := by
  rfl

@[simp] theorem cpPush_still (x1 : _) (x2 : _) (x3 : _) : RanKeeps x3.still (cpPush x1 x2 x3) := by
  unfold cpPush
  simp only []
  repeat' split
  all_goals (try (rename_i h; have h2 := congrArg Prod.snd h; simp only at h2; subst h2))
  all_goals simp [still_mk, still_eta, apply_ite State.still, foldl_still]

@[simp] theorem execCpPush_still (x1 : _) (x2 : _) (x3 : _) : OutKeeps x3.still (execCpPush x1 x2 x3) := by
  unfold execCpPush; apply runCopy_still; intros; simp

@[simp] theorem cpPop_still (x1 : _) (x2 : _) (x3 : _) : RanKeeps x3.still (cpPop x1 x2 x3) := by
  unfold cpPop
  repeat' (first | apply inRange_still | apply whenThen_still | split | simp only [foldl_still, outKeeps_next, workKeeps_done])
  all_goals first | trivial | simp [still_mk, still_eta, apply_ite State.still, foldl_still] | rfl

@[simp] theorem execCpPop_still (x1 : _) (x2 : _) (x3 : _) : OutKeeps x3.still (execCpPop x1 x2 x3) := by
  unfold execCpPop; apply runCopy_still; intros; simp

@[simp] theorem cpGather_still (x1 : _) (x2 : _) (x3 : _) : RanKeeps x3.still (cpGather x1 x2 x3) := by
  unfold cpGather
  simp only []
  repeat' split
  all_goals (try (rename_i h; have h2 := congrArg Prod.snd h; simp only at h2; subst h2))
  all_goals simp [still_mk, still_eta, apply_ite State.still, foldl_still]

@[simp] theorem execCpGather_still (x1 : _) (x2 : _) (x3 : _) : OutKeeps x3.still (execCpGather x1 x2 x3) := by
  unfold execCpGather; apply runCopy_still; intros; simp

@[simp] theorem cpScatter_still (x1 : _) (x2 : _) (x3 : _) : RanKeeps x3.still (cpScatter x1 x2 x3) := by
  unfold cpScatter
  simp only []
  repeat' split
  all_goals (try (rename_i h; have h2 := congrArg Prod.snd h; simp only at h2; subst h2))
  all_goals simp [still_mk, still_eta, apply_ite State.still, foldl_still]

@[simp] theorem execCpScatter_still (x1 : _) (x2 : _) (x3 : _) : OutKeeps x3.still (execCpScatter x1 x2 x3) := by
  unfold execCpScatter; apply runCopy_still; intros; simp

@[simp] theorem cpScatterAdd_still (x1 : _) (x2 : _) (x3 : _) : RanKeeps x3.still (cpScatterAdd x1 x2 x3) := by
  unfold cpScatterAdd
  simp only []
  repeat' split
  all_goals (try (rename_i h; have h2 := congrArg Prod.snd h; simp only at h2; subst h2))
  all_goals simp [still_mk, still_eta, apply_ite State.still, foldl_still]

@[simp] theorem execCpScatterAdd_still (x1 : _) (x2 : _) (x3 : _) : OutKeeps x3.still (execCpScatterAdd x1 x2 x3) := by
  unfold execCpScatterAdd; apply runCopy_still; intros; simp

@[simp] theorem State.addDone_still (x1 : _) (x2 : _) : (State.addDone x1 x2).still = x1.still := by
  unfold State.addDone
  split
  · rfl
  · cases x2 with
    | command id => simp
    | cluster cl u =>
      dsimp only
      split
      · exact State.afterRun_still _ _ _ _ _ rfl
      · rfl

@[simp] theorem State.addFailed_still (x1 : _) (x2 : _) : (State.addFailed x1 x2).still = x1.still := by
  unfold State.addFailed
  repeat' (first | apply inRange_still | apply whenThen_still | split)
  all_goals first | trivial | simp [still_mk, still_eta, apply_ite State.still, foldl_still] | rfl

@[simp] theorem execNearMemoryAdd_still (x1 : _) (x2 : _) : OutKeeps x2.still (execNearMemoryAdd x1 x2) := by
  unfold execNearMemoryAdd
  simp only []
  repeat' split
  all_goals (try (rename_i h; have h2 := congrArg Prod.snd h; simp only at h2; subst h2))
  all_goals simp [still_mk, still_eta, apply_ite State.still, foldl_still]

end Sys2Proof.Machine
end

