-- ==== Sys2Proof/Laws/StillMatrixOps.lean ====
section
/-! SUPPORT. The operations of Machine/MatrixOps.lean leave alone what `State.still` holds. -/
namespace Sys2Proof.Machine

set_option linter.unusedSimpArgs false
set_option linter.unusedTactic false
set_option linter.unreachableTactic false

@[simp] theorem State.addLevels_still (x1 : _) (x2 : _) (x3 : _) (x4 : _) (x5 : _) (x6 : _) (x7 : _) (x8 : _) (x9 : _) : (State.addLevels x1 x2 x3 x4 x5 x6 x7 x8 x9).1.still = x2.still := by
  induction x1 generalizing x2 x6 x8 x9 with
  | zero => rfl
  | succ k ih =>
    rw [State.addLevels]
    split
    · split
      · generalize tileAdd x7 (x2.page x3 x4 (x5 + 1 + x8)) x9 = r
        obtain ⟨t, fl⟩ := r
        dsimp only
        rw [ih, State.matFlag_still]
      · exact State.setPage_still _ _ _ _
    · split
      · generalize tileAdd x7 (x2.page x3 x4 x5) x9 = r
        obtain ⟨t, fl⟩ := r
        simp
      · exact State.setPage_still _ _ _ _

@[simp] theorem groupOpen_still (x1 : _) (x2 : _) (x3 : _) : RanKeeps x3.still (groupOpen x1 x2 x3) := by
  unfold groupOpen
  repeat' (first | apply inRange_still | apply whenThen_still | split | simp only [foldl_still, outKeeps_next, workKeeps_done])
  all_goals first | trivial | simp [still_mk, still_eta, apply_ite State.still, foldl_still] | rfl

@[simp] theorem execGroupOpen_still (x1 : _) (x2 : _) : OutKeeps x2.still (execGroupOpen x1 x2) := by
  unfold execGroupOpen; apply runQueue_still; intros; simp

@[simp] theorem mma_still (x1 : _) (x2 : _) (x3 : _) : RanKeeps x3.still (mma x1 x2 x3) := by
  have hf : ∀ (l : List Nat) (d cl p : Nat) (int : Bool) (fa fb : Nat) (a b : MOperand) (st : State × Group),
      (l.foldl (fun (st : State × Group) j =>
        match kBlock fa fb a b j with
        | (t, fl) => State.addLevels 17 (st.1.matFlag cl (groupFlags fl)) d cl p st.2 int 0 t) st).1.still = st.1.still := by
    intro l d cl p int fa fb a b
    induction l with
    | nil => intro st; rfl
    | cons j l ih =>
      intro st
      rw [List.foldl_cons, ih]
      generalize kBlock fa fb a b j = r
      obtain ⟨t, fl⟩ := r
      simp
  unfold mma
  dsimp only [State.draw]
  split
  · rfl
  · split
    · rfl
    · split
      · rw [ranKeeps_done, State.addOp_still, State.onClus_still, hf]
        rfl
      · rfl

@[simp] theorem execMma_still (x1 : _) (x2 : _) : OutKeeps x2.still (execMma x1 x2) := by
  unfold execMma; apply runQueue_still; intros; simp

@[simp] theorem State.closeGroup_still (x1 : _) (x2 : _) (x3 : _) : (State.closeGroup x1 x2 x3).still = x1.still := by
  rfl

@[simp] theorem groupCloseScratch_still (x1 : _) (x2 : _) (x3 : _) : RanKeeps x3.still (groupCloseScratch x1 x2 x3) := by
  unfold groupCloseScratch
  simp only []
  repeat' split
  all_goals (try (rename_i h; have h2 := congrArg Prod.snd h; simp only at h2; subst h2))
  all_goals simp [still_mk, still_eta, apply_ite State.still, foldl_still]

@[simp] theorem execGroupCloseScratch_still (x1 : _) (x2 : _) : OutKeeps x2.still (execGroupCloseScratch x1 x2) := by
  unfold execGroupCloseScratch; apply runQueue_still; intros; simp

@[simp] theorem pageLoad_still (x1 : _) (x2 : _) (x3 : _) : RanKeeps x3.still (pageLoad x1 x2 x3) := by
  unfold pageLoad
  simp only []
  repeat' split
  all_goals (try (rename_i h; have h2 := congrArg Prod.snd h; simp only at h2; subst h2))
  all_goals simp [still_mk, still_eta, apply_ite State.still, foldl_still]

@[simp] theorem execPageLoad_still (x1 : _) (x2 : _) : OutKeeps x2.still (execPageLoad x1 x2) := by
  unfold execPageLoad; apply runQueue_still; intros; simp

end Sys2Proof.Machine
end

