-- ==== Sys2Proof/Laws/StillVectorOps.lean ====
section
/-! SUPPORT. The operations of Machine/VectorOps.lean leave alone what `State.still` holds. -/
namespace Sys2Proof.Machine

set_option linter.unusedSimpArgs false
set_option linter.unusedTactic false
set_option linter.unreachableTactic false

@[simp] theorem vWrite_still (x1 : _) (x2 : _) (x3 : _) (x4 : _) : RanKeeps x4.still (vWrite x1 x2 x3 x4) := by
  unfold vWrite
  repeat' (first | apply inRange_still | apply whenThen_still | split | simp only [foldl_still, outKeeps_next, workKeeps_done])
  all_goals first | trivial | simp [still_mk, still_eta, apply_ite State.still, foldl_still] | rfl

@[simp] theorem State.countVec_still (x1 : _) (x2 : _) (x3 : _) (x4 : _) : (State.countVec x1 x2 x3 x4).still = x1.still := by
  simp [State.countVec, still_mk, still_eta, apply_ite State.still, foldl_still]

@[simp] theorem vUnary_still (x1 : _) (x2 : _) (x3 : _) (x4 : _) (x5 : _) : RanKeeps x5.still (vUnary x1 x2 x3 x4 x5) := by
  unfold vUnary
  dsimp only [State.draw]
  split
  all_goals first
    | exact ranKeeps_of (vWrite_still _ _ _ _) (by simp [still_mk, still_eta])
    | simp [still_mk, still_eta]

@[simp] theorem vBinary_still (x1 : _) (x2 : _) (x3 : _) (x4 : _) (x5 : _) : RanKeeps x5.still (vBinary x1 x2 x3 x4 x5) := by
  unfold vBinary
  dsimp only [State.draw]
  split
  all_goals first
    | exact ranKeeps_of (vWrite_still _ _ _ _) (by simp [still_mk, still_eta])
    | simp [still_mk, still_eta]

@[simp] theorem execVAdd_still (x1 : _) (x2 : _) : OutKeeps x2.still (execVAdd x1 x2) := by
  unfold execVAdd; apply runQueue_still; intros; simp

@[simp] theorem execVSub_still (x1 : _) (x2 : _) : OutKeeps x2.still (execVSub x1 x2) := by
  unfold execVSub; apply runQueue_still; intros; simp

@[simp] theorem execVMul_still (x1 : _) (x2 : _) : OutKeeps x2.still (execVMul x1 x2) := by
  unfold execVMul; apply runQueue_still; intros; simp

@[simp] theorem vFma_still (x1 : _) (x2 : _) (x3 : _) : RanKeeps x3.still (vFma x1 x2 x3) := by
  unfold vFma
  dsimp only [State.draw]
  split
  all_goals first
    | exact ranKeeps_of (vWrite_still _ _ _ _) (by simp [still_mk, still_eta])
    | simp [still_mk, still_eta]

@[simp] theorem execVFma_still (x1 : _) (x2 : _) : OutKeeps x2.still (execVFma x1 x2) := by
  unfold execVFma; apply runQueue_still; intros; simp

@[simp] theorem execVMax_still (x1 : _) (x2 : _) : OutKeeps x2.still (execVMax x1 x2) := by
  unfold execVMax; apply runQueue_still; intros; simp

@[simp] theorem execVMin_still (x1 : _) (x2 : _) : OutKeeps x2.still (execVMin x1 x2) := by
  unfold execVMin; apply runQueue_still; intros; simp

@[simp] theorem execVDiv_still (x1 : _) (x2 : _) : OutKeeps x2.still (execVDiv x1 x2) := by
  unfold execVDiv; apply runQueue_still; intros; simp

@[simp] theorem execVSqrt_still (x1 : _) (x2 : _) : OutKeeps x2.still (execVSqrt x1 x2) := by
  unfold execVSqrt; apply runQueue_still; intros; simp

@[simp] theorem execVConvert_still (x1 : _) (x2 : _) : OutKeeps x2.still (execVConvert x1 x2) := by
  unfold execVConvert; apply runQueue_still; intros; simp

@[simp] theorem execVAbs_still (x1 : _) (x2 : _) : OutKeeps x2.still (execVAbs x1 x2) := by
  unfold execVAbs; apply runQueue_still; intros; simp

@[simp] theorem execVNeg_still (x1 : _) (x2 : _) : OutKeeps x2.still (execVNeg x1 x2) := by
  unfold execVNeg; apply runQueue_still; intros; simp

@[simp] theorem execVExp_still (x1 : _) (x2 : _) : OutKeeps x2.still (execVExp x1 x2) := by
  unfold execVExp; apply runQueue_still; intros; simp

@[simp] theorem execVLog_still (x1 : _) (x2 : _) : OutKeeps x2.still (execVLog x1 x2) := by
  unfold execVLog; apply runQueue_still; intros; simp

@[simp] theorem execVRsqrt_still (x1 : _) (x2 : _) : OutKeeps x2.still (execVRsqrt x1 x2) := by
  unfold execVRsqrt; apply runQueue_still; intros; simp

@[simp] theorem execVTanh_still (x1 : _) (x2 : _) : OutKeeps x2.still (execVTanh x1 x2) := by
  unfold execVTanh; apply runQueue_still; intros; simp

@[simp] theorem execVSigmoid_still (x1 : _) (x2 : _) : OutKeeps x2.still (execVSigmoid x1 x2) := by
  unfold execVSigmoid; apply runQueue_still; intros; simp

@[simp] theorem execVGeluErf_still (x1 : _) (x2 : _) : OutKeeps x2.still (execVGeluErf x1 x2) := by
  unfold execVGeluErf; apply runQueue_still; intros; simp

@[simp] theorem execVGeluTanh_still (x1 : _) (x2 : _) : OutKeeps x2.still (execVGeluTanh x1 x2) := by
  unfold execVGeluTanh; apply runQueue_still; intros; simp

@[simp] theorem execVGeluErfD_still (x1 : _) (x2 : _) : OutKeeps x2.still (execVGeluErfD x1 x2) := by
  unfold execVGeluErfD; apply runQueue_still; intros; simp

@[simp] theorem execVRecip_still (x1 : _) (x2 : _) : OutKeeps x2.still (execVRecip x1 x2) := by
  unfold execVRecip; apply runQueue_still; intros; simp

@[simp] theorem vWriteMask_still (x1 : _) (x2 : _) (x3 : _) (x4 : _) (x5 : _) : RanKeeps x5.still (vWriteMask x1 x2 x3 x4 x5) := by
  unfold vWriteMask
  repeat' (first | apply inRange_still | apply whenThen_still | split | simp only [foldl_still, outKeeps_next, workKeeps_done])
  all_goals first | trivial | simp [still_mk, still_eta, apply_ite State.still, foldl_still] | rfl

@[simp] theorem vCompare_still (x1 : _) (x2 : _) (x3 : _) (x4 : _) : RanKeeps x4.still (vCompare x1 x2 x3 x4) := by
  unfold vCompare
  dsimp only [State.draw]
  split
  all_goals first
    | exact ranKeeps_of (vWriteMask_still _ _ _ _ _) (by simp [still_mk, still_eta])
    | simp [still_mk, still_eta]

@[simp] theorem execVCmpEq_still (x1 : _) (x2 : _) : OutKeeps x2.still (execVCmpEq x1 x2) := by
  unfold execVCmpEq; apply runQueue_still; intros; simp

@[simp] theorem execVCmpNe_still (x1 : _) (x2 : _) : OutKeeps x2.still (execVCmpNe x1 x2) := by
  unfold execVCmpNe; apply runQueue_still; intros; simp

@[simp] theorem execVCmpLt_still (x1 : _) (x2 : _) : OutKeeps x2.still (execVCmpLt x1 x2) := by
  unfold execVCmpLt; apply runQueue_still; intros; simp

@[simp] theorem execVCmpLe_still (x1 : _) (x2 : _) : OutKeeps x2.still (execVCmpLe x1 x2) := by
  unfold execVCmpLe; apply runQueue_still; intros; simp

@[simp] theorem execVCmpGt_still (x1 : _) (x2 : _) : OutKeeps x2.still (execVCmpGt x1 x2) := by
  unfold execVCmpGt; apply runQueue_still; intros; simp

@[simp] theorem execVCmpGe_still (x1 : _) (x2 : _) : OutKeeps x2.still (execVCmpGe x1 x2) := by
  unfold execVCmpGe; apply runQueue_still; intros; simp

@[simp] theorem vSelect_still (x1 : _) (x2 : _) (x3 : _) : RanKeeps x3.still (vSelect x1 x2 x3) := by
  unfold vSelect
  dsimp only [State.draw]
  split
  all_goals first
    | exact ranKeeps_of (vWrite_still _ _ _ _) (by simp [still_mk, still_eta])
    | simp [still_mk, still_eta]

@[simp] theorem execVSelect_still (x1 : _) (x2 : _) : OutKeeps x2.still (execVSelect x1 x2) := by
  unfold execVSelect; apply runQueue_still; intros; simp

@[simp] theorem vMaskRand_still (x1 : _) (x2 : _) (x3 : _) : RanKeeps x3.still (vMaskRand x1 x2 x3) := by
  unfold vMaskRand
  exact ranKeeps_of (vWriteMask_still _ _ _ _ _) (by simp)

@[simp] theorem execVMaskRand_still (x1 : _) (x2 : _) : OutKeeps x2.still (execVMaskRand x1 x2) := by
  unfold execVMaskRand; apply runQueue_still; intros; simp

@[simp] theorem vReduce_still (x1 : _) (x2 : _) (x3 : _) (x4 : _) : RanKeeps x4.still (vReduce x1 x2 x3 x4) := by
  unfold vReduce
  dsimp only [State.draw]
  split
  all_goals first
    | exact ranKeeps_of (vWrite_still _ _ _ _) (by simp [still_mk, still_eta])
    | simp [still_mk, still_eta]

@[simp] theorem execVRedSum_still (x1 : _) (x2 : _) : OutKeeps x2.still (execVRedSum x1 x2) := by
  unfold execVRedSum; apply runQueue_still; intros; simp

@[simp] theorem execVRedMax_still (x1 : _) (x2 : _) : OutKeeps x2.still (execVRedMax x1 x2) := by
  unfold execVRedMax; apply runQueue_still; intros; simp

@[simp] theorem execVRedMin_still (x1 : _) (x2 : _) : OutKeeps x2.still (execVRedMin x1 x2) := by
  unfold execVRedMin; apply runQueue_still; intros; simp

@[simp] theorem vSegment_still (x1 : _) (x2 : _) (x3 : _) (x4 : _) (x5 : _) (x6 : _) : RanKeeps x6.still (vSegment x1 x2 x3 x4 x5 x6) := by
  unfold vSegment
  dsimp only [State.draw]
  split
  · simp [still_mk, still_eta]
  · split
    · simp [still_mk, still_eta]
    · split
      · simp [still_mk, still_eta]
      · exact ranKeeps_of (vWrite_still _ _ _ _) (by simp [still_mk, still_eta])

@[simp] theorem execVSegSum_still (x1 : _) (x2 : _) : OutKeeps x2.still (execVSegSum x1 x2) := by
  unfold execVSegSum; apply runQueue_still; intros; simp

@[simp] theorem execVSegMax_still (x1 : _) (x2 : _) : OutKeeps x2.still (execVSegMax x1 x2) := by
  unfold execVSegMax; apply runQueue_still; intros; simp

@[simp] theorem execVSegMin_still (x1 : _) (x2 : _) : OutKeeps x2.still (execVSegMin x1 x2) := by
  unfold execVSegMin; apply runQueue_still; intros; simp

@[simp] theorem execVSegMean_still (x1 : _) (x2 : _) : OutKeeps x2.still (execVSegMean x1 x2) := by
  unfold execVSegMean; apply runQueue_still; intros; simp

@[simp] theorem vSort_still (x1 : _) (x2 : _) (x3 : _) (x4 : _) (x5 : _) : RanKeeps x5.still (vSort x1 x2 x3 x4 x5) := by
  unfold vSort
  dsimp only [State.draw]
  split
  · simp [still_mk, still_eta]
  · split
    · simp [still_mk, still_eta]
    · rename_i a _ _
      have h := vWrite_still x3 x4 ((List.flatMap (fun r =>
          ((sortRow x1 (r.1.map Prod.fst)).take x2).map (fun x => (x.1, 64 * r.2 + x.2)))
          (chunks (vN x4.word) 64 a).zipIdx).map (fun x => ((toF32 (f32 x.1, 0)).1, 0)))
        (((({ x5 with free := x5.free + 1 } : State).onClus x3 (fun c => { c with elems := c.elems + 64 * vN x4.word })).addOp
          (({ x5 with free := x5.free + 1 } : State).clusCtx x3) wVecSort (vN x4.word)).vecFlag x3 (a.foldl (fun g x => g ||| x.2) 0))
      have h := ranKeeps_of h (k' := x5.still) (by simp [still_mk, still_eta])
      split
      · rename_i hw
        rw [hw] at h
        rw [ranKeeps_done] at h ⊢
        split
        · rw [State.swrite_still]; exact h
        · exact h
      · exact h

@[simp] theorem execVSort64_still (x1 : _) (x2 : _) : OutKeeps x2.still (execVSort64 x1 x2) := by
  unfold execVSort64; apply runQueue_still; intros; simp

@[simp] theorem execVTopk64_still (x1 : _) (x2 : _) : OutKeeps x2.still (execVTopk64 x1 x2) := by
  unfold execVTopk64; apply runQueue_still; intros; simp

end Sys2Proof.Machine
end

