-- ==== Sys2Proof/Laws/StillRowOps.lean ====
section
/-! SUPPORT. The operations of Machine/RowOps.lean leave alone what `State.still` holds. -/
namespace Sys2Proof.Machine

set_option linter.unusedSimpArgs false
set_option linter.unusedTactic false
set_option linter.unreachableTactic false

@[simp] theorem State.freeStat_still (x1 : _) (x2 : _) (x3 : _) : (State.freeStat x1 x2 x3).still = x1.still := by
  unfold State.freeStat
  repeat' (first | apply inRange_still | apply whenThen_still | split | simp only [foldl_still, outKeeps_next, workKeeps_done])
  all_goals first | trivial | simp [still_mk, still_eta, apply_ite State.still, foldl_still] | rfl

@[simp] theorem State.recordStat_still (x1 : _) (x2 : _) : (State.recordStat x1 x2).still = x1.still := by
  unfold State.recordStat
  simp only []
  repeat' split
  all_goals (try (rename_i h; have h2 := congrArg Prod.snd h; simp only at h2; subst h2))
  all_goals simp [still_mk, still_eta, apply_ite State.still, foldl_still]

theorem State.lookupStat_still {s t : State} {bank tag : Nat} {e : Stat} {bad : Bool}
    (h : s.lookupStat bank tag = some (e, bad, t)) : t.still = s.still := by
  unfold State.lookupStat at h
  split at h
  · simp only [Option.some.injEq, Prod.mk.injEq] at h
    rw [h.2.2]
  · have hr := State.readBytes_still s (s.spillAddrs bank tag)
    revert h hr
    generalize s.readBytes (s.spillAddrs bank tag) = r
    obtain ⟨x, y, u⟩ := r
    intro h hr
    cases hs : s.statSpilled bank tag with
    | none => rw [hs] at h; simp at h
    | some v =>
      rw [hs] at h
      simp only [Option.map_some, Option.some.injEq, Prod.mk.injEq] at h
      rw [← h.2.2, State.bump_still]
      exact hr

@[simp] theorem rowStore_still (x1 : _) (x2 : _) (x3 : _) (x4 : _) (x5 : _) : (rowStore x1 x2 x3 x4 x5).still = x5.still := by
  rfl

@[simp] theorem rowLoop_still (x1 : _) (x2 : _) (x3 : _) (x4 : _) (x5 : _) (x6 : _) (x7 : _) (x8 : _) : RanKeeps x8.still (rowLoop x1 x2 x3 x4 x5 x6 x7 x8) := by
  induction x7 generalizing x8 with
  | nil => rfl
  | cons r rest ih =>
    rw [rowLoop]
    dsimp only
    split
    · refine ranKeeps_of (ih _) ?_
      split <;> simp
    · split
      · rfl
      · rename_i e bad t h
        have ht := State.lookupStat_still h
        split
        · exact ht
        · refine ranKeeps_of (ih _) ?_
          split <;> simp [ht]

@[simp] theorem rowOp_still (x1 : _) (x2 : _) (x3 : _) (x4 : _) (x5 : _) : RanKeeps x5.still (rowOp x1 x2 x3 x4 x5) := by
  unfold rowOp
  dsimp only [State.draw]
  split
  · simp [still_mk, still_eta]
  · exact ranKeeps_of (rowLoop_still _ _ _ _ _ _ _ _) (by simp [still_mk, still_eta])

@[simp] theorem execRowSoftmax_still (x1 : _) (x2 : _) : OutKeeps x2.still (execRowSoftmax x1 x2) := by
  unfold execRowSoftmax; apply runQueue_still; intros; simp

@[simp] theorem execRowSoftmaxBwd_still (x1 : _) (x2 : _) : OutKeeps x2.still (execRowSoftmaxBwd x1 x2) := by
  unfold execRowSoftmaxBwd; apply runQueue_still; intros; simp

@[simp] theorem execRowLnorm_still (x1 : _) (x2 : _) : OutKeeps x2.still (execRowLnorm x1 x2) := by
  unfold execRowLnorm; apply runQueue_still; intros; simp

@[simp] theorem execRowLnormBwd_still (x1 : _) (x2 : _) : OutKeeps x2.still (execRowLnormBwd x1 x2) := by
  unfold execRowLnormBwd; apply runQueue_still; intros; simp

@[simp] theorem execRowRmsnorm_still (x1 : _) (x2 : _) : OutKeeps x2.still (execRowRmsnorm x1 x2) := by
  unfold execRowRmsnorm; apply runQueue_still; intros; simp

@[simp] theorem execRowRmsnormBwd_still (x1 : _) (x2 : _) : OutKeeps x2.still (execRowRmsnormBwd x1 x2) := by
  unfold execRowRmsnormBwd; apply runQueue_still; intros; simp

end Sys2Proof.Machine
end

