-- ==== Sys2Proof/Laws/StillReduce.lean ====
section
/-! SUPPORT. The operations of Machine/Reduce.lean leave alone what `State.still` holds. -/
namespace Sys2Proof.Machine

set_option linter.unusedSimpArgs false
set_option linter.unusedTactic false
set_option linter.unreachableTactic false

@[simp] theorem State.setRed_still (x1 : _) (x2 : _) (x3 : _) (x4 : _) : (State.setRed x1 x2 x3 x4).still = x1.still := by
  rfl

@[simp] theorem State.toChildren_still (x1 : _) (x2 : _) (x3 : _) : (State.toChildren x1 x2 x3).still = x1.still := by
  unfold State.toChildren
  repeat' (first | apply inRange_still | apply whenThen_still | split)
  all_goals first | trivial | simp [still_mk, still_eta, apply_ite State.still, foldl_still] | rfl

@[simp] theorem State.toParent_still (x1 : _) (x2 : _) (x3 : _) : (State.toParent x1 x2 x3).still = x1.still := by
  unfold State.toParent
  repeat' (first | apply inRange_still | apply whenThen_still | split)
  all_goals first | trivial | simp [still_mk, still_eta, apply_ite State.still, foldl_still] | rfl

@[simp] theorem State.stopStreams_still (x1 : _) (x2 : _) (x3 : _) (x4 : _) : (State.stopStreams x1 x2 x3 x4).still = x1.still := by
  simp [State.stopStreams, still_mk, still_eta, apply_ite State.still, foldl_still]

@[simp] theorem State.modShard_still (x1 : _) (x2 : _) (x3 : _) : (State.modShard x1 x2 x3).still = x1.still := by
  rfl

@[simp] theorem State.ownerCombine_still (x1 : _) (x2 : _) (x3 : _) (x4 : _) (x5 : _) (x6 : _) (x7 : _) (x8 : _) : (State.ownerCombine x1 x2 x3 x4 x5 x6 x7 x8).still = x1.still := by
  unfold State.ownerCombine
  repeat' (first | apply inRange_still | apply whenThen_still | split | simp only [foldl_still, outKeeps_next, workKeeps_done])
  all_goals first | trivial | simp [still_mk, still_eta, apply_ite State.still, foldl_still] | rfl

@[simp] theorem State.memberCombine_still (x1 : _) (x2 : _) (x3 : _) (x4 : _) (x5 : _) (x6 : _) (x7 : _) (x8 : _) (x9 : _) (x10 : _) (x11 : _) : (State.memberCombine x1 x2 x3 x4 x5 x6 x7 x8 x9 x10 x11).still = x1.still := by
  simp [State.memberCombine, still_mk, still_eta, apply_ite State.still, foldl_still]

@[simp] theorem State.combine_still (x1 : _) (x2 : _) (x3 : _) (x4 : _) (x5 : _) (x6 : _) (x7 : _) (x8 : _) : (State.combine x1 x2 x3 x4 x5 x6 x7 x8).still = x1.still := by
  unfold State.combine
  repeat' (first | apply inRange_still | apply whenThen_still | split)
  all_goals first | trivial | simp [still_mk, still_eta, apply_ite State.still, foldl_still] | rfl

@[simp] theorem execPartialTileArrival_still (x1 : _) (x2 : _) (x3 : _) (x4 : _) (x5 : _) (x6 : _) (x7 : _) (x8 : _) : OutKeeps x8.still (execPartialTileArrival x1 x2 x3 x4 x5 x6 x7 x8) := by
  unfold execPartialTileArrival
  repeat' (first | apply inRange_still | apply whenThen_still | split)
  all_goals first | trivial | simp [still_mk, still_eta, apply_ite State.still, foldl_still] | rfl

@[simp] theorem State.refuse_still (x1 : _) (x2 : _) (x3 : _) (x4 : _) : (State.refuse x1 x2 x3 x4).still = x1.still := by
  simp [State.refuse, still_mk, still_eta, apply_ite State.still, foldl_still]

@[simp] theorem State.creditRequest_still (x1 : _) (x2 : _) (x3 : _) (x4 : _) (x5 : _) (x6 : _) : (State.creditRequest x1 x2 x3 x4 x5 x6).still = x1.still := by
  unfold State.creditRequest
  repeat' (first | apply inRange_still | apply whenThen_still | split)
  all_goals first | trivial | simp [still_mk, still_eta, apply_ite State.still, foldl_still] | rfl

@[simp] theorem execReduceCreditRequest_still (x1 : _) (x2 : _) (x3 : _) (x4 : _) (x5 : _) (x6 : _) : OutKeeps x6.still (execReduceCreditRequest x1 x2 x3 x4 x5 x6) := by
  simp [execReduceCreditRequest, still_mk, still_eta, apply_ite State.still, foldl_still]

@[simp] theorem State.releaseRow_still (x1 : _) (x2 : _) (x3 : _) (x4 : _) (x5 : _) (x6 : _) (x7 : _) : (State.releaseRow x1 x2 x3 x4 x5 x6 x7).still = x1.still := by
  simp [State.releaseRow, still_mk, still_eta, apply_ite State.still, foldl_still]

@[simp] theorem State.takeCredit_still (x1 : _) (x2 : _) (x3 : _) (x4 : _) : (State.takeCredit x1 x2 x3 x4).still = x1.still := by
  unfold State.takeCredit
  repeat' (first | apply inRange_still | apply whenThen_still | split)
  all_goals first | trivial | simp [still_mk, still_eta, apply_ite State.still, foldl_still] | rfl

@[simp] theorem execReduceCreditGrant_still (x1 : _) (x2 : _) (x3 : _) : OutKeeps x3.still (execReduceCreditGrant x1 x2 x3) := by
  unfold execReduceCreditGrant
  repeat' (first | apply inRange_still | apply whenThen_still | split)
  all_goals first | trivial | simp [still_mk, still_eta, apply_ite State.still, foldl_still] | rfl

@[simp] theorem execReduceCreditReceive_still (x1 : _) (x2 : _) (x3 : _) (x4 : _) : OutKeeps x4.still (execReduceCreditReceive x1 x2 x3 x4) := by
  unfold execReduceCreditReceive
  repeat' (first | apply inRange_still | apply whenThen_still | split)
  all_goals first | trivial | simp [still_mk, still_eta, apply_ite State.still, foldl_still] | rfl

@[simp] theorem execReduceRefusal_still (x1 : _) (x2 : _) (x3 : _) (x4 : _) : OutKeeps x4.still (execReduceRefusal x1 x2 x3 x4) := by
  unfold execReduceRefusal
  repeat' (first | apply inRange_still | apply whenThen_still | split)
  all_goals first | trivial | simp [still_mk, still_eta, apply_ite State.still, foldl_still] | rfl

@[simp] theorem State.refuseWaiters_still (x1 : _) (x2 : _) : (State.refuseWaiters x1 x2).still = x1.still := by
  simp [State.refuseWaiters, still_mk, still_eta, apply_ite State.still, foldl_still]

@[simp] theorem State.abandonHere_still (x1 : _) (x2 : _) (x3 : _) : (State.abandonHere x1 x2 x3).still = x1.still := by
  simp [State.abandonHere, still_mk, still_eta, apply_ite State.still, foldl_still]

@[simp] theorem State.ownerAbandon_still (x1 : _) (x2 : _) (x3 : _) : (State.ownerAbandon x1 x2 x3).still = x1.still := by
  unfold State.ownerAbandon
  repeat' (first | apply inRange_still | apply whenThen_still | split)
  all_goals first | trivial | simp [still_mk, still_eta, apply_ite State.still, foldl_still] | rfl

@[simp] theorem execReduceAbandon_still (x1 : _) (x2 : _) (x3 : _) : OutKeeps x3.still (execReduceAbandon x1 x2 x3) := by
  unfold execReduceAbandon
  repeat' (first | apply inRange_still | apply whenThen_still | split)
  all_goals first | trivial | simp [still_mk, still_eta, apply_ite State.still, foldl_still] | rfl

@[simp] theorem execReduceWatchdogExpiry_still (x1 : _) (x2 : _) (x3 : _) : OutKeeps x3.still (execReduceWatchdogExpiry x1 x2 x3) := by
  unfold execReduceWatchdogExpiry
  repeat' (first | apply inRange_still | apply whenThen_still | split | simp only [foldl_still, outKeeps_next, workKeeps_done])
  all_goals first | trivial | simp [still_mk, still_eta, apply_ite State.still, foldl_still] | rfl

@[simp] theorem State.abandonFenced_still (x1 : _) (x2 : _) : (State.abandonFenced x1 x2).still = x1.still := by
  unfold State.abandonFenced
  apply foldl_still
  intro t a
  repeat' split
  all_goals simp [still_mk, still_eta, apply_ite State.still, foldl_still]

@[simp] theorem State.firstClose_still (x1 : _) (x2 : _) : (State.firstClose x1 x2).still = x1.still := by
  simp [State.firstClose, still_mk, still_eta, apply_ite State.still, foldl_still]

@[simp] theorem State.streamTile_still (x1 : _) (x2 : _) (x3 : _) (x4 : _) (x5 : _) : (State.streamTile x1 x2 x3 x4 x5).still = x1.still := by
  simp [State.streamTile, still_mk, still_eta, apply_ite State.still, foldl_still]

@[simp] theorem groupCloseStream_still (x1 : _) (x2 : _) (x3 : _) : RanKeeps x3.still (groupCloseStream x1 x2 x3) := by
  unfold groupCloseStream
  simp only []
  repeat' split
  all_goals (try (rename_i h; have h2 := congrArg Prod.snd h; simp only at h2; subst h2))
  all_goals simp [still_mk, still_eta, apply_ite State.still, foldl_still]

@[simp] theorem execGroupCloseStream_still (x1 : _) (x2 : _) : OutKeeps x2.still (execGroupCloseStream x1 x2) := by
  unfold execGroupCloseStream; apply runQueue_still; intros; simp

end Sys2Proof.Machine
end

