-- ==== Sys2Proof/Laws/StillPress.lean ====
section
/-! SUPPORT. The operations of Machine/Press.lean leave alone what `State.still` holds. -/
namespace Sys2Proof.Machine

set_option linter.unusedSimpArgs false
set_option linter.unusedTactic false
set_option linter.unreachableTactic false

theorem PressAcc.read_still (a : PressAcc) (e : Extent) (off n : Nat) : (a.read e off n).2.s.still = a.s.still := by
  unfold PressAcc.read
  have h := State.extRead_still a.s e off n
  revert h
  generalize a.s.extRead e off n = r
  obtain ⟨bs, bad, t⟩ := r
  exact id
theorem PressAcc.write_still (a : PressAcc) (e : Extent) (off) (bs) : (a.write e off bs).s.still = a.s.still := by
  unfold PressAcc.write
  split <;> simp
theorem PressAcc.readF_still (a : PressAcc) (e : Extent) (off n : Nat) : (a.readF e off n).2.s.still = a.s.still := by
  unfold PressAcc.readF
  grind [PressAcc.read_still]
theorem PressAcc.writeF_still (a : PressAcc) (e : Extent) (off) (vs) : (a.writeF e off vs).s.still = a.s.still := by
  unfold PressAcc.writeF
  simp [PressAcc.write_still]
theorem PressAcc.isFrozen_still (a : PressAcc) (p b) : (a.isFrozen p b).2.s.still = a.s.still := by
  unfold PressAcc.isFrozen
  grind [PressAcc.read_still]
theorem PressAcc.delta_still (a : PressAcc) (p b n) : (a.delta p b n).2.s.still = a.s.still := by
  unfold PressAcc.delta
  grind [PressAcc.read_still]
theorem PressAcc.weights_still (a : PressAcc) (p b) : (a.weights p b).2.s.still = a.s.still := by
  unfold PressAcc.weights
  grind [PressAcc.read_still]
theorem PressAcc.putWeights_still (a : PressAcc) (sh p b n ws) : (a.putWeights sh p b n ws).s.still = a.s.still := by
  unfold PressAcc.putWeights
  dsimp only
  split <;> simp [PressAcc.write_still]
theorem PressAcc.momentum_still (a : PressAcc) (p b) : (a.momentum p b).2.s.still = a.s.still := by
  unfold PressAcc.momentum
  grind [PressAcc.read_still]
theorem PressAcc.putMomentum_still (a : PressAcc) (p b ms) : (a.putMomentum p b ms).s.still = a.s.still := by
  unfold PressAcc.putMomentum
  generalize momentumCodes (ms.map Prod.fst) = r
  obtain ⟨x, y, z⟩ := r
  simp [PressAcc.write_still]
theorem PressAcc.skip_still (a : PressAcc) (p b g l) : (a.skip p b g l).2.s.still = a.s.still := by
  unfold PressAcc.skip
  grind [PressAcc.isFrozen_still]
theorem PressAcc.blockPut_still (a : PressAcc) (sh p n b d rs) : (a.blockPut sh p n b d rs).s.still = a.s.still := by
  unfold PressAcc.blockPut
  dsimp only
  rw [PressAcc.write_still]
  split
  · rw [PressAcc.putMomentum_still, PressAcc.putWeights_still]
  · rw [PressAcc.putWeights_still]
theorem PressAcc.block_still (a : PressAcc) (sh p h n b xs) : (a.block sh p h n b xs).s.still = a.s.still := by
  unfold PressAcc.block
  grind [PressAcc.delta_still, PressAcc.weights_still, PressAcc.momentum_still, PressAcc.blockPut_still]
theorem PressAcc.factoredRows_still (a : PressAcc) (p h n l t g) : (a.factoredRows p h n l t g).2.s.still = a.s.still := by
  unfold PressAcc.factoredRows
  grind [PressAcc.readF_still, PressAcc.writeF_still]
theorem PressAcc.commit_still (a : PressAcc) (p h n l) : (a.commit p h n l).s.still = a.s.still := by
  unfold PressAcc.commit
  grind [PressAcc.readF_still, PressAcc.writeF_still]
theorem PressAcc.foldBlocks_still {α : Type} (f : PressAcc → α → PressAcc) (h : ∀ a x, (f a x).s.still = a.s.still)
    (l : List α) (a : PressAcc) : (l.foldl f a).s.still = a.s.still := by
  induction l generalizing a with
  | nil => rfl
  | cons x l ih => simp only [List.foldl_cons, ih, h]
theorem PressAcc.foldPairs_still {α β : Type} (f : β × PressAcc → α → β × PressAcc)
    (h : ∀ a x, (f a x).2.s.still = a.2.s.still) (l : List α) (a : β × PressAcc) :
    (l.foldl f a).2.s.still = a.2.s.still := by
  induction l generalizing a with
  | nil => rfl
  | cons x l ih => simp only [List.foldl_cons, ih, h]
theorem PressAcc.sparseRows_still (a : PressAcc) (p h n sk rows) : (a.sparseRows p h n sk rows).2.s.still = a.s.still := by
  unfold PressAcc.sparseRows
  dsimp only
  rw [PressAcc.foldPairs_still]
  intro a x
  grind [PressAcc.delta_still, PressAcc.readF_still, PressAcc.writeF_still]
theorem PressAcc.skips_still (a : PressAcc) (p g b l) : (a.skips p g b l).2.s.still = a.s.still := by
  unfold PressAcc.skips
  rw [PressAcc.foldPairs_still]
  intro a x
  grind [PressAcc.skip_still]
theorem PressAcc.blocks_still (a : PressAcc) (sh p h n b k l) : (a.blocks sh p h n b k l).s.still = a.s.still := by
  unfold PressAcc.blocks
  rw [PressAcc.foldBlocks_still]
  intro a x
  split
  · rfl
  · exact PressAcc.block_still _ _ _ _ _ _ _
theorem PressAcc.slice_still (a : PressAcc) (sh p h g n l t ll) : (a.slice sh p h g n l t ll).s.still = a.s.still := by
  unfold PressAcc.slice
  grind [PressAcc.readF_still, PressAcc.factoredRows_still, PressAcc.skips_still, PressAcc.blocks_still]
theorem PressAcc.skipRows_still (a : PressAcc) (p g b l) : (a.skipRows p g b l).2.s.still = a.s.still := by
  unfold PressAcc.skipRows
  rw [PressAcc.foldPairs_still]
  intro a x
  grind [PressAcc.skip_still]
theorem PressAcc.blocksOf_still (a : PressAcc) (sh p h n b k l) : (a.blocksOf sh p h n b k l).s.still = a.s.still := by
  unfold PressAcc.blocksOf
  rw [PressAcc.foldBlocks_still]
  intro a x
  split
  · rfl
  · exact PressAcc.block_still _ _ _ _ _ _ _
theorem PressAcc.rowList_still (a : PressAcc) (sh p h g n rows) : (a.rowList sh p h g n rows).s.still = a.s.still := by
  unfold PressAcc.rowList
  grind [PressAcc.sparseRows_still, PressAcc.skipRows_still, PressAcc.blocksOf_still]
@[simp] theorem State.pressCount_still (a : PressAcc) (id ctx p) : (State.pressCount a id ctx p).still = a.s.still := by
  unfold State.pressCount
  simp

@[simp] theorem State.pressLast_still (x1 : _) (x2 : _) : (State.pressLast x1 x2).2.2.still = x1.still := by
  simp [State.pressLast, still_mk, still_eta, apply_ite State.still, foldl_still]

theorem jeiskIf_still (gate : Nat → CmdRec → State → Bool) (op : Nat) (body : Body) (id : Nat) (s : State)
    (h : ∀ i c t, WorkKeeps t.still (body i c t)) : OutKeeps s.still (jeiskIf gate op body id s) := by
  unfold jeiskIf
  split
  · rfl
  · split
    · exact jeisk_still _ _ _ _ h
    · rfl

@[simp] theorem State.holdAfter_still (x1 : _) (x2 : _) (x3 : _) : (State.holdAfter x1 x2 x3).still = x1.still := by
  simp [State.holdAfter, still_mk, still_eta, apply_ite State.still, foldl_still]

@[simp] theorem State.pressInit_still (x1 : _) (x2 : _) (x3 : _) (x4 : _) : (State.pressInit x1 x2 x3 x4).still = x1.still := by
  simp [State.pressInit, still_mk, still_eta, apply_ite State.still, foldl_still]

@[simp] theorem State.attachShard_still (x1 : _) (x2 : _) (x3 : _) (x4 : _) : (State.attachShard x1 x2 x3 x4).still = x1.still := by
  rfl

@[simp] theorem pressAttachBody_still (x1 : _) (x2 : _) (x3 : _) : WorkKeeps x3.still (pressAttachBody x1 x2 x3) := by
  unfold pressAttachBody
  extract_lets
  repeat (apply workKeeps_bind; intro _ _)
  split
  · trivial
  · apply workKeeps_bind; intro _ _
    split
    · repeat (apply workKeeps_bind; intro _ _)
      split
      · apply workKeeps_bind; intro _ _
        rw [okDone_still, State.attachShard_still, State.pressInit_still]
      · split
        rename_i heq
        have h := congrArg (fun r => r.2.2.still) heq
        rw [State.extRead_still] at h
        extract_lets
        split
        · rw [failDone_still]; exact h.symm
        · repeat (apply workKeeps_bind; intro _ _)
          rw [okDone_still, State.attachShard_still]; exact h.symm
    all_goals trivial

@[simp] theorem execPressAttach_still (x1 : _) (x2 : _) : OutKeeps x2.still (execPressAttach x1 x2) := by
  unfold execPressAttach; apply jeisk_still; intros; simp

@[simp] theorem State.pressEnd_still (x1 : _) (x2 : _) (x3 : _) (x4 : _) (x5 : _) (x6 : _) (x7 : _) (x8 : _) : (State.pressEnd x1 x2 x3 x4 x5 x6 x7 x8).still = x1.still := by
  simp [State.pressEnd, still_mk, still_eta, apply_ite State.still, foldl_still]

@[simp] theorem State.stepForm_still (x1 : _) (x2 : _) (x3 : _) : (State.stepForm x1 x2 x3).still = x1.still := by
  rfl

@[simp] theorem State.sliceStart_still (x1 : _) (x2 : _) (x3 : _) (x4 : _) (x5 : _) (x6 : _) (x7 : _) : (State.sliceStart x1 x2 x3 x4 x5 x6 x7).still = x1.still := by
  have abandoned : ∀ (c : Bool) (t : State), t.still = x1.still →
      (if c then t.ownerAbandon x3 stFenced else t).still = x1.still := by
    intro c t h
    cases c
    · exact h
    · exact (State.ownerAbandon_still _ _ _).trans h
  exact abandoned _ _ ((State.setRed_still _ _ _ _).trans (State.modShard_still _ _ _))

theorem PressAcc.start_s (s : State) : (PressAcc.start s).s = s := rfl
theorem PressAcc.rows_still (a : PressAcc) (c : Bool) (sh p h g n rows) :
    (if c then a else a.rowList sh p h g n rows).s.still = a.s.still := by
  split
  · rfl
  · exact PressAcc.rowList_still _ _ _ _ _ _ _

@[simp] theorem pressListForm_still (id ctx sh p h g n ix s) :
    WorkKeeps s.still (pressListForm id ctx sh p h g n ix s) := by
  unfold pressListForm
  extract_lets t
  have ht : t.still = s.still := by grind [State.refuseWaiters_still]
  generalize hr : (PressAcc.start t).readF (t.pressExt p.landing) 0 (ix.length * p.cols) = r
  have h1 : r.2.s.still = s.still := by rw [← hr, PressAcc.readF_still, PressAcc.start_s, ht]
  obtain ⟨vs, a⟩ := r
  dsimp only at h1
  dsimp only
  generalize hb : (if a.poison then a else a.rowList sh p h g n (ix.zip (chunks ix.length p.cols vs))) = b
  have h2 : b.s.still = s.still := by rw [← hb, PressAcc.rows_still, h1]
  split
  · rw [failDone_still, State.bump_still, State.pressCount_still, h2]
  · rw [workKeeps_busy, State.pressEnd_still, State.bump_still, State.pressCount_still, h2]

@[simp] theorem pressApplyBody_still (x1 : _) (x2 : _) (x3 : _) : WorkKeeps x3.still (pressApplyBody x1 x2 x3) := by
  unfold pressApplyBody
  extract_lets
  split
  · repeat (apply workKeeps_bind; intro _ _)
    rw [failDone_still]
  · repeat (apply workKeeps_bind; intro _ _)
    split
    · trivial
    · extract_lets
      repeat (apply workKeeps_bind; intro _ _)
      split
      rename_i heq
      have h := congrArg (fun r => r.2.2.still) heq
      simp only [State.pressLast_still] at h
      split
      · rw [failDone_still]; exact h.symm
      · apply workKeeps_bind; intro _ _
        split
        · rw [workKeeps_busy, State.sliceStart_still, State.stepForm_still]; exact h.symm
        · repeat (apply workKeeps_bind; intro _ _)
          split
          rename_i heq2
          have h2 := congrArg (fun r => r.2.2.still) heq2
          simp only [State.extRead_still] at h2
          split
          · rw [failDone_still]; exact (h.trans h2).symm
          · extract_lets
            split
            · trivial
            · apply workKeeps_bind; intro _ _
              have h3 := pressListForm_still
              simp only [h, h2]
              rw [← State.stepForm_still _ _ _]
              exact pressListForm_still ..

@[simp] theorem execPressApply_still (x1 : _) (x2 : _) : OutKeeps x2.still (execPressApply x1 x2) := by
  unfold execPressApply; apply jeiskIf_still; intros; simp

theorem PressAcc.sliceRun_still (a : PressAcc) (sh p run l t ll) : (a.sliceRun sh p run l t ll).s.still = a.s.still := by
  unfold PressAcc.sliceRun
  grind [PressAcc.slice_still, PressAcc.commit_still]

@[simp] theorem PressAcc.sliceTaken_still (a : PressAcc) (sh p run r ctx bad) : (a.sliceTaken sh p run r ctx bad).still = a.s.still := by
  unfold PressAcc.sliceTaken
  grind [State.pressCount_still, State.ownerAbandon_still, State.setRed_still, State.bump_still, State.pressEnd_still, State.cmdFlags_still, State.modShard_still]
@[simp] theorem execPressSliceConsume_still (x1 : _) (x2 : _) : OutKeeps x2.still (execPressSliceConsume x1 x2) := by
  unfold execPressSliceConsume
  split
  · rfl
  · split
    · extract_lets r
      generalize r.complete[r.consumed]? = o
      cases o with
      | none => rfl
      | some t =>
        simp only [outKeeps_next, PressAcc.sliceTaken_still, PressAcc.sliceRun_still, PressAcc.start_s]
        exact State.pressLast_still ..
    · rfl

@[simp] theorem pressFreezeBody_still (x1 : _) (x2 : _) (x3 : _) : WorkKeeps x3.still (pressFreezeBody x1 x2 x3) := by
  unfold pressFreezeBody
  repeat' (first | apply inRange_still | apply whenThen_still | (apply workKeeps_bind; intro _ _) | (apply foldl_still; intro t a) | dsimp only [State.draw] | dsimp only | split)
  all_goals (try (rename_i h; have h2 := congrArg (fun p => p.2.2) h; simp only at h2; subst h2))
  all_goals first | trivial | simp [still_mk, still_eta, apply_ite State.still, foldl_still] | rfl

@[simp] theorem execPressFreeze_still (x1 : _) (x2 : _) : OutKeeps x2.still (execPressFreeze x1 x2) := by
  unfold execPressFreeze; apply jeiskIf_still; intros; simp

@[simp] theorem State.detachShard_still (x1 : _) (x2 : _) : (State.detachShard x1 x2).still = x1.still := by
  simp [State.detachShard, still_mk, still_eta, apply_ite State.still, foldl_still]

@[simp] theorem pressDetachBody_still (x1 : _) (x2 : _) (x3 : _) : WorkKeeps x3.still (pressDetachBody x1 x2 x3) := by
  unfold pressDetachBody
  repeat' (first | (apply workKeeps_bind; intro _ _) | (apply foldl_still; intro t a) | split | dsimp only [State.draw] | dsimp only)
  all_goals simp [still_mk, still_eta, apply_ite State.still, foldl_still]

@[simp] theorem execPressDetach_still (x1 : _) (x2 : _) : OutKeeps x2.still (execPressDetach x1 x2) := by
  unfold execPressDetach; apply jeiskIf_still; intros; simp

end Sys2Proof.Machine
end

