-- ==== Sys2Proof/Laws/StillLaunch.lean ====
section
/-! SUPPORT. The operations of Machine/Launch.lean leave alone what `State.still` holds. -/
namespace Sys2Proof.Machine

set_option linter.unusedSimpArgs false
set_option linter.unusedTactic false
set_option linter.unreachableTactic false

@[simp] theorem launchCheck_still (x1 : _) (x2 : _) (x3 : _) (x4 : _) : OkKeeps x4.still (launchCheck x1 x2 x3 x4) := by
  unfold launchCheck
  extract_lets
  repeat (apply okKeeps_bind; intro _ _)
  split
  · trivial
  · repeat (apply okKeeps_bind; intro _ _)
    split
    rename_i heq
    have h := congrArg (fun r => r.2.2.still) heq
    simp only [State.extRead_still] at h
    split
    · rw [okKeeps_pure]; exact h.symm
    · extract_lets
      split
      · trivial
      · split
        · trivial
        · repeat (apply okKeeps_bind; intro _ _)
          extract_lets
          repeat (apply okKeeps_bind; intro _ _)
          rw [okKeeps_pure]; exact h.symm

@[simp] theorem execLaunch_still (x1 : _) (x2 : _) : OutKeeps x2.still (execLaunch x1 x2) := by
  unfold execLaunch
  split
  · rfl
  · split
    · split
      · simp
      · split
        · simp
        · rename_i b _ _
          split
          · simp
          · rename_i t heq; have h := okKeeps_use (launchCheck_still _ _ _ _) heq
            simp only [outKeeps_next, State.finish_still, State.startCmd_still]; exact h
          · rename_i t heq; have h := okKeeps_use (launchCheck_still _ _ _ _) heq
            simp only [outKeeps_next, State.setLaunch_still]; exact h
    · rfl

@[simp] theorem State.renewStep_still (x1 : _) (x2 : _) : (State.renewStep x1 x2).still = x1.still := by
  simp [State.renewStep, still_mk, still_eta, apply_ite State.still, foldl_still]

@[simp] theorem execLaunchStart_still (x1 : _) (x2 : _) : OutKeeps x2.still (execLaunchStart x1 x2) := by
  unfold execLaunchStart
  simp only []
  repeat' split
  all_goals (try (rename_i h; have h2 := congrArg Prod.snd h; simp only at h2; subst h2))
  all_goals simp [still_mk, still_eta, apply_ite State.still, foldl_still]

theorem foldl_fst_still {α β : Type} (f : State × β → α → State × β) (h : ∀ a x, (f a x).1.still = a.1.still)
    (l : List α) (a : State × β) : (l.foldl f a).1.still = a.1.still := by
  induction l generalizing a with
  | nil => rfl
  | cons x l ih => simp only [List.foldl_cons, ih, h]
@[simp] theorem State.zeroTiles_still (x1 : _) (x2 : _) (x3 : _) : (State.zeroTiles x1 x2 x3).1.still = x1.still := by
  unfold State.zeroTiles
  rw [foldl_fst_still]
  intro a x
  grind [State.firstClose_still, State.streamTile_still, State.bump_still]

@[simp] theorem execLaunchClustersFinished_still (x1 : _) (x2 : _) : OutKeeps x2.still (execLaunchClustersFinished x1 x2) := by
  unfold execLaunchClustersFinished
  simp only []
  repeat' split
  all_goals (try (rename_i h; have h2 := congrArg Prod.snd h; simp only at h2; subst h2))
  all_goals simp [still_mk, still_eta, apply_ite State.still, foldl_still]

@[simp] theorem execLaunchProgressTimeout_still (x1 : _) (x2 : _) (x3 : _) : OutKeeps x3.still (execLaunchProgressTimeout x1 x2 x3) := by
  unfold execLaunchProgressTimeout
  repeat' (first | apply inRange_still | apply whenThen_still | split | simp only [foldl_still, outKeeps_next, workKeeps_done])
  all_goals first | trivial | simp [still_mk, still_eta, apply_ite State.still, foldl_still] | rfl

end Sys2Proof.Machine
end

