-- ==== Sys2Proof/Laws/StillOneSided.lean ====
section
/-! SUPPORT. The operations of Machine/OneSided.lean leave alone what `State.still` holds. -/
namespace Sys2Proof.Machine

set_option linter.unusedSimpArgs false
set_option linter.unusedTactic false
set_option linter.unreachableTactic false

@[simp] theorem State.issue_still (x1 : _) (x2 : _) (x3 : _) (x4 : _) (x5 : _) : (State.issue x1 x2 x3 x4 x5).still = x1.still := by
  unfold State.issue
  repeat' (first | apply inRange_still | apply whenThen_still | split | simp only [foldl_still, outKeeps_next, workKeeps_done])
  all_goals first | trivial | simp [still_mk, still_eta, apply_ite State.still, foldl_still] | rfl

@[simp] theorem execTrackerEntryGrant_still (x1 : _) : OutKeeps x1.still (execTrackerEntryGrant x1) := by
  unfold execTrackerEntryGrant
  repeat' (first | apply inRange_still | apply whenThen_still | split)
  all_goals first | trivial | simp [still_mk, still_eta, apply_ite State.still, foldl_still] | rfl

@[simp] theorem State.dropRequests_still (x1 : _) (x2 : _) : (State.dropRequests x1 x2).still = x1.still := by
  simp [State.dropRequests, still_mk, still_eta, apply_ite State.still, foldl_still]

@[simp] theorem State.endOne_still (x1 : _) (x2 : _) (x3 : _) : (State.endOne x1 x2 x3).still = x1.still := by
  simp [State.endOne, still_mk, still_eta, apply_ite State.still, foldl_still]

@[simp] theorem State.setOne_still (x1 : _) (x2 : _) (x3 : _) : (State.setOne x1 x2 x3).still = x1.still := by
  rfl

@[simp] theorem State.issueReq_still (x1 : _) (x2 : _) (x3 : _) (x4 : _) (x5 : _) (x6 : _) : (State.issueReq x1 x2 x3 x4 x5 x6).still = x1.still := by
  simp [State.issueReq, still_mk, still_eta, apply_ite State.still, foldl_still]

@[simp] theorem putBody_still (x1 : _) (x2 : _) (x3 : _) : WorkKeeps x3.still (putBody x1 x2 x3) := by
  unfold putBody
  repeat' (first | apply inRange_still | apply whenThen_still | (apply workKeeps_bind; intro _ _) | (apply foldl_still; intro t a) | dsimp only [State.draw] | dsimp only | split)
  all_goals (try (rename_i h; have h2 := congrArg (fun p => p.2.2) h; simp only at h2; subst h2))
  all_goals first | trivial | simp [still_mk, still_eta, apply_ite State.still, foldl_still] | rfl

@[simp] theorem execPut_still (x1 : _) (x2 : _) : OutKeeps x2.still (execPut x1 x2) := by
  unfold execPut; apply jeisk_still; intros; simp

@[simp] theorem getBody_still (x1 : _) (x2 : _) (x3 : _) : WorkKeeps x3.still (getBody x1 x2 x3) := by
  unfold getBody
  repeat' (first | (apply workKeeps_bind; intro _ _) | (apply foldl_still; intro t a) | split | dsimp only [State.draw] | dsimp only)
  all_goals simp [still_mk, still_eta, apply_ite State.still, foldl_still]

@[simp] theorem execGet_still (x1 : _) (x2 : _) : OutKeeps x2.still (execGet x1 x2) := by
  unfold execGet; apply jeisk_still; intros; simp

@[simp] theorem State.refusePkt_still (x1 : _) (x2 : _) (x3 : _) : OptKeeps x1.still (State.refusePkt x1 x2 x3) := by
  unfold State.refusePkt
  repeat' (first | apply inRange_still | apply whenThen_still | split)
  all_goals first | trivial | simp [still_mk, still_eta, apply_ite State.still, foldl_still] | rfl

@[simp] theorem State.arrival_still (x1 : _) (x2 : _) (x3 : _) : FinKeeps x1.still (State.arrival x1 x2 x3) := by
  simp [State.arrival, still_mk, still_eta, apply_ite State.still, foldl_still]

@[simp] theorem State.ack_still (x1 : _) (x2 : _) (x3 : _) (x4 : _) (x5 : _) : (State.ack x1 x2 x3 x4 x5).still = x1.still := by
  simp [State.ack, still_mk, still_eta, apply_ite State.still, foldl_still]

theorem State.arrival_use {s : State} {l pkt} {m : Nat × Nat × Packet} {t : State} (h : s.arrival l pkt = some (m, t)) :
    t.still = s.still := by
  have := State.arrival_still s l pkt
  rwa [h] at this
theorem State.refusePkt_use {s : State} {vc p} {t : State} (h : s.refusePkt vc p = some t) : t.still = s.still := by
  have := State.refusePkt_still s vc p
  rwa [h] at this
theorem State.takeRx_use {s : State} {f} {m : Nat × Nat × Packet} {t : State} (h : s.takeRx f = some (m, t)) :
    t.still = s.still := by
  have := State.takeRx_still s f
  rwa [h] at this
@[simp] theorem execReadReceive_still (x1 : _) (x2 : _) : OutKeeps x2.still (execReadReceive x1 x2) := by
  unfold execReadReceive
  split
  · rfl
  · rename_i h
    have h := State.arrival_use h
    split
    · rename_i h2; rw [outKeeps_next, State.refusePkt_use h2, h]
    · extract_lets
      split
      · rw [outKeeps_next, State.bump_still, h]
      · split
        · rw [outKeeps_next, State.ack_still, h]
        · split
          · rw [outKeeps_next, State.ack_still, h]
          · split
            · rw [outKeeps_next, State.ack_still, h]
            · split
              rename_i h3
              have h3 := congrArg (fun r => r.2.2.still) h3
              simp only [State.extRead_still] at h3
              extract_lets
              rw [outKeeps_next, State.launchPkt_still, State.addOp_still, State.addOp_still, ← h3, h]

@[simp] theorem execAckReceive_still (x1 : _) (x2 : _) : OutKeeps x2.still (execAckReceive x1 x2) := by
  unfold execAckReceive
  split
  · rfl
  · rename_i h
    have h := State.arrival_use h
    split
    · rename_i h2; rw [outKeeps_next, State.refusePkt_use h2, h]
    · split
      · rw [outKeeps_next, State.bump_still, h]
      · extract_lets
        split
        · rw [outKeeps_next, State.endOne_still, State.trkFree_still, h]
        · split
          · rw [outKeeps_next, State.endOne_still, State.trkFree_still, h]
          · rw [outKeeps_next, State.setOne_still, State.trkFree_still, h]

@[simp] theorem State.putArrival_still (x1 : _) (x2 : _) : (State.putArrival x1 x2).still = x1.still := by
  unfold State.putArrival
  repeat' (first | apply inRange_still | apply whenThen_still | split | simp only [foldl_still, outKeeps_next, workKeeps_done])
  all_goals first | trivial | simp [still_mk, still_eta, apply_ite State.still, foldl_still] | rfl

@[simp] theorem State.getArrival_still (x1 : _) (x2 : _) : (State.getArrival x1 x2).still = x1.still := by
  unfold State.getArrival
  repeat' (first | apply inRange_still | apply whenThen_still | split | simp only [foldl_still, outKeeps_next, workKeeps_done])
  all_goals first | trivial | simp [still_mk, still_eta, apply_ite State.still, foldl_still] | rfl

@[simp] theorem execPacketForward_still (x1 : _) (x2 : _) (x3 : _) : OutKeeps x3.still (execPacketForward x1 x2 x3) := by
  unfold execPacketForward
  split
  · rfl
  · rename_i h
    have h := State.takeRx_use h
    split
    · exact h
    · split
      · rw [outKeeps_next, State.bump_still, h]
      · rw [outKeeps_next, State.forward_still, h]

end Sys2Proof.Machine
end

