-- ==== Sys2Proof/Laws/StillCollective.lean ====
section
/-! SUPPORT. The operations of Machine/Collective.lean leave alone what `State.still` holds. -/
namespace Sys2Proof.Machine

set_option linter.unusedSimpArgs false
set_option linter.unusedTactic false
set_option linter.unreachableTactic false

@[simp] theorem State.toEdge_still (x1 : _) (x2 : _) (x3 : _) (x4 : _) (x5 : _) : (State.toEdge x1 x2 x3 x4 x5).still = x1.still := by
  unfold State.toEdge
  repeat' (first | apply inRange_still | apply whenThen_still | split)
  all_goals first | trivial | simp [still_mk, still_eta, apply_ite State.still, foldl_still] | rfl

@[simp] theorem State.toEdges_still (x1 : _) (x2 : _) (x3 : _) (x4 : _) (x5 : _) : (State.toEdges x1 x2 x3 x4 x5).still = x1.still := by
  simp [State.toEdges, still_mk, still_eta, apply_ite State.still, foldl_still]

@[simp] theorem State.toMember_still (x1 : _) (x2 : _) (x3 : _) (x4 : _) : (State.toMember x1 x2 x3 x4).still = x1.still := by
  simp [State.toMember, still_mk, still_eta, apply_ite State.still, foldl_still]

@[simp] theorem State.setInst_still (x1 : _) (x2 : _) (x3 : _) : (State.setInst x1 x2 x3).still = x1.still := by
  rfl

@[simp] theorem State.reportReady_still (x1 : _) (x2 : _) : (State.reportReady x1 x2).still = x1.still := by
  unfold State.reportReady
  simp only []
  repeat' (first | (apply foldl_still; intro t a) | split)
  all_goals simp [still_mk, still_eta, apply_ite State.still, foldl_still]

@[simp] theorem State.endInst_still (x1 : _) (x2 : _) (x3 : _) : (State.endInst x1 x2 x3).still = x1.still := by
  unfold State.endInst
  repeat' (first | apply inRange_still | apply whenThen_still | split)
  all_goals first | trivial | simp [still_mk, still_eta, apply_ite State.still, foldl_still] | rfl

@[simp] theorem State.checkInst_still (x1 : _) (x2 : _) : (State.checkInst x1 x2).still = x1.still := by
  unfold State.checkInst
  repeat' (first | apply inRange_still | apply whenThen_still | split)
  all_goals first | trivial | simp [still_mk, still_eta, apply_ite State.still, foldl_still] | rfl

@[simp] theorem State.fenceInst_still (x1 : _) (x2 : _) : (State.fenceInst x1 x2).still = x1.still := by
  unfold State.fenceInst
  repeat' (first | apply inRange_still | apply whenThen_still | split)
  all_goals first | trivial | simp [still_mk, still_eta, apply_ite State.still, foldl_still] | rfl

@[simp] theorem State.beginInst_still (x1 : _) (x2 : _) (x3 : _) : (State.beginInst x1 x2 x3).still = x1.still := by
  simp [State.beginInst, still_mk, still_eta, apply_ite State.still, foldl_still]

@[simp] theorem State.passUnits_still (x1 : _) (x2 : _) (x3 : _) (x4 : _) (x5 : _) (x6 : _) (x7 : _) : (State.passUnits x1 x2 x3 x4 x5 x6 x7).still = x1.still := by
  unfold State.passUnits
  simp only []
  repeat' (first | (apply foldl_still; intro t a) | split)
  all_goals simp [still_mk, still_eta, apply_ite State.still, foldl_still]

@[simp] theorem State.landSegment_still (x1 : _) (x2 : _) (x3 : _) (x4 : _) : (State.landSegment x1 x2 x3 x4).still = x1.still := by
  unfold State.landSegment
  repeat' (first | apply inRange_still | apply whenThen_still | split | simp only [foldl_still, outKeeps_next, workKeeps_done])
  all_goals first | trivial | simp [still_mk, still_eta, apply_ite State.still, foldl_still] | rfl

theorem sendParts_still (s : State) (h off arg bs) (out : State → Packet → State) (ho : ∀ s p, (out s p).still = s.still) :
    (sendParts s h off arg bs out).still = s.still := by
  unfold sendParts
  apply foldl_still
  intro t a
  exact ho ..

@[simp] theorem State.sendCopies_still (x1 : _) (x2 : _) (x3 : _) : (State.sendCopies x1 x2 x3).still = x1.still := by
  unfold State.sendCopies
  extract_lets
  split
  · rfl
  · split
    rename_i heq
    have h := congrArg (fun r => r.2.2.still) heq
    simp only [State.extRead_still] at h
    extract_lets
    rw [sendParts_still, State.setInst_still, State.addOp_still, State.addOp_still]
    · exact h.symm
    · intro s p; exact State.toEdges_still ..

@[simp] theorem State.sendMemberPart_still (x1 : _) (x2 : _) (x3 : _) (x4 : _) (x5 : _) (x6 : _) : (State.sendMemberPart x1 x2 x3 x4 x5 x6).still = x1.still := by
  unfold State.sendMemberPart
  extract_lets
  split
  split
  · split
    rename_i heq
    have h := congrArg (fun r => r.2.2.still) heq
    simp only [State.extRead_still] at h
    extract_lets
    split
    · split
      · rw [State.addOp_still, State.extWrite_still, State.setInst_still, State.addOp_still]; exact h.symm
      · rw [State.setInst_still, State.addOp_still]; exact h.symm
    · rw [sendParts_still, State.addOp_still, State.setInst_still, State.addOp_still]
      · exact h.symm
      · intro s p; exact State.toMember_still ..
  · rfl

@[simp] theorem State.sendSegment_still (x1 : _) (x2 : _) (x3 : _) (x4 : _) (x5 : _) : (State.sendSegment x1 x2 x3 x4 x5).still = x1.still := by
  unfold State.sendSegment
  split
  · rfl
  · extract_lets
    split
    rw [State.passUnits_still, State.addOp_still, State.cmdFlags_still, State.setInst_still]

@[simp] theorem State.sendInst_still (x1 : _) (x2 : _) (x3 : _) (x4 : _) (x5 : _) : (State.sendInst x1 x2 x3 x4 x5).still = x1.still := by
  unfold State.sendInst
  extract_lets
  split
  · rw [State.sendCopies_still, State.setInst_still]
  · rw [foldl_still, State.setInst_still]
    intro t a; exact State.sendMemberPart_still ..
  · split
    · exact State.setInst_still ..
    · split
      rename_i heq
      have h := congrArg (fun r => r.2.2.still) heq
      simp only [State.extRead_still, State.setInst_still] at h
      extract_lets
      rw [State.landSegment_still, foldl_still, State.setInst_still, State.addOp_still]
      · exact h.symm
      · intro t a; exact State.sendSegment_still ..

@[simp] theorem execCollectiveSendStart_still (x1 : _) (x2 : _) : OutKeeps x2.still (execCollectiveSendStart x1 x2) := by
  unfold execCollectiveSendStart
  repeat' (first | apply inRange_still | apply whenThen_still | split)
  all_goals first | trivial | simp [still_mk, still_eta, apply_ite State.still, foldl_still] | rfl

theorem State.gatherPiece_still' (i tag before total n w d) (a : State × Bool) (q : Nat) :
    (State.gatherPiece i tag before total n w d a q).1.still = a.1.still := by
  unfold State.gatherPiece
  extract_lets
  split
  rename_i heq
  have h := congrArg (fun r => r.2.2.still) heq
  simp only [State.extRead_still] at h
  extract_lets
  rw [State.toEdges_still, State.extWrite_still]; exact h.symm
theorem foldl_fst_still2 {β : Type} {f : State × β → Nat → State × β} (h : ∀ a x, (f a x).1.still = a.1.still)
    (l : List Nat) (a : State × β) : (l.foldl f a).1.still = a.1.still := foldl_fst_still f h l a
@[simp] theorem execGatherReadoutStart_still (x1 : _) (x2 : _) : OutKeeps x2.still (execGatherReadoutStart x1 x2) := by
  unfold execGatherReadoutStart
  split
  · split
    · rfl
    · split
      · rfl
      · extract_lets
        split
        · rw [outKeeps_next, State.endInst_still]
        · extract_lets
          split
          · split
            · rfl
            · extract_lets
              rename_i out s1 s2 s3
              have h : out.1.still = x2.still := foldl_fst_still2 (fun a q => State.gatherPiece_still' ..) _ _
              have h1 : s2.still = x2.still := by
                rw [State.setInst_still, State.addOp_still, State.addOp_still, State.addOp_still, h]
              rw [outKeeps_next, State.checkInst_still]
              rw [show s3.still = s2.still by unfold s3; split; exact State.addToken_still ..; rfl, h1]
          · rfl
  · rfl

@[simp] theorem execCollectiveTimeout_still (x1 : _) (x2 : _) (x3 : _) : OutKeeps x3.still (execCollectiveTimeout x1 x2 x3) := by
  unfold execCollectiveTimeout
  repeat' (first | apply inRange_still | apply whenThen_still | split | simp only [foldl_still, outKeeps_next, workKeeps_done])
  all_goals first | trivial | simp [still_mk, still_eta, apply_ite State.still, foldl_still] | rfl

@[simp] theorem State.landData_still (x1 : _) (x2 : _) : (State.landData x1 x2).still = x1.still := by
  unfold State.landData
  repeat' (first | apply inRange_still | apply whenThen_still | split | simp only [foldl_still, outKeeps_next, workKeeps_done])
  all_goals first | trivial | simp [still_mk, still_eta, apply_ite State.still, foldl_still] | rfl

@[simp] theorem execDataReceive_still (x1 : _) (x2 : _) : OutKeeps x2.still (execDataReceive x1 x2) := by
  unfold execDataReceive
  split
  · rfl
  · rename_i h
    have h := State.arrival_use h
    split
    · rename_i h2; rw [outKeeps_next, State.refusePkt_use h2, h]
    · rw [outKeeps_next]
      split
      · rw [State.landData_still, h]
      · split
        · rw [State.getArrival_still, h]
        · rw [State.putArrival_still, h]

@[simp] theorem execPartialReceive_still (x1 : _) (x2 : _) : OutKeeps x2.still (execPartialReceive x1 x2) := by
  unfold execPartialReceive
  split
  · rfl
  · rename_i h
    have h := State.arrival_use h
    split
    · rename_i h2; rw [outKeeps_next, State.refusePkt_use h2, h]
    · split
      · extract_lets
        split
        · rw [outKeeps_next, State.bump_still, h]
        · extract_lets
          split
          · rw [outKeeps_next, State.bump_still, h]
          · split
            · rw [outKeeps_next]
              split
              · exact h
              · rw [State.endInst_still, h]
            · split
              extract_lets
              rename_i s1 s2 s3
              have h2 : s2.still = x2.still := by
                rw [State.addOp_still, State.addOp_still, State.cmdFlags_still, State.setInst_still, h]
              rw [outKeeps_next, State.checkInst_still]
              rw [show s3.still = s2.still by unfold s3; split; exact State.landSegment_still ..; exact State.passUnits_still .., h2]
      · first | rfl | exact h | rw [outKeeps_next, State.bump_still, h]

@[simp] theorem execReadyReceive_still (x1 : _) (x2 : _) : OutKeeps x2.still (execReadyReceive x1 x2) := by
  unfold execReadyReceive
  split
  · rfl
  · rename_i h
    have h := State.arrival_use h
    split
    · rename_i h2; rw [outKeeps_next, State.refusePkt_use h2, h]
    · split
      · rfl
      · extract_lets
        rw [outKeeps_next, State.reportReady_still, State.setInst_still, h]

@[simp] theorem execCircuitPacketReceive_still (x1 : _) (x2 : _) (x3 : _) : OutKeeps x3.still (execCircuitPacketReceive x1 x2 x3) := by
  unfold execCircuitPacketReceive
  apply inRange_still
  split
  · rfl
  · rename_i h
    have h := State.takeRx_use h
    extract_lets
    split
    · exact h
    · split
      · rw [outKeeps_next, State.bump_still, h]
      · split
        · exact h
        · split
          · rename_i t2 _ _ _ _ _ _ _
            rw [outKeeps_next, State.toEdges_still, ← h]
            unfold t2; split
            · exact State.deliverHere_still ..
            · rfl
          · split
            · rw [outKeeps_next, State.deliverHere_still, h]
            · split
              · extract_lets
                split
                · exact h
                · split
                  · rw [outKeeps_next, State.deliverHere_still, h]
                  · rw [outKeeps_next, State.toMember_still, h]
              · extract_lets
                split
                · exact h
                · split
                  · rw [outKeeps_next, State.deliverHere_still, h]
                  · rw [outKeeps_next, State.toMember_still, h]
              · extract_lets
                split
                · exact h
                · split
                  · rw [outKeeps_next, State.deliverHere_still, h]
                  · rw [outKeeps_next, State.toMember_still, h]

@[simp] theorem gatherJitBody_still (x1 : _) (x2 : _) (x3 : _) : WorkKeeps x3.still (gatherJitBody x1 x2 x3) := by
  unfold gatherJitBody
  repeat' (first | (apply workKeeps_bind; intro _ _) | (apply foldl_still; intro t a) | split | dsimp only [State.draw] | dsimp only)
  all_goals simp [still_mk, still_eta, apply_ite State.still, foldl_still]

@[simp] theorem execGatherJit_still (x1 : _) (x2 : _) : OutKeeps x2.still (execGatherJit x1 x2) := by
  unfold execGatherJit; apply jeisk_still; intros; simp

@[simp] theorem broadcastBody_still (x1 : _) (x2 : _) (x3 : _) : WorkKeeps x3.still (broadcastBody x1 x2 x3) := by
  unfold broadcastBody
  repeat' (first | (apply workKeeps_bind; intro _ _) | (apply foldl_still; intro t a) | split | dsimp only [State.draw] | dsimp only)
  all_goals simp [still_mk, still_eta, apply_ite State.still, foldl_still]

@[simp] theorem execBroadcast_still (x1 : _) (x2 : _) : OutKeeps x2.still (execBroadcast x1 x2) := by
  unfold execBroadcast; apply jeisk_still; intros; simp

@[simp] theorem reduceBody_still (x1 : _) (x2 : _) (x3 : _) (x4 : _) : WorkKeeps x4.still (reduceBody x1 x2 x3 x4) := by
  unfold reduceBody
  repeat' (first | (apply workKeeps_bind; intro _ _) | (apply foldl_still; intro t a) | split | dsimp only [State.draw] | dsimp only)
  all_goals simp [still_mk, still_eta, apply_ite State.still, foldl_still]

@[simp] theorem execReduceScatter_still (x1 : _) (x2 : _) : OutKeeps x2.still (execReduceScatter x1 x2) := by
  unfold execReduceScatter; apply jeisk_still; intros; simp

@[simp] theorem execAllReduce_still (x1 : _) (x2 : _) : OutKeeps x2.still (execAllReduce x1 x2) := by
  unfold execAllReduce; apply jeisk_still; intros; simp

@[simp] theorem allToAllBody_still (x1 : _) (x2 : _) (x3 : _) : WorkKeeps x3.still (allToAllBody x1 x2 x3) := by
  unfold allToAllBody
  repeat' (first | (apply workKeeps_bind; intro _ _) | (apply foldl_still; intro t a) | split | dsimp only [State.draw] | dsimp only)
  all_goals simp [still_mk, still_eta, apply_ite State.still, foldl_still]

@[simp] theorem execAllToAll_still (x1 : _) (x2 : _) : OutKeeps x2.still (execAllToAll x1 x2) := by
  unfold execAllToAll; apply jeisk_still; intros; simp

@[simp] theorem State.fenceXfers_still (x1 : _) : (State.fenceXfers x1).still = x1.still := by
  simp [State.fenceXfers, still_mk, still_eta, apply_ite State.still, foldl_still]

end Sys2Proof.Machine
end

