-- ==== Sys2Proof/Laws/StillPlace.lean ====
section
/-! SUPPORT. The operations of Machine/Place.lean leave alone what `State.still` holds. -/
namespace Sys2Proof.Machine

set_option linter.unusedSimpArgs false
set_option linter.unusedTactic false
set_option linter.unreachableTactic false

@[simp] theorem State.freeMatrices_still (x1 : _) : (State.freeMatrices x1).still = x1.still := by
  rfl

@[simp] theorem State.placeHere_still (x1 : _) (x2 : _) (x3 : _) : (State.placeHere x1 x2 x3).still = x1.still := by
  simp [State.placeHere, still_mk, still_eta, apply_ite State.still, foldl_still]

@[simp] theorem State.redrawHere_still (x1 : _) (x2 : _) (x3 : _) (x4 : _) (x5 : _) : (State.redrawHere x1 x2 x3 x4 x5).still = x1.still := by
  rfl

@[simp] theorem State.sendDecisions_still (x1 : _) (x2 : _) (x3 : _) : (State.sendDecisions x1 x2 x3).still = x1.still := by
  simp [State.sendDecisions, still_mk, still_eta, apply_ite State.still, foldl_still]

@[simp] theorem State.placeFails_still (x1 : _) (x2 : _) (x3 : _) : (State.placeFails x1 x2 x3).still = x1.still := by
  simp [State.placeFails, still_mk, still_eta, apply_ite State.still, foldl_still]

@[simp] theorem State.tryPlace_still (x1 : _) : (State.tryPlace x1).still = x1.still := by
  unfold State.tryPlace
  repeat' (first | apply inRange_still | apply whenThen_still | split)
  all_goals first | trivial | simp [still_mk, still_eta, apply_ite State.still, foldl_still] | rfl

@[simp] theorem jobPlaceBody_still (x1 : _) (x2 : _) (x3 : _) : WorkKeeps x3.still (jobPlaceBody x1 x2 x3) := by
  unfold jobPlaceBody
  repeat' (first | (apply workKeeps_bind; intro _ _) | (apply foldl_still; intro t a) | split | dsimp only [State.draw] | dsimp only)
  all_goals simp [still_mk, still_eta, apply_ite State.still, foldl_still]

@[simp] theorem execJobPlace_still (x1 : _) (x2 : _) : OutKeeps x2.still (execJobPlace x1 x2) := by
  unfold execJobPlace; apply jeisk_still; intros; simp

@[simp] theorem execJobPlaceTimeout_still (x1 : _) (x2 : _) (x3 : _) : OutKeeps x3.still (execJobPlaceTimeout x1 x2 x3) := by
  unfold execJobPlaceTimeout
  repeat' (first | apply inRange_still | apply whenThen_still | split | simp only [foldl_still, outKeeps_next, workKeeps_done])
  all_goals first | trivial | simp [still_mk, still_eta, apply_ite State.still, foldl_still] | rfl

@[simp] theorem State.spareFails_still (x1 : _) (x2 : _) (x3 : _) : (State.spareFails x1 x2 x3).still = x1.still := by
  simp [State.spareFails, still_mk, still_eta, apply_ite State.still, foldl_still]

@[simp] theorem State.trySpare_still (x1 : _) : (State.trySpare x1).still = x1.still := by
  unfold State.trySpare
  repeat' (first | apply inRange_still | apply whenThen_still | split | simp only [foldl_still, outKeeps_next, workKeeps_done])
  all_goals first | trivial | simp [still_mk, still_eta, apply_ite State.still, foldl_still] | rfl

@[simp] theorem jobSpareBody_still (x1 : _) (x2 : _) (x3 : _) : WorkKeeps x3.still (jobSpareBody x1 x2 x3) := by
  unfold jobSpareBody
  repeat' (first | (apply workKeeps_bind; intro _ _) | (apply foldl_still; intro t a) | split | dsimp only [State.draw] | dsimp only)
  all_goals simp [still_mk, still_eta, apply_ite State.still, foldl_still]

@[simp] theorem execJobSpare_still (x1 : _) (x2 : _) : OutKeeps x2.still (execJobSpare x1 x2) := by
  unfold execJobSpare; apply jeiskIf_still; intros; simp

@[simp] theorem execJobSpareTimeout_still (x1 : _) (x2 : _) (x3 : _) : OutKeeps x3.still (execJobSpareTimeout x1 x2 x3) := by
  unfold execJobSpareTimeout
  repeat' (first | apply inRange_still | apply whenThen_still | split | simp only [foldl_still, outKeeps_next, workKeeps_done])
  all_goals first | trivial | simp [still_mk, still_eta, apply_ite State.still, foldl_still] | rfl

@[simp] theorem execRedrawInstall_still (x1 : _) : OutKeeps x1.still (execRedrawInstall x1) := by
  unfold execRedrawInstall
  repeat' (first | apply inRange_still | apply whenThen_still | split | simp only [foldl_still, outKeeps_next, workKeeps_done])
  all_goals first | trivial | simp [still_mk, still_eta, apply_ite State.still, foldl_still] | rfl

@[simp] theorem execPlacementDigestReceive_still (x1 : _) (x2 : _) (x3 : _) (x4 : _) (x5 : _) : OutKeeps x5.still (execPlacementDigestReceive x1 x2 x3 x4 x5) := by
  simp [execPlacementDigestReceive, still_mk, still_eta, apply_ite State.still, foldl_still]

@[simp] theorem execPlacementDecisionReceive_still (x1 : _) (x2 : _) : OutKeeps x2.still (execPlacementDecisionReceive x1 x2) := by
  unfold execPlacementDecisionReceive
  repeat' (first | apply inRange_still | apply whenThen_still | split)
  all_goals first | trivial | simp [still_mk, still_eta, apply_ite State.still, foldl_still] | rfl

@[simp] theorem State.endVat_still (x1 : _) : (State.endVat x1).still = x1.still := by
  unfold State.endVat
  repeat' (first | apply inRange_still | apply whenThen_still | split)
  all_goals first | trivial | simp [still_mk, still_eta, apply_ite State.still, foldl_still] | rfl

@[simp] theorem State.leaveJob_still (x1 : _) : (State.leaveJob x1).still = x1.still := by
  simp [State.leaveJob, still_mk, still_eta, apply_ite State.still, foldl_still]

@[simp] theorem State.sayLeft_still (x1 : _) : (State.sayLeft x1).still = x1.still := by
  unfold State.sayLeft
  repeat' (first | apply inRange_still | apply whenThen_still | split)
  all_goals first | trivial | simp [still_mk, still_eta, apply_ite State.still, foldl_still] | rfl

@[simp] theorem jobEndBody_still (x1 : _) (x2 : _) (x3 : _) : WorkKeeps x3.still (jobEndBody x1 x2 x3) := by
  unfold jobEndBody
  repeat' (first | (apply workKeeps_bind; intro _ _) | (apply foldl_still; intro t a) | split | dsimp only [State.draw] | dsimp only)
  all_goals simp [still_mk, still_eta, apply_ite State.still, foldl_still]

@[simp] theorem execJobEnd_still (x1 : _) (x2 : _) : OutKeeps x2.still (execJobEnd x1 x2) := by
  unfold execJobEnd; apply jeisk_still; intros; simp

end Sys2Proof.Machine
end

