-- ==== Sys2Proof/Laws/StillFence.lean ====
section
/-! SUPPORT. The operations of Machine/Fence.lean leave alone what `State.still` holds. -/
namespace Sys2Proof.Machine

set_option linter.unusedSimpArgs false
set_option linter.unusedTactic false
set_option linter.unreachableTactic false

@[simp] theorem State.noteFenced_still (x1 : _) (x2 : _) (x3 : _) (x4 : _) : (State.noteFenced x1 x2 x3 x4).still = x1.still := by
  simp [State.noteFenced, still_mk, still_eta, apply_ite State.still, foldl_still]

@[simp] theorem State.endPkgFences_still (x1 : _) : (State.endPkgFences x1).still = x1.still := by
  simp [State.endPkgFences, still_mk, still_eta, apply_ite State.still, foldl_still]

@[simp] theorem State.dropRound_still (x1 : _) : (State.dropRound x1).still = x1.still := by
  simp [State.dropRound, still_mk, still_eta, apply_ite State.still, foldl_still]

@[simp] theorem State.abandonRounds_still (x1 : _) (x2 : _) : (State.abandonRounds x1 x2).still = x1.still := by
  unfold State.abandonRounds
  repeat' (first | apply inRange_still | apply whenThen_still | split)
  all_goals first | trivial | simp [still_mk, still_eta, apply_ite State.still, foldl_still] | rfl

@[simp] theorem State.applyFences_still (x1 : _) (x2 : _) (x3 : _) : (State.applyFences x1 x2 x3).still = x1.still := by
  unfold State.applyFences
  repeat' (first | apply inRange_still | apply whenThen_still | split | simp only [foldl_still, outKeeps_next, workKeeps_done])
  all_goals first | trivial | simp [still_mk, still_eta, apply_ite State.still, foldl_still] | rfl

@[simp] theorem State.leadFence_still (x1 : _) (x2 : _) (x3 : _) : (State.leadFence x1 x2 x3).still = x1.still := by
  unfold State.leadFence
  repeat' (first | apply inRange_still | apply whenThen_still | split)
  all_goals first | trivial | simp [still_mk, still_eta, apply_ite State.still, foldl_still] | rfl

@[simp] theorem State.actAsLead_still (x1 : _) (x2 : _) (x3 : _) : (State.actAsLead x1 x2 x3).still = x1.still := by
  unfold State.actAsLead
  repeat' (first | apply inRange_still | apply whenThen_still | split)
  all_goals first | trivial | simp [still_mk, still_eta, apply_ite State.still, foldl_still] | rfl

@[simp] theorem pkgFenceBody_still (x1 : _) (x2 : _) (x3 : _) : WorkKeeps x3.still (pkgFenceBody x1 x2 x3) := by
  unfold pkgFenceBody
  repeat' (first | (apply workKeeps_bind; intro _ _) | (apply foldl_still; intro t a) | split | dsimp only [State.draw] | dsimp only)
  all_goals simp [still_mk, still_eta, apply_ite State.still, foldl_still]

@[simp] theorem execPkgFence_still (x1 : _) (x2 : _) : OutKeeps x2.still (execPkgFence x1 x2) := by
  unfold execPkgFence; apply jeisk_still; intros; simp

@[simp] theorem execBeatSendTimer_still (x1 : _) (x2 : _) : OutKeeps x2.still (execBeatSendTimer x1 x2) := by
  unfold execBeatSendTimer
  repeat' (first | apply inRange_still | apply whenThen_still | split | simp only [foldl_still, outKeeps_next, workKeeps_done])
  all_goals first | trivial | simp [still_mk, still_eta, apply_ite State.still, foldl_still] | rfl

@[simp] theorem execBeatReceive_still (x1 : _) (x2 : _) (x3 : _) (x4 : _) (x5 : _) (x6 : _) : OutKeeps x6.still (execBeatReceive x1 x2 x3 x4 x5 x6) := by
  unfold execBeatReceive
  repeat' (first | apply inRange_still | apply whenThen_still | split | simp only [foldl_still, outKeeps_next, workKeeps_done])
  all_goals first | trivial | simp [still_mk, still_eta, apply_ite State.still, foldl_still] | rfl

@[simp] theorem execMemberSilentTimeout_still (x1 : _) (x2 : _) (x3 : _) : OutKeeps x3.still (execMemberSilentTimeout x1 x2 x3) := by
  unfold execMemberSilentTimeout
  repeat' (first | apply inRange_still | apply whenThen_still | split | simp only [foldl_still, outKeeps_next, workKeeps_done])
  all_goals first | trivial | simp [still_mk, still_eta, apply_ite State.still, foldl_still] | rfl

@[simp] theorem execLeadSilentTimeout_still (x1 : _) (x2 : _) : OutKeeps x2.still (execLeadSilentTimeout x1 x2) := by
  unfold execLeadSilentTimeout
  repeat' (first | apply inRange_still | apply whenThen_still | split | simp only [foldl_still, outKeeps_next, workKeeps_done])
  all_goals first | trivial | simp [still_mk, still_eta, apply_ite State.still, foldl_still] | rfl

@[simp] theorem execFenceRequestReceive_still (x1 : _) (x2 : _) (x3 : _) : OutKeeps x3.still (execFenceRequestReceive x1 x2 x3) := by
  unfold execFenceRequestReceive
  repeat' (first | apply inRange_still | apply whenThen_still | split)
  all_goals first | trivial | simp [still_mk, still_eta, apply_ite State.still, foldl_still] | rfl

@[simp] theorem execFenceListReceive_still (x1 : _) (x2 : _) (x3 : _) (x4 : _) (x5 : _) : OutKeeps x5.still (execFenceListReceive x1 x2 x3 x4 x5) := by
  unfold execFenceListReceive
  repeat' (first | apply inRange_still | apply whenThen_still | split)
  all_goals first | trivial | simp [still_mk, still_eta, apply_ite State.still, foldl_still] | rfl

end Sys2Proof.Machine
end

