-- ==== Sys2Proof/Laws/StillTransit.lean ====
section
/-! SUPPORT. The operations of Machine/Transit.lean leave alone what `State.still` holds. -/
namespace Sys2Proof.Machine

set_option linter.unusedSimpArgs false
set_option linter.unusedTactic false
set_option linter.unreachableTactic false

@[simp] theorem setGrants_still (x1 : _) (x2 : _) : (setGrants x1 x2).still = x1.still := by
  rfl

@[simp] theorem transitGrantBody_still (x1 : _) (x2 : _) (x3 : _) : WorkKeeps x3.still (transitGrantBody x1 x2 x3) := by
  unfold transitGrantBody
  repeat' (first | (apply workKeeps_bind; intro _ _) | (apply foldl_still; intro t a) | split | dsimp only [State.draw] | dsimp only)
  all_goals simp [still_mk, still_eta, apply_ite State.still, foldl_still]

@[simp] theorem execTransitGrant_still (x1 : _) (x2 : _) : OutKeeps x2.still (execTransitGrant x1 x2) := by
  unfold execTransitGrant; apply jeisk_still; intros; simp

@[simp] theorem transitRevokeBody_still (x1 : _) (x2 : _) (x3 : _) (x4 : _) : WorkKeeps x4.still (transitRevokeBody x1 x2 x3 x4) := by
  unfold transitRevokeBody
  repeat' (first | (apply workKeeps_bind; intro _ _) | (apply foldl_still; intro t a) | split | dsimp only [State.draw] | dsimp only)
  all_goals simp [still_mk, still_eta, apply_ite State.still, foldl_still]

@[simp] theorem execTransitRevoke_still (x1 : _) (x2 : _) (x3 : _) : OutKeeps x3.still (execTransitRevoke x1 x2 x3) := by
  unfold execTransitRevoke; apply jeisk_still; intros; simp

@[simp] theorem execTransitPacket_still (x1 : _) (x2 : _) (x3 : _) : OutKeeps x3.still (execTransitPacket x1 x2 x3) := by
  unfold execTransitPacket
  extract_lets t
  split
  · rfl
  · rename_i h
    have h := State.takeRx_use h
    have h : _ = x3.still := h.trans (State.advance_still ..)
    split
    · rfl
    · split
      · rw [outKeeps_next, State.bump_still, h]
      · split
        · exact h
        · split
          · rfl
          · extract_lets
            split
            · rw [outKeeps_next, State.send_still, State.enqueue_still, h]
            · apply whenThen_still
              · rfl
              · rw [State.enqueue_still, setGrants_still, h]

@[simp] theorem execTransitCreditFrame_still (x1 : _) (x2 : _) (x3 : _) (x4 : _) : OutKeeps x4.still (execTransitCreditFrame x1 x2 x3 x4) := by
  unfold execTransitCreditFrame
  repeat' (first | apply inRange_still | apply whenThen_still | split)
  all_goals first | trivial | simp [still_mk, still_eta, apply_ite State.still, foldl_still] | rfl

@[simp] theorem execCongestionSample_still (x1 : _) (x2 : _) : OutKeeps x2.still (execCongestionSample x1 x2) := by
  unfold execCongestionSample
  repeat' (first | apply inRange_still | apply whenThen_still | split)
  all_goals first | trivial | simp [still_mk, still_eta, apply_ite State.still, foldl_still] | rfl

@[simp] theorem execCongestionMapFold_still (x1 : _) (x2 : _) : OutKeeps x2.still (execCongestionMapFold x1 x2) := by
  unfold execCongestionMapFold
  repeat' (first | apply inRange_still | apply whenThen_still | (apply workKeeps_bind; intro _ _) | (apply foldl_still; intro t a) | split | dsimp only [State.draw] | dsimp only)
  all_goals (try (rename_i h; have h2 := congrArg Prod.snd h; simp only at h2; subst h2))
  all_goals first | trivial | simp [still_mk, still_eta, apply_ite State.still, foldl_still] | rfl

@[simp] theorem feltCongBody_still (x1 : _) (x2 : _) (x3 : _) : WorkKeeps x3.still (feltCongBody x1 x2 x3) := by
  unfold feltCongBody
  repeat' (first | (apply workKeeps_bind; intro _ _) | (apply foldl_still; intro t a) | split | dsimp only [State.draw] | dsimp only)
  all_goals simp [still_mk, still_eta, apply_ite State.still, foldl_still]

@[simp] theorem execFeltCong_still (x1 : _) (x2 : _) : OutKeeps x2.still (execFeltCong x1 x2) := by
  unfold execFeltCong; apply jeisk_still; intros; simp

end Sys2Proof.Machine
end

