-- ==== Sys2Proof/Laws/StillIngest.lean ====
section
/-! SUPPORT. The operations of Machine/Ingest.lean leave alone what `State.still` holds. -/
namespace Sys2Proof.Machine

set_option linter.unusedSimpArgs false
set_option linter.unusedTactic false
set_option linter.unreachableTactic false

@[simp] theorem srcRegisterBody_still (x1 : _) (x2 : _) (x3 : _) : WorkKeeps x3.still (srcRegisterBody x1 x2 x3) := by
  unfold srcRegisterBody
  repeat' (first | (apply workKeeps_bind; intro _ _) | (apply foldl_still; intro t a) | split | dsimp only [State.draw] | dsimp only)
  all_goals simp [still_mk, still_eta, apply_ite State.still, foldl_still]

@[simp] theorem execSrcRegister_still (x1 : _) (x2 : _) : OutKeeps x2.still (execSrcRegister x1 x2) := by
  unfold execSrcRegister; apply jeisk_still; intros; simp

@[simp] theorem srcReleaseBody_still (x1 : _) (x2 : _) (x3 : _) : WorkKeeps x3.still (srcReleaseBody x1 x2 x3) := by
  unfold srcReleaseBody
  repeat' (first | (apply workKeeps_bind; intro _ _) | (apply foldl_still; intro t a) | split | dsimp only [State.draw] | dsimp only)
  all_goals simp [still_mk, still_eta, apply_ite State.still, foldl_still]

@[simp] theorem execSrcRelease_still (x1 : _) (x2 : _) : OutKeeps x2.still (execSrcRelease x1 x2) := by
  unfold execSrcRelease; apply jeisk_still; intros; simp

@[simp] theorem vatConfigBody_still (x1 : _) (x2 : _) (x3 : _) : WorkKeeps x3.still (vatConfigBody x1 x2 x3) := by
  unfold vatConfigBody
  repeat' (first | (apply workKeeps_bind; intro _ _) | (apply foldl_still; intro t a) | split | dsimp only [State.draw] | dsimp only)
  all_goals simp [still_mk, still_eta, apply_ite State.still, foldl_still]

@[simp] theorem execVatConfig_still (x1 : _) (x2 : _) : OutKeeps x2.still (execVatConfig x1 x2) := by
  unfold execVatConfig; apply jeisk_still; intros; simp

@[simp] theorem vatStartBody_still (x1 : _) (x2 : _) (x3 : _) : WorkKeeps x3.still (vatStartBody x1 x2 x3) := by
  unfold vatStartBody
  repeat' (first | (apply workKeeps_bind; intro _ _) | (apply foldl_still; intro t a) | split | dsimp only [State.draw] | dsimp only)
  all_goals simp [still_mk, still_eta, apply_ite State.still, foldl_still]

@[simp] theorem execVatStart_still (x1 : _) (x2 : _) : OutKeeps x2.still (execVatStart x1 x2) := by
  unfold execVatStart; apply jeisk_still; intros; simp

@[simp] theorem State.vatHalt_still (x1 : _) : (State.vatHalt x1).still = x1.still := by
  rfl

@[simp] theorem vatStopBody_still (x1 : _) (x2 : _) (x3 : _) : WorkKeeps x3.still (vatStopBody x1 x2 x3) := by
  unfold vatStopBody
  repeat' (first | (apply workKeeps_bind; intro _ _) | (apply foldl_still; intro t a) | split | dsimp only [State.draw] | dsimp only)
  all_goals simp [still_mk, still_eta, apply_ite State.still, foldl_still]

@[simp] theorem vatStopDone_still (x1 : _) (x2 : _) (x3 : _) : FinKeeps x3.still (vatStopDone x1 x2 x3) := by
  unfold vatStopDone
  repeat' (first | apply inRange_still | apply whenThen_still | split)
  all_goals first | trivial | simp [still_mk, still_eta, apply_ite State.still, foldl_still] | rfl

@[simp] theorem execVatStop_still (x1 : _) (x2 : _) : OutKeeps x2.still (execVatStop x1 x2) := by
  unfold execVatStop; apply jeiskWait_still <;> intros <;> simp

@[simp] theorem vatGetPositionBody_still (x1 : _) (x2 : _) (x3 : _) : WorkKeeps x3.still (vatGetPositionBody x1 x2 x3) := by
  unfold vatGetPositionBody
  repeat' (first | (apply workKeeps_bind; intro _ _) | (apply foldl_still; intro t a) | split | dsimp only [State.draw] | dsimp only)
  all_goals simp [still_mk, still_eta, apply_ite State.still, foldl_still]

@[simp] theorem execVatGetPosition_still (x1 : _) (x2 : _) : OutKeeps x2.still (execVatGetPosition x1 x2) := by
  unfold execVatGetPosition; apply jeisk_still; intros; simp

@[simp] theorem vatSetPositionBody_still (x1 : _) (x2 : _) (x3 : _) : WorkKeeps x3.still (vatSetPositionBody x1 x2 x3) := by
  unfold vatSetPositionBody
  repeat' (first | (apply workKeeps_bind; intro _ _) | (apply foldl_still; intro t a) | split | dsimp only [State.draw] | dsimp only)
  all_goals simp [still_mk, still_eta, apply_ite State.still, foldl_still]

@[simp] theorem execVatSetPosition_still (x1 : _) (x2 : _) : OutKeeps x2.still (execVatSetPosition x1 x2) := by
  unfold execVatSetPosition; apply jeisk_still; intros; simp

@[simp] theorem execChunkFetch_still (x1 : _) : OutKeeps x1.still (execChunkFetch x1) := by
  unfold execChunkFetch
  repeat' (first | apply inRange_still | apply whenThen_still | split | simp only [foldl_still, outKeeps_next, workKeeps_done])
  all_goals first | trivial | simp [still_mk, still_eta, apply_ite State.still, foldl_still] | rfl

@[simp] theorem State.fillSlots_still (k : Nat) (p : Profile) (s : State) : (State.fillSlots k p s).still = s.still := by
  induction k generalizing s with
  | zero => rfl
  | succ k ih =>
    unfold State.fillSlots
    split
    · extract_lets
      split
      · rfl
      · have e := Nat.succ.inj ‹k + 1 = Nat.succ _›
        rw [← e, ih]
        exact (State.addOp_still ..).trans (State.extWrite_still ..)
    · rfl

@[simp] theorem State.numberChunk_still (x1 : _) (x2 : _) (x3 : _) (x4 : _) : (State.numberChunk x1 x2 x3 x4).still = x1.still := by
  simp [State.numberChunk, still_mk, still_eta, apply_ite State.still, foldl_still]

@[simp] theorem State.retireChunks_still (k : Nat) (p : Profile) (s : State) : (State.retireChunks k p s).still = s.still := by
  induction k generalizing s with
  | zero => rfl
  | succ k ih =>
    unfold State.retireChunks
    split
    · split
      · rfl
      · have e := Nat.succ.inj ‹k + 1 = Nat.succ _›
        rw [← e, ih, State.numberChunk_still]
        rfl
    · rfl

@[simp] theorem State.countChunk_still (x1 : _) (x2 : _) : (State.countChunk x1 x2).still = x1.still := by
  simp [State.countChunk, still_mk, still_eta, apply_ite State.still, foldl_still]

@[simp] theorem State.stoppedChunk_still (x1 : _) : (State.stoppedChunk x1).still = x1.still := by
  unfold State.stoppedChunk
  split
  · split
    · rename_i h
      have h2 := vatStopDone_still ‹_› ‹_› x1
      rw [h] at h2
      rw [State.finish_still]; exact h2
    · rfl
  · split
    · rw [State.vatHalt_still]
    · rfl

@[simp] theorem execChunkDecodeDone_still (x1 : _) (x2 : _) (x3 : _) : OutKeeps x3.still (execChunkDecodeDone x1 x2 x3) := by
  unfold execChunkDecodeDone
  split
  · extract_lets
    apply whenThen_still
    · rfl
    · split
      · rw [State.stoppedChunk_still, State.countChunk_still]; rfl
      · rw [State.fillSlots_still, State.retireChunks_still, State.countChunk_still]; rfl
  · rfl

@[simp] theorem execWindowDrawStart_still (x1 : _) (x2 : _) : OutKeeps x2.still (execWindowDrawStart x1 x2) := by
  unfold execWindowDrawStart
  repeat' (first | apply inRange_still | apply whenThen_still | split)
  all_goals first | trivial | simp [still_mk, still_eta, apply_ite State.still, foldl_still] | rfl

@[simp] theorem State.copyDraw_still (x1 : _) (x2 : _) (x3 : _) : (State.copyDraw x1 x2 x3).still = x1.still := by
  simp [State.copyDraw, still_mk, still_eta, apply_ite State.still, foldl_still]

@[simp] theorem execVatDraw_still (x1 : _) : OutKeeps x1.still (execVatDraw x1) := by
  unfold execVatDraw
  repeat' (first | apply inRange_still | apply whenThen_still | split)
  all_goals first | trivial | simp [still_mk, still_eta, apply_ite State.still, foldl_still] | rfl

@[simp] theorem execBatchHandover_still (x1 : _) : OutKeeps x1.still (execBatchHandover x1) := by
  unfold execBatchHandover
  repeat' (first | apply inRange_still | apply whenThen_still | split | simp only [foldl_still, outKeeps_next, workKeeps_done])
  all_goals first | trivial | simp [still_mk, still_eta, apply_ite State.still, foldl_still] | rfl

@[simp] theorem execBatchRegionReuse_still (x1 : _) (x2 : _) : OutKeeps x2.still (execBatchRegionReuse x1 x2) := by
  unfold execBatchRegionReuse
  repeat' (first | apply inRange_still | apply whenThen_still | split)
  all_goals first | trivial | simp [still_mk, still_eta, apply_ite State.still, foldl_still] | rfl

end Sys2Proof.Machine
end

