-- ==== Sys2Proof/Laws/StillMould.lean ====
section
/-! SUPPORT. The operations of Machine/Mould.lean leave alone what `State.still` holds. -/
namespace Sys2Proof.Machine

set_option linter.unusedSimpArgs false
set_option linter.unusedTactic false
set_option linter.unreachableTactic false

@[simp] theorem State.setUnit_still (x1 : _) (x2 : _) (x3 : _) : (State.setUnit x1 x2 x3).still = x1.still := by
  rfl

@[simp] theorem State.declareMatrix_still (x1 : _) (x2 : _) (x3 : _) : (State.declareMatrix x1 x2 x3).still = x1.still := by
  rfl

@[simp] theorem mouldDeclareBody_still (x1 : _) (x2 : _) (x3 : _) : WorkKeeps x3.still (mouldDeclareBody x1 x2 x3) := by
  unfold mouldDeclareBody
  extract_lets
  repeat (apply workKeeps_bind; intro _ _)
  extract_lets
  repeat (apply workKeeps_bind; intro _ _)
  split
  rename_i heq
  have h := congrArg (fun r => r.2.2.still) heq
  simp only [State.extRead_still] at h
  split
  · rw [failDone_still]; exact h.symm
  · extract_lets
    split
    · trivial
    · split
      · trivial
      · repeat (apply workKeeps_bind; intro _ _)
        rw [okDone_still, State.declareMatrix_still, State.addOp_still]; exact h.symm

@[simp] theorem execMouldDeclare_still (x1 : _) (x2 : _) : OutKeeps x2.still (execMouldDeclare x1 x2) := by
  unfold execMouldDeclare; apply jeiskIf_still; intros; simp

@[simp] theorem State.lightDone_still (x1 : _) (x2 : _) (x3 : _) (x4 : _) (x5 : _) : (State.lightDone x1 x2 x3 x4 x5).still = x1.still := by
  simp [State.lightDone, still_mk, still_eta, apply_ite State.still, foldl_still]

theorem mouldVector_still (a x l e ib acc v) : (mouldVector a x l e ib acc v).2.2.2.still = acc.2.2.2.still := by
  unfold mouldVector
  split
  rename_i heq
  have h := congrArg (fun r => r.2.2.still) heq
  simp only [State.extRead_still] at h
  split
  exact h.symm
theorem foldVectors_still (a x l e ib) (vs : List Nat) (acc) :
    (vs.foldl (mouldVector a x l e ib) acc).2.2.2.still = acc.2.2.2.still := by
  induction vs generalizing acc with
  | nil => rfl
  | cons v vs ih => rw [List.foldl_cons, ih, mouldVector_still]
theorem foldr_still {α : Type} (f : α → State → State) (h : ∀ a t, (f a t).still = t.still) (l : List α) (s : State) :
    (l.foldr f s).still = s.still := by
  induction l with
  | nil => rfl
  | cons a l ih => rw [List.foldr_cons, h, ih]
@[simp] theorem State.mouldCompute_still (x1 : _) (x2 : _) (x3 : _) (x4 : _) (x5 : _) (x6 : _) : (State.mouldCompute x1 x2 x3 x4 x5 x6).2.still = x1.still := by
  unfold State.mouldCompute
  dsimp only [State.draw]
  have hr : ∀ l ib, ((List.range x4.n).foldl (mouldVector x4 x5 l (x1.pressExt x4.inH) ib) ([], 0, false,
      { x1 with free := x1.free + 1 })).2.2.2.still = x1.still := by
    intro l ib; rw [foldVectors_still]; rfl
  generalize hd : (if x6.isEmpty then none else some x1.free) = d
  generalize x4.inBytes x5 = ib
  have hq := hr d ib
  generalize (List.range x4.n).foldl (mouldVector x4 x5 d (x1.pressExt x4.inH) ib) ([], 0, false,
      { x1 with free := x1.free + 1 }) = r at hq ⊢
  split
  · rw [State.addOp_still, hq]
  · split
    · dsimp only
      rw [State.bump_still, State.addOp_still, State.cmdFlags_still, State.addOp_still, foldr_still, State.addOp_still, hq]
      intro a t; exact State.extWrite_still ..
    · dsimp only
      rw [State.addOp_still, foldl_still, State.cmdFlags_still, State.addOp_still, foldr_still, State.addOp_still, hq]
      · intro a t; exact State.extWrite_still ..
      · intro t a; exact State.lightDone_still ..

@[simp] theorem State.nextLoads_still (x1 : _) : (State.nextLoads x1).still = x1.still := by
  unfold State.nextLoads
  apply foldl_still
  intro t a
  repeat' split
  all_goals simp [still_mk, still_eta, apply_ite State.still, foldl_still]

@[simp] theorem State.placeUnits_still (x1 : _) (x2 : _) (x3 : _) : (State.placeUnits x1 x2 x3).still = x1.still := by
  rfl

@[simp] theorem mouldApplyBody_still (x1 : _) (x2 : _) (x3 : _) : WorkKeeps x3.still (mouldApplyBody x1 x2 x3) := by
  unfold mouldApplyBody
  repeat' (first | apply inRange_still | apply whenThen_still | (apply workKeeps_bind; intro _ _) | (apply foldl_still; intro t a) | split | dsimp only [State.draw] | dsimp only)
  all_goals (try (rename_i h; have h2 := congrArg Prod.snd h; simp only at h2; subst h2))
  all_goals first | trivial | simp [still_mk, still_eta, apply_ite State.still, foldl_still] | rfl

@[simp] theorem execMouldApply_still (x1 : _) (x2 : _) : OutKeeps x2.still (execMouldApply x1 x2) := by
  unfold execMouldApply; apply jeisk_still; intros; simp

@[simp] theorem State.endRun_still (x1 : _) (x2 : _) (x3 : _) : (State.endRun x1 x2 x3).still = x1.still := by
  unfold State.endRun
  repeat' (first | apply inRange_still | apply whenThen_still | split | simp only [foldl_still, outKeeps_next, workKeeps_done])
  all_goals first | trivial | simp [still_mk, still_eta, apply_ite State.still, foldl_still] | rfl

@[simp] theorem State.loadedTile_still (x1 : _) (x2 : _) (x3 : _) (x4 : _) : (State.loadedTile x1 x2 x3 x4).still = x1.still := by
  simp [State.loadedTile, still_mk, still_eta, apply_ite State.still, foldl_still]

@[simp] theorem execTileLoadDone_still (x1 : _) (x2 : _) (x3 : _) : OutKeeps x3.still (execTileLoadDone x1 x2 x3) := by
  unfold execTileLoadDone
  apply inRange_still
  extract_lets
  split
  · rfl
  · apply whenThen_still
    · rfl
    · rw [State.loadedTile_still, State.setUnit_still, State.advance_still]

@[simp] theorem State.dropMatrix_still (x1 : _) (x2 : _) : (State.dropMatrix x1 x2).still = x1.still := by
  rfl

@[simp] theorem mouldReleaseBody_still (x1 : _) (x2 : _) (x3 : _) : WorkKeeps x3.still (mouldReleaseBody x1 x2 x3) := by
  unfold mouldReleaseBody
  repeat' (first | (apply workKeeps_bind; intro _ _) | (apply foldl_still; intro t a) | split | dsimp only [State.draw] | dsimp only)
  all_goals simp [still_mk, still_eta, apply_ite State.still, foldl_still]

@[simp] theorem execMouldRelease_still (x1 : _) (x2 : _) : OutKeeps x2.still (execMouldRelease x1 x2) := by
  unfold execMouldRelease; apply jeisk_still; intros; simp

@[simp] theorem mouldQueryBody_still (x1 : _) (x2 : _) (x3 : _) : WorkKeeps x3.still (mouldQueryBody x1 x2 x3) := by
  unfold mouldQueryBody
  repeat' (first | (apply workKeeps_bind; intro _ _) | (apply foldl_still; intro t a) | split | dsimp only [State.draw] | dsimp only)
  all_goals simp [still_mk, still_eta, apply_ite State.still, foldl_still]

@[simp] theorem execMouldQuery_still (x1 : _) (x2 : _) : OutKeeps x2.still (execMouldQuery x1 x2) := by
  unfold execMouldQuery; apply jeisk_still; intros; simp

@[simp] theorem State.endRetune_still (x1 : _) (x2 : _) (x3 : _) : (State.endRetune x1 x2 x3).still = x1.still := by
  unfold State.endRetune
  repeat' (first | apply inRange_still | apply whenThen_still | split)
  all_goals first | trivial | simp [still_mk, still_eta, apply_ite State.still, foldl_still] | rfl

@[simp] theorem State.judgeMould_still (x1 : _) : (State.judgeMould x1).still = x1.still := by
  simp [State.judgeMould, still_mk, still_eta, apply_ite State.still, foldl_still]

@[simp] theorem State.holdOut_still (x1 : _) (x2 : _) : (State.holdOut x1 x2).still = x1.still := by
  simp [State.holdOut, still_mk, still_eta, apply_ite State.still, foldl_still]

@[simp] theorem State.failRecovery_still (x1 : _) (x2 : _) : (State.failRecovery x1 x2).still = x1.still := by
  simp [State.failRecovery, still_mk, still_eta, apply_ite State.still, foldl_still]

@[simp] theorem State.fallback_still (x1 : _) (x2 : _) (x3 : _) (x4 : _) : (State.fallback x1 x2 x3 x4).still = x1.still := by
  simp [State.fallback, still_mk, still_eta, apply_ite State.still, foldl_still]

@[simp] theorem State.enterService_still (x1 : _) (x2 : _) : (State.enterService x1 x2).still = x1.still := by
  simp [State.enterService, still_mk, still_eta, apply_ite State.still, foldl_still]

@[simp] theorem mouldRetuneBody_still (x1 : _) (x2 : _) (x3 : _) : WorkKeeps x3.still (mouldRetuneBody x1 x2 x3) := by
  unfold mouldRetuneBody
  repeat' (first | (apply workKeeps_bind; intro _ _) | (apply foldl_still; intro t a) | split | dsimp only [State.draw] | dsimp only)
  all_goals simp [still_mk, still_eta, apply_ite State.still, foldl_still]

@[simp] theorem execMouldRetune_still (x1 : _) (x2 : _) : OutKeeps x2.still (execMouldRetune x1 x2) := by
  unfold execMouldRetune; apply jeisk_still; intros; simp

@[simp] theorem execCombLost_still (x1 : _) (x2 : _) : OutKeeps x2.still (execCombLost x1 x2) := by
  unfold execCombLost
  apply inRange_still
  apply whenThen_still
  · rfl
  · split
    · rw [State.fallback_still]
    · rw [State.setUnit_still]

@[simp] theorem execCombStartDone_still (x1 : _) (x2 : _) : OutKeeps x2.still (execCombStartDone x1 x2) := by
  unfold execCombStartDone
  repeat' (first | apply inRange_still | apply whenThen_still | split)
  all_goals first | trivial | simp [still_mk, still_eta, apply_ite State.still, foldl_still] | rfl

@[simp] theorem execRingSearchDone_still (x1 : _) (x2 : _) (x3 : _) (x4 : _) (x5 : _) : OutKeeps x5.still (execRingSearchDone x1 x2 x3 x4 x5) := by
  unfold execRingSearchDone
  repeat' (first | apply inRange_still | apply whenThen_still | split)
  all_goals first | trivial | simp [still_mk, still_eta, apply_ite State.still, foldl_still] | rfl

@[simp] theorem execRingDitherCheck_still (x1 : _) (x2 : _) (x3 : _) (x4 : _) (x5 : _) : OutKeeps x5.still (execRingDitherCheck x1 x2 x3 x4 x5) := by
  unfold execRingDitherCheck
  repeat' (first | apply inRange_still | apply whenThen_still | split)
  all_goals first | trivial | simp [still_mk, still_eta, apply_ite State.still, foldl_still] | rfl

@[simp] theorem execRecalibrationDone_still (x1 : _) (x2 : _) : OutKeeps x2.still (execRecalibrationDone x1 x2) := by
  unfold execRecalibrationDone
  repeat' (first | apply inRange_still | apply whenThen_still | split)
  all_goals first | trivial | simp [still_mk, still_eta, apply_ite State.still, foldl_still] | rfl

@[simp] theorem execProbeCapture_still (x1 : _) (x2 : _) (x3 : _) (x4 : _) (x5 : _) : OutKeeps x5.still (execProbeCapture x1 x2 x3 x4 x5) := by
  unfold execProbeCapture
  apply inRange_still
  extract_lets t m
  apply whenThen_still
  · rfl
  · have h : ∀ u, (t.setUnit x1 u).still = x5.still := fun u => (State.setUnit_still ..).trans (State.advance_still ..)
    clear_value t
    clear_value m
    split
    · rw [State.fallback_still, h]
    · rw [h]

@[simp] theorem execProbeVerdict_still (x1 : _) (x2 : _) (x3 : _) (x4 : _) : OutKeeps x4.still (execProbeVerdict x1 x2 x3 x4) := by
  unfold execProbeVerdict
  repeat' (first | apply inRange_still | apply whenThen_still | split)
  all_goals first | trivial | simp [still_mk, still_eta, apply_ite State.still, foldl_still] | rfl

end Sys2Proof.Machine
end

