-- ==== Sys2Proof/Laws/StillSink.lean ====
section
/-! SUPPORT. The operations of Machine/Sink.lean leave alone what `State.still` holds. -/
namespace Sys2Proof.Machine

set_option linter.unusedSimpArgs false
set_option linter.unusedTactic false
set_option linter.unreachableTactic false

@[simp] theorem State.setSink_still (x1 : _) (x2 : _) : (State.setSink x1 x2).still = x1.still := by
  rfl

@[simp] theorem State.toLead_still (x1 : _) (x2 : _) (x3 : _) (x4 : _) (x5 : _) : (State.toLead x1 x2 x3 x4 x5).still = x1.still := by
  rfl

@[simp] theorem State.openRound_still (x1 : _) (x2 : _) : (State.openRound x1 x2).still = x1.still := by
  rfl

@[simp] theorem State.abandonRound_still (x1 : _) (x2 : _) : (State.abandonRound x1 x2).still = x1.still := by
  unfold State.abandonRound
  repeat' (first | apply inRange_still | apply whenThen_still | split)
  all_goals first | trivial | simp [still_mk, still_eta, apply_ite State.still, foldl_still] | rfl

@[simp] theorem State.reopenRound_still (x1 : _) (x2 : _) : (State.reopenRound x1 x2).still = x1.still := by
  simp [State.reopenRound, still_mk, still_eta, apply_ite State.still, foldl_still]

@[simp] theorem State.newGeneration_still (x1 : _) (x2 : _) (x3 : _) : (State.newGeneration x1 x2 x3).still = x1.still := by
  simp [State.newGeneration, still_mk, still_eta, apply_ite State.still, foldl_still]

@[simp] theorem State.judgeRound_still (x1 : _) : (State.judgeRound x1).still = x1.still := by
  unfold State.judgeRound
  simp only []
  repeat' split
  all_goals (try (rename_i h; have h2 := congrArg Prod.snd h; simp only at h2; subst h2))
  all_goals simp [still_mk, still_eta, apply_ite State.still, foldl_still]

@[simp] theorem sinkStartBody_still (x1 : _) (x2 : _) (x3 : _) : WorkKeeps x3.still (sinkStartBody x1 x2 x3) := by
  unfold sinkStartBody
  repeat' (first | (apply workKeeps_bind; intro _ _) | (apply foldl_still; intro t a) | split | dsimp only [State.draw] | dsimp only)
  all_goals simp [still_mk, still_eta, apply_ite State.still, foldl_still]

@[simp] theorem execSinkStart_still (x1 : _) (x2 : _) : OutKeeps x2.still (execSinkStart x1 x2) := by
  unfold execSinkStart; apply jeisk_still; intros; simp

@[simp] theorem State.endSink_still (x1 : _) : (State.endSink x1).still = x1.still := by
  rfl

@[simp] theorem execSinkHelloTimeout_still (x1 : _) (x2 : _) (x3 : _) : OutKeeps x3.still (execSinkHelloTimeout x1 x2 x3) := by
  unfold execSinkHelloTimeout
  repeat' (first | apply inRange_still | apply whenThen_still | split | simp only [foldl_still, outKeeps_next, workKeeps_done])
  all_goals first | trivial | simp [still_mk, still_eta, apply_ite State.still, foldl_still] | rfl

@[simp] theorem execSinkHelloReceive_still (x1 : _) (x2 : _) (x3 : _) : OutKeeps x3.still (execSinkHelloReceive x1 x2 x3) := by
  unfold execSinkHelloReceive
  repeat' (first | apply inRange_still | apply whenThen_still | split)
  all_goals first | trivial | simp [still_mk, still_eta, apply_ite State.still, foldl_still] | rfl

@[simp] theorem execShardListReceive_still (x1 : _) (x2 : _) (x3 : _) (x4 : _) : OutKeeps x4.still (execShardListReceive x1 x2 x3 x4) := by
  unfold execShardListReceive
  repeat' (first | apply inRange_still | apply whenThen_still | split)
  all_goals first | trivial | simp [still_mk, still_eta, apply_ite State.still, foldl_still] | rfl

@[simp] theorem sinkStopBody_still (x1 : _) (x2 : _) (x3 : _) : WorkKeeps x3.still (sinkStopBody x1 x2 x3) := by
  unfold sinkStopBody
  repeat' (first | (apply workKeeps_bind; intro _ _) | (apply foldl_still; intro t a) | split | dsimp only [State.draw] | dsimp only)
  all_goals simp [still_mk, still_eta, apply_ite State.still, foldl_still]

@[simp] theorem sinkStopDone_still (x1 : _) (x2 : _) (x3 : _) : FinKeeps x3.still (sinkStopDone x1 x2 x3) := by
  unfold sinkStopDone
  repeat' (first | apply inRange_still | apply whenThen_still | split)
  all_goals first | trivial | simp [still_mk, still_eta, apply_ite State.still, foldl_still] | rfl

@[simp] theorem execSinkStop_still (x1 : _) (x2 : _) : OutKeeps x2.still (execSinkStop x1 x2) := by
  unfold execSinkStop; apply jeiskWait_still <;> intros <;> simp

@[simp] theorem State.acceptCopy_still (x1 : _) (x2 : _) (x3 : _) : (State.acceptCopy x1 x2 x3).still = x1.still := by
  simp [State.acceptCopy, still_mk, still_eta, apply_ite State.still, foldl_still]

@[simp] theorem State.sinkTake_still (x1 : _) (x2 : _) (x3 : _) (x4 : _) (x5 : _) : (State.sinkTake x1 x2 x3 x4 x5).still = x1.still := by
  unfold State.sinkTake
  extract_lets
  split
  · exact State.setSink_still ..
  · split
    · exact State.acceptCopy_still ..
    · extract_lets
      split
      · exact State.reopenRound_still ..
      · exact State.acceptCopy_still ..

@[simp] theorem execSinkPacketReceive_still (x1 : _) (x2 : _) : OutKeeps x2.still (execSinkPacketReceive x1 x2) := by
  unfold execSinkPacketReceive
  split
  · rfl
  · extract_lets
    apply whenThen_still
    · rfl
    · exact State.sinkTake_still ..

@[simp] theorem execCheckpointRoundOpen_still (x1 : _) (x2 : _) : OutKeeps x2.still (execCheckpointRoundOpen x1 x2) := by
  unfold execCheckpointRoundOpen
  repeat' (first | apply inRange_still | apply whenThen_still | split | simp only [foldl_still, outKeeps_next, workKeeps_done])
  all_goals first | trivial | simp [still_mk, still_eta, apply_ite State.still, foldl_still] | rfl

@[simp] theorem State.sendEntry_still (x1 : _) (x2 : _) (x3 : _) (x4 : _) : (State.sendEntry x1 x2 x3 x4).still = x1.still := by
  unfold State.sendEntry
  repeat' (first | apply inRange_still | apply whenThen_still | split)
  all_goals first | trivial | simp [still_mk, still_eta, apply_ite State.still, foldl_still] | rfl

@[simp] theorem State.lateShard_still (x1 : _) (x2 : _) (x3 : _) : (State.lateShard x1 x2 x3).still = x1.still := by
  simp [State.lateShard, still_mk, still_eta, apply_ite State.still, foldl_still]

@[simp] theorem execCallReceive_still (x1 : _) (x2 : _) (x3 : _) (x4 : _) (x5 : _) : OutKeeps x5.still (execCallReceive x1 x2 x3 x4 x5) := by
  unfold execCallReceive
  repeat' (first | apply inRange_still | apply whenThen_still | split | simp only [foldl_still, outKeeps_next, workKeeps_done])
  all_goals first | trivial | simp [still_mk, still_eta, apply_ite State.still, foldl_still] | rfl

@[simp] theorem execShardHoldExpiry_still (x1 : _) (x2 : _) (x3 : _) : OutKeeps x3.still (execShardHoldExpiry x1 x2 x3) := by
  unfold execShardHoldExpiry
  repeat' (first | apply inRange_still | apply whenThen_still | split | simp only [foldl_still, outKeeps_next, workKeeps_done])
  all_goals first | trivial | simp [still_mk, still_eta, apply_ite State.still, foldl_still] | rfl

@[simp] theorem execShardEntryReceive_still (x1 : _) (x2 : _) (x3 : _) (x4 : _) (x5 : _) : OutKeeps x5.still (execShardEntryReceive x1 x2 x3 x4 x5) := by
  unfold execShardEntryReceive
  repeat' (first | apply inRange_still | apply whenThen_still | split)
  all_goals first | trivial | simp [still_mk, still_eta, apply_ite State.still, foldl_still] | rfl

@[simp] theorem execSinkAbandonReceive_still (x1 : _) (x2 : _) (x3 : _) : OutKeeps x3.still (execSinkAbandonReceive x1 x2 x3) := by
  unfold execSinkAbandonReceive
  repeat' (first | apply inRange_still | apply whenThen_still | split)
  all_goals first | trivial | simp [still_mk, still_eta, apply_ite State.still, foldl_still] | rfl

@[simp] theorem State.shardData_still (x1 : _) (x2 : _) : (State.shardData x1 x2).2.2.still = x1.still := by
  simp [State.shardData, still_mk, still_eta, apply_ite State.still, foldl_still]

@[simp] theorem State.saveManifest_still (s : State) (x2 : _) (x3 : _) (x4 : _) (x5 : _) : FinKeeps s.still (State.saveManifest s x2 x3 x4 x5) := by
  unfold State.saveManifest
  extract_lets saved
  have hs : ∀ t : State, t.still = s.still → FinKeeps s.still (saved t) := by
    intro t ht
    exact (show (t.hostWrite x2 x5.bytes).still = _ from State.hostWrite_still ..).trans ht
  clear_value saved
  split
  · exact hs _ rfl
  · split
    · exact hs _ rfl
    · split
      · rfl
      · exact hs _ (State.hostWrite_still ..)

@[simp] theorem State.saveShard_still (x1 : _) (x2 : _) (x3 : _) (x4 : _) (x5 : _) (x6 : _) : (State.saveShard x1 x2 x3 x4 x5 x6).2.still = x1.still := by
  unfold State.saveShard
  split
  rename_i t0 heq
  have h := State.shardData_still x1 x6
  rw [heq] at h
  dsimp only at h
  extract_lets a b e t2 src
  have h2 : t2.still = x1.still :=
    (State.sendEntry_still ..).trans ((State.hostWrite_still ..).trans ((State.addOp_still ..).trans h))
  split
  · exact (State.addOp_still ..).trans h
  · exact h2

@[simp] theorem State.saveRank_still (x1 : _) (x2 : _) (x3 : _) : (State.saveRank x1 x2 x3).2.still = x1.still := by
  unfold State.saveRank
  repeat' (first | apply inRange_still | apply whenThen_still | split)
  all_goals first | trivial | simp [still_mk, still_eta, apply_ite State.still, foldl_still] | rfl

@[simp] theorem ckptSaveDone_still (x1 : _) (x2 : _) (x3 : _) : FinKeeps x3.still (ckptSaveDone x1 x2 x3) := by
  unfold ckptSaveDone
  extract_lets
  split
  · split
    · generalize (List.filter _ _).getLast? = o
      cases o with
      | none => trivial
      | some m => exact State.saveManifest_still ..
    · split
      · exact State.saveManifest_still ..
      · rfl
  · split
    · trivial
    · split
      · exact State.saveRank_still ..
      · split
        · rfl
        · split
          · rfl
          · split
            · split
              · rfl
              · exact State.saveShard_still ..
            · trivial

@[simp] theorem ckptSaveBody_still (x1 : _) (x2 : _) (x3 : _) : WorkKeeps x3.still (ckptSaveBody x1 x2 x3) := by
  unfold ckptSaveBody
  repeat' (first | (apply workKeeps_bind; intro _ _) | (apply foldl_still; intro t a) | split | dsimp only [State.draw] | dsimp only)
  all_goals simp [still_mk, still_eta, apply_ite State.still, foldl_still]

@[simp] theorem execCkptSave_still (x1 : _) (x2 : _) : OutKeeps x2.still (execCkptSave x1 x2) := by
  unfold execCkptSave; apply jeiskWait_still <;> intros <;> simp

@[simp] theorem ckptRestoreBody_still (x1 : _) (x2 : _) (x3 : _) : WorkKeeps x3.still (ckptRestoreBody x1 x2 x3) := by
  unfold ckptRestoreBody
  repeat' (first | (apply workKeeps_bind; intro _ _) | (apply foldl_still; intro t a) | split | dsimp only [State.draw] | dsimp only)
  all_goals simp [still_mk, still_eta, apply_ite State.still, foldl_still]

@[simp] theorem execCkptRestore_still (x1 : _) (x2 : _) : OutKeeps x2.still (execCkptRestore x1 x2) := by
  unfold execCkptRestore; apply jeiskIf_still; intros; simp

end Sys2Proof.Machine
end

