-- ==== Sys2Proof/Laws/StillTelemetry.lean ====
section
/-! SUPPORT. The operations of Machine/Telemetry.lean leave alone what `State.still` holds. -/
namespace Sys2Proof.Machine

set_option linter.unusedSimpArgs false
set_option linter.unusedTactic false
set_option linter.unreachableTactic false

@[simp] theorem counterCopyBody_still (x1 : _) (x2 : _) (x3 : _) : WorkKeeps x3.still (counterCopyBody x1 x2 x3) := by
  unfold counterCopyBody
  repeat' (first | (apply workKeeps_bind; intro _ _) | (apply foldl_still; intro t a) | split | dsimp only [State.draw] | dsimp only)
  all_goals simp [still_mk, still_eta, apply_ite State.still, foldl_still]

@[simp] theorem execCounterCopy_still (x1 : _) (x2 : _) : OutKeeps x2.still (execCounterCopy x1 x2) := by
  unfold execCounterCopy; apply jeisk_still; intros; simp

@[simp] theorem traceConfigBody_still (x1 : _) (x2 : _) (x3 : _) : WorkKeeps x3.still (traceConfigBody x1 x2 x3) := by
  unfold traceConfigBody
  repeat' (first | (apply workKeeps_bind; intro _ _) | (apply foldl_still; intro t a) | split | dsimp only [State.draw] | dsimp only)
  all_goals simp [still_mk, still_eta, apply_ite State.still, foldl_still]

@[simp] theorem execTraceConfig_still (x1 : _) (x2 : _) : OutKeeps x2.still (execTraceConfig x1 x2) := by
  unfold execTraceConfig; apply jeisk_still; intros; simp

@[simp] theorem traceCopyBody_still (x1 : _) (x2 : _) (x3 : _) : WorkKeeps x3.still (traceCopyBody x1 x2 x3) := by
  unfold traceCopyBody
  repeat' (first | (apply workKeeps_bind; intro _ _) | (apply foldl_still; intro t a) | split | dsimp only [State.draw] | dsimp only)
  all_goals simp [still_mk, still_eta, apply_ite State.still, foldl_still]

@[simp] theorem execTraceCopy_still (x1 : _) (x2 : _) : OutKeeps x2.still (execTraceCopy x1 x2) := by
  unfold execTraceCopy; apply jeisk_still; intros; simp

@[simp] theorem State.chooseMaster_still (x1 : _) : (State.chooseMaster x1).still = x1.still := by
  unfold State.chooseMaster
  repeat' (first | apply inRange_still | apply whenThen_still | split | simp only [foldl_still, outKeeps_next, workKeeps_done])
  all_goals first | trivial | simp [still_mk, still_eta, apply_ite State.still, foldl_still] | rfl

@[simp] theorem execTimeAnnounceTimer_still (x1 : _) (x2 : _) : OutKeeps x2.still (execTimeAnnounceTimer x1 x2) := by
  unfold execTimeAnnounceTimer
  repeat' (first | apply inRange_still | apply whenThen_still | split)
  all_goals first | trivial | simp [still_mk, still_eta, apply_ite State.still, foldl_still] | rfl

@[simp] theorem execAnnounceReceive_still (x1 : _) (x2 : _) (x3 : _) (x4 : _) : OutKeeps x4.still (execAnnounceReceive x1 x2 x3 x4) := by
  unfold execAnnounceReceive
  repeat' (first | apply inRange_still | apply whenThen_still | split)
  all_goals first | trivial | simp [still_mk, still_eta, apply_ite State.still, foldl_still] | rfl

@[simp] theorem execAnnounceExpiry_still (x1 : _) (x2 : _) : OutKeeps x2.still (execAnnounceExpiry x1 x2) := by
  unfold execAnnounceExpiry
  repeat' (first | apply inRange_still | apply whenThen_still | split)
  all_goals first | trivial | simp [still_mk, still_eta, apply_ite State.still, foldl_still] | rfl

@[simp] theorem execSyncExchangeTimer_still (x1 : _) (x2 : _) : OutKeeps x2.still (execSyncExchangeTimer x1 x2) := by
  unfold execSyncExchangeTimer
  repeat' (first | apply inRange_still | apply whenThen_still | split)
  all_goals first | trivial | simp [still_mk, still_eta, apply_ite State.still, foldl_still] | rfl

@[simp] theorem execSyncReceive_still (x1 : _) (x2 : _) (x3 : _) (x4 : _) (x5 : _) : OutKeeps x5.still (execSyncReceive x1 x2 x3 x4 x5) := by
  unfold execSyncReceive
  repeat' (first | apply inRange_still | apply whenThen_still | split)
  all_goals first | trivial | simp [still_mk, still_eta, apply_ite State.still, foldl_still] | rfl

@[simp] theorem execDelayRequestReceive_still (x1 : _) (x2 : _) (x3 : _) (x4 : _) : OutKeeps x4.still (execDelayRequestReceive x1 x2 x3 x4) := by
  unfold execDelayRequestReceive
  repeat' (first | apply inRange_still | apply whenThen_still | split)
  all_goals first | trivial | simp [still_mk, still_eta, apply_ite State.still, foldl_still] | rfl

@[simp] theorem execDelayResponseReceive_still (x1 : _) (x2 : _) (x3 : _) (x4 : _) : OutKeeps x4.still (execDelayResponseReceive x1 x2 x3 x4) := by
  unfold execDelayResponseReceive
  repeat' (first | apply inRange_still | apply whenThen_still | (apply workKeeps_bind; intro _ _) | (apply foldl_still; intro t a) | split | dsimp only [State.draw] | dsimp only)
  all_goals (try (rename_i h; have h2 := congrArg Prod.snd h; simp only at h2; subst h2))
  all_goals first | trivial | simp [still_mk, still_eta, apply_ite State.still, foldl_still] | rfl

@[simp] theorem execHoldoverEntry_still (x1 : _) (x2 : _) : OutKeeps x2.still (execHoldoverEntry x1 x2) := by
  unfold execHoldoverEntry
  repeat' (first | apply inRange_still | apply whenThen_still | split | simp only [foldl_still, outKeeps_next, workKeeps_done])
  all_goals first | trivial | simp [still_mk, still_eta, apply_ite State.still, foldl_still] | rfl

@[simp] theorem execTimePulseEdge_still (x1 : _) (x2 : _) : OutKeeps x2.still (execTimePulseEdge x1 x2) := by
  unfold execTimePulseEdge
  repeat' (first | apply inRange_still | apply whenThen_still | split)
  all_goals first | trivial | simp [still_mk, still_eta, apply_ite State.still, foldl_still] | rfl

@[simp] theorem execPulseMissingTimeout_still (x1 : _) (x2 : _) : OutKeeps x2.still (execPulseMissingTimeout x1 x2) := by
  unfold execPulseMissingTimeout
  repeat' (first | apply inRange_still | apply whenThen_still | split | simp only [foldl_still, outKeeps_next, workKeeps_done])
  all_goals first | trivial | simp [still_mk, still_eta, apply_ite State.still, foldl_still] | rfl

end Sys2Proof.Machine
end

