-- ==== Sys2Proof/Laws/StillPower.lean ====
section
/-! SUPPORT. The operations of Machine/Power.lean leave alone what `State.still` holds. -/
namespace Sys2Proof.Machine

set_option linter.unusedSimpArgs false
set_option linter.unusedTactic false
set_option linter.unreachableTactic false

theorem optKeeps_use {k : Still} {x : Option State} {t : State} (h : OptKeeps k x) (e : x = some t) : t.still = k := by
  rw [e] at h; exact h

@[simp] theorem State.powerDone_still (x1 : _) : (State.powerDone x1).still = x1.still := by
  unfold State.powerDone
  repeat' (first | apply inRange_still | apply whenThen_still | split)
  all_goals first | trivial | simp [still_mk, still_eta, apply_ite State.still, foldl_still] | rfl

@[simp] theorem State.darken_still (x1 : _) : (State.darken x1).still = x1.still := by
  rfl

@[simp] theorem State.abortFor_still (x1 : _) (x2 : _) : (State.abortFor x1 x2).still = x1.still := by
  simp [State.abortFor, still_mk, still_eta, apply_ite State.still, foldl_still]

@[simp] theorem State.detectBB_still (x1 : _) (x2 : _) (x3 : _) (x4 : _) (x5 : _) : (State.detectBB x1 x2 x3 x4 x5).still = x1.still := by
  simp [State.detectBB, still_mk, still_eta, apply_ite State.still, foldl_still]

@[simp] theorem execDramTrainingDone_still (x1 : _) : OutKeeps x1.still (execDramTrainingDone x1) := by
  unfold execDramTrainingDone
  repeat' (first | apply inRange_still | apply whenThen_still | split)
  all_goals first | trivial | simp [still_mk, still_eta, apply_ite State.still, foldl_still] | rfl

@[simp] theorem State.selftestEnd_still (x1 : _) (x2 : _) (x3 : _) : (State.selftestEnd x1 x2 x3).1.still = x1.still := by
  simp [State.selftestEnd, still_mk, still_eta, apply_ite State.still, foldl_still]

@[simp] theorem execStartupSelftestDone_still (x1 : _) (x2 : _) : OutKeeps x2.still (execStartupSelftestDone x1 x2) := by
  unfold execStartupSelftestDone
  repeat' (first | apply inRange_still | apply whenThen_still | split)
  all_goals first | trivial | simp [still_mk, still_eta, apply_ite State.still, foldl_still] | rfl

@[simp] theorem selftestBody_still (x1 : _) (x2 : _) (x3 : _) : WorkKeeps x3.still (selftestBody x1 x2 x3) := by
  unfold selftestBody
  repeat' (first | (apply workKeeps_bind; intro _ _) | (apply foldl_still; intro t a) | split | dsimp only [State.draw] | dsimp only)
  all_goals simp [still_mk, still_eta, apply_ite State.still, foldl_still]

@[simp] theorem selftestFin_still (x1 : _) (x2 : _) (x3 : _) (x4 : _) : FinKeeps x4.still (selftestFin x1 x2 x3 x4) := by
  unfold selftestFin
  repeat' (first | apply inRange_still | apply whenThen_still | split | simp only [foldl_still, outKeeps_next, workKeeps_done])
  all_goals first | trivial | simp [still_mk, still_eta, apply_ite State.still, foldl_still] | rfl

@[simp] theorem execSelftest_still (x1 : _) (x2 : _) (x3 : _) : OutKeeps x3.still (execSelftest x1 x2 x3) := by
  unfold execSelftest; apply jeiskWait_still <;> intros <;> simp

end Sys2Proof.Machine
end

