-- ==== Sys2Proof/Laws/StillMgmt.lean ====
section
/-! SUPPORT. The operations of Machine/Mgmt.lean leave alone what `State.still` holds. -/
namespace Sys2Proof.Machine

set_option linter.unusedSimpArgs false
set_option linter.unusedTactic false
set_option linter.unreachableTactic false

@[simp] theorem State.setKick_still (x1 : _) (x2 : _) (x3 : _) : (State.setKick x1 x2 x3).still = x1.still := by
  rfl

@[simp] theorem execManagementRestartDone_still (x1 : _) : OutKeeps x1.still (execManagementRestartDone x1) := by
  unfold execManagementRestartDone
  repeat' (first | apply inRange_still | apply whenThen_still | split)
  all_goals first | trivial | simp [still_mk, still_eta, apply_ite State.still, foldl_still] | rfl

end Sys2Proof.Machine
end

