-- ==== Sys2Proof/Laws/StillBlackBox.lean ====
section
/-! SUPPORT. The operations of Machine/BlackBox.lean leave alone what `State.still` holds. -/
namespace Sys2Proof.Machine

set_option linter.unusedSimpArgs false
set_option linter.unusedTactic false
set_option linter.unreachableTactic false

@[simp] theorem State.bbNear_still (x1 : _) : (State.bbNear x1).still = x1.still := by
  simp [State.bbNear, still_mk, still_eta, apply_ite State.still, foldl_still]

@[simp] theorem State.bbWrite_still (x1 : _) (x2 : _) (x3 : _) (x4 : _) : (State.bbWrite x1 x2 x3 x4).still = x1.still := by
  simp [State.bbWrite, still_mk, still_eta, apply_ite State.still, foldl_still]

@[simp] theorem execBlackboxRecordWrite_still (x1 : _) : OutKeeps x1.still (execBlackboxRecordWrite x1) := by
  unfold execBlackboxRecordWrite
  repeat' (first | apply inRange_still | apply whenThen_still | split)
  all_goals first | trivial | simp [still_mk, still_eta, apply_ite State.still, foldl_still] | rfl

@[simp] theorem blackboxReadBody_still (x1 : _) (x2 : _) (x3 : _) : WorkKeeps x3.still (blackboxReadBody x1 x2 x3) := by
  unfold blackboxReadBody
  repeat' (first | (apply workKeeps_bind; intro _ _) | (apply foldl_still; intro t a) | split | dsimp only [State.draw] | dsimp only)
  all_goals simp [still_mk, still_eta, apply_ite State.still, foldl_still]

@[simp] theorem execBlackboxRead_still (x1 : _) (x2 : _) : OutKeeps x2.still (execBlackboxRead x1 x2) := by
  unfold execBlackboxRead; apply jeisk_still; intros; simp

@[simp] theorem execDumpTriggerEdge_still (x1 : _) (x2 : _) : OutKeeps x2.still (execDumpTriggerEdge x1 x2) := by
  unfold execDumpTriggerEdge
  repeat' (first | apply inRange_still | apply whenThen_still | split)
  all_goals first | trivial | simp [still_mk, still_eta, apply_ite State.still, foldl_still] | rfl

@[simp] theorem execSidebandBlackboxRead_still (x1 : _) (x2 : _) (x3 : _) : OutKeeps x3.still (execSidebandBlackboxRead x1 x2 x3) := by
  unfold execSidebandBlackboxRead
  repeat' (first | apply inRange_still | apply whenThen_still | split)
  all_goals first | trivial | simp [still_mk, still_eta, apply_ite State.still, foldl_still] | rfl

@[simp] theorem execHoldupCharged_still (x1 : _) : OutKeeps x1.still (execHoldupCharged x1) := by
  rfl

end Sys2Proof.Machine
end

