-- ==== Sys2Proof/Laws/StillBoot.lean ====
section
/-! SUPPORT. The operations of Machine/Boot.lean leave alone what `State.still` holds. -/
namespace Sys2Proof.Machine

set_option linter.unusedSimpArgs false
set_option linter.unusedTactic false
set_option linter.unreachableTactic false

@[simp] theorem State.measure3_still (x1 : _) : (State.measure3 x1).still = x1.still := by
  rfl

@[simp] theorem State.runBank_still (x1 : _) (x2 : _) (x3 : _) : (State.runBank x1 x2 x3).still = x1.still := by
  unfold State.runBank
  grind [State.measure3_still, State.setMeasure_still, still_mk, still_eta]

@[simp] theorem execResetRelease_still (x1 : _) : OutKeeps x1.still (execResetRelease x1) := by
  unfold execResetRelease
  repeat' (first | apply inRange_still | apply whenThen_still | split)
  all_goals first | trivial | simp [still_mk, still_eta, apply_ite State.still, foldl_still] | rfl

@[simp] theorem execBootRomVerify_still (x1 : _) : OutKeeps x1.still (execBootRomVerify x1) := by
  unfold execBootRomVerify
  extract_lets try_ go src s' bad0 src2 bad
  have hg : ∀ t x y, (go t x y).still = t.still := by intro t x y; exact State.runBank_still ..
  have hs : s'.still = x1.still := rfl
  have hb : bad.still = x1.still := congrArg (fun k : Still => { k with fuses := x1.iden.fuses }) ((State.bbPush_still ..).trans hs : bad0.still = _)
  clear_value try_ go s' bad0
  apply whenThen_still
  · rfl
  · split
    · rw [hg, hs]
    · split
      · rw [hg, hb]
      · exact hb

theorem Identity.setBank_fuses (i : Identity) (b : Bool) (l : List Byte) : (i.setBank b l).fuses = i.fuses := by
  cases b <;> rfl
@[simp] theorem fwStageBody_still (x1 : _) (x2 : _) (x3 : _) : WorkKeeps x3.still (fwStageBody x1 x2 x3) := by
  unfold fwStageBody
  extract_lets
  split
  · rw [failDone_still, State.signFail_still]
  · split
    · rw [failDone_still]
    · split
      · rw [failDone_still, State.signFail_still]
      · rw [okDone_still]
        simp only [State.still, Identity.setBank_fuses]

@[simp] theorem execFwStage_still (x1 : _) (x2 : _) : OutKeeps x2.still (execFwStage x1 x2) := by
  unfold execFwStage; apply jeiskIf_still; intros; simp

@[simp] theorem State.tryActivate_still (x1 : _) (x2 : _) : (State.tryActivate x1 x2).still = x1.still := by
  simp [State.tryActivate, still_mk, still_eta, apply_ite State.still, foldl_still]

@[simp] theorem fwActivateBody_still (x1 : _) (x2 : _) (x3 : _) : WorkKeeps x3.still (fwActivateBody x1 x2 x3) := by
  unfold fwActivateBody
  repeat' (first | (apply workKeeps_bind; intro _ _) | (apply foldl_still; intro t a) | split | dsimp only [State.draw] | dsimp only)
  all_goals simp [still_mk, still_eta, apply_ite State.still, foldl_still]

@[simp] theorem execFwActivate_still (x1 : _) (x2 : _) : OutKeeps x2.still (execFwActivate x1 x2) := by
  unfold execFwActivate
  split
  · rfl
  · split
    · split
      · exact State.tryActivate_still ..
      · rfl
    · apply jeiskIf_still; intros; exact fwActivateBody_still ..

@[simp] theorem execFwActivateTimeout_still (x1 : _) (x2 : _) : OutKeeps x2.still (execFwActivateTimeout x1 x2) := by
  unfold execFwActivateTimeout
  repeat' (first | apply inRange_still | apply whenThen_still | split | simp only [foldl_still, outKeeps_next, workKeeps_done])
  all_goals first | trivial | simp [still_mk, still_eta, apply_ite State.still, foldl_still] | rfl

@[simp] theorem State.quote_still (x1 : _) (x2 : _) (x3 : _) : (State.quote x1 x2 x3).2.still = x1.still := by
  rfl

@[simp] theorem attestBody_still (x1 : _) (x2 : _) (x3 : _) : WorkKeeps x3.still (attestBody x1 x2 x3) := by
  unfold attestBody
  repeat' (first | apply inRange_still | apply whenThen_still | (apply workKeeps_bind; intro _ _) | (apply foldl_still; intro t a) | split | dsimp only [State.draw] | dsimp only)
  all_goals (try (rename_i h; have h2 := congrArg Prod.snd h; simp only at h2; subst h2))
  all_goals first | trivial | simp [still_mk, still_eta, apply_ite State.still, foldl_still] | rfl

@[simp] theorem execAttest_still (x1 : _) (x2 : _) : OutKeeps x2.still (execAttest x1 x2) := by
  unfold execAttest; apply jeiskIf_still; intros; simp

@[simp] theorem execSidebandQuote_still (x1 : _) (x2 : _) (x3 : _) : OutKeeps x3.still (execSidebandQuote x1 x2 x3) := by
  unfold execSidebandQuote
  repeat' (first | apply inRange_still | apply whenThen_still | split)
  all_goals first | trivial | simp [still_mk, still_eta, apply_ite State.still, foldl_still] | rfl

@[simp] theorem State.spdm_still (x1 : _) (x2 : _) (x3 : _) : (State.spdm x1 x2 x3).2.still = x1.still := by
  unfold State.spdm
  simp only []
  repeat' split
  all_goals (try (rename_i h; have h2 := congrArg Prod.snd h; simp only at h2; subst h2))
  all_goals simp [still_mk, still_eta, apply_ite State.still, foldl_still]

@[simp] theorem execSpdmRequest_still (x1 : _) (x2 : _) (x3 : _) : OutKeeps x3.still (execSpdmRequest x1 x2 x3) := by
  unfold execSpdmRequest
  have h := State.spdm_still x3 x1 x2
  generalize x3.spdm x1 x2 = r at h ⊢
  obtain ⟨r, t⟩ := r
  dsimp only at h ⊢
  apply whenThen_still
  · rfl
  · rw [State.send_still, h]

@[simp] theorem execSidebandSpdm_still (x1 : _) (x2 : _) (x3 : _) : OutKeeps x3.still (execSidebandSpdm x1 x2 x3) := by
  unfold execSidebandSpdm
  have h := State.spdm_still x3 x1 x2
  generalize x3.spdm x1 x2 = r at h ⊢
  obtain ⟨r, t⟩ := r
  dsimp only at h ⊢
  apply whenThen_still
  · rfl
  · rw [State.send_still, h]

@[simp] theorem execSidebandDebugChallenge_still (x1 : _) : OutKeeps x1.still (execSidebandDebugChallenge x1) := by
  unfold execSidebandDebugChallenge
  repeat' (first | apply inRange_still | apply whenThen_still | split)
  all_goals first | trivial | simp [still_mk, still_eta, apply_ite State.still, foldl_still] | rfl

@[simp] theorem execSidebandDebugUnlock_still (x1 : _) (x2 : _) (x3 : _) (x4 : _) (x5 : _) (x6 : _) : OutKeeps x6.still (execSidebandDebugUnlock x1 x2 x3 x4 x5 x6) := by
  unfold execSidebandDebugUnlock
  repeat' (first | apply inRange_still | apply whenThen_still | split)
  all_goals first | trivial | simp [still_mk, still_eta, apply_ite State.still, foldl_still] | rfl

end Sys2Proof.Machine
end

