-- ==== Sys2Proof/Laws/Inv.lean ====
section
/-! SUPPORT. The invariant of Safety.lean through the operations of the event controller, the clocks and the power domains;
what `State.still` holds decides it. -/
namespace Sys2Proof.Machine

/-! ### Setters and what is read after them -/

@[simp] theorem State.setSrc_evcSrc (s : State) (i : Nat) (x : Source) (j : Nat) :
    (s.setSrc i x).evcSrc j = if i = j then x else s.evcSrc j := by
  unfold State.evcSrc State.setSrc; dsimp only; rw [tget_tset]; split <;> simp_all

@[simp] theorem State.setSrc_evcCore (s : State) (i : Nat) (x : Source) (c : Nat) : (s.setSrc i x).evcCore c = s.evcCore c := rfl

@[simp] theorem State.setEvCore_evcCore (s : State) (c : Nat) (x : EvCore) (d : Nat) :
    (s.setEvCore c x).evcCore d = if c = d then x else s.evcCore d := by
  unfold State.evcCore State.setEvCore; dsimp only; rw [tget_tset]; split <;> simp_all

@[simp] theorem State.setEvCore_evcSrc (s : State) (c : Nat) (x : EvCore) (j : Nat) : (s.setEvCore c x).evcSrc j = s.evcSrc j := rfl

@[simp] theorem State.setClk_clk (s : State) (i : Nat) (x : Clk) (j : Nat) :
    (s.setClk i x).clk j = if i = j then x else s.clk j := by
  unfold State.clk State.setClk; dsimp only; rw [tget_tset]; split <;> simp_all

@[simp] theorem State.setClk_die (s : State) (i : Nat) (x : Clk) (d : Nat) : (s.setClk i x).die d = s.die d := rfl

@[simp] theorem State.setDie_die (s : State) (d : Nat) (x : Die) (e : Nat) :
    (s.setDie d x).die e = if d = e then x else s.die e := by
  unfold State.die State.setDie tgetD; dsimp only; rw [tget_tset]; split <;> simp_all

@[simp] theorem State.setDie_clk (s : State) (d : Nat) (x : Die) (i : Nat) : (s.setDie d x).clk i = s.clk i := rfl

/-! ### The parts of the invariant hang on parts of the state -/

theorem State.EvcOk.of_eq {s t : State} (h : s.EvcOk) (e : t.evc = s.evc) : t.EvcOk := by
  have h1 : ∀ i, t.evcSrc i = s.evcSrc i := fun i => by unfold State.evcSrc; rw [e]
  have h2 : ∀ c, t.evcCore c = s.evcCore c := fun c => by unfold State.evcCore; rw [e]
  exact ⟨by simpa only [h1] using h.prio, by simpa only [h2] using h.core, by simpa only [h1, h2] using h.held,
    by simpa only [h2] using h.once, by simpa only [h2] using h.alone⟩

theorem State.PowerOk.of_eq {s t : State} (h : s.PowerOk) (e1 : t.pwr.on = s.pwr.on) (e2 : t.pwr.stage = s.pwr.stage)
    (e3 : t.pwr.sequence = s.pwr.sequence) (e4 : t.pwr.clks = s.pwr.clks) (e5 : t.pwr.dies = s.pwr.dies) : t.PowerOk := by
  constructor
  · unfold State.domOn; rw [e1]; exact h.always
  · rw [e2]; exact h.stage
  · rw [e3]; exact h.sequence
  · intro i; unfold State.clk; rw [e4]; exact h.clks i
  · intro d; unfold State.die; rw [e5]; exact h.dies d

theorem State.Inv.of_still {s t : State} (h : s.Inv) (e : t.still = s.still) : t.Inv := by
  simp only [State.still, Still.mk.injEq] at e
  obtain ⟨-, e1, e2, e3, e4, e5, e6, e7, e8⟩ := e
  exact ⟨h.evc.of_eq e1, h.power.of_eq e2 e5 e6 e3 e4, by rw [e7]; exact h.fuses, by rw [e8]; exact h.ball⟩

/-! ### The event controller -/

theorem State.EvcOk.setSrc {s : State} (h : s.EvcOk) (i : Nat) (x : Source) (hp : x.prio ≤ 15)
    (ha : (s.evcSrc i).active = true → x.active = true) : (s.setSrc i x).EvcOk := by
  constructor
  · intro j; rw [setSrc_evcSrc]; split
    · exact hp
    · exact h.prio j
  · exact h.core
  · intro c e he
    rw [setSrc_evcSrc]
    have := h.held c e he
    split
    · rename_i q; subst q; exact ha this
    · exact this
  · exact h.once
  · exact h.alone

/-- The event controller is all that changes. -/
theorem State.Inv.evcOnly {s t : State} (h : s.Inv) (he : t.EvcOk) (hp : t.pwr = s.pwr) (hf : t.iden.fuses = s.iden.fuses)
    (hb : t.pins.ball = s.pins.ball) : t.Inv :=
  ⟨he, h.power.of_eq (by rw [hp]) (by rw [hp]) (by rw [hp]) (by rw [hp]) (by rw [hp]), by rw [hf]; exact h.fuses,
    by rw [hb]; exact h.ball⟩

theorem State.Inv.setSrc {s : State} (h : s.Inv) (i : Nat) (x : Source) (hp : x.prio ≤ 15)
    (ha : (s.evcSrc i).active = true → x.active = true) : (s.setSrc i x).Inv :=
  h.evcOnly (h.evc.setSrc i x hp ha) rfl rfl rfl

/-- A core's registers with the same run stack and a threshold of four bits. -/
theorem State.Inv.setThresh {s : State} (h : s.Inv) (c : Nat) (x : EvCore) (hs : x.stack = (s.evcCore c).stack)
    (ht : x.thresh ≤ 15) : (s.setEvCore c x).Inv := by
  refine h.evcOnly ⟨h.evc.prio, ?_, ?_, ?_, ?_⟩ rfl rfl rfl
  · intro d; rw [setEvCore_evcCore]; split
    · rename_i q; subst q; have := h.evc.core c; exact ⟨ht, by rw [hs]; exact this.2.1, by rw [hs]; exact this.2.2⟩
    · exact h.evc.core d
  · intro d e he; rw [setEvCore_evcCore] at he
    rw [setEvCore_evcSrc]
    split at he
    · rename_i q; subst q; rw [hs] at he; exact h.evc.held c e he
    · exact h.evc.held d e he
  · intro d; rw [setEvCore_evcCore]; split
    · rename_i q; subst q; rw [hs]; exact h.evc.once c
    · exact h.evc.once d
  · intro d d' hd e he f hf
    rw [setEvCore_evcCore] at he hf
    have he' : e ∈ (s.evcCore d).stack := by
      split at he
      · rename_i q; subst q; rwa [hs] at he
      · exact he
    have hf' : f ∈ (s.evcCore d').stack := by
      split at hf
      · rename_i q; subst q; rwa [hs] at hf
      · exact hf
    exact h.evc.alone d d' hd e he' f hf'

/-- The run stacks shrink and a source that leaves them may become inactive: every stack is part of what it was, and a
source on a stack is as active as it was. -/
theorem State.EvcOk.shrink {s t : State} (h : s.EvcOk) (hp : ∀ i, (t.evcSrc i).prio ≤ 15)
    (ht : ∀ c, (t.evcCore c).thresh ≤ 15) (hs : ∀ c, (t.evcCore c).stack.Sublist (s.evcCore c).stack)
    (ha : ∀ c, ∀ e ∈ (t.evcCore c).stack, (s.evcSrc e.1).active = true → (t.evcSrc e.1).active = true) : t.EvcOk := by
  constructor
  · exact hp
  · intro c
    have := h.core c
    exact ⟨ht c, this.2.1.sublist (hs c), fun e he => this.2.2 e ((hs c).subset he)⟩
  · intro c e he
    exact ha c e he (h.held c e ((hs c).subset he))
  · intro c; exact (h.once c).sublist ((hs c).map _)
  · intro c d hd e he f hf
    exact h.alone c d hd e ((hs c).subset he) f ((hs d).subset hf)

theorem Source.follow_prio (x : Source) (i : Nat) : (x.follow i).prio = x.prio := by unfold Source.follow; split <;> rfl
theorem Source.follow_active (x : Source) (i : Nat) : (x.follow i).active = x.active := by unfold Source.follow; split <;> rfl

theorem EvCore.run_stack (k : EvCore) (h : k.ok) : ∀ e ∈ k.stack, e.2 ≤ k.run := by
  obtain ⟨-, hp, -⟩ := h
  unfold EvCore.run
  cases hk : k.stack with
  | nil => simp
  | cons a r =>
    rw [hk] at hp
    intro e he
    rcases List.mem_cons.1 he with rfl | he
    · exact Nat.le_refl _
    · exact Nat.le_of_lt ((List.pairwise_cons.1 hp).1 e he)

theorem State.bestSrc_eligible {s : State} {c i : Nat} (h : s.bestSrc c = some i) : s.eligible c i = true := by
  have key : ∀ (l : List Nat) (r : Option Nat), (∀ j ∈ l, s.eligible c j = true) → (∀ j, r = some j → s.eligible c j = true) →
      ∀ j, l.foldl (fun r i => match r with
        | none => some i
        | some b => some (s.betterSrc b i)) r = some j → s.eligible c j = true := by
    intro l
    induction l with
    | nil => intro r _ hr j hj; exact hr j hj
    | cons a l ih =>
      intro r hl hr
      simp only [List.foldl_cons]
      apply ih
      · intro j hj; exact hl j (List.mem_cons_of_mem _ hj)
      · intro j hj
        have ha := hl a List.mem_cons_self
        cases r with
        | none => simp at hj; subst hj; exact ha
        | some b =>
          simp only [Option.some.injEq] at hj
          subst hj
          unfold State.betterSrc
          split
          · exact ha
          · exact hr b rfl
  exact key _ none (by intro j hj; exact (List.mem_filter.1 hj).2) (by simp) i h

theorem State.claim_inv {s : State} (h : s.Inv) (c : Nat) : (s.claim c).Inv := by
  unfold State.claim
  split
  · exact h.evcOnly ⟨h.evc.prio, h.evc.core, h.evc.held, h.evc.once, h.evc.alone⟩ rfl rfl rfl
  · rename_i i hi
    have he : s.eligible c i = true := by
      split at hi
      · exact State.bestSrc_eligible hi
      · cases hi
    simp only [State.eligible, Bool.and_eq_true, decide_eq_true_eq, Bool.not_eq_true'] at he
    obtain ⟨⟨⟨⟨-, hact⟩, -⟩, -⟩, hrun⟩ := he
    have hfree : ∀ d, ∀ e ∈ (s.evcCore d).stack, e.1 ≠ i := by
      intro d e hd q; have := h.evc.held d e hd; rw [q, hact] at this; cases this
    suffices ((s.setSrc i { s.evcSrc i with active := true, pend := false }).setEvCore c
        { s.evcCore c with stack := (i, (s.evcSrc i).prio) :: (s.evcCore c).stack }).EvcOk from
      h.evcOnly ⟨this.prio, this.core, this.held, this.once, this.alone⟩ rfl rfl rfl
    generalize ht : (s.setSrc i { s.evcSrc i with active := true, pend := false }).setEvCore c
      { s.evcCore c with stack := (i, (s.evcSrc i).prio) :: (s.evcCore c).stack } = t
    have hc : ∀ d, (t.evcCore d) = if c = d then { s.evcCore c with stack := (i, (s.evcSrc i).prio) :: (s.evcCore c).stack }
        else s.evcCore d := by intro d; rw [← ht, setEvCore_evcCore, setSrc_evcCore]
    have hx : ∀ j, t.evcSrc j = if i = j then { s.evcSrc i with active := true, pend := false } else s.evcSrc j := by
      intro j; rw [← ht, setEvCore_evcSrc, setSrc_evcSrc]
    constructor
    · intro j; rw [hx]; split
      · exact h.evc.prio i
      · exact h.evc.prio j
    · intro d; rw [hc]; split
      · have hk := h.evc.core c
        refine ⟨hk.1, List.pairwise_cons.2 ⟨?_, hk.2.1⟩, ?_⟩
        · intro e he; exact Nat.lt_of_le_of_lt (EvCore.run_stack _ hk e he) hrun
        · intro e he
          rcases List.mem_cons.1 he with rfl | he
          · exact ⟨by simp only; omega, h.evc.prio i⟩
          · exact hk.2.2 e he
      · exact h.evc.core d
    · intro d e he; rw [hc] at he; rw [hx]
      split at he
      · rcases List.mem_cons.1 he with rfl | he
        · simp
        · split
          · rfl
          · exact h.evc.held c e he
      · split
        · rfl
        · exact h.evc.held d e he
    · intro d; rw [hc]; split
      · simp only [List.map_cons, List.nodup_cons, List.mem_map, not_exists, not_and]
        exact ⟨fun e he q => hfree c e he q, h.evc.once c⟩
      · exact h.evc.once d
    · intro d d' hd e he f hf
      rw [hc] at he hf
      split at he <;> split at hf
      · rename_i a b; subst a; exact absurd b hd
      · rename_i a b; subst a
        rcases List.mem_cons.1 he with rfl | he
        · exact fun q => hfree d' f hf q.symm
        · exact h.evc.alone c d' b e he f hf
      · rename_i a b; subst b
        rcases List.mem_cons.1 hf with rfl | hf
        · exact fun q => hfree d e he q
        · exact h.evc.alone d c (Ne.symm a) e he f hf
      · exact h.evc.alone d d' hd e he f hf

theorem foldl_inv {α : Type} (f : State → α → State) (h : ∀ t a, t.Inv → (f t a).Inv) (l : List α) (s : State) (hs : s.Inv) :
    (l.foldl f s).Inv := by
  induction l generalizing s with
  | nil => exact hs
  | cons a l ih => exact ih _ (h s a hs)

end Sys2Proof.Machine
end

