-- ==== Sys2Proof/Laws/InvSteps.lean ====
section
/-! SUPPORT. The invariant of Safety.lean through the commands that change what `State.still` holds. -/
namespace Sys2Proof.Machine

/-- The invariant in what a meaning answers. -/
def OutInv : Out' → Prop
  | .next t => t.Inv
  | _ => True

def WorkInv : Except Cause Work → Prop
  | .ok (.done _ t) => t.Inv
  | .ok (.busy t) => t.Inv
  | .error _ => True

theorem OutInv.of_keeps {s : State} (h : s.Inv) {o : Out'} (k : OutKeeps s.still o) : OutInv o := by
  cases o with
  | next t => exact h.of_still k
  | fault f => trivial
  | refused r => trivial

theorem whenThen_inv {c : Bool} {s t : State} (hs : s.Inv) (ht : c = true → t.Inv) : OutInv (whenThen c s t) := by
  unfold whenThen; split
  · rename_i h; exact ht h
  · exact hs

theorem inRange_inv {c : Bool} {x : Nat} {o : Out'} (h : c = true → OutInv o) : OutInv (inRange c x o) := by
  unfold inRange; split
  · rename_i hc; exact h hc
  · trivial

theorem workInv_bind {α : Type} {x : Except Cause α} {f : α → Except Cause Work} (h : ∀ a, x = .ok a → WorkInv (f a)) :
    WorkInv (x >>= f) := by
  cases x with
  | error e => trivial
  | ok a => exact h a rfl

theorem State.Inv.advance {s : State} (h : s.Inv) (t : Nat) : (s.advance t).Inv := h.of_still (State.advance_still ..)

theorem jeisk_inv (op : Nat) (body : Body) (id : Nat) (s : State) (hs : s.Inv)
    (h : ∀ i c t, t.Inv → WorkInv (body i c t)) : OutInv (jeisk op body id s) := by
  unfold jeisk
  split
  · exact hs
  · rename_i c _
    split
    · dsimp only
      have hf : ∀ st, ((s.bump slotCheckFail 1).failCmd id st).Inv := fun st =>
        hs.of_still ((State.failCmd_still ..).trans (State.bump_still ..))
      split
      · exact hf _
      · have hb := h id c (s.startCmd id) (hs.of_still (State.startCmd_still ..))
        split <;> rename_i hw <;> rw [hw] at hb
        · exact hf _
        · exact State.Inv.of_still hb (State.finish_still ..)
        · exact hb
    · exact hs

theorem jeiskIf_inv (gate : Nat → CmdRec → State → Bool) (op : Nat) (body : Body) (id : Nat) (s : State) (hs : s.Inv)
    (h : ∀ i c t, t.Inv → WorkInv (body i c t)) : OutInv (jeiskIf gate op body id s) := by
  unfold jeiskIf
  split
  · exact hs
  · split
    · exact jeisk_inv _ _ _ _ hs h
    · exact hs

/-! ### Setters of clocks, dies, stages -/

theorem State.Inv.setClk {s : State} (h : s.Inv) (i : Nat) (x : Clk) (hx : x.j ≤ 16) : (s.setClk i x).Inv := by
  refine ⟨h.evc.of_eq rfl, ⟨h.power.always, h.power.stage, h.power.sequence, ?_, h.power.dies⟩, h.fuses, h.ball⟩
  intro k; rw [setClk_clk]; split
  · exact hx
  · exact h.power.clks k

theorem State.Inv.setDie {s : State} (h : s.Inv) (d : Nat) (x : Die) (hx : x.ok) : (s.setDie d x).Inv := by
  refine ⟨h.evc.of_eq rfl, ⟨h.power.always, h.power.stage, h.power.sequence, h.power.clks, ?_⟩, h.fuses, h.ball⟩
  intro k; rw [setDie_die]; split
  · exact hx
  · exact h.power.dies k

theorem State.Inv.setStage {s : State} (h : s.Inv) (d : Nat) (x : Bool × Nat × Nat) (hd : d ≠ 0) : (s.setStage d x).Inv := by
  refine ⟨h.evc.of_eq rfl, ⟨h.power.always, ?_, h.power.sequence, h.power.clks, h.power.dies⟩, h.fuses, h.ball⟩
  unfold State.setStage; dsimp only; rw [tget_tset_ne _ _ hd]; exact h.power.stage

theorem State.Inv.endStage {s : State} (h : s.Inv) (d : Nat) : (s.endStage d).Inv := by
  refine ⟨h.evc.of_eq rfl, ⟨h.power.always, ?_, h.power.sequence, h.power.clks, h.power.dies⟩, h.fuses, h.ball⟩
  unfold State.endStage; dsimp only; rw [tget_tdel]; split
  · rfl
  · exact h.power.stage

theorem Die.ok_of {x y : Die} (h : x.ok) (h1 : y.ceiling = x.ceiling) (h2 : y.throttle = x.throttle)
    (h3 : y.clampLevel = x.clampLevel) : y.ok := by
  unfold Die.ok; rw [h1, h2, h3]; exact h

theorem Die.target_le {x : Die} (h : x.ok) : x.target ≤ 15 := by
  unfold Die.target; unfold Die.ok at h; split
  · omega
  · omega

theorem State.Inv.clkTarget_le {s : State} (h : s.Inv) (i : Nat) : s.clkTarget i ≤ 16 := by
  unfold State.clkTarget
  split
  · omega
  · split
    · have := Die.target_le (h.power.dies (i - 1)); omega
    · omega

/-- `on` changes but keeps PD00. -/
theorem State.Inv.setOn {s t : State} (h : s.Inv) (e : t.still = { s.still with on := t.still.on }) (ho : t.domOn 0 = true) :
    t.Inv := by
  simp only [State.still, Still.mk.injEq] at e
  obtain ⟨-, e1, -, e3, e4, e5, e6, e7, e8⟩ := e
  refine ⟨h.evc.of_eq e1, ⟨ho, by rw [e5]; exact h.power.stage, by rw [e6]; exact h.power.sequence, ?_, ?_⟩,
    by rw [e7]; exact h.fuses, by rw [e8]; exact h.ball⟩
  · intro i; unfold State.clk; rw [e3]; exact h.power.clks i
  · intro d; unfold State.die; rw [e4]; exact h.power.dies d

theorem domOn_setBits (v : BitVec 20) (d x : Nat) (hd : d ≠ 0) :
    (setBits v d d x).toNat.testBit 0 = v.toNat.testBit 0 := by
  have hx : ∀ y : Nat, (y <<< d).testBit 0 = false := by
    intro y; rw [Nat.testBit_shiftLeft]; simp; omega
  rw [BitVec.testBit_toNat, BitVec.testBit_toNat]
  unfold setBits
  simp only [BitVec.getLsbD_or, BitVec.getLsbD_and, BitVec.getLsbD_not, BitVec.getLsbD_ofNat, hx]
  simp

/-! ### Event controller (ch. 13) -/

theorem execEventSourceEdge_inv (i : Nat) (s : State) (h : s.Inv) : OutInv (execEventSourceEdge i s) := by
  unfold execEventSourceEdge
  extract_lets x
  apply whenThen_inv h
  intro _
  have hp := h.evc.prio i
  split
  · exact h.setSrc _ _ hp id
  · split
    · exact h.setSrc _ _ hp id
    · split
      · exact h.setSrc _ _ hp id
      · exact h

theorem execEventSourceLevel_inv (i : Nat) (l : Bool) (s : State) (h : s.Inv) : OutInv (execEventSourceLevel i l s) := by
  unfold execEventSourceLevel
  extract_lets x x'
  apply whenThen_inv h
  intro _
  have hp := h.evc.prio i
  split
  · apply h.setSrc
    · split <;> exact hp
    · intro ha; split
      · exact ha
      · exact ha
  · split
    · exact h.setSrc _ _ hp id
    · exact h.setSrc _ _ hp id

theorem execEvcClaim_inv (l : List Nat) (s : State) (h : s.Inv) : OutInv (execEvcClaim l s) :=
  foldl_inv _ (fun _ c ht => State.claim_inv ht c) _ _ h

/-- A source leaves the top of a run stack. -/
theorem State.Inv.complete {s : State} (h : s.Inv) (c i : Nat) (p : Nat) (rest : List (Nat × Nat)) (x : Source)
    (hs : (s.evcCore c).stack = (i, p) :: rest) (hp : x.prio ≤ 15) :
    ((s.setEvCore c { s.evcCore c with stack := rest }).setSrc i x).Inv := by
  have hn := h.evc.once c
  rw [hs, List.map_cons, List.nodup_cons] at hn
  refine h.evcOnly (h.evc.shrink ?_ ?_ ?_ ?_) rfl rfl rfl
  · intro j; rw [setSrc_evcSrc]; split
    · exact hp
    · exact h.evc.prio j
  · intro d; rw [setSrc_evcCore, setEvCore_evcCore]; split
    · exact (h.evc.core c).1
    · exact (h.evc.core d).1
  · intro d; rw [setSrc_evcCore, setEvCore_evcCore]; split
    · rename_i q; subst q; rw [hs]; exact List.sublist_cons_self _ _
    · exact List.Sublist.refl _
  · intro d e he ha
    rw [setSrc_evcCore, setEvCore_evcCore] at he
    rw [setSrc_evcSrc]
    split
    · rename_i q
      split at he
      · exact absurd (List.mem_map.2 ⟨e, he, q.symm⟩) hn.1
      · rename_i hd
        exact absurd q (h.evc.alone c d hd (i, p) (by rw [hs]; exact List.mem_cons_self) e he)
    · exact ha

theorem execEvcComplete_inv (c i : Nat) (s : State) (h : s.Inv) : OutInv (execEvcComplete c i s) := by
  unfold execEvcComplete
  extract_lets k
  split
  · rename_i i' p rest hs
    split
    · rename_i q; subst q
      apply h.complete c i' p rest _ hs
      rw [Source.follow_prio]; exact h.evc.prio i'
    · exact h.setThresh c _ rfl (h.evc.core c).1
  · exact h.setThresh c _ rfl (h.evc.core c).1

theorem Source.clear_prio (x : Source) (i : Nat) (c w : Bool) : (x.clear i c w).prio = x.prio := by
  unfold Source.clear; extract_lets y
  have : y.prio = x.prio := by unfold y; split; exact Source.follow_prio ..; rfl
  split <;> exact this

theorem Source.clear_active (x : Source) (i : Nat) (c w : Bool) : (x.clear i c w).active = x.active := by
  unfold Source.clear; extract_lets y
  have : y.active = x.active := by unfold y; split; exact Source.follow_active ..; rfl
  split <;> exact this

theorem execEvcPendClear_inv (k : Nat) (m w : BitVec 32) (s : State) (h : s.Inv) : OutInv (execEvcPendClear k m w s) := by
  refine foldl_inv _ (fun t b ht => ?_) _ _ h
  split
  · apply ht.setSrc
    · rw [Source.clear_prio]; exact ht.evc.prio _
    · intro ha; rw [Source.clear_active]; exact ha
  · exact ht

theorem execEvcPendSet_inv (k : Nat) (m : BitVec 32) (s : State) (h : s.Inv) : OutInv (execEvcPendSet k m s) := by
  refine foldl_inv _ (fun t b ht => ?_) _ _ h
  split
  · exact ht.setSrc _ _ (ht.evc.prio _) id
  · exact ht

theorem execEvcConfigWrite_inv (o : Nat) (v : BitVec 32) (s : State) (h : s.Inv) : OutInv (execEvcConfigWrite o v s) := by
  unfold execEvcConfigWrite
  split
  · exact h.setSrc _ _ (by dsimp only; omega) id
  · split
    · exact h.evcOnly ⟨h.evc.prio, h.evc.core, h.evc.held, h.evc.once, h.evc.alone⟩ rfl rfl rfl
    · split
      · extract_lets c
        split
        · exact h.setThresh _ _ rfl (by dsimp only; omega)
        · split
          · exact h.setThresh _ _ rfl (h.evc.core c).1
          · exact h
      · exact h

/-- Sources of a run stack released: their state otherwise stands. -/
theorem foldRelease (s : State) (l : List (Nat × Nat)) :
    let t := l.foldl (fun t e => t.setSrc e.1 (Source.follow { t.evcSrc e.1 with active := false } e.1)) s
    (∀ c, t.evcCore c = s.evcCore c) ∧ (∀ j, (t.evcSrc j).prio = (s.evcSrc j).prio) ∧
    (∀ j, (∀ e ∈ l, e.1 ≠ j) → t.evcSrc j = s.evcSrc j) ∧ t.still = { s.still with evc := t.evc } ∧ t.evc.cores = s.evc.cores := by
  induction l generalizing s with
  | nil => exact ⟨fun _ => rfl, fun _ => rfl, fun _ _ => rfl, rfl, rfl⟩
  | cons e l ih =>
    obtain ⟨h1, h2, h3, h4, h5⟩ := ih (s.setSrc e.1 (Source.follow { s.evcSrc e.1 with active := false } e.1))
    simp only [List.foldl_cons]
    refine ⟨h1, ?_, ?_, h4, h5⟩
    · intro j; rw [h2, State.setSrc_evcSrc]; split
      · rename_i q; subst q; rw [Source.follow_prio]
      · rfl
    · intro j hj
      rw [h3 j (fun f hf => hj f (List.mem_cons_of_mem _ hf)), State.setSrc_evcSrc, if_neg (hj e List.mem_cons_self)]

theorem State.evcRestart_inv {s : State} (h : s.Inv) (c : Nat) : (s.evcRestart c).Inv := by
  unfold State.evcRestart
  extract_lets k t
  obtain ⟨h1, h2, h3, h4, h5⟩ := foldRelease s k.stack
  have hst : t.still = { s.still with evc := t.evc } := h4
  simp only [State.still, Still.mk.injEq] at hst
  obtain ⟨-, -, e2, e3, e4, e5, e6, e7, e8⟩ := hst
  have g1 : ∀ d, t.evcCore d = s.evcCore d := h1
  have g2 : ∀ j, (t.evcSrc j).prio = (s.evcSrc j).prio := h2
  have g3 : ∀ j, (∀ e ∈ k.stack, e.1 ≠ j) → t.evcSrc j = s.evcSrc j := h3
  clear_value t
  refine ⟨h.evc.shrink ?_ ?_ ?_ ?_, h.power.of_eq e2 e5 e6 e3 e4, ?_, ?_⟩
  · intro j; rw [setEvCore_evcSrc, g2]; exact h.evc.prio j
  · intro d; rw [setEvCore_evcCore]; split
    · exact Nat.le_refl _
    · rw [g1]; exact (h.evc.core d).1
  · intro d; rw [setEvCore_evcCore]; split
    · exact List.nil_sublist _
    · rw [g1]
  · intro d e he ha
    rw [setEvCore_evcCore] at he
    rw [setEvCore_evcSrc]
    split at he
    · cases he
    · rename_i hd
      rw [g1] at he
      rw [g3]
      · exact ha
      · intro f hf; exact h.evc.alone c d hd f hf e he
  · show t.iden.fuses ≤ 64; rw [e7]; exact h.fuses
  · show t.pins.ball ≤ 2; rw [e8]; exact h.ball

theorem execS1Entry_inv (s : State) (h : s.Inv) : OutInv (execS1Entry s) := by
  unfold execS1Entry
  apply whenThen_inv h
  intro _
  exact (h.setClk 0 _ (Nat.zero_le _)).of_still rfl

theorem evcSrc_map (s : State) (f : Nat → Source → Source) (i : Nat) :
    ({ s with evc := { s.evc with sources := tmap s.evc.sources f } } : State).evcSrc i
      = ((tget s.evc.sources i).map (f i)).getD (Source.atReset i) := by
  unfold State.evcSrc; dsimp only; rw [tget_tmap]

theorem execS2Entry_inv (s : State) (h : s.Inv) : OutInv (execS2Entry s) := by
  unfold execS2Entry
  extract_lets a b t
  apply whenThen_inv h
  intro _
  have ht : t.Inv := (h.setClk 0 _ (Nat.zero_le _)).setClk 10 _ (Nat.zero_le _)
  have hs : ∀ i, t.retained i = s.retained i := fun i => rfl
  have hsrc : ∀ i, t.evcSrc i = s.evcSrc i := fun i => rfl
  have hcore : ∀ i, t.evcCore i = s.evcCore i := fun i => rfl
  have hev : t.evc = s.evc := rfl
  have ha : (t.pwr.on &&& ~~~(2 : BitVec 20)).toNat.testBit 0 = true := by
    have := ht.power.always
    unfold State.domOn at this
    rw [BitVec.testBit_toNat] at this ⊢
    rw [BitVec.getLsbD_and, this]; rfl
  clear_value t
  refine ⟨?_, ⟨ha, ht.power.stage, ht.power.sequence, ht.power.clks, ht.power.dies⟩, ht.fuses, ht.ball⟩
  have hcores : ∀ c, (tget (tmap t.evc.cores (fun _ k => ({ k with stack := k.stack.filter (fun e => s.retained e.1) } : EvCore))) c).getD
      EvCore.atReset = { s.evcCore c with stack := (s.evcCore c).stack.filter (fun e => s.retained e.1) } := by
    intro c; rw [tget_tmap, hev]; unfold State.evcCore
    cases tget s.evc.cores c <;> rfl
  have hsrcs : ∀ i, (tget (tmap t.evc.sources s.srcIntoS2) i).getD (Source.atReset i)
      = (if (tget s.evc.sources i).isSome then s.srcIntoS2 i (s.evcSrc i) else Source.atReset i) := by
    intro i; rw [tget_tmap, hev]; unfold State.evcSrc
    cases tget s.evc.sources i <;> rfl
  refine h.evc.shrink ?_ ?_ ?_ ?_
  · intro i
    show ((tget (tmap t.evc.sources s.srcIntoS2) i).getD (Source.atReset i)).prio ≤ 15
    rw [hsrcs]; split
    · unfold State.srcIntoS2; split <;> exact h.evc.prio i
    · exact Nat.zero_le _
  · intro c
    show EvCore.thresh ((tget (tmap t.evc.cores _) c).getD EvCore.atReset) ≤ 15
    rw [hcores]; exact (h.evc.core c).1
  · intro c
    show (EvCore.stack ((tget (tmap t.evc.cores _) c).getD EvCore.atReset)).Sublist _
    rw [hcores]; exact List.filter_sublist
  · intro c e he hact
    have he : e ∈ EvCore.stack ((tget (tmap t.evc.cores _) c).getD EvCore.atReset) := he
    rw [hcores] at he
    have hr := (List.mem_filter.1 he).2
    show ((tget (tmap t.evc.sources s.srcIntoS2) e.1).getD (Source.atReset e.1)).active = true
    rw [hsrcs]; split
    · unfold State.srcIntoS2; rw [if_pos hr]; exact hact
    · rename_i hn
      unfold State.evcSrc at hact
      cases hq : tget s.evc.sources e.1 with
      | none => rw [hq] at hact; cases hact
      | some y => rw [hq] at hn; exact absurd rfl hn

theorem Source.wakeUp_prio (i : Nat) (x : Source) : (Source.wakeUp i x).prio = x.prio := by
  unfold Source.wakeUp; extract_lets y; rw [Source.follow_prio]; unfold y; split <;> rfl
theorem Source.wakeUp_active (i : Nat) (x : Source) : (Source.wakeUp i x).active = x.active := by
  unfold Source.wakeUp; extract_lets y; rw [Source.follow_active]; unfold y; split <;> rfl

theorem State.Inv.wakeAll {s : State} (h : s.Inv) :
    ({ s with mgmt := { s.mgmt with sleep := 0 }, evc := { s.evc with sources := tmap s.evc.sources Source.wakeUp } } : State).Inv := by
  have hsrcs : ∀ i, (tget (tmap s.evc.sources Source.wakeUp) i).getD (Source.atReset i)
      = (if (tget s.evc.sources i).isSome then Source.wakeUp i (s.evcSrc i) else Source.atReset i) := by
    intro i; rw [tget_tmap]; unfold State.evcSrc
    cases tget s.evc.sources i <;> rfl
  refine h.evcOnly (h.evc.shrink ?_ (fun c => (h.evc.core c).1) (fun _ => List.Sublist.refl _) ?_) rfl rfl rfl
  · intro i
    show ((tget (tmap s.evc.sources Source.wakeUp) i).getD (Source.atReset i)).prio ≤ 15
    rw [hsrcs]; split
    · rw [Source.wakeUp_prio]; exact h.evc.prio i
    · exact Nat.zero_le _
  · intro c e _ hact
    show ((tget (tmap s.evc.sources Source.wakeUp) e.1).getD (Source.atReset e.1)).active = true
    rw [hsrcs]; split
    · rw [Source.wakeUp_active]; exact hact
    · rename_i hn
      unfold State.evcSrc at hact
      cases hq : tget s.evc.sources e.1 with
      | none => rw [hq] at hact; cases hact
      | some y => rw [hq] at hn; exact absurd rfl hn

theorem execWakeEdge_inv (i : Nat) (s : State) (h : s.Inv) : OutInv (execWakeEdge i s) := by
  unfold execWakeEdge
  extract_lets x s1 src src2 t src3 t2 src4 t3 src5 src6 src7
  have h1 : s1.Inv := h.setSrc _ _ (h.evc.prio i) id
  have ht : t.Inv := h1.wakeAll
  have h2 : t2.Inv := ht.setClk 0 _ (Nat.le_refl _)
  have h3 : t3.Inv := h2.setClk 10 _ (Nat.le_refl _)
  clear_value t t2 t3
  apply whenThen_inv h
  intro _
  split
  · exact h2.of_still (State.readAll_still ..)
  · refine State.Inv.of_still ?_ (State.readAll_still _)
    refine h3.setOn rfl ?_
    have := h3.power.always
    unfold State.domOn at this ⊢
    show (t3.pwr.on ||| 2).toNat.testBit 0 = true
    rw [BitVec.testBit_toNat] at this ⊢
    rw [BitVec.getLsbD_or, this]; rfl

end Sys2Proof.Machine
end

