-- ==== Sys2Proof/Laws/InvPower.lean ====
section
/-! SUPPORT. The invariant of Safety.lean through clocks, power domains, thermal control, the watchdog, reset and the fuses. -/
namespace Sys2Proof.Machine

/-! ### PLLs and dividers -/

theorem execPllLock_inv (p a : Nat) (s : State) (h : s.Inv) : OutInv (execPllLock p a s) := by
  unfold execPllLock
  apply inRange_inv; intro _
  extract_lets t k
  apply whenThen_inv h; intro _
  exact (h.advance a).setClk _ _ (Nat.zero_le _)

theorem execPllLockLoss_inv (p : Nat) (s : State) (h : s.Inv) : OutInv (execPllLockLoss p s) := by
  unfold execPllLockLoss
  apply inRange_inv; intro _
  extract_lets src t
  have ht : t.Inv := h.setClk _ _ (Nat.zero_le _)
  clear_value t
  apply whenThen_inv h; intro _
  split
  · exact ht.of_still rfl
  · exact ht.of_still ((State.selfFence_still ..).trans (State.bbPush_still ..))

theorem State.Inv.powerDone {s : State} (h : s.Inv) : s.powerDone.Inv := h.of_still (State.powerDone_still ..)

theorem State.Inv.askVolts {s : State} (h : s.Inv) (d mv : Nat) : (s.askVolts d mv).Inv := by
  unfold State.askVolts
  refine State.Inv.of_still ?_ (State.send_still _ _)
  exact h.setDie d _ (Die.ok_of (h.power.dies d) rfl rfl rfl)

theorem State.Inv.takeStep {s : State} (h : s.Inv) (i : Nat) : (s.takeStep i).Inv := by
  have hj : (s.clk i).j ≤ 16 := h.power.clks i
  have hg : s.clkTarget i ≤ 16 := h.clkTarget_le i
  unfold State.takeStep
  extract_lets k0 goal k d mclk s1 s2 x
  have hk : k.j ≤ 16 := hj
  split
  · split
    · apply State.Inv.askVolts
      exact h.setClk i _ hk
    · split
      · exact h.setClk i _ hk
      · exact h.setClk i _ (by dsimp only; omega)
  · split
    · have h1 : s1.Inv := h.setClk i _ (by dsimp only; omega)
      have h2 : s2.Inv := by
        unfold s2; split
        · exact h1.askVolts _ _
        · exact h1
      split
      · exact h2.setDie d _ (Die.ok_of (h2.power.dies d) rfl rfl rfl)
      · exact h2
    · exact h.setClk i _ hk

theorem execDividerStep_inv (c a : Nat) (s : State) (h : s.Inv) : OutInv (execDividerStep c a s) := by
  unfold execDividerStep
  apply inRange_inv; intro _
  extract_lets t k
  apply whenThen_inv h; intro _
  exact ((h.advance a).takeStep c).powerDone

theorem execAvsWriteRetry_inv (d : Nat) (g : Bool) (a : Nat) (s : State) (h : s.Inv) : OutInv (execAvsWriteRetry d g a s) := by
  unfold execAvsWriteRetry
  apply inRange_inv; intro _
  extract_lets t x again u
  have ht : t.Inv := h.advance a
  have hx : x.ok := ht.power.dies d
  apply whenThen_inv h; intro _
  have ha : again.Inv := by
    unfold again; split
    · exact ht
    · exact ht.of_still (State.send_still ..)
  split
  · exact ha.setDie d _ (Die.ok_of hx rfl rfl rfl)
  · have hu : u.Inv := ha.setDie d _ (Die.ok_of hx rfl rfl rfl)
    split
    · exact hu.of_still (State.selfFence_still ..)
    · exact hu

/-! ### Domains -/

theorem State.Inv.putOn {s : State} (h : s.Inv) (d x : Nat) (hd : d ≠ 0) :
    ({ s with pwr := { s.pwr with on := setBits s.pwr.on d d x } } : State).Inv := by
  refine h.setOn rfl ?_
  unfold State.domOn
  rw [domOn_setBits _ _ _ hd]
  exact h.power.always

theorem State.Inv.domainOff {s : State} (h : s.Inv) (d : Nat) (hd : d ≠ 0) : (s.domainOff d).Inv := by
  unfold State.domainOff
  extract_lets t src u
  have ht : t.Inv := h.of_still (State.abortFor_still ..)
  have hu : u.Inv := ht.putOn d 0 hd
  clear_value u
  split
  · exact hu.of_still (State.linkDown_still ..)
  · split
    · exact hu.of_still rfl
    · split
      · exact hu.of_still rfl
      · split
        · exact hu.of_still rfl
        · split
          · exact hu.of_still ((State.feltCheck_still ..).trans (State.darken_still ..))
          · split
            · refine foldl_inv _ (fun t a ht => ht.of_still (State.endRun_still ..)) _ _ ?_
              exact hu.of_still rfl
            · exact hu

theorem State.Inv.domainUp {s : State} (h : s.Inv) (d : Nat) (hd : d ≠ 0) : (s.domainUp d).Inv := by
  unfold State.domainUp
  extract_lets src u
  have hu : u.Inv := h.putOn d 1 hd
  clear_value u
  split
  · exact hu.of_still rfl
  · split
    · exact State.Inv.of_still (hu.of_still (t := { u with felt := { u.felt with litAt := u.time } }) rfl) (State.feltCheck_still ..)
    · split
      · exact foldl_inv _ (fun t a ht => ht.of_still (State.setUnit_still ..)) _ _ hu
      · exact hu

theorem State.Inv.stage_ne {s : State} (h : s.Inv) {d : Nat} {x : Bool × Nat × Nat} (e : tget s.pwr.stage d = some x) : d ≠ 0 := by
  rintro rfl; rw [h.power.stage] at e; cases e

theorem execDomainSwitchStage_inv (d a : Nat) (s : State) (h : s.Inv) : OutInv (execDomainSwitchStage d a s) := by
  unfold execDomainSwitchStage
  apply inRange_inv; intro _
  extract_lets t
  have ht : t.Inv := h.advance a
  clear_value t
  split
  · exact h
  · rename_i e
    have hd := ht.stage_ne e
    apply whenThen_inv h; intro _
    refine foldl_inv _ (fun u i hu => ?_) _ _ (ht.setStage d _ hd)
    split
    · exact hu
    · exact hu.setClk i _ (hu.power.clks i)
  · rename_i e
    have hd := ht.stage_ne e
    apply whenThen_inv h; intro _
    exact ht.setStage d _ hd
  · rename_i e
    have hd := ht.stage_ne e
    apply whenThen_inv h; intro _
    exact ((ht.endStage d).domainUp d hd).powerDone
  · rename_i e
    have hd := ht.stage_ne e
    apply whenThen_inv h; intro _
    exact (ht.domainOff d hd).setStage d _ hd
  · rename_i e
    have hd := ht.stage_ne e
    apply whenThen_inv h; intro _
    refine State.Inv.powerDone (State.Inv.endStage (foldl_inv _ (fun u i hu => ?_) _ _ ht) d)
    exact hu.setClk i _ (hu.power.clks i)

theorem State.Inv.setSequence {s : State} (h : s.Inv) (q : List (Nat × Bool)) (hq : ∀ e ∈ q, e.1 ≠ 0) (t : State)
    (e : t.still = { s.still with sequence := q }) : t.Inv := by
  simp only [State.still, Still.mk.injEq] at e
  obtain ⟨-, e1, e2, e3, e4, e5, e6, e7, e8⟩ := e
  refine ⟨h.evc.of_eq e1, ⟨?_, by rw [e5]; exact h.power.stage, by rw [e6]; exact hq, ?_, ?_⟩,
    by rw [e7]; exact h.fuses, by rw [e8]; exact h.ball⟩
  · unfold State.domOn; rw [e2]; exact h.power.always
  · intro i; unfold State.clk; rw [e3]; exact h.power.clks i
  · intro d; unfold State.die; rw [e4]; exact h.power.dies d

theorem execDomainSequenceTick_inv (a : Nat) (s : State) (h : s.Inv) : OutInv (execDomainSequenceTick a s) := by
  unfold execDomainSequenceTick
  extract_lets t
  have ht : t.Inv := h.advance a
  clear_value t
  split
  · exact h
  · rename_i d up rest e
    extract_lets free ok
    have hd : d ≠ 0 := ht.power.sequence (d, up) (by rw [e]; exact List.mem_cons_self)
    have hr : ∀ f ∈ rest, f.1 ≠ 0 := fun f hf => ht.power.sequence f (by rw [e]; exact List.mem_cons_of_mem _ hf)
    apply whenThen_inv h; intro _
    exact (ht.setStage d (up, 0, t.time) hd).setSequence rest hr _ rfl

theorem domOrder_ne : ∀ d ∈ domOrder, d ≠ 0 := by decide

theorem powerSetBody_inv (i : Nat) (c : CmdRec) (s : State) (h : s.Inv) : WorkInv (powerSetBody i c s) := by
  unfold powerSetBody
  extract_lets mask ceil want t off on
  apply workInv_bind; intro _ hc
  apply workInv_bind; intro _ _
  have hc : ∀ d, d < 4 → ceil d = 0 ∨ (400 ≤ ceil d ∧ ceil d ≤ 1500) := by
    unfold need at hc
    split at hc
    · rename_i q
      simp only [Bool.and_eq_true, List.all_eq_true, List.mem_range, Bool.or_eq_true, beq_iff_eq, decide_eq_true_eq] at q
      exact q.2
    · cases hc
  have hs : ∀ l : List Nat, (∀ d ∈ l, d < 4) → ∀ u : State, u.Inv →
      (l.foldl (fun s d => s.setDie d { s.die d with ceiling := ceilingOf (ceil d) (s.die d).ceiling }) u).Inv := by
    intro l
    induction l with
    | nil => intro _ u hu; exact hu
    | cons d l ih =>
      intro hl u hu
      refine ih (fun e he => hl e (List.mem_cons_of_mem _ he)) _ (hu.setDie d _ ?_)
      have hd := hc d (hl d List.mem_cons_self)
      have ho := hu.power.dies d
      unfold Die.ok at ho ⊢
      dsimp only
      unfold ceilingOf
      split <;> omega
  have ht : t.Inv := hs _ (by simp) _ h
  refine State.Inv.powerDone (ht.setSequence (off ++ on) ?_ _ rfl)
  intro e he
  rcases List.mem_append.1 he with he | he
  · obtain ⟨d, hd, rfl⟩ := List.mem_map.1 he
    exact domOrder_ne d (List.mem_reverse.1 (List.mem_filter.1 hd).1)
  · obtain ⟨d, hd, rfl⟩ := List.mem_map.1 he
    exact domOrder_ne d (List.mem_filter.1 hd).1

theorem execPowerSet_inv (i : Nat) (s : State) (h : s.Inv) : OutInv (execPowerSet i s) :=
  jeiskIf_inv _ _ _ _ _ h (fun i c t ht => powerSetBody_inv i c t ht)

/-! ### Sensors -/

theorem State.Inv.detectBB {s : State} (h : s.Inv) (b k : Nat) (x : BitVec 64) (y : BitVec 32) : (s.detectBB b k x y).Inv :=
  h.of_still (State.detectBB_still ..)

theorem State.Inv.takeSamples {s : State} (h : s.Inv) (l d : List (BitVec 16)) : (s.takeSamples l d).Inv := by
  unfold State.takeSamples
  refine foldl_inv _ (fun t a ht => ?_) _ _ h
  exact ht.setDie a _ (Die.ok_of (ht.power.dies a) rfl rfl rfl)

theorem State.Inv.clampCheck {s : State} (h : s.Inv) (d : Nat) : (s.clampCheck d).Inv := by
  unfold State.clampCheck
  extract_lets x
  have hx : x.ok := h.power.dies d
  split
  · exact h
  · split
    · exact h
    · apply State.Inv.detectBB
      refine State.Inv.of_still (s := (s.setDie d _).setClk (1 + d) _) ?_ rfl
      apply State.Inv.setClk
      · exact h.setDie d _ (Die.ok_of hx rfl rfl rfl)
      · exact h.power.clks (1 + d)

theorem State.Inv.criticalCheck {s : State} (h : s.Inv) (d : Nat) : (s.criticalCheck d).Inv := by
  unfold State.criticalCheck
  extract_lets x logic
  have hx : x.ok := h.power.dies d
  split
  · split
    · exact h
    · generalize (if logic then (hottest x.logicNow).getD (0, 0) else (hottest x.dram).getD (0, 0)) = q
      obtain ⟨k, r⟩ := q
      dsimp only
      apply State.Inv.detectBB
      refine State.Inv.of_still (s := (s.setDie d _).setClk (1 + d) _) ?_ rfl
      refine (h.setDie d _ ?_).setClk _ _ (h.power.clks (1 + d))
      unfold Die.ok at hx ⊢; dsimp only; omega
  · split
    · exact h.setDie d _ (Die.ok_of hx rfl rfl rfl)
    · exact h

theorem State.Inv.trip {s : State} (h : s.Inv) (d k : Nat) (r : Int) : (s.trip d k r).Inv := by
  unfold State.trip
  extract_lets cmd src t u w src2 src3 w2
  have ht : t.Inv := by
    have := h.setSequence [] (by simp) { s with pwr := { s.pwr with sequence := [] } } rfl
    refine ⟨this.evc.of_eq rfl, ⟨this.power.always, rfl, this.power.sequence, this.power.clks, this.power.dies⟩,
      this.fuses, this.ball⟩
  have hu : u.Inv := by
    have key : ∀ l : List Nat, (∀ e ∈ l, e ≠ 0) → ∀ v : State, v.Inv →
        (l.foldl (fun s e =>
          let s := if s.domOn e then s.domainOff e else s
          (s.ownClocks e).foldl (fun s i => s.setClk i { s.clk i with locked := false, j := 0 }) s) v).Inv := by
      intro l
      induction l with
      | nil => intro _ v hv; exact hv
      | cons e l ih =>
        intro hl v hv
        refine ih (fun f hf => hl f (List.mem_cons_of_mem _ hf)) _ ?_
        refine foldl_inv _ (fun x i hx => hx.setClk i _ (Nat.zero_le _)) _ _ ?_
        split
        · exact hv.domainOff e (hl e List.mem_cons_self)
        · exact hv
    exact key _ (fun e he => domOrder_ne e (List.mem_reverse.1 (List.mem_filter.1 he).1)) t ht
  have hw : w.Inv := by
    unfold w; clear_value cmd u
    cases cmd with
    | some i => exact hu.of_still (State.endCmd_still ..)
    | none => exact hu
  have hw2 : w2.Inv := hw.of_still rfl
  exact State.Inv.of_still (hw2.detectBB ..) (State.selfFence_still ..)

theorem execSensorSample_inv (l d : List (BitVec 16)) (p a : Nat) (s : State) (h : s.Inv) :
    OutInv (execSensorSample l d p a s) := by
  unfold execSensorSample
  extract_lets t t1 hot src t2 t3 t4
  have ht : t.Inv := h.advance a
  apply whenThen_inv h; intro _
  have h1 : t1.Inv := ht.takeSamples l d
  have h2 : t2.Inv := h1.of_still rfl
  have h3 : t3.Inv := foldl_inv _ (fun t a ht => State.Inv.clampCheck ht a) _ _ h2
  have h4 : t4.Inv := foldl_inv _ (fun t a ht => State.Inv.criticalCheck ht a) _ _ h3
  clear_value t4
  split
  · split
    · exact h4
    · exact h4.trip ..
  · exact h4

theorem execThrottleLoopTick_inv (d a : Nat) (s : State) (h : s.Inv) : OutInv (execThrottleLoopTick d a s) := by
  unfold execThrottleLoopTick
  apply inRange_inv; intro _
  extract_lets t x y u
  have ht : t.Inv := h.advance a
  have hx : x.ok := ht.power.dies d
  clear_value t x
  apply whenThen_inv h; intro _
  have hy : y.ok := Die.ok_of hx rfl rfl rfl
  clear_value y
  unfold Die.ok at hy
  split
  · have hu : u.Inv := ht.setDie d _ (by unfold Die.ok; dsimp only; omega)
    split
    · exact hu.of_still rfl
    · exact hu
  · split
    · exact ht.setDie d _ (by unfold Die.ok; dsimp only; omega)
    · exact ht.setDie d _ hy

theorem execClampHoldExpiry_inv (d a : Nat) (s : State) (h : s.Inv) : OutInv (execClampHoldExpiry d a s) := by
  unfold execClampHoldExpiry
  apply inRange_inv; intro _
  extract_lets t x
  have ht : t.Inv := h.advance a
  have hx : x.ok := ht.power.dies d
  clear_value t x
  split
  · exact h
  · apply whenThen_inv h; intro _
    unfold Die.ok at hx
    exact ht.setDie d _ (by unfold Die.ok; dsimp only; omega)

/-! ### The watchdog -/

theorem State.Inv.setKick {s : State} (h : s.Inv) (c : Nat) (k : Kick) : (s.setKick c k).Inv := h.of_still (State.setKick_still ..)

theorem State.Inv.restartAll {s : State} (h : s.Inv) : s.restartAll.Inv := by
  unfold State.restartAll
  extract_lets t a b u
  have ht : t.Inv := foldl_inv _ (fun t c ht => State.evcRestart_inv ht c) _ _ h
  clear_value t
  have hu : u.Inv := ht.of_still rfl
  clear_value u
  exact foldl_inv _ (fun t c ht => ht.setKick ..) _ _ hu

theorem State.Inv.miss {s : State} (h : s.Inv) (c : Nat) : (s.miss c).Inv := by
  unfold State.miss
  extract_lets act word src t1 t2 src2 r t3 t4 t5
  have h2 : t2.Inv := (h.of_still (t := t1) rfl).setKick ..
  clear_value t2
  have h3 : t3.Inv := by
    unfold t3; split
    · exact h2.of_still rfl
    · split
      · exact h2.restartAll
      · have hr : r.Inv := State.evcRestart_inv h2 c
        clear_value r
        exact hr.of_still rfl
  clear_value t3
  have h4 : t4.Inv := h3.of_still (State.trace_still ..)
  have h5 : t5.Inv := h4.detectBB ..
  split
  · exact h5.of_still (State.selfFence_still ..)
  · exact h5

theorem State.Inv.sampleKick {s : State} (h : s.Inv) (c : Nat) (w : BitVec 64) : (s.sampleKick c w).Inv := by
  unfold State.sampleKick
  split
  · exact h.setKick ..
  · extract_lets k
    split
    · exact h.setKick ..
    · split
      · exact h.miss c
      · exact h

theorem execWatchdogSample_inv (k : List (BitVec 64)) (a : Nat) (s : State) (h : s.Inv) : OutInv (execWatchdogSample k a s) := by
  unfold execWatchdogSample
  extract_lets t
  apply whenThen_inv h; intro _
  exact foldl_inv _ (fun t p ht => State.Inv.sampleKick ht ..) _ _ (h.advance a)

/-! ### The shared ball, registers of the clamp -/

theorem State.Inv.setBall {s t : State} (h : s.Inv) (hb : t.pins.ball ≤ 2)
    (e : t.still = { s.still with ball := t.pins.ball }) : t.Inv := by
  simp only [State.still, Still.mk.injEq] at e
  obtain ⟨-, e1, e2, e3, e4, e5, e6, e7, -⟩ := e
  exact ⟨h.evc.of_eq e1, h.power.of_eq e2 e5 e6 e3 e4, by rw [e7]; exact h.fuses, hb⟩

theorem execBlackboxConfig_inv (i : Nat) (s : State) (h : s.Inv) : OutInv (execBlackboxConfig i s) := by
  refine jeisk_inv _ _ _ _ h (fun i c t ht => ?_)
  unfold blackboxConfigBody
  extract_lets v
  apply workInv_bind; intro _ _
  apply workInv_bind; intro _ _
  refine ht.setBall ?_ rfl
  have := ht.ball
  dsimp only
  split
  · omega
  · split <;> omega

theorem execDeckleConfig_inv (i : Nat) (s : State) (h : s.Inv) : OutInv (execDeckleConfig i s) := by
  refine jeisk_inv _ _ _ _ h (fun i c t ht => ?_)
  unfold deckleConfigBody
  extract_lets role src ball ch d0 d src2
  apply workInv_bind; intro _ _
  apply workInv_bind; intro _ _
  refine State.Inv.of_still ?_ (State.chooseMaster_still ..)
  refine ht.setBall ?_ rfl
  have := ht.ball
  show ball ≤ 2
  unfold ball; split
  · omega
  · split <;> omega

theorem State.clampWrite_inv {s : State} (h : s.Inv) (d : Nat) (v : BitVec 64) : (s.clampWrite d v).Inv := by
  unfold State.clampWrite
  extract_lets c
  split
  · rename_i hc
    have ho := h.power.dies d
    exact (h.setDie d { s.die d with clampLevel := c } (by unfold Die.ok at ho ⊢; dsimp only; omega)).of_still rfl
  · exact h.of_still (State.bump_still ..)

theorem execPtMclkClampWrite_inv (d : Nat) (v : BitVec 64) (s : State) (h : s.Inv) : OutInv (execPtMclkClampWrite d v s) := by
  unfold execPtMclkClampWrite
  apply inRange_inv; intro _
  apply whenThen_inv h; intro _
  exact State.clampWrite_inv h d v

theorem ite_inv {c : Prop} [Decidable c] {a b : State} (ha : a.Inv) (hb : b.Inv) : (if c then a else b).Inv := by
  split <;> assumption

theorem State.regWrite_inv {s : State} (h : s.Inv) (o : Nat) (v : BitVec 64) : (s.regWrite o v).Inv := by
  unfold State.regWrite
  refine ite_inv h (ite_inv (h.of_still (State.doorbell_still ..)) (ite_inv ?_ (ite_inv (h.of_still (State.hnCtrlWrite_still ..))
    (ite_inv (h.of_still (State.hnMaskWrite_still ..)) (ite_inv ?_ (ite_inv (h.of_still rfl) (ite_inv (h.of_still rfl)
    (ite_inv (h.of_still rfl) (ite_inv (State.clampWrite_inv h _ _) (ite_inv (h.of_still rfl) h))))))))))
  · dsimp only
    split
    · exact ite_inv h (h.of_still (State.setPair_still ..))
    · exact ite_inv h (h.of_still (State.setPair_still ..))
    · exact ite_inv h (h.of_still (State.setPair_still ..))
    · exact h.of_still (State.ctlWrite_still ..)
  · refine ite_inv (h.of_still rfl) (ite_inv (h.of_still rfl) ?_)
    refine State.Inv.of_still ?_ (State.unmask_still _ _)
    exact h.of_still rfl

theorem execRegisterWrite_inv (o n : Nat) (v : BitVec 64) (s : State) (h : s.Inv) : OutInv (execRegisterWrite o n v s) := by
  unfold execRegisterWrite
  apply inRange_inv; intro _
  apply whenThen_inv h; intro _
  split
  · exact State.regWrite_inv h ..
  · split
    · exact h.of_still (State.bump_still ..)
    · exact State.regWrite_inv h ..

/-! ### Reset, boot, fuses -/

theorem reset_evcOk : State.reset.EvcOk :=
  ⟨fun _ => Nat.zero_le _, fun _ => ⟨Nat.zero_le _, List.Pairwise.nil, fun _ he => (List.not_mem_nil he).elim⟩,
    fun _ _ he => (List.not_mem_nil he).elim, fun _ => List.nodup_nil, fun _ _ _ _ he => (List.not_mem_nil he).elim⟩

theorem reset_powerOk : State.reset.PowerOk :=
  ⟨by decide, rfl, by decide, fun _ => Nat.zero_le _, fun _ => by show Die.atReset.ok; unfold Die.ok; decide⟩

theorem State.Inv.intoReset {s : State} (h : s.Inv) (c : Bool) : (s.intoReset c).Inv :=
  ⟨reset_evcOk.of_eq rfl, reset_powerOk.of_eq rfl rfl rfl rfl rfl, h.fuses, Nat.zero_le _⟩

theorem execResetNAssert_inv (s : State) (h : s.Inv) : OutInv (execResetNAssert s) := h.intoReset _

theorem execCrystalStable_inv (a : Nat) (s : State) (h : s.Inv) : OutInv (execCrystalStable a s) := by
  unfold execCrystalStable
  extract_lets t u
  have hu : u.Inv := (h.advance a).of_still (State.bbPush_still ..)
  clear_value u
  apply whenThen_inv h; intro _
  exact hu.setSequence [(1, true), (2, true)] (by decide) _ rfl

theorem bringUp_ne : ∀ e ∈ bringUpDomains, e.1 ≠ 0 := by decide

theorem State.Inv.adminUp {s : State} (h : s.Inv) : s.adminUp.Inv := by
  unfold State.adminUp
  refine State.Inv.of_still ?_ (State.readAll_still _)
  cases hb : s.mgmt.broughtUp
  · refine h.setSequence (s.pwr.sequence ++ bringUpDomains) ?_ _ rfl
    intro e he
    rcases List.mem_append.1 he with he | he
    · exact h.power.sequence e he
    · exact bringUp_ne e he
  · exact h.of_still rfl

theorem execFirmwareAdminReady_inv (a : Nat) (s : State) (h : s.Inv) : OutInv (execFirmwareAdminReady a s) := by
  unfold execFirmwareAdminReady
  extract_lets t
  have ht : t.Inv := h.advance a
  clear_value t
  split
  · apply whenThen_inv h; intro _
    exact ht.adminUp
  · split
    · exact h
    · split
      · exact h
      · apply whenThen_inv h; intro _
        apply State.Inv.adminUp
        refine State.Inv.of_still ?_ ((State.finish_still ..).trans ((State.bbPush_still ..).trans (State.runBank_still ..)))
        exact ht.of_still rfl

theorem execFuseBlow_inv (s : State) (h : s.Inv) : OutInv (execFuseBlow s) := by
  unfold execFuseBlow
  apply whenThen_inv h
  intro hc
  simp only [Bool.and_eq_true, decide_eq_true_eq] at hc
  refine State.Inv.of_still ?_ (State.measure3_still ..)
  exact ⟨h.evc.of_eq rfl, h.power.of_eq rfl rfl rfl rfl rfl, by show s.iden.fuses + 1 ≤ 64; omega, h.ball⟩

theorem execHoldupAlarm_inv (s : State) (h : s.Inv) : OutInv (execHoldupAlarm s) := by
  unfold execHoldupAlarm
  dsimp only
  apply State.Inv.intoReset
  refine ite_inv ?_ h
  refine State.Inv.of_still ?_ (State.bbWrite_still _ _ _ _)
  split
  · refine State.Inv.of_still ?_ (State.bbWrite_still _ _ _ _)
    exact h.of_still rfl
  · exact h

end Sys2Proof.Machine
end

