-- ==== Sys2Proof/Laws/Jeisk.lean ====
section
/-! SUPPORT. What a Jeisk command answers once its checks and its work are known: the shared operations `jeisk` and
`jeiskWait`, each case once. -/
namespace Sys2Proof.Machine

variable {op id : Nat} {body : Body} {c : CmdRec} {s t : State} {st : Cause}
  {fin : Nat → CmdRec → State → Option (Cause × State)}

/-- The command has done its work. -/
theorem jeisk_done (h : s.Ready id c op) (hb : body id c (s.startCmd id) = .ok (.done st t)) :
    jeisk op body id s = .next (t.finish id st) := by
  obtain ⟨h1, h2, h3, h4⟩ := h
  simp [jeisk, h1, h2, h3, h4, hb]

/-- The command goes on. -/
theorem jeisk_busy (h : s.Ready id c op) (hb : body id c (s.startCmd id) = .ok (.busy t)) :
    jeisk op body id s = .next t := by
  obtain ⟨h1, h2, h3, h4⟩ := h
  simp [jeisk, h1, h2, h3, h4, hb]

/-- A check of the command fails. -/
theorem jeisk_error (h : s.Ready id c op) (hb : body id c (s.startCmd id) = .error st) :
    jeisk op body id s = .next (s.turnAway id st) := by
  obtain ⟨h1, h2, h3, h4⟩ := h
  simp [jeisk, h1, h2, h3, h4, hb, State.turnAway]

/-- A command that may start is not in its started phase. -/
theorem State.Ready.phase (h : s.Ready id c op) : (c.phase == .started) = false := by
  obtain ⟨-, -, h3, -⟩ := h
  cases hp : c.phase with
  | waiting => rfl
  | started => simp [State.mayStart, hp, show (CmdPhase.started == CmdPhase.waiting) = false from rfl] at h3

/-- The command starts and its work is done in the same step. -/
theorem jeiskWait_done (h : s.Ready id c op) (hb : body id c (s.startCmd id) = .ok (.busy t))
    {u : State} (hf : fin id c t = some (st, u)) : jeiskWait op body fin id s = .next (u.finish id st) := by
  have hp := h.phase
  simp only [jeiskWait, h.1, hp, Bool.false_eq_true, ↓reduceIte]
  exact jeisk_done h (by simp [hb, hf, bind, Except.bind, pure, Except.pure])

/-- The command starts and goes on. -/
theorem jeiskWait_busy (h : s.Ready id c op) (hb : body id c (s.startCmd id) = .ok (.busy t))
    (hf : fin id c t = none) : jeiskWait op body fin id s = .next t := by
  have hp := h.phase
  simp only [jeiskWait, h.1, hp, Bool.false_eq_true, ↓reduceIte]
  exact jeisk_busy h (by simp [hb, hf, bind, Except.bind, pure, Except.pure])

/-- The command ends in the step that starts it. -/
theorem jeiskWait_now (h : s.Ready id c op) (hb : body id c (s.startCmd id) = .ok (.done st t)) :
    jeiskWait op body fin id s = .next (t.finish id st) := by
  have hp := h.phase
  simp only [jeiskWait, h.1, hp, Bool.false_eq_true, ↓reduceIte]
  exact jeisk_done h (by simp only [hb]; rfl)

/-- A check of the command fails. -/
theorem jeiskWait_error (h : s.Ready id c op) (hb : body id c (s.startCmd id) = .error st) :
    jeiskWait op body fin id s = .next (s.turnAway id st) := by
  have hp := h.phase
  simp only [jeiskWait, h.1, hp, Bool.false_eq_true, ↓reduceIte]
  exact jeisk_error h (by simp only [hb]; rfl)

/-- A started command whose work is done completes. -/
theorem jeiskWait_resume (h : s.Running id c op) (hf : fin id c s = some (st, t)) :
    jeiskWait op body fin id s = .next (t.finish id st) := by
  obtain ⟨h1, h2, h3⟩ := h
  simp [jeiskWait, h1, h2, h3, hf]

/-- A started command whose work is not done goes on. -/
theorem jeiskWait_idle (h : s.Running id c op) (hf : fin id c s = none) : jeiskWait op body fin id s = .next s := by
  obtain ⟨h1, h2, h3⟩ := h
  simp [jeiskWait, h1, h2, h3, hf]

end Sys2Proof.Machine
end

