-- ==== Sys2Proof/Laws/Words.lean ====
section
/-! SUPPORT. What a sheet program's word answers: the shared operations `runQueue`, `runCopy` and `runControl`, once. -/
namespace Sys2Proof.Machine

variable {cl q o pos : Nat} {f : OpFn} {s : State}

/-- The head of a queue runs. -/
theorem runQueue_head {w : QWord} {sel : Word128 → Bool} (h : s.AtHead cl q o w) (hs : sel w.word = true) :
    runQueue q o sel f cl s = .next (State.afterRun q cl w (f cl w (s.begun cl q w))) := by
  obtain ⟨h1, h2, h3, h4, h5, h6, h7⟩ := h
  simp [runQueue, inRange, h1, h2, h3, h4, h5, h6, h7, hs, State.begun]

/-- A word of the copy queue runs. -/
theorem runCopy_at {w : QWord} {k : Cluster} (h : s.AtCopy cl pos o w k) :
    runCopy o f cl pos s = .next (State.afterRun 0 cl w (f cl w (s.setClus cl k))) := by
  obtain ⟨h1, h2, h3, h4, h5, h6, h7, h8, h9⟩ := h
  simp only [runCopy, inRange, h1, h2, decide_true, if_true]
  rw [if_pos ⟨h3, h4, h5, by simp [h6], by simp [h7], h8⟩, h9]

/-- A control word acts. -/
theorem runControl_at {w : Word128} {g : Nat → Word128 → State → Option State} {t : State} (h : s.AtControl cl o w)
    (hg : g cl w (s.controlled cl w) = some t) :
    runControl o g cl s = .next ((t.signal cl w (s.clus cl).pc).settle cl) := by
  obtain ⟨h1, h2, h3, h4, h5⟩ := h
  simp only [State.controlled] at hg
  simp [runControl, inRange, h1, h2, h3, h4, h5, hg]

/-- A control word is an instruction error. -/
theorem runControl_error {w : Word128} {g : Nat → Word128 → State → Option State} (h : s.AtControl cl o w)
    (hg : g cl w (s.controlled cl w) = none) :
    runControl o g cl s = .next ((s.controlled cl w).instrError cl (s.clus cl).pc) := by
  obtain ⟨h1, h2, h3, h4, h5⟩ := h
  simp only [State.controlled] at hg
  simp [runControl, inRange, h1, h2, h3, h4, h5, hg, State.controlled]

end Sys2Proof.Machine
end

