-- ==== Sys2Proof/Machine/Registers.lean ====
section
/-! DEFINITION. What a read of BAR0 returns (R434 to R436, and the register tables of ch. 11, 14 and 15). A read changes
nothing but for the low half of DK_NOW (R552), which has a command of its own; so a register's value is a function of the
state. -/
namespace Sys2Proof.Machine

/-- A register from its fields, each given as lowest bit and value. -/
def ofFields (fs : List (Nat × Nat)) : BitVec 64 := BitVec.ofNat 64 (fs.map (fun f => f.2 * 2 ^ f.1)).sum

/-- The ID_ block (Tables 4 to 7 of ch. 11, R436). -/
def State.readId (s : State) (o : Nat) : BitVec 64 :=
  if o = 0x00 then ofFields [(32, 0x6480), (24, 0xA1), (16, 1), (8, 1), (0, s.host.levelNow)]
  else if o = 0x08 then Config.serial
  else if o = 0x10 then s.idStatus
  else if o = 0x18 then ofFields [(48, 0x40), (32, 0xFFFF), (16, 0x0400), (0, 0x2000)]
  else if o = 0x20 then s.host.idFw &&& 0xFFFFFFFFFFFF
  else if o = 0x28 then ofFields [(0, s.host.idPkg.toNat)]
  else 0

/-- DB_n (Table 12 of ch. 11): set_head and set_tail are write-only. -/
def State.readDb (s : State) (n : Nat) : BitVec 64 :=
  ofFields [(16, (s.pair n).dbHead), (0, (s.pair n).dbTail)]

/-- QCFG_CTL_n with its read-only bits (Table 11 of ch. 11, R643). -/
def State.readCtl (s : State) (n : Nat) : BitVec 64 :=
  let p := s.pair n
  p.ctl ||| ofFields [(31, b2n (s.busy n)), (30, b2n p.halted), (29, b2n p.ringError)]

/-- HN_PEND (Table 16 of ch. 11): occurrences of the code wait or are suppressed. -/
def State.readHnPend (s : State) : BitVec 64 :=
  ofFields ((List.range 13).map (fun b => (b, b2n ((s.win b).wait.isSome || (s.win b).last.isSome))))

/-- The HN_ registers, the MSI-X table and its pending-bit array (Table 16 of ch. 11, R434). -/
def State.readHn (s : State) (o : Nat) : BitVec 64 :=
  if o = 0x80000 then s.host.hnCtrl
  else if o = 0x80008 then s.host.hnMask
  else if o = 0x80010 then s.readHnPend
  else if o = 0x80018 then ofFields [(32, s.host.hnSuppressed % 2 ^ 32), (0, s.host.hnPosted % 2 ^ 32)]
  else if 0x88000 ≤ o ∧ o < 0x88400 then s.regOld o
  else if o = 0x8C000 then
    ofFields ((List.range 64).map (fun v => (v, b2n (tgetD s.host.vecs v Vec.atReset).pend)))
  else 0

/-- Offsets of the CNT_ window that hold a counter (Table 4 of ch. 15). -/
def isCounter (c : Nat) : Bool :=
  decide ((0x100 ≤ c ∧ c < 0x1C0) ∨ (0x200 ≤ c ∧ c < 0x250) ∨ (0x280 ≤ c ∧ c < 0x2B8) ∨ (0x300 ≤ c ∧ c < 0x368) ∨
    (0x400 ≤ c ∧ c < 0x500) ∨ (0x500 ≤ c ∧ c < 0x650) ∨ (0x700 ≤ c ∧ c < 0x7F8) ∨ (0x1000 ≤ c ∧ c < 0x3038) ∨
    (0x4000 ≤ c ∧ c < 0x8000))

/-- The CNT_ window (Tables 4 and 5 of ch. 15): the link-error slots read the counters at 0x0500, and the package totals
those of the operation counters. -/
def State.readCnt (s : State) (c : Nat) : BitVec 64 :=
  if c = 0 then ofFields [(32, s.counterCap), (0, s.ctr.next)]
  else if c = 8 then ofFields [(0, s.ctr.oldest)]
  else if 0x190 ≤ c ∧ c < 0x1C0 then ofFields [(0, tgetD s.ctr.cnt (slotFelt 0 ((c - 0x190) / 8)) 0)]
  else if 0x800 ≤ c ∧ c < 0x8D8 then ofFields [(0, tgetD s.ctr.ops (32 * 1024 + 4 + (c - 0x800) / 8) 0)]
  else if isCounter c then ofFields [(0, tgetD s.ctr.cnt (c / 8) 0)]
  else 0

/-- DK_STATUS (Table 2 of ch. 15). -/
def State.dkStatus (s : State) : BitVec 64 :=
  let d := s.dk
  let up := d.up.getD 0
  ofFields [(48, d.master % 2 ^ 16), (40, d.hops % 2 ^ 8), (39, b2n d.up.isSome), (32, up / 4 % 8 + up % 4 * 8), (7, b2n d.overridden),
    (6, b2n d.pulse), (5, b2n d.source), (4, b2n d.role), (0, d.state % 16)]

/-- The DK_ block (Table 2 of ch. 15). -/
def State.readDk (s : State) (c : Nat) : BitVec 64 :=
  if c = 0x00 then ofFields [(0, s.dk.now)]
  else if c = 0x08 then s.dkStatus
  else if c = 0x10 then s.dk.mserial
  else if c = 0x18 then ofFields [(0, unsigned 32 s.dk.theta)]
  else if c = 0x20 then ofFields [(0, s.dk.freq.toNat)]
  else if c = 0x28 then ofFields [(0, s.dk.edge)]
  else if c = 0x30 then ofFields [(0, s.dk.events.toNat)]
  else if 0x100 ≤ c ∧ c < 0x1C0 then ofFields [(0, unsigned 32 (tgetD s.dk.asym ((c - 0x100) / 8) 0))]
  else 0

/-- PT_MCLK_d (Table 8 of ch. 14). -/
def State.ptMclk (s : State) (d : Nat) : BitVec 64 :=
  let x := s.die d
  let k := s.clk (d + 1)
  ofFields [(20, b2n x.clampActive), (16, x.clampLevel), (12, x.throttle), (8, x.ceiling), (4, s.clkTarget (d + 1) % 16), (0, k.j % 16)]

/-- PT_TEMP_d (Table 8 of ch. 14): the hottest readings with their sensors. -/
def State.ptTemp (s : State) (d : Nat) : BitVec 64 :=
  let x := s.die d
  let l := (hottest x.logicNow).getD (0, 0)
  let r := (hottest x.dram).getD (0, 0)
  ofFields [(48, r.1 % 64), (32, unsigned 16 r.2), (16, l.1 % 64), (0, unsigned 16 l.2)]

/-- Four readings of a list from number 4k on, 16 bits each. -/
def fourOf (l : List Int) (k : Nat) : BitVec 64 :=
  ofFields ((List.range 4).map (fun i => (16 * i, unsigned 16 ((l[4 * k + i]?).getD 0))))

/-- The PT_ block (Table 8 of ch. 14). -/
def State.readPt (s : State) (c : Nat) : BitVec 64 :=
  if c = 0x00 then s.ptStatus
  else if c = 0x08 then ofFields [(0, s.pwr.events.toNat)]
  else if 0x100 ≤ c ∧ c < 0x120 then s.ptMclk ((c - 0x100) / 8)
  else if 0x200 ≤ c ∧ c < 0x220 then s.ptTemp ((c - 0x200) / 8)
  else if c = 0x400 then ofFields [(16, 2250), (0, s.pwr.power % 2 ^ 16)]
  else if c = 0x408 then ofFields ((List.range 4).map (fun d => (16 * d, (s.die d).vcore % 2 ^ 16)))
  else if 0x1000 ≤ c ∧ c < 0x1200 then fourOf (s.die ((c - 0x1000) / 128)).logicNow ((c - 0x1000) % 128 / 8)
  else if 0x1200 ≤ c ∧ c < 0x1280 then fourOf (s.die ((c - 0x1200) / 32)).dram ((c - 0x1200) % 32 / 8)
  else 0

/-- The DBG_ block (Table 9 of ch. 15). -/
def State.readDbg (s : State) (c : Nat) : BitVec 64 :=
  if c = 0x00 then s.trc.win
  else if c = 0x08 then ofFields [(32, s.trc.dropped % 2 ^ 32), (0, b2n s.trc.enabled)]
  else if c = 0x10 then ofFields [(0, s.trc.next)]
  else 0

/-- An aligned 8-byte read at offset `o` of BAR0 (Table 3 of ch. 11); reserved space reads zero (R434). -/
def State.readReg (s : State) (o : Nat) : BitVec 64 :=
  if o < 0x10000 then s.readId o
  else if o < 0x20000 then s.readDb ((o - 0x10000) / 8)
  else if o < 0x60000 then
    let n := (o - 0x20000) / 32
    if o % 32 = 0 then (s.pair n).sq
    else if o % 32 = 8 then (s.pair n).cq
    else if o % 32 = 16 then (s.pair n).line
    else s.readCtl n
  else if o < 0x80000 then 0
  else if o < 0x90000 then s.readHn o
  else if o < 0xA0000 then s.readCnt (o - 0x90000)
  else if o < 0xB0000 then s.readDk (o - 0xA0000)
  else if o < 0xC0000 then s.readPt (o - 0xB0000)
  else if o < 0xD0000 then s.readDbg (o - 0xC0000)
  else 0

/-- A 4-byte read: half of its register; the high half of DK_NOW is the one that the last read of the low half latched
(R552). -/
def State.readHalf (s : State) (o : Nat) : BitVec 32 :=
  if o = 0xA0004 then BitVec.ofNat 32 s.dk.latch
  else if o % 8 < 4 then (s.readReg (o / 8 * 8)).extractLsb' 0 32
  else (s.readReg (o / 8 * 8)).extractLsb' 32 32

end Sys2Proof.Machine
end

