-- ==== Sys2Proof/Tests/Slice0.lean ====
section
/-! SUPPORT. The tests of the model: a term out of range for each check of WellFormed.lean, which the check refuses; for
every statement of Certificates/Slice0/Obligations.lean that has hypotheses, states and operands that meet them, clause by
clause; and single steps whose expected results come from the spec. A clause about a free value of Config.lean (a
signature that verifies, a certificate's key, the fused voltages) holds for every value of it, so its witness names the
value as a premise of its own. -/
namespace Sys2Proof.Tests
open Sys2Proof Sys2Proof.Machine

set_option maxRecDepth 10000
set_option Elab.async false

/-! ### Ill-formed terms -/

theorem test_ill_formed_clusters :
    [Instr.launchProgressTimeout 2048 0, .cpLoad 2048 0, .cpStore 2048 0, .cpMove 2048 0, .cpFill 2048 0, .cpGather 2048 0,
      .cpScatter 2048 0, .cpScatterAdd 2048 0, .cpPush 2048 0, .cpPop 2048 0, .groupOpen 2048, .mma 2048,
      .groupCloseScratch 2048, .groupCloseStream 2048, .pageLoad 2048, .vAdd 2048, .vSub 2048, .vMul 2048, .vFma 2048,
      .vMax 2048, .vMin 2048, .vDiv 2048, .vSqrt 2048, .vConvert 2048, .vAbs 2048, .vNeg 2048, .vExp 2048, .vLog 2048,
      .vRsqrt 2048, .vTanh 2048, .vSigmoid 2048, .vGeluErf 2048, .vGeluTanh 2048, .vGeluErfD 2048, .vRecip 2048,
      .vCmpEq 2048, .vCmpNe 2048, .vCmpLt 2048, .vCmpLe 2048, .vCmpGt 2048, .vCmpGe 2048, .vSelect 2048,
      .vMaskRand 2048, .vRedSum 2048, .vRedMax 2048, .vRedMin 2048, .vSegSum 2048, .vSegMax 2048, .vSegMin 2048,
      .vSegMean 2048, .vSort64 2048, .vTopk64 2048, .rowSoftmax 2048, .rowSoftmaxBwd 2048, .rowLnorm 2048,
      .rowLnormBwd 2048, .rowRmsnorm 2048, .rowRmsnormBwd 2048, .nop 2048, .setIx 2048, .addIx 2048, .loop 2048,
      .branchLoop 2048, .jump 2048, .setRndStream 2048, .setRndStep 2048, .flagsRc 2048, .latch 2048,
      .stop 2048].all (fun i => !i.wellFormed) = true := by decide

theorem test_ill_formed_units :
    [Instr.tileLoadDone 4 0, .probeCapture 4 0 0 0, .probeCapture 0 0 17 0, .probeVerdict 4 0 0, .recalibrationDone 4,
      .ringDitherCheck 4 0 0 true, .ringDitherCheck 0 256 0 true, .ringDitherCheck 0 0 32 true, .ringSearchDone 4 0 0 true,
      .ringSearchDone 0 256 0 true, .ringSearchDone 0 0 32 true, .combLost 4, .combStartDone 4].all
      (fun i => !i.wellFormed) = true := by decide

theorem test_ill_formed_shards :
    [Instr.pressSliceConsume 262144, .reduceCreditRequest 262144 0 0 0 0, .reduceCreditRequest 0 0 65536 0 0,
      .reduceCreditRequest 0 0 0 65536 0, .reduceCreditRequest 0 0 0 0 65536, .reduceCreditGrant 262144 0,
      .reduceCreditGrant 0 65536, .reduceRefusal 262144 0 true, .reduceWatchdogExpiry 262144 0, .reduceAbandon 262144 0,
      .reduceCreditReceive 262144 0 0, .reduceCreditReceive 0 0 65536, .shardHoldExpiry 262144 0, .callReceive 0 0 (2 ^ 48) 0,
      .partialTileArrival 0 0 0 0 1 [] 0].all (fun i => !i.wellFormed) = true := by decide

theorem test_ill_formed_tiles (tile : List (BitVec 32)) (h : tile.length = 1024) :
    (Instr.partialTileArrival 262144 0 0 0 1 tile 0).wellFormed = false
      ∧ (Instr.partialTileArrival 0 0 65536 0 1 tile 0).wellFormed = false
      ∧ (Instr.partialTileArrival 0 0 0 65536 1 tile 0).wellFormed = false
      ∧ (Instr.partialTileArrival 0 (2 ^ 48) 0 0 1 tile 0).wellFormed = false
      ∧ (Instr.partialTileArrival 0 0 0 0 1 tile 0).wellFormed = true := by simp [Instr.wellFormed, h]

theorem test_ill_formed_host :
    [Instr.dbSetTail 8192 0 [], .dbSetHead 8192 0 [], .ringLineSnoop 8192 [], .ringLinePollTimer 8192 0, .qcfgEnable 8192 0,
      .qcfgDisable 8192 0, .qcfgResume 8192 0, .cqRecordWrite 8192 false, .msixDelayExpiry 8192 0, .msixVectorUnmask 64,
      .noticeWindowClose 13 0, .registerWrite 0 2 0, .registerWrite 4 8 0, .registerWrite (2 ^ 21) 8 0, .bar2Read 0 0,
      .bar2Read (2 ^ 26) 1, .bar2Write 0 [], .bar2Write (2 ^ 26) [0], .hostMemRead 0 0, .hostMemWrite 0 [],
      .sidebandBlackboxRead 0 0, .sidebandBlackboxRead 0 5].all (fun i => !i.wellFormed) = true := by decide

theorem test_ill_formed_power_and_events :
    [Instr.ptMclkClampWrite 4 0, .pllLock 16 0, .pllLockLoss 16, .dividerStep 16 0, .avsWriteRetry 4 true 0,
      .domainSwitchStage 20 0, .throttleLoopTick 4 0, .clampHoldExpiry 4 0, .watchdogSample [] 0, .eventSourceEdge 512,
      .eventSourceLevel 512 true, .evcClaim [], .evcClaim [10], .evcComplete 10 0, .evcComplete 0 1024, .evcPendClear 16 0 0,
      .evcPendSet 16 0, .evcConfigWrite 2 0, .wakeEdge 512, .patrolScrubRead (2 ^ 36)].all
      (fun i => !i.wellFormed) = true := by decide

theorem test_ill_formed_links :
    [Instr.linkPacketSend 24 0, .linkPacketSend 0 8, .linkPacketReceive 24 [0], .linkPacketReceive 0 [],
      .creditCodewordReceive 24 0, .creditSendTimer 24 0, .replayRequestReceive 24 0, .linkRetrainTimeout 24 0,
      .laneMarkerReceive 24 0 0, .laneMarkerReceive 0 32 0, .laneLoss 24 0, .laneMapReceive 24 0, .laneRejoin 24 0 0,
      .laneRejoin 0 32 0, .loopProbeReceive 24 0 0, .fclkLaneSwitch 6, .linkTrainingStep 24 0 0, .linkMissingTimeout 24 0,
      .discoveryRecordReceive 24 [], .discoveryRepeatTimer 24 0, .linkJudge 24, .announceReceive 24 0 0,
      .syncReceive 24 0 0 0, .delayRequestReceive 24 0 0, .delayResponseReceive 24 0 0].all
      (fun i => !i.wellFormed) = true := by decide

theorem test_ill_formed_packets :
    [Instr.packetForward 5 [0], .packetForward 0 [], .dataReceive [], .readReceive [], .ackReceive [], .partialReceive [],
      .readyReceive [], .circuitPacketReceive 6 [0], .circuitPacketReceive 0 [], .transitPacket [] 0,
      .transitCreditFrame 24 0 0, .transitCreditFrame 0 7 0, .placementDigestReceive 65536 0 [] 0,
      .placementDigestReceive 0 0 [⟨24, true, 0, 0⟩] 0, .beatReceive 65536 0 0 0 0, .beatReceive 0 (2 ^ 32) 0 0 0,
      .memberSilentTimeout 65536 0, .fenceRequestReceive 65536 1, .fenceListReceive 0 0 0 [],
      .fenceListReceive 0 0 0 (List.replicate 249 (0, 1)), .sinkPacketReceive []].all
      (fun i => !i.wellFormed) = true := by decide

/-! ### Small states -/

/-- A package in service: the link up in CXL mode, a session open at level 1, every block ready, every domain on, all PLLs
locked at j = 15, the package 1. -/
def up : State :=
  { State.reset with
    host := { State.reset.host with
      linkUp := true, cxlMode := true, session := true, levelNow := 1, selftestPass := true, mouldReady := true, feltReady := true,
      dramReady := true, dramTested := true, adminReady := true, idPkg := 1 }
    mgmt := { State.reset.mgmt with fwState := 2 }
    pwr := { State.reset.pwr with
      resetLow := false, crystal := true, on := 0xFFFFF
      clks := (List.range 16).map (fun i => (i, { locked := true, j := 15, target := 15, stepAt := 0 })) } }

/-- A packet of opcode `op` with fields: offset, length, value. -/
def packet (op : Nat) (fs : List (Nat × Nat × Nat)) : BitVec 512 := mkRec 512 ((0, 2, op) :: fs)

/-- The record of a command read from pair 0. -/
def asRead (p : BitVec 512) : CmdRec :=
  { pair := 0, ctx := 0, packet := p, phase := .waiting, readyAt := none, tStart := 0, startAt := 0, flags := 0, latch := [],
    place := 0 }

/-- `s` with that command read as the first. -/
def withCmd (p : BitVec 512) (s : State) : State := { s with host := { s.host with cmds := [(0, asRead p)] } }

/-- The package as the only member, and so the lead, of job 7 with shards of 64 and 4,096 parameters of class 0. -/
def job : Job :=
  { id := 7, extents := [1, 1, 1], members := [{ pkg := 1, x := 0, y := 0, z := 0, hops := [0, 0, 0, 0, 0, 0] }],
    shards := [(4096, 0), (4096, 0)], seed := 5, report := 0x4000, sinkLink := 0xFF, block := [], digest := 9, generation := 1,
    lead := 1, owners := [1, 1], axes := [0, 0, 0], ranks := [0], rankCount := 1 }

def placed (s : State) : State := { s with job := { s.job with job := some job } }

/-- The package has fenced itself. -/
def fenced (s : State) : State := { s with fail := { s.fail with selfFenced := some 4 } }

/-- Host memory whose bytes from `a` on are known. -/
def hostBytes (a : Nat) (bs : List Byte) (s : State) : State := s.hostWrite a bs

/-- A second command, read before the first. -/
def behind (p : BitVec 512) (s : State) : State :=
  { s with host := { s.host with cmds := (0, asRead p) :: s.host.cmds.map (fun e => (e.1 + 1, e.2)) } }

/-- The command has started. -/
def started (s : State) : State :=
  { s with host := { s.host with cmds := tmap s.host.cmds (fun _ c => { c with phase := .started }) } }

/-- The model's clock stands at `t`. -/
def atTime (t : Nat) (s : State) : State := { s with time := t }

/-- What an outcome answers. -/
def next? (o : Out') : Option State :=
  match o with
  | .next t => some t
  | _ => none

/-! ### Host memory that holds a record -/

/-- Host memory of which the bytes from `a` on are known, and no others. -/
def withHost (a : Nat) (bs : List Byte) (s : State) : State :=
  { s with host := { s.host with mem := bs.zipIdx.map (fun p => (a + p.2, some p.1)) } }

theorem withHost_read (a : Nat) (bs : List Byte) (s : State) : (withHost a bs s).hostRead a bs.length = some bs := by
  apply State.hostRead_eq
  intro i b h
  have e : (withHost a bs s).host.mem = (bs.map some).zipIdx.map (fun p => (a + p.2, p.1)) := by
    simp [withHost, List.zipIdx_map, List.map_map, Function.comp_def]
  simp [State.hostByte, e, tget_listed, h]

theorem leBytes_length (n v : Nat) : (leBytes n v).length = n := by
  induction n generalizing v with
  | zero => rfl
  | succ k ih => simp [leBytes, ih]

/-- A record that stands in host memory is read back. -/
theorem withHost_rec {w : Nat} (hw : 8 * (w / 8) = w) (a : Nat) (r : BitVec w) (s : State) :
    (withHost a (recBytes r) s).hostRec w a = some r := by
  have h := withHost_read a (recBytes r) s
  rw [show (recBytes r).length = w / 8 from leBytes_length _ _] at h
  rw [State.hostRec, h, Option.map_some, recBytes, leNat_leBytes]
  have p : (256 : Nat) ^ (w / 8) = 2 ^ w := by rw [show (256 : Nat) = 2 ^ 8 from rfl, ← Nat.pow_mul, hw]
  rw [p, Nat.mod_eq_of_lt r.isLt]
  exact congrArg some (BitVec.eq_of_toNat_eq (by simp))

/-! ### Witnesses: the queue, every command, the session -/

theorem test_hyp_StepRunsTheFront :
    ({ up with pending := [.s1Entry, .vatDraw] } : State).pending = Instr.s1Entry :: [.vatDraw] := rfl

theorem test_hyp_EmptyQueueIdles : State.reset.pending = [] := rfl

/-- A state with fuses blown, a command waiting and no free value in it meets the invariant, and its step goes on. -/
theorem test_hyp_EveryStepKeepsTheInvariant :
    let s : State := { State.reset with iden := { State.reset.iden with fuses := 64 }, pending := [.holdupCharged] }
    s.Inv ∧ ∃ t, step s = .next t := by
  refine ⟨⟨⟨fun i => ?_, fun c => ?_, fun c e h => ?_, fun c => ?_, fun c d _ e h => ?_⟩,
    ⟨by decide, rfl, fun e h => ?_, fun i => ?_, fun d => ?_⟩, by decide, by decide⟩, _, rfl⟩
  · exact Nat.zero_le _
  · exact ⟨Nat.zero_le _, List.Pairwise.nil, fun e h => by cases h⟩
  · cases h
  · exact List.nodup_nil
  · cases h
  · cases h
  · exact Nat.zero_le _
  · exact (by unfold Die.ok; decide : Die.atReset.ok)

theorem test_hyp_EveryCommandCompletes :
    let s : State := { up with mem := { up.mem with carve := { up.mem.carve with window := 2 ^ 28 } } }
    (Instr.hostMemRead (2 ^ 28 - 1) 1).wellFormed = true ∧ (2 ^ 28 - 1) + 1 ≤ s.mem.carve.window
      ∧ (Instr.hostMemWrite 0 [0]).wellFormed = true ∧ 0 + ([0] : List Byte).length ≤ s.mem.carve.window
      ∧ (Instr.laneMarkerReceive 0 31 0).wellFormed = true ∧ 31 < s.width 0
      ∧ (Instr.laneRejoin 0 31 0).wellFormed = true := by decide +kernel

theorem test_hyp_SteeringHasItsOwnCommands :
    (Instr.fence 0).steers = false ∧ exec (.fence 0) State.reset = .next State.reset ∧ State.reset.pending = []
      ∧ (∃ t, step State.reset = .next t) := ⟨rfl, rfl, rfl, _, rfl⟩

theorem test_hyp_CommandsWaitTheirTurn :
    (Instr.srcRelease 0).order = some (0x401, 0) ∧ up.cmd 0 = none
      ∧ (let p := packet 0x400 []
         (withCmd p up).cmd 0 = some (asRead p) ∧ pktOp p ≠ 0x401)
      ∧ (let p := packet 0x401 [(2, 2, 4), (8, 2, 9), (10, 6, 1)]
         (withCmd p up).cmd 0 = some (asRead p) ∧ (withCmd p up).mayStart 0 (asRead p) = false)
      ∧ (let p := packet 0x401 []
         let s := fenced (placed (withCmd p up))
         s.cmd 0 = some (asRead p) ∧ opNeedsJob 0x401 = true ∧ s.fail.selfFenced.isSome = true ∧ s.job.job.isSome = true) := by
  decide +kernel

theorem test_hyp_CompletionIsRecorded : (withCmd (packet 1 []) up).cmd 0 = some (asRead (packet 1 [])) := by decide +kernel

theorem test_hyp_WritesChangeTheirBytes :
    ([2 ^ 40 - 2, 2 ^ 40 - 1] : List Nat).length = ([1, 2] : List Byte).length ∧ ([2 ^ 40 - 2, 2 ^ 40 - 1] : List Nat).Nodup
      ∧ ([2 ^ 40 - 2, 2 ^ 40 - 1] : List Nat)[1]? = some (2 ^ 40 - 1) ∧ ([1, 2] : List Byte)[1]? = some 2
      ∧ 7 ∉ ([2 ^ 40 - 2, 2 ^ 40 - 1] : List Nat) := by decide

/-- The three outcomes of HELLO: levels 1 to 1 or 0 to 255, levels from 2 on or to 0, and a session that is open. -/
theorem test_hyp_HelloOpensSession :
    let closed : State := { up with host := { up.host with session := false, levelNow := 0 } }
    let p (lo hi : Nat) := packet 0x001 [(24, 1, lo), (25, 1, hi)]
    (∀ x ∈ [(1, 1), (0, 255)], (withCmd (p x.1 x.2) closed).Ready 0 (asRead (p x.1 x.2)) 0x001 ∧ closed.host.session = false
        ∧ fld (p x.1 x.2) 24 1 ≤ 1 ∧ 1 ≤ fld (p x.1 x.2) 25 1)
      ∧ (∀ x ∈ [(2, 255), (0, 0)], (withCmd (p x.1 x.2) closed).Ready 0 (asRead (p x.1 x.2)) 0x001
        ∧ (1 < fld (p x.1 x.2) 24 1 ∨ fld (p x.1 x.2) 25 1 = 0))
      ∧ (withCmd (p 1 1) up).Ready 0 (asRead (p 1 1)) 0x001 ∧ up.host.session = true := by decide +kernel

theorem test_hyp_FenceWaitsForEarlier :
    let p := packet 0x002 [(24, 1, 1)]
    let s := withCmd p up
    let e : CmdRec := { asRead (packet 0x003 []) with ctx := 5, phase := .started }
    let t : State := { s with host := { s.host with cmds := [(0, e), (1, asRead p)] } }
    let early (u : State) : Bool := u.host.cmds.any (fun x => decide (x.1 < 1) && (decide (fld p 24 1 % 2 = 1) || x.2.ctx == 0))
    (s.Ready 0 (asRead p) 0x002) ∧ early (s.startCmd 0) = true ∧ t.Ready 1 (asRead p) 0x002 ∧ early (t.startCmd 1) = true
      ∧ (started s).Running 0 { asRead p with phase := .started } 0x002
      ∧ (started t).Running 1 { asRead p with phase := .started } 0x002 ∧ early (started t) = true := by decide +kernel

theorem test_hyp_TokensAndTheirWaits :
    let p3 := packet 0x003 [(24, 2, 65535), (26, 6, 2 ^ 48 - 1)]
    let p4 := packet 0x004 [(24, 2, 9)]
    let p5 := packet 0x005 [(24, 1, 64), (32, 8, 0x1000), (40, 8, 0x2000)]
    let w : CmdRec := { asRead (packet 0x003 [(2, 2, 4), (8, 2, 9), (10, 6, 1)]) with readyAt := some 100 }
    let held : State := { withCmd p4 up with host := { (withCmd p4 up).host with cmds := [(0, asRead p4), (1, w)] } }
    let late : State := { up with host := { up.host with
      cmds := [(0, w)], pairs := [(0, { Pair.empty with ctl := BitVec.ofNat 64 (2 ^ 48 + 2 ^ 20) })] } }
    (withCmd p3 up).Ready 0 (asRead p3) 0x003
      ∧ (withCmd p4 up).Ready 0 (asRead p4) 0x004 ∧ ((withCmd p4 up).startCmd 0).tokenHeld 9 = false
      ∧ held.Ready 0 (asRead p4) 0x004 ∧ (held.startCmd 0).tokenHeld 9 = true
      ∧ (let s := hostBytes 0x1000 (List.replicate 128 1) (withCmd p5 up)
         s.Ready 0 (asRead p5) 0x005 ∧ fld p5 24 1 = 64 ∧ fld p5 40 8 % 32 = 0
           ∧ (s.startCmd 0).hostRead (fld p5 32 8) 128 = some (List.replicate 128 1))
      ∧ (let t := late.advance (100 + ms 1)
         t.cmd 0 = some w ∧ w.phase = .waiting ∧ tget t.sheet.launches 0 = none ∧ pktWaits w.packet = true
           ∧ t.token (pktWaitTok w.packet) < pktWaitVal w.packet ∧ (t.pair w.pair).waitLimit = 1 ∧ 100 + ms 1 ≤ t.time)
      ∧ (late.advance (100 + ms 1 - 1)).time < 100 + ms 1 := by decide +kernel

/-- Sizes of 1 byte and of 1 TiB, a place of 127; the slot is the first, or there is none; where an extent is found is a
free choice. -/
theorem test_hyp_HandlesAreMadeAndFreed :
    let pa (size cls cons place : Nat) := packet 0x100 [(24, 8, size), (32, 1, cls), (34, 1, cons), (36, 2, place)]
    let e : Extent := { cls := 0, stripe := 3, place := 0, hostVisible := false, fabricRead := false, size := 2 ^ 21, base := 0, hdm := 0 }
    let full : State := { up with mem := { up.mem with fresh := 2 ^ 18 } }
    let one (s : State) : State := s.makeHandle 0 1 false e
    let p1 := packet 0x101 [(24, 4, 2 ^ 18)]
    let p2 := packet 0x102 [(24, 4, 2 ^ 18), (32, 8, 0x1000)]
    (∀ x ∈ [(1, 0, 0, 0), (2 ^ 40, 7, 1, 127), (2 ^ 21, 1, 2, 3)], let p := pa x.1 x.2.1 x.2.2.1 x.2.2.2
        (withCmd p up).Ready 0 (asRead p) 0x100 ∧ (withCmd p up).nextSlot = some (0, 1)
          ∧ (withCmd p full).Ready 0 (asRead p) 0x100 ∧ (withCmd p full).nextSlot = none)
      ∧ (withCmd p1 up).Ready 0 (asRead p1) 0x101 ∧ ((withCmd p1 up).startCmd 0).handleFor 0 (2 ^ 18) = none
      ∧ (let s := withCmd p1 (one up)
         s.Ready 0 (asRead p1) 0x101 ∧ ((s.startCmd 0).handleFor 0 (2 ^ 18)).isSome = true
           ∧ (s.startCmd 0).freeRefused 0 (2 ^ 18) = false ∧ (started s).Running 0 { asRead p1 with phase := .started } 0x101)
      ∧ (let s := withCmd p1 (up.makeHandle 0 1 true e)
         s.Ready 0 (asRead p1) 0x101 ∧ ((s.startCmd 0).handleFor 0 (2 ^ 18)).isSome = true
           ∧ (s.startCmd 0).freeRefused 0 (2 ^ 18) = true)
      ∧ (withCmd p2 up).Ready 0 (asRead p2) 0x102 ∧ ((withCmd p2 up).startCmd 0).handleFor 0 (2 ^ 18) = none
      ∧ (withCmd p2 (one up)).Ready 0 (asRead p2) 0x102
      ∧ ((withCmd p2 (one up)).startCmd 0).handleFor 0 (2 ^ 18) = some { gen := 1, live := true, firmware := false, ext := e } := by
  decide +kernel

/-- Whatever the placement unit prefers, an empty package has room for 2 MiB over all its channels. -/
theorem test_hyp_HandlesArePlaced (d : Nat) :
    let e : Extent := { cls := 0, stripe := 3, place := 0, hostVisible := false, fabricRead := false, size := 2 ^ 21, base := 0, hdm := 0 }
    (up.placeExtent e d).isSome = true := by
  intro e
  have free : ∀ x, up.extentFree x = true := fun _ => rfl
  have region : up.handleRegion false = (0, up.mem.carve.base 6) := rfl
  have room : 0 ≤ 0 ∧ 0 + e.perChannel ≤ up.mem.carve.base 6 := by decide +kernel
  have none_ : up.liveExtents = [] := rfl
  simp only [State.placeExtent, free, region, none_, Option.isSome_map, e, Bool.and_true]
  split
  · rfl
  · simp only [e] at room
    simpa using room

theorem test_hyp_MemoryAndTrackerAreConfigured :
    let p (vat stack spill : Nat) := packet 0x103 [(24, 2, vat), (26, 1, stack), (27, 1, spill), (28, 1, 1)]
    let q (first count g cap thr apply : Nat) := packet 0x104
      [(24, 2, first), (26, 2, count), (28, 2, g), (30, 2, cap), (32, 2, thr), (34, 1, apply)]
    (∀ x ∈ [(4, 0, 1), (384, 110, 60), (0, 128, 64)], (withCmd (p x.1 x.2.1 x.2.2) up).Ready 0 (asRead (p x.1 x.2.1 x.2.2)) 0x103
        ∧ carveFits (p x.1 x.2.1 x.2.2) = true ∧ (withCmd (p x.1 x.2.1 x.2.2) up).carveInUse = false)
      ∧ (∀ x ∈ [(3, 0, 1), (385, 0, 1), (4, 129, 1), (4, 0, 0), (384, 128, 1)], carveFits (p x.1 x.2.1 x.2.2) = false)
      ∧ (let s : State := withCmd (p 4 0 1) { up with vat := { up.vat with running := true } }
         s.Ready 0 (asRead (p 4 0 1)) 0x103 ∧ s.carveInUse = true)
      ∧ (let k := q 1023 1 4096 1024 1024 3
         (withCmd k up).Ready 0 (asRead k) 0x104 ∧ fld k 24 2 + fld k 26 2 ≤ 1024 ∧ fld k 28 2 ≤ 4096
           ∧ guaranteeSum (tset up.trk.guarantee 1023 4096) ≤ 524288 ∧ fld k 32 2 ≤ 1024)
      ∧ (withCmd (q 0 0 0 0 0 0) up).Ready 0 (asRead (q 0 0 0 0 0 0)) 0x104 := by decide +kernel

/-- A package whose request tracker holds back a packet of context 3. -/
def waits : TrkWait := { ctx := 3, vc := 1, pkt := [0], since := 0 }

theorem test_hyp_StackScrubAndTracker :
    let p := packet 0x118 [(24, 2, 2048)]
    let roomy (s : State) : State := { s with mem := { s.mem with carve := { s.mem.carve with stack := 2 ^ 30 } } }
    let l : Launch := { words := [], want := 1, held := [0], slots := [], params := [], bindings := [], usesStack := true, stop := none, zeros := 0 }
    let k := packet 0x119 []
    (withCmd p (roomy up)).Ready 0 (asRead p) 0x118 ∧ (roomy up).mem.stackBy = none ∧ (roomy up).mem.carve.stack ≠ 0
      ∧ (let s : State := withCmd p { roomy up with mem := { (roomy up).mem with stackBy := some .selfTest } }
         s.Ready 0 (asRead p) 0x118 ∧ s.mem.stackBy.isSome = true)
      ∧ (withCmd k up).Ready 0 (asRead k) 0x119
      ∧ (let s : State := withCmd k { up with sheet := { up.sheet with launches := [(5, l)] } }
         s.Ready 0 (asRead k) 0x119 ∧ ∃ x ∈ s.sheet.launches, x.2.usesStack = true ∧ x.2.held ≠ [])
      ∧ up.domOn (13 + (2 ^ 36 - 1) / 2 ^ 34 % 4) = true
      ∧ (({ up with trk := { up.trk with waiting := [waits] } } : State).nextWaiter.map Prod.fst) = some waits := by decide +kernel

/-- Two wrong symbols in a word of the firmware carve-out are uncorrectable. -/
theorem test_hyp_uncorrectable :
    let s : State := { up with mem := { up.mem with dram := memPut [] (16 * (2 ^ 26 - 1)) (leBytes 16 0), err := [(2 ^ 26 - 1, 0x101)] } }
    (s.readWord (2 ^ 26 - 1)).2.1 = true ∧ (s.readWord 0).2.1 = false ∧ 2 ^ 30 - 2 ^ 21 ≤ 16 * (2 ^ 26 - 1) % 2 ^ 30 := by
  decide +kernel

/-! ### Witnesses: sheet programs -/

/-- A sheet-program word from fields: lowest bit, value. -/
def word (fs : List (Nat × Nat)) : Word128 := BitVec.ofNat 128 (fs.map (fun f => f.2 * 2 ^ f.1)).sum

/-- The handle 0x4_0000: 2 MiB of class 0 over all channels, of which every byte read is known to be 0 up to `n`. -/
def withHandle (n : Nat) (s : State) : State :=
  let e : Extent := { cls := 0, stripe := 3, place := 0, hostVisible := false, fabricRead := false, size := 2 ^ 21, base := 0, hdm := 0 }
  (s.makeHandle 0 1 false e).extWrite e 0 (List.replicate n 0)

/-- A launch of one program with the handle in slot 1, all of it, on cluster 2,047; command 9 issued it. -/
def program (ws : List Word128) : Launch :=
  { words := ws, want := 1, held := [2047], slots := [⟨0, false, 0, 0⟩, ⟨2 ^ 18, true, 0, 2 ^ 21⟩],
    params := List.replicate 16 7, bindings := [], usesStack := true, stop := none, zeros := 0 }

/-- Cluster 2,047 as that launch has it. -/
def cluster : Cluster := { Cluster.idle with launch := some 9 }

/-- A package whose cluster 2,047 stands as `c` in the launch `l`. -/
def running (l : Launch) (c : Cluster) (s : State) : State :=
  { s with
    host := { s.host with cmds := [(9, { asRead (packet 0x200 []) with phase := .started })] }
    sheet := { s.sheet with clusters := [(2047, c)], launches := [(9, l)] } }

/-- A queue word that has not started, with every index register 0. -/
def queued (uid : Nat) (w : Word128) : QWord :=
  { uid := uid, idx := 0, word := w, ix := List.replicate 16 0, rc := List.replicate 8 ⟨0x100, 0, 0⟩, started := false, adding := false }

/-- The control word `o` with operand fields `fs`, waiting for four tokens of local token 31 that are there. -/
def control (o : Nat) (fs : List (Nat × Nat)) : Word128 :=
  word ([(126, 3), (120, o), (119, 1), (114, 31), (112, 3), (111, 1), (106, 31), (104, 3)] ++ fs)

def atWord (w : Word128) (c : Cluster) : State := running (program [w]) { c with tokens := [(31, 4)] } up

theorem test_hyp_ControlWordsAct :
    (∀ o ∈ [0x00, 0x05, 0x06, 0x07, 0x09, 0x0A], (atWord (control o []) cluster).AtControl 2047 o (control o []))
      ∧ (∀ fs ∈ [[(92, 15), (91, 1), (84, 15)], [(92, 0), (0, 2 ^ 40 - 1)]],
          (atWord (control 0x01 fs) cluster).AtControl 2047 0x01 (control 0x01 fs))
      ∧ (let w := control 0x02 [(92, 3), (52, 2 ^ 40 - 1), (0, 0)]
         (atWord w cluster).AtControl 2047 0x02 w ∧ ctInc w = -1 ∧ ctMod w = 2 ^ 40)
      ∧ (let w := control 0x03 [(0, 2 ^ 24 - 1)]
         (atWord w cluster).AtControl 2047 0x03 w ∧ ctCount w ≠ 0)
      ∧ ((atWord (control 0x03 []) cluster).AtControl 2047 0x03 (control 0x03 []) ∧ ctCount (control 0x03 []) = 0)
      ∧ (let w := control 0x04 [(92, 15)]
         (atWord w { cluster with lc := [(15, 1)] }).AtControl 2047 0x04 w ∧ tgetD ([(15, 1)] : Tab Nat) (ctIx w) 0 = 1
           ∧ (atWord w { cluster with lc := [(15, 2 ^ 24 - 1)] }).AtControl 2047 0x04 w
           ∧ tgetD ([(15, 2 ^ 24 - 1)] : Tab Nat) (ctIx w) 0 = (2 ^ 24 - 3) + 2 ∧ (2 ^ 24 - 3) + 2 < 2 ^ 24)
      ∧ (let w := control 0x08 [(93, 7), (92, 1), (64, 0xBFFF)]
         (atWord w cluster).AtControl 2047 0x08 w ∧ scratchOk (ctSaddr w) 16 = true)
      ∧ (let w := control 0x00 []
         wSigEn w = true ∧ (cluster.token (wSigTok w)) + wSigCnt w ≤ 65535
           ∧ 65535 < ({ cluster with tokens := [(31, 65532)] } : Cluster).token (wSigTok w) + wSigCnt w
           ∧ wSigEn (word [(126, 3)]) = false) := by decide +kernel

/-- The word `w` at the head of the matrix (`q` = 1) or vector queue. -/
def atQueue (q : Nat) (w : Word128) (c : Cluster) : State :=
  running (program []) (c.setQueue q [queued 0 w]) up

/-- A binding of shard 0 of one tile, and the step that has credit for it. -/
def bound : Binding := { shard := 0, step := 1, rows := 1, cols := 1, replicas := 1, final := true }
def credited : RedStep := { RedStep.fresh 1 1 0 with credit := [0], requested := true }

theorem test_hyp_MatrixWordsComplete :
    let g (k : Option Bool) : Group := { depth := 0, occupied := [], topValid := false, kind := k }
    (let w := word [(126, 1), (120, 0x00), (90, 48), (86, 15), (85, 1)]
     (atQueue 1 w cluster).AtHead 2047 1 0x00 (queued 0 w) ∧ mPage w + mDepth w ≤ 63 ∧ cluster.groups.length < 8
       ∧ ∀ i, i ≤ 15 → cluster.pageOpen (mPage w + i) = false)
    ∧ (∀ fmt ∈ [fmtFP32, fmtBF16], let w := word [(126, 1), (120, 0x01), (100, fmt), (50, 63), (42, 1), (28, 8), (16, 8), (12, fmt)]
       let c := { cluster with groups := [(63, g none)] }
       let s := atQueue 1 w c
       let t := s.begun 2047 1 (queued 0 w)
       s.AtHead 2047 1 0x01 (queued 0 w) ∧ (t.draw.2.mOperand s.free 2047 (wFa w) 0 (mmaLda w) (mmaNk w) (!mmaTa w)).isSome = true
         ∧ (t.draw.2.mOperand s.free 2047 (mmaFb w) 0 (mmaLdb w) (mmaNk w) (mmaTb w)).isSome = true)
    ∧ (let w := word [(126, 1), (120, 0x02), (90, 63), (73, 0xBF00), (57, 8)]
       let c := { cluster with groups := [(63, g (some true))] }
       (atQueue 1 w c).AtHead 2047 1 0x02 (queued 0 w) ∧ gcStream w = false
         ∧ scratchOk (gcAddr w + 31 * gcLdc w) (32 * fmtBits (wFd w) / 8) = true ∧ fmtBlock (wFd w) = false)
    ∧ (let w := word [(126, 1), (120, 0x02), (90, 63), (89, 1)]
       let c := { cluster with groups := [(63, g (some false))], matQ := [queued 0 w] }
       let s : State := { running { program [] with bindings := [bound] } c up with red := { steps := [(1, credited)] } }
       let t := s.begun 2047 1 (queued 0 w)
       s.AtHead 2047 1 0x02 (queued 0 w) ∧ gcStream w = true
         ∧ ((t.launchOf (t.clusCmd 2047)).bind (fun l => l.bindings[gcBinding w]?)) = some bound
         ∧ (t.redStep 0 1).streamed.contains 0 = false ∧ (t.redStep 0 1).abandoned = false
         ∧ ((t.draw.2.firstClose bound).redStep 0 1).refused = false
         ∧ ((t.draw.2.firstClose bound).redStep 0 1).credit.contains 0 = true)
    ∧ (let w := word [(126, 1), (120, 0x03), (90, 63), (74, 0xBF00), (58, 8)]
       (atQueue 1 w cluster).AtHead 2047 1 0x03 (queued 0 w) ∧ cluster.pageOpen 63 = false
         ∧ scratchOk (plAddr w + 31 * plLds w) 128 = true) := by decide +kernel

/-- The copy word `o` with operand fields `fs`. -/
def copy (o : Nat) (fs : List (Nat × Nat)) : Word128 := word ((120, o) :: fs)

/-- Two copy words in flight order: a CP_FILL of scratch unit 0, and `w`, which touches other bytes. -/
def atCopy (w : Word128) (c : Cluster) (s : State) : State :=
  running (program []) { c with copyQ := [queued 0 (copy 0x03 [(20, 1)]), queued 1 w] } s




/-- Rows at the end of scratch and of the slot, rows between formats, a full sub-stack and one without room, a record that
fits and one that does not. -/
theorem test_hyp_CopiesComplete :
    let began (s : State) : State := s.setClus 2047 ((startUpTo (s.clus 2047) 1).getD cluster)
    let may (o : Nat) (w : Word128) (s : State) : Bool :=
      ((s.clus 2047).copyQ.take 1).all (fun q => (s.footprint 2047 q).all (fun a => (s.footprint 2047 (queued 1 w)).all (fun b => !a.clash b)))
        && (startUpTo (s.clus 2047) 1).isSome && decide (wOp w = o)
    (let w := copy 0x00 [(92, 1), (64, 2 ^ 17 - 2), (48, 0xBFFE), (32, 2), (20, 1), (4, 1)]
     let s := atCopy w cluster (withHandle 0 up)
     may 0x00 w s = true ∧ ((began s).slotExt 2047 (cpSlot w) (cpRow0 (queued 1 w) + 16) 16).isSome = true
       ∧ scratchOk (cpUnit (queued 1 w)) (16 * units16 (cpDstBytes (queued 1 w)) * cpRows w) = true ∧ (began s).mem.err = [])
    ∧ (let w := copy 0x01 [(92, 1), (64, 0), (48, 0x10), (32, 1), (20, 4), (100, fmtFP32), (96, fmtBF16)]
       let s := atCopy w cluster (withHandle 0 up)
       may 0x01 w s = true ∧ cpDstBytes (queued 1 w) = 32 ∧ ((began s).slotExt 2047 1 0 32).isSome = true
         ∧ ((began s).readPacked 0 2047 (cpUnit (queued 1 w)) (cpRowLen w) (cpRows w)).isSome = true)
    ∧ (let w := copy 0x02 [(64, 0xBFFF), (48, 0x10), (32, 1), (20, 1)]
       let s := atCopy w cluster up
       may 0x02 w s = true ∧ ((began s).readPacked 0 2047 (cpMoveSrc w) (cpRowLen w) (cpRows w)).isSome = true
         ∧ scratchOk (cpUnit (queued 1 w)) 16 = true)
    ∧ (let w := copy 0x03 [(48, 0xB000), (20, 0)]
       may 0x03 w (atCopy w cluster up) = true ∧ cpRowLen w = 4096 ∧ scratchOk (cpUnit (queued 1 w)) (16 * 4096) = true)
    ∧ (let w := copy 0x04 [(48, 0x10), (32, 1), (20, 1), (4, 65535)]
       let s : State := atCopy w cluster { up with
         mem := { up.mem with carve := { up.mem.carve with stack := 32 } }, sheet := { up.sheet with stackRanks := some 1 } }
       let none_ : State := { s with sheet := { s.sheet with stackRanks := some 2 } }
       may 0x04 w s = true ∧ ((began s).draw.2.sread 0 2047 0x10 16).isSome = true
         ∧ stackBytes ((began s).subStack 2047) + 16 + 16 ≤ (began s).subSize
         ∧ may 0x04 w none_ = true ∧ (began none_).subSize < stackBytes ((began none_).subStack 2047) + 16 + 16)
    ∧ (let w := copy 0x05 [(48, 0xBFFF), (32, 1), (20, 1), (4, 5)]
       let s : State := atCopy w cluster { up with sheet := { up.sheet with subStacks := [(0, [{ mark := 5, len := 16, data := [] }])] } }
       may 0x05 w s = true ∧ scratchOk (cpUnit (queued 1 w)) 16 = true
         ∧ ((began s).subStack 2047).map (fun r => (r.mark, r.len)) = [(cpMark w, 16)]) := by decide +kernel

theorem test_hyp_CopiesComplete_words :
    let w := copy 0x03 [(48, 0xBFFF), (20, 1)]
    (atCopy w cluster up).AtCopy 2047 1 0x03 (queued 1 w)
      { cluster with copyQ := [{ queued 0 (copy 0x03 [(20, 1)]) with started := true }, { queued 1 w with started := true }] } := by
  decide +kernel

/-- Scratch whose bytes from unit `u` on are known. -/
def withScratch (u : Nat) (bs : List Byte) (c : Cluster) : Cluster := { c with scratch := memPut c.scratch (16 * u) bs }

theorem test_hyp_IndexedAccessCompletes :
    let lists := withScratch 0x20 (leBytes 4 131071 ++ leBytes 4 0xFFFFFFFF ++ leBytes 4 0) cluster
    (∀ o ∈ [0x08, 0x09, 0x0A],
       let w := copy o [(92, 1), (76, 0x20), (56, 0xBFFD), (40, 3), (28, 1), (100, fmtFP32), (96, fmtFP32)]
       let s := atCopy w lists (withHandle 16 up)
       let v := (s.setClus 2047 lists).draw.2
       (s.footprint 2047 (queued 0 (copy 0x03 [(20, 1)]))).all (fun a => (s.footprint 2047 (queued 1 w)).all (fun b => !a.clash b)) = true
         ∧ wOp w = o ∧ ((match ixReady 2047 (queued 1 w) s.free v with
           | .ok (_, ix) => some ix
           | .error _ => none) = some [some 131071, none, some 0])
         ∧ scratchOk 0xBFFD (3 * (ixShape (queued 1 w)).2) = true ∧ (v.sread 0 2047 0xBFFD 48).isSome = true)
    ∧ (∀ o ∈ [0x110, 0x111, 0x112],
       let p := packet o [(24, 4, 2 ^ 18), (28, 6, 256), (34, 2, 1), (36, 4, 2 ^ 18), (40, 6, 0), (48, 4, 2 ^ 18), (52, 6, 64), (58, 4, 2)]
       let s := withCmd p ((withHandle 256 up).extWrite
         { cls := 0, stripe := 3, place := 0, hostVisible := false, fabricRead := false, size := 2 ^ 21, base := 0, hdm := 0 } 0
         (leBytes 4 1 ++ leBytes 4 0xFFFFFFFF))
       s.Ready 0 (asRead p) o ∧ (match idxChecks 0 (idxCmd p) (o == 0x110) (o == 0x112) (s.startCmd 0) with
         | .ok (some r, _) => some (r.n, r.ob, r.ix)
         | _ => none) = some (4, 16, [some 1, none]))
    ∧ (let a : PendAdd := { addr := 2 ^ 40 - 4, value := 0x3F800000, issuer := .command 0 }
       let s : State := { up with mem := { up.mem with adds := [{ a with issuer := .cluster 2047 0 }, a] } }
       s.mem.adds[1]? = some a ∧ s.mem.adds[0]? = some { a with issuer := .cluster 2047 0 } ∧ s.mem.err = []) := by decide +kernel

/-- The vector word `o` with operand fields `fs`. -/
def vector (o : Nat) (fs : List (Nat × Nat)) : Word128 := word ([(126, 2), (120, o)] ++ fs)

/-- 262,144 BF16 elements, which fill half of scratch, and 64 FP32 elements at its end; a broadcast second source in its
last unit. -/
theorem test_hyp_VectorElementwiseCompletes :
    (∀ o ∈ [0x07, 0x08, 0x09, 0x0A, 0x10, 0x11, 0x12, 0x13, 0x14, 0x15, 0x16, 0x17, 0x18],
        let w := vector o [(100, fmtBF16), (96, fmtBF16), (8, 0)]
        (atQueue 2 w cluster).AtHead 2047 2 o (queued 0 w) ∧ (queued 0 w).fits (64 * 4096) (64 * 4096) = true ∧ vN w = 4096)
      ∧ (∀ o ∈ [0x00, 0x01, 0x02, 0x04, 0x05, 0x06],
        let w := vector o [(100, fmtFP32), (96, fmtFP32), (80, 0xBFF0), (60, 0xBFF0), (40, 0xBFFF), (8, 1), (7, 1)]
        (atQueue 2 w cluster).AtHead 2047 2 o (queued 0 w) ∧ (queued 0 w).fits 64 64 = true
          ∧ (queued 0 w).operandFits (vU2 (queued 0 w)) 64 (vB2 w) = true ∧ vN w = 1) := by decide +kernel

theorem test_hyp_VectorMasksAndReductionsComplete :
    (∀ o ∈ [0x20, 0x21, 0x22, 0x23, 0x24, 0x25],
      let w := vector o [(100, fmtFP32), (80, 0xBFFF), (60, 0xBFF0), (40, 0xBFF0), (8, 1)]
      (atQueue 2 w cluster).AtHead 2047 2 o (queued 0 w) ∧ planesFit (wFa w) (vU1 (queued 0 w)) 64 = true
        ∧ (queued 0 w).operandFits (vU2 (queued 0 w)) 64 false = true ∧ scratchOk (vD w) 8 = true)
    ∧ (let w := vector 0x27 [(80, 0x4000), (20, 65535), (8, 0), (5, 1)]
       (atQueue 2 w cluster).AtHead 2047 2 0x27 (queued 0 w) ∧ scratchOk (vD w) (8 * 4096) = true ∧ vN w = 4096)
    ∧ (∀ b ∈ [0, 1], let w := vector 0x26 [(80, 0xBFF0), (60, 0), (40, 0), (20, 0xBFFF), (8, 1), (6, b)]
       (atQueue 2 w cluster).AtHead 2047 2 0x26 (queued 0 w) ∧ (queued 0 w).fits 64 64 = true ∧ (queued 0 w).operandFits 0 64 (vB2 w) = true
         ∧ scratchOk (vS3 w) (if vB3 w then 1 else 8) = true)
    ∧ (let w := vector 0x03 [(80, 0xBFF0), (60, 0), (40, 0), (20, 0xBFF0), (8, 1)]
       (atQueue 2 w cluster).AtHead 2047 2 0x03 (queued 0 w) ∧ (queued 0 w).fits 64 64 = true ∧ (queued 0 w).operandFits 0 64 (vB2 w) = true
         ∧ (queued 0 w).operandFits (vS3 w) 64 (vB3 w) = true) := by decide +kernel

theorem test_hyp_VectorMasksAndReductionsComplete_rows :
    (∀ o ∈ [0x30, 0x31, 0x32], let w (m : Nat) := vector o [(80, 0xBFFF), (60, 0), (8, 1), (1, m)]
       (atQueue 2 (w 0) cluster).AtHead 2047 2 o (queued 0 (w 0)) ∧ vModeA (w 0) = false ∧ (queued 0 (w 0)).fits 64 1 = true
         ∧ (atQueue 2 (w 1) cluster).AtHead 2047 2 o (queued 0 (w 1)) ∧ vModeA (w 1) = true ∧ (queued 0 (w 1)).fits 64 1 = true)
    ∧ (∀ o ∈ [0x34, 0x35, 0x36, 0x37], let w := vector o [(80, 0xBFE0), (60, 0), (40, 0x100), (20, 1), (8, 2)]
       let bs : List Byte := leBytes 4 0 ++ leBytes 4 3 ++ leBytes 4 3
       let c := withScratch 0x100 bs cluster
       let s := atQueue 2 w c
       s.AtHead 2047 2 o (queued 0 w) ∧ (s.begun 2047 2 (queued 0 w)).draw.2.sread s.free 2047 (vU2 (queued 0 w)) 12 = some bs
         ∧ badOffset ((chunks 3 4 bs).map leNat) = none ∧ planesFit (wFa w) 0 (3 * (64 * vW w)) = true
         ∧ planesFit (wFd w) (vD w) (2 * (64 * vW w)) = true)
    ∧ (∀ m ∈ [0, 1], let w := vector 0x38 [(80, 0xBFF0), (60, 0), (40, 0xBFF0), (8, 1), (0, m)]
       (atQueue 2 w cluster).AtHead 2047 2 0x38 (queued 0 w) ∧ scratchOk (vU2 (queued 0 w)) (4 * 64) = true ∧ (queued 0 w).fits 64 64 = true)
    ∧ (let w := vector 0x39 [(80, 0xBFF0), (60, 0), (40, 0xBFF0), (20, 0), (8, 1), (0, 1)]
       (atQueue 2 w cluster).AtHead 2047 2 0x39 (queued 0 w) ∧ vW w = 64 ∧ scratchOk (vU2 (queued 0 w)) (4 * 64) = true
         ∧ (queued 0 w).fits 64 64 = true) := by decide +kernel

/-- A row of 65,536 BF16 elements that fills a sixth of scratch; a backward row of 64 elements whose statistic is live at
its home, or in its spill record. -/
theorem test_hyp_RowOperationsComplete :
    let q (w : Word128) := queued 0 w
    let one : Launch := { program [] with params := List.replicate 16 0x3F800000 }
    let e : Stat := { bank := 0, tag := 0, kind := 0, hi := 0, lo := 0 }
    let s (w : Word128) : State := running one { cluster with vecQ := [q w] } up
    let good (t : State) (w : Word128) : Prop :=
      (f32 (BitVec.ofNat 32 (t.param 2047 (rwPrm w)).toNat)).isFinite = true
        ∧ FVal.lt .zero (f32 (BitVec.ofNat 32 (t.param 2047 (rwPrm w)).toNat)) = true
    (∀ o ∈ [0x3A, 0x3C, 0x3E], let w := vector o [(100, fmtBF16), (96, fmtBF16), (80, 0x2000), (20, 0), (12, 1)]
      (s w).AtHead 2047 2 o (q w) ∧ good ((s w).begun 2047 2 (q w)) w ∧ rowRange (q w) false = true ∧ rwN w = 65536)
    ∧ (∀ o ∈ [0x3B, 0x3D, 0x3F], let w := vector o [(100, fmtFP32), (96, fmtFP32), (80, 0x2000), (60, 0), (40, 0x100), (20, 64), (12, 1)]
      let home : State := { s w with sheet := { (s w).sheet with homes := [(0, [e])] } }
      let spill : State := { s w with sheet := { (s w).sheet with spilled := [(0, e)] } }
      home.AtHead 2047 2 o (q w) ∧ good (home.begun 2047 2 (q w)) w ∧ rowRange (q w) true = true ∧ home.mem.err = []
        ∧ ((home.begun 2047 2 (q w)).statHome ((home.begun 2047 2 (q w)).statBank 2047) 0).isSome = true ∧ rwRows w = 1
        ∧ ((spill.begun 2047 2 (q w)).statSpilled ((spill.begun 2047 2 (q w)).statBank 2047) 0).isSome = true) := by decide +kernel

/-- A launch block of one word, for 2,048 clusters, whose program stands at the start of the handle. -/
def launchBlock : BitVec 8192 := mkRec 8192 [(0, 4, 1), (4, 2, 2048), (64, 4, 2 ^ 18), (80, 8, 16)]

/-- A LAUNCH whose block stands at 0x1000, its program one STOP. -/
def launching : State :=
  withCmd (packet 0x200 [(24, 8, 0x1000)]) ((withHandle 0 up).extWrite
    { cls := 0, stripe := 3, place := 0, hostVisible := false, fabricRead := false, size := 2 ^ 21, base := 0, hdm := 0 } 0
    (leBytes 16 (word [(126, 3), (120, 0x0A)]).toNat))

theorem test_hyp_LaunchesRunAndEnd_block (b : BitVec 8192) : (withHost 0x1000 (recBytes b) launching).hostRec 8192 0x1000 = some b :=
  withHost_rec rfl _ _ _

theorem test_hyp_LaunchesRunAndEnd :
    let p := packet 0x200 [(24, 8, 0x1000)]
    let last : State := running { program [] with usesStack := false } { cluster with ended := true } up
    (launching.cmd 0 = some (asRead p) ∧ pktOp p = 0x200 ∧ fld p 24 8 = 0x1000 ∧ launching.mayStart 0 (asRead p) = true
      ∧ launching.launchOf 0 = none ∧ launching.fail.selfFenced = none
      ∧ (match launchCheck 0 (asRead p) launchBlock launching with
        | .ok (some l, _) => some (l.want, l.words)
        | _ => none) = some (2048, [word [(126, 3), (120, 0x0A)]])
      ∧ (match launchCheck 0 (asRead p) 0 launching with
        | .error st => some st
        | .ok _ => none) = some (stBadParam, 0))
    ∧ (last.launchOf 9 = some { program [] with usesStack := false } ∧ (last.clus 2047).finished = true ∧ last.mem.adds = []
      ∧ last.missingTiles (program []) = [])
    ∧ (let l : Launch := { program [] with held := [], usesStack := false, want := 2048 }
       let w : State := { withCmd (packet 0x200 []) up with sheet := { up.sheet with launches := [(0, l)] } }
       w.launchOf 0 = some l ∧ (asRead (packet 0x200 [])).phase = .waiting ∧ w.selftesting = false ∧ w.stackOk l = true
         ∧ l.bindings.all w.bindingOk = true)
    ∧ (let t : State := (running (program []) cluster up).advance 11184811
       (t.clus 2047).launch = some 9 ∧ (t.clus 2047).finished = false ∧ (t.clus 2047).waitsOutside = false
         ∧ 2 ^ 24 * 10 ≤ (t.time - (t.clus 2047).progressAt) * (tgetD t.pwr.clks (1 + 2047 / 512) Clk.atReset).j
         ∧ (11184810 - (t.clus 2047).progressAt) * 15 < 2 ^ 24 * 10) := by decide +kernel

/-- Whichever clusters are preferred, a launch that wants all 2,048 of an idle package finds them. -/
theorem test_hyp_LaunchesRunAndEnd_clusters (rot : Nat) : 2048 ≤ (up.freeClusters rot).length := by
  have free : ∀ i, i < 2048 → (up.domOn (5 + i / 512) && up.domOn (9 + i / 512)) = true := by
    intro i h
    have k : i / 512 < 4 := by omega
    generalize i / 512 = d at k
    interval_cases d <;> decide
  have idle : ∀ cl, (up.clus cl).launch.isNone = true := fun _ => rfl
  unfold State.freeClusters
  rw [List.filter_eq_self.mpr]
  · simp
  · intro a h
    obtain ⟨i, _, rfl⟩ := List.mem_map.mp h
    simpa [idle] using free _ (Nat.mod_lt _ (by decide))

/-! ### Witnesses: the host attachment -/

/-- Pair `n` with registers, its rings of 2^k entries for k = 4 and 16, vector 63, context 1,023. -/
def pairOf (watch : Bool) (k : Nat) : Pair :=
  { Pair.empty with
    sq := BitVec.ofNat 64 (0x10000 + k), cq := BitVec.ofNat 64 (0x200000 + 63 * 32 + k), line := 0x4000
    ctl := BitVec.ofNat 64 (1023 + 2 ^ 20 + (if watch then 2 ^ 24 else 0) + 5 * 2 ^ 32 + 2 * 2 ^ 40) }

def withPair (n : Nat) (p : Pair) (s : State) : State := { s with host := { s.host with pairs := [(n, p)] } }

theorem test_hyp_QueuePairsMove :
    (∀ k ∈ [4, 16], let s := withPair 8191 (pairOf false k) up
      let p := s.pair 8191
      s.host.linkUp = true ∧ p.enable = true ∧ p.watch = false ∧ 2 ^ k - 1 < p.sqSize ∧ p.sqSize ≤ 2 ^ k ∧ 2 ^ k - 1 < p.cqSize
        ∧ p.cqSize ≤ 2 ^ k)
    ∧ (bit (0x10000FFFF : BitVec 64) 32 = true ∧ bit (0x10000FFFF : BitVec 64) 33 = false)
    ∧ (bit (0x2FFFF0000 : BitVec 64) 33 = true ∧ bit (0x2FFFF0000 : BitVec 64) 32 = false)
    ∧ (let s := withPair 8191 (pairOf true 4) up
       (s.pair 8191).enable = true ∧ (s.pair 8191).watch = true
         ∧ (withHost 0x4000 (List.replicate 8 1) s).hostRead (s.pair 8191).lineAddr 8 = some (List.replicate 8 1)
         ∧ ({ s with host := { s.host with mem := [(0x4007, none)] } } : State).hostRead (s.pair 8191).lineAddr 8 = none)
    ∧ (∀ k ∈ [4, 16], let s := withPair 8191 { pairOf false k with ctl := 0 } up
       let p := s.pair 8191
       p.enable = false ∧ s.busy 8191 = false ∧ bit (0x1100000 : BitVec 64) 20 = true ∧ bit (0x1100000 : BitVec 64) 28 = false
         ∧ 4 ≤ bits p.sq 4 0 ∧ bits p.sq 4 0 ≤ 16 ∧ 4 ≤ bits p.cq 4 0 ∧ bits p.cq 4 0 ≤ 16 ∧ s.host.cxlMode = true)
    ∧ (∀ k ∈ [3, 17], let s := withPair 8191 { pairOf false k with ctl := 0 } up
       (s.pair 8191).enable = false ∧ s.busy 8191 = false ∧ (bits (s.pair 8191).sq 4 0 < 4 ∨ 16 < bits (s.pair 8191).sq 4 0))
    ∧ (bit (0 : BitVec 64) 20 = false ∧ bit (0 : BitVec 64) 28 = false ∧ bit (0x10100000 : BitVec 64) 20 = true
       ∧ bit (0x10100000 : BitVec 64) 28 = true) := by decide +kernel

theorem test_hyp_RecordsAndNotices :
    let r : Rec := { bytes := 1, atOnce := false, command := true }
    let o : Occ := { ctx := 0, detect := 0, data := 0, detail := 0 }
    (let s := withPair 8191 { pairOf false 4 with waiting := [r], cqTail := 15, head := 1 } up
     s.host.linkUp = true ∧ (s.pair 8191).waiting = r :: [] ∧ ((s.pair 8191).cqTail + 1) % (s.pair 8191).cqSize ≠ (s.pair 8191).head)
    ∧ (let s := withPair 8191 { pairOf false 4 with uncovered := 1, firstAt := 7 } up
       let t := s.advance 5007
       (t.pair 8191).uncovered ≠ 0 ∧ (t.pair 8191).firstAt + us (t.pair 8191).intDelay ≤ t.time
         ∧ (s.advance 5006).time < (t.pair 8191).firstAt + us (t.pair 8191).intDelay)
    ∧ (let w : NWin := { NWin.empty with until_ := some (ms 1), last := some o }
       let s : State := { up with host := { up.host with wins := [(12, w)] } }
       let open_ : State := { s with host := { s.host with hnCtrl := 0x11FFF, pairs := [(8191, pairOf false 4)] } }
       (s.advance (ms 1)).win 12 = w ∧ ms 1 ≤ (s.advance (ms 1)).time ∧ (s.advance (ms 1)).canPost = false
         ∧ (open_.advance (ms 1)).win 12 = w ∧ (open_.advance (ms 1)).canPost = true ∧ w.wait = none)
    ∧ (let s : State := { up with host := { up.host with wins := [(12, { NWin.empty with until_ := some 0 })] } }
       (s.advance 0).win 12 = { NWin.empty with until_ := some 0 })
    ∧ (let s : State := { up with host := { up.host with hnCtrl := 0x20000, lastBeat := 5 } }
       bit (s.advance 9900005).host.hnCtrl 17 = true ∧ (s.advance 9900005).host.lastBeat + 9900000 ≤ (s.advance 9900005).time) := by
  decide +kernel

/-- The debug window open for reads and writes; a host window of one host-visible handle of 2 MiB. -/
def windowed : State :=
  { up with
    trc := { up.trc with win := 3 }
    mem := { up.mem with
      carve := { up.mem.carve with window := 2 ^ 28 }
      slots := [(0, { gen := 1, live := true, firmware := false, ext :=
        { cls := 0, stripe := 3, place := 0, hostVisible := true, fabricRead := false, size := 2 ^ 21,
          base := ({ up.mem.carve with window := 2 ^ 28 } : Carve).base 6, hdm := 0 } })] } }

theorem test_hyp_HostAccesses :
    windowed.host.linkUp = true ∧ 2 ^ 21 - 8 < 2 ^ 21 ∧ (2 ^ 21 - 8) % 8 = 0 ∧ (0xFFFC < 0x10000 ∨ 0x20000 ≤ 0xFFFC)
      ∧ 0x10000 ≤ 0x1FFFC ∧ 0x1FFFC < 0x20000 ∧ (0x20000 < 0x10000 ∨ 0x20000 ≤ 0x20000)
      ∧ 5 ≤ bits (0x50000 : BitVec 64) 19 16 ∧ bits (0x4FFFF : BitVec 64) 19 16 < 5
      ∧ bit up.trc.win 0 = false ∧ (2 ^ 26 - 4) + 4 ≤ 2 ^ 26 ∧ bit windowed.trc.win 0 = true ∧ bit windowed.trc.win 1 = true
      ∧ (∀ a ∈ windowed.bar2Addrs 0 4, inFirmware a = false ∧ windowed.inPress a = false)
      ∧ windowed.mem.err = [] ∧ windowed.host.cxlMode = true
      ∧ (∀ i, i < 4 → (windowed.windowAddr ((2 ^ 21 - 4) + i)).isSome = true)
      ∧ (2 ^ 28 - 4) + 4 ≤ windowed.mem.carve.window ∧ windowed.windowAddr ((2 ^ 28 - 4) + 0) = none := by decide +kernel

theorem test_hyp_FunctionResetAndLink :
    let down : State := placed { up with host := { up.host with linkUp := false, downAt := 5 } }
    up.host.linkUp = true
      ∧ (let t := down.advance (5 + sec 1)
         t.pwr.resetLow = false ∧ t.pins.perstLow = false ∧ t.domOn 2 = true ∧ t.host.linkUp = false
           ∧ t.host.downAt + sec 1 ≤ t.time ∧ t.job.job.isSome = true ∧ t.fail.selfFenced = none)
      ∧ (up.advance 9).host.linkUp = true := by decide +kernel

/-! ### Witnesses: the event controller -/

/-- Sources 3 and 511 pend with priority 15 for core 9. -/
def pending : State :=
  let x : Source := { Source.atReset 3 with targets := 0x200, prio := 15, pend := true }
  { up with evc := { up.evc with sources := [(3, x), (511, x)] } }

theorem test_hyp_ClaimsTakeTheBestSource :
    pending.mgmt.sleep = 0 ∧ pending.eligible 9 3 = true
      ∧ (∀ j, j < 512 → pending.eligible 9 j = true → (pending.evcSrc j).prio < (pending.evcSrc 3).prio
        ∨ ((pending.evcSrc j).prio = (pending.evcSrc 3).prio ∧ 3 ≤ j))
      ∧ (∀ i, i < 512 → up.eligible 9 i = false) := by decide +kernel

theorem test_hyp_CompletePopsTheStack :
    let s : State := { up with evc := { up.evc with cores := [(9, ⟨0, [(511, 15), (3, 1)], false⟩)] } }
    (s.evcCore 9).stack = (511, 15) :: [(3, 1)] ∧ (s.evcCore 9).stack.head? ≠ some (3, 1) ∧ (up.evcCore 9).stack.head? = none := by
  decide

theorem test_hyp_SourcesAndConfiguration :
    up.mgmt.sleep = 0 ∧ (∃ i, i < 512 ∧ srcIsEdge i = true ∧ (i ≠ 6 ∨ up.pins.ball ≠ 0))
      ∧ (∃ i, i < 512 ∧ srcIsLevel i = true) := by
  refine ⟨rfl, ?_, ?_⟩
  · exact ⟨0, by decide⟩
  · exact ⟨160, by decide⟩

theorem test_hyp_SleepWakeAndWatchdog :
    let quiet : State := { up with host := { up.host with session := false } }
    let asleep (n : Nat) : State := { quiet with mgmt := { quiet.mgmt with sleep := n, fwState := 2 } }
    up.mgmt.sleep = 0 ∧ up.domOn 1 = true ∧ up.mgmt.restarting = false ∧ up.host.session = true
      ∧ quiet.host.session = false ∧ quiet.job.job = none
      ∧ (∃ i, i < 512 ∧ (asleep 2).retained i = false ∧ ((asleep 2).evcSrc i).wake = true ∧ srcIsEdge i = true)
      ∧ (∃ i, i < 512 ∧ (asleep 1).retained i = false ∧ ((asleep 1).evcSrc i).wake = true ∧ srcIsEdge i = true)
      ∧ (up.advance 9).pwr.resetLow = false ∧ (List.replicate 10 (0 : BitVec 64)).length = 10
      ∧ (let t : State := { up with time := ms 50, mgmt := { up.mgmt with kicks := [(7, ⟨1, 0⟩)] } }
         t.watched 7 = true ∧ tget t.mgmt.kicks 7 = some ⟨1, 0⟩ ∧ (2 : BitVec 64) ≠ 1 ∧ 0 + ms 50 ≤ t.time ∧ t.mgmt.restartAt = none
           ∧ ms 50 - 1 < 0 + ms 50
           ∧ ∃ a, ({ t with mgmt := { t.mgmt with restartAt := some 0 } } : State).mgmt.restartAt = some a ∧ t.time ≤ a + sec 10)
      ∧ ({ up with mgmt := { up.mgmt with restarting := true } } : State).mgmt.restarting = true := by
  refine ⟨rfl, by decide, rfl, rfl, rfl, rfl, ⟨0, by decide +kernel⟩, ⟨0, by decide +kernel⟩, by decide +kernel, rfl, ?_, rfl⟩
  exact ⟨by decide +kernel, rfl, by decide, by decide, rfl, by decide, ⟨0, rfl, by decide⟩⟩

/-! ### Witnesses: jobs, members, fences -/

/-- The header of a placement block of 1 by 1 by 1 with one member and one shard, and its entries. -/
def blockHead : BitVec 1024 :=
  mkRec 1024 [(0, 4, 7), (4, 1, 1), (5, 1, 1), (6, 1, 1), (8, 2, 1), (10, 1, 0), (12, 4, 1), (16, 32, 5), (48, 8, 0x4000)]
def blockBody (pkg : Nat) : List Byte := recBytes (mkRec 128 [(0, 2, pkg)] : BitVec 128) ++ recBytes (mkRec 128 [(0, 8, 128)] : BitVec 128)

/-- Job 7 of two packages, 0 and 1, along x; 0 leads. -/
def job2 : Job :=
  { job with extents := [2, 1, 1], lead := 0, owners := [0, 1], ranks := [0, 0]
             members := [{ pkg := 0, x := 0, y := 0, z := 0, hops := [33, 0, 0, 0, 0, 0] }, { pkg := 1, x := 1, y := 0, z := 0, hops := [0, 33, 0, 0, 0, 0] }] }

/-- This package is `pkg` of that job. -/
def member (pkg : BitVec 16) (s : State) : State := { s with host := { s.host with idPkg := pkg }, job := { s.job with job := some job2 } }

theorem test_hyp_PlacementIsDecided :
    let p := packet 0x108 [(24, 8, 0x1000)]
    let read (pkg : Nat) := withCmd p (withHost 0x1000 (recBytes blockHead ++ blockBody pkg) up)
    let es (pkg : Nat) := (chunks 2 16 (blockBody pkg)).map (fun l => BitVec.ofNat 128 (leNat l))
    let j (pkg : Nat) := blockJob blockHead ((es pkg).take 1) ((es pkg).drop 1) []
    let away : Member := { pkg := 0, x := 0, y := 0, z := 0, hops := [] }
    let pl : Placing := { cmd := 0, job := { job with members := [away], lead := 0, owners := [], ranks := [], axes := [] }, since := 0 }
    let d : Decision := { status := 0, detail := 0, generation := 1, owners := [0, 0], axes := [0, 0, 3], ranks := [0], rankCount := 1,
                          circuits := [], seed := 0, digest := 9, replaced := none }
    let lead : State := { up with job := { up.job with placing := some { cmd := 0, job := job, since := 0 }, heard := [⟨1, 9, [], 0⟩] } }
    ((read 1).Ready 0 (asRead p) 0x108 ∧ ((read 1).startCmd 0).hostRead 0x1000 128 = some (recBytes blockHead)
      ∧ ((read 1).startCmd 0).hostRead (0x1000 + 128) 32 = some (blockBody 1) ∧ BitVec.ofNat 1024 (leNat (recBytes blockHead)) = blockHead
      ∧ fld blockHead 8 2 = 1 ∧ fld blockHead 12 4 = 1 ∧ placeReservedOk blockHead ((es 1).take 1) ((es 1).drop 1) = true
      ∧ (j 1).report % 32 = 0 ∧ (j 1).limits 1 1 = true ∧ ((j 1).pos 1).isSome = true ∧ (j 1).lead = 1)
    ∧ (j 1).limits 1 262145 = false
    ∧ (lead.job.placing.isSome = true ∧ job.lead = lead.pkgId ∧ job.members.all (fun m => (lead.heardOf m.pkg).isSome) = true
      ∧ (match lead.judgePlace { job with digest := 8 } with
        | .error st => some st
        | .ok _ => none) = some (stDataMismatch, 0))
    ∧ (let t := ({ lead with job := { lead.job with heard := [] } } : State).advance (sec 10)
       0 + sec 10 ≤ t.time ∧ job.members.all (fun m => (t.heardOf m.pkg).isSome) = false)
    ∧ (pl.job.fits d = true ∧ d.digest = pl.job.digest ∧ (Decision.fails (stTimeout, 0)).status ≠ 0) := by decide +kernel

/-- Two packages: this one is 1, and package 0 leads. -/
theorem test_hyp_PlacementIsDecided_elsewhere :
    let h := mkRec 1024 [(0, 4, 7), (4, 1, 2), (5, 1, 1), (6, 1, 1), (8, 2, 2), (12, 4, 1)]
    let j := blockJob h [mkRec 128 [(0, 2, 0)], mkRec 128 [(0, 2, 1), (2, 1, 1)]] [mkRec 128 [(0, 8, 128)]] []
    j.limits 2 1 = true ∧ (j.pos up.pkgId).isSome = true ∧ j.lead ≠ up.pkgId := by decide +kernel

/-- The lead's checks pass for a job of one package, whatever its firmware decides. -/
theorem test_hyp_PlacementIsDecided_lead :
    let lead : State := { up with job := { up.job with heard := [⟨1, 9, [], 0⟩] } }
    ∃ k, lead.judgePlace job = .ok k := by
  intro lead
  refine ⟨job.decide_, ?_⟩
  have coord : ∀ v a, (job.decide_.mem v).coord a = 0 := by
    intro v a
    rcases v with _ | v
    · rcases a with _ | _ | a <;> rfl
    · rcases a with _ | _ | a <;> rfl
  have root : ∀ r v, job.decide_.parent r v = none := by
    intro r v
    simp only [Job.parent, coord]
    simp
  have full : job.decide_.overfull = none := by
    have len : job.decide_.members.length = 1 := rfl
    have ents : ∀ i, (job.decide_.entries i).length = 4 := by
      intro i
      simp [Job.entries, root]
    simp [Job.overfull, len, ents]
  have same : (job.members.all (fun m => (lead.heardOf m.pkg).any (fun h => h.digest == job.digest))) = true := by decide
  have dark : lead.darkHop job = none := by decide
  have bad : lead.badHop job = none := by decide
  simp only [State.judgePlace, same, dark, bad, full]
  rfl

/-- The only member ends its job; a package that has fenced itself; a Vat that runs. A spare, package 9, for package 0. -/
theorem test_hyp_MembershipEndsAndIsSpared :
    let p := packet 0x109 [(24, 4, 7)]
    let free (t : State) : Bool := !t.vat.running && t.press.shards.isEmpty && !t.fabricBusy && t.xfer.grants.isEmpty
    let s := placed (withCmd p up)
    let q := packet 0x709 [(24, 2, 0), (26, 2, 9), (32, 8, 77)]
    let lost (t : State) : State := { t with fail := { t.fail with fenced := [(0, 2)], actingLead := true } }
    let t := lost (member 1 (withCmd q up))
    let sp : Sparing := { cmd := 0, fenced := 0, spare := 9, serial := 77, since := 0, ready := true }
    (s.Ready 0 (asRead p) 0x109 ∧ s.job.job = some job ∧ job.id = fld p 24 4 ∧ s.fail.selfFenced = none ∧ free (s.startCmd 0) = true
      ∧ (let r : State := { s with vat := { s.vat with running := true } }
         r.Ready 0 (asRead p) 0x109 ∧ free (r.startCmd 0) = false)
      ∧ (fenced s).Ready 0 (asRead p) 0x109 ∧ (fenced s).fail.selfFenced.isSome = true)
    ∧ (t.Ready 0 (asRead q) 0x709 ∧ t.host.cmds.all (fun e => !(e.1 < 0 && pktOp e.2.packet == 0x709)) = true
      ∧ t.job.job.isSome = true ∧ t.isLead = true ∧ t.isFenced 0 = true ∧ (t.me.bind (fun m => m.1.pos 9)).isNone = true
      ∧ (t.me.bind (fun m => m.1.pos 0)).isSome = true)
    ∧ (let u : State := { t with job := { t.job with sparing := some sp } }
       u.job.job = some job2 ∧ sp.ready = true ∧ u.xfer.insts = [] ∧ u.xfer.ones = [])
    ∧ (let u : State := ({ t with job := { t.job with sparing := some { sp with ready := false } } } : State).advance (sec 10)
       u.job.sparing = some { sp with ready := false } ∧ sp.since + sec 10 ≤ u.time) := by decide +kernel

theorem test_hyp_SilentMembersAreFenced :
    let m (pkg : BitVec 16) (now : Nat) : State := (member pkg up).advance now
    let p := packet 0x708 [(24, 2, 0), (26, 1, 8)]
    let q := packet 0x708 [(24, 2, 0), (26, 1, 9)]
    let gone (s : State) : State := { s with fail := { s.fail with fenced := [(0, 2)] } }
    ((m 1 (ms 1)).job.job = some job2 ∧ (m 1 (ms 1)).fail.beatAt + ms 1 ≤ (m 1 (ms 1)).time ∧ (m 1 (ms 1)).isLead = false
      ∧ (m 0 (ms 1)).isLead = true ∧ (m 1 (ms 1)).fail.selfFenced = none ∧ (m 1 (ms 1 - 1)).time < ms 1)
    ∧ ((job2.pos 0).isSome = true ∧ 0 ≠ (m 1 0).pkgId ∧ (job2.pos 1).isSome = true ∧ 1 ≠ (m 0 0).pkgId ∧ (m 0 0).isFenced 1 = false
      ∧ tgetD (m 0 (ms 20)).fail.heard 1 0 + ms 20 ≤ (m 0 (ms 20)).time ∧ (m 0 (ms 20 - 1)).time < tgetD (m 0 0).fail.heard 1 0 + ms 20)
    ∧ ((gone (m 1 0)).curLead job2 = (m 1 0).pkgId ∧ (m 1 (ms 20)).curLead job2 ≠ (m 1 0).pkgId
      ∧ leadOf (job2.members.filter (fun x => !(m 1 (ms 20)).isFenced x.pkg && x.pkg != (m 1 (ms 20)).curLead job2)) = 1)
    ∧ (∀ s ∈ [member 1 (withCmd p up), gone (member 1 (withCmd p up)), member 0 (withCmd p up)],
        s.Ready 0 (asRead p) 0x708 ∧ s.job.job = some job2 ∧ (job2.pos (fld p 24 2)).isSome = true ∧ fld p 26 1 ≤ 8)
    ∧ ((member 1 (withCmd q up)).Ready 0 (asRead q) 0x708 ∧ 8 < fld q 26 1)
    ∧ (member 1 up).fail.fenceSeq < 1 ∧ 0 ≤ (member 1 up).fail.fenceSeq := by decide +kernel

/-! ### Witnesses: links, packets, transfers -/

/-- Link `l` is `k`. -/
def withLink (l : Nat) (k : Link) (s : State) : State := s.setLink l k

/-- A link of 32 lit lanes that carries data. -/
def lit : Link := { Link.atReset with step := 10, judged := 1, on := true, laneMap := 0xFFFFFFFF, sendMap := 0xFFFFFFFF }

theorem test_hyp_LinksCarryPackets_send :
    let p := List.replicate 64 (0 : Unit16)
    let tr := mkRec 128 [(11, 1, 1 + 3 * 16)] :: List.replicate 63 (0 : Unit16)
    let k (vc : Nat) (p : Packet) : Link := { lit with txq := [(vc, [p])], unacked := List.replicate 700 (5, vc, p.take 1) }
    let s (vc : Nat) (p : Packet) (credit : Nat) : State :=
      withLink 23 (k vc p) { up with xfer := { up.xfer with stretchCredit := [(8 * 23 + 3, credit)] } }
    (∀ x ∈ [(0, p, 0), (7, p, 0), (7, tr, 64)],
        let t := s x.1 x.2.1 x.2.2
        let k := t.link 23
        k.data = true ∧ tgetD k.txq x.1 [] = [x.2.1] ∧ creditOk (t.width 23) (eight k.heldCw) x.1 64 = true ∧ k.unacked.length < 2048
          ∧ ((List.range 4).map (fun g => ((t.link (4 * (23 / 4) + g)).unacked.map (fun x => x.2.2.length)).sum)).sum + 64 ≤ 49152)
    ∧ (7 == 7 && hTransit p && ((s 7 p 0).onStretch 23).isNone) = false
    ∧ (7 == 7 && hTransit tr && ((s 7 tr 64).onStretch 23).isNone) = true ∧ hResume tr = 3
    ∧ tr.length ≤ tgetD (s 7 tr 64).xfer.stretchCredit (8 * 23 + hResume tr) 0 := by decide +kernel

/-- A clean codeword, one with a wrong bit, and one beyond correction. -/
theorem test_hyp_LinksCarryPackets_receive :
    let c := s144Encode 0x77
    (match s144Decode c with
      | .clean d => some d
      | _ => none) = some 0x77
    ∧ (match s144Decode (c ^^^ 1) with
      | .corrected d => some d
      | _ => none) = some 0x77
    ∧ (match s144Decode (c ^^^ 0x101) with
      | .bad _ => true
      | _ => false) = true := by decide +kernel

theorem test_hyp_LinksCarryPackets_replay :
    let q : Packet := [0]
    let cr (ack seq : Nat) : BitVec 128 := creditCw ack seq []
    let k : Link := { lit with unacked := [(4095, 0, q), (0, 0, q)] }
    let s := withLink 0 k up
    let due (since freed : Nat) (t : Nat) : Link := ((withLink 0 { lit with changed := true, creditAt := since, freedSince := [freed] } up).advance t).link 0
    (∀ x ∈ [(4095, 1), (0, 3), (9, 4), (9, 0)], fld (cr x.1 x.2) 0 1 = 2 ∧ fld (cr x.1 x.2) 15 1 = 0)
    ∧ (bits (cr 0 3) 23 20 + 15 - k.creditSeen) % 16 < 3 ∧ 3 ≤ (bits (cr 0 4) 23 20 + 15 - k.creditSeen) % 16
    ∧ ((due 0 0 64).data = true ∧ (due 0 0 64).changed = true ∧ (due 0 0 64).creditAt + 64 ≤ 64
      ∧ (eight (due 9 1024 0).freedSince).any (1024 ≤ ·) = true)
    ∧ (s.link 0).data = true
    ∧ (∀ q ∈ [0, 4095, 7], fld (replayCw q) 0 1 = 4 ∧ bits (replayCw q) 127 20 = 0 ∧ bits (replayCw q) 19 8 = q)
    ∧ k.unacked.findIdx? (fun x => x.1 == 4095) = some 0 ∧ k.unacked.findIdx? (fun x => x.1 == 7) = none
    ∧ (let m : Link := { k with replaySeq := 4095, replays := 7 }
       8 ≤ (if m.replaySeq = 4095 ∧ m.replays ≠ 0 then m.replays + 1 else 1))
    ∧ (let r := withLink 0 { lit with retrainAt := some 0 } up
       ((r.advance (ms 500)).link 0).retrainAt = some 0 ∧ 0 + ms 500 ≤ (r.advance (ms 500)).time
         ∧ (r.advance (ms 500 - 1)).time < 0 + ms 500) := by decide +kernel

theorem test_hyp_LinksCarryPackets_lanes :
    let s := withLink 23 { lit with step := 5, laneMap := 0x7FFFFFFF } up
    let k := s.link 23
    let r := (withLink 23 { lit with step := 5, laneMap := 0x7FFFFFFF, rejoin := [(31, 0)] } up)
    5 ≤ k.step
    ∧ (∀ lane ∈ [0, 31], lane < s.width 23)
    ∧ (fld (markerCw 31 32 23) 0 1 = 3 ∧ fld (markerCw 31 32 23) 1 1 = 31 ∧ k.laneMap.toNat.testBit 31 = false ∧ tget k.rejoin 31 = none
      ∧ fld (markerCw 0 32 23) 1 1 = 0 ∧ k.laneMap.toNat.testBit 0 = true ∧ fld (markerCw 31 32 23) 1 1 ≠ 0)
    ∧ (fld (laneMapCw 0xFF 1) 0 1 = 6 ∧ fld (laneMapCw 0xFF 1) 6 10 = 0)
    ∧ (tget ((r.advance (ms 100)).link 23).rejoin 31 = some 0 ∧ 0 + ms 100 ≤ (r.advance (ms 100)).time
      ∧ (r.advance (ms 100 - 1)).time < 0 + ms 100)
    ∧ (∀ e ∈ [true, false], fld (probeCw 5 e) 0 1 = 7 ∧ bits (probeCw 5 e) 127 73 = 0 ∧ bit (probeCw 5 e) 72 = e) := by decide +kernel

/-- A planned link, and one of no plan. -/
def entry0 : PlanEntry := { link := 0, swapTol := false, expected := 1, serial := 9, pkg := 2 }
def planned (es : List PlanEntry) (s : State) : State :=
  { s with felt := { s.felt with plan := some { id := 1, generation := 1, pkg := 1, modes := 0, entries := es } } }

theorem test_hyp_LinksComeUpAndAreJudged_training :
    let s (n : Nat) := planned [entry0] (withLink 0 { Link.atReset with on := true, step := n } up)
    (∀ n ∈ [0, 3, 4, 5, 6, 8], let t := (s n).advance 5
        t.domOn 18 = true ∧ (t.link 0).on = true ∧ t.linkHas 0 = true ∧ (t.link 0).step = n)
    ∧ (let t := (s 8).advance 5
       t.felt.plan.map Plan.entries = some [entry0] ∧ [entry0].all (fun e => decide (8 ≤ (t.link e.link).step)
         || (t.link e.link).judged == 5 || (t.link e.link).idFailed) = true)
    ∧ (let t := (planned [entry0] up).advance (ms 2000)
       t.domOn 18 = true ∧ (t.planOf 0).isSome = true ∧ (t.link 0).step < 5 ∧ (t.link 0).judged ≠ 5 ∧ t.felt.litAt + ms 2000 ≤ t.time)
    ∧ (let t := (withLink 0 { Link.atReset with outType := 3 } up).advance (ms 1)
       (t.link 0).outType ≠ 0 ∧ (t.link 0).sentAt + ms 1 ≤ t.time) := by decide +kernel

/-- A discovery record of package 2, of serial number 9, with an empty certificate. -/
def discovery (type : Nat) : List Byte :=
  recBytes (mkRec 384 [(0, 1, 1), (1, 1, type), (3, 1, 8), (4, 2, 2), (8, 8, 9)] : BitVec 384) ++ List.replicate 64 0

/-- The certificate holds, and so do both signatures. -/
theorem test_hyp_LinksComeUpAndAreJudged_records (key : BitVec 512) (hk : Config.certKey [] = some key)
    (hs : Config.certSerial [] = 9) (hv : ∀ t, Config.sm2Verify key 0 (sm3 ((discovery t).take 48)) 0 = true) :
    let k : Link := { Link.atReset with step := 7 }
    let k' : Link := { k with peerKey := some key }
    recordOk k (discovery 2) = false ∧ recordOk k (discovery 1) = true ∧ recordOk k' (discovery 2) = true
      ∧ recordOk k' (discovery 3) = true
      ∧ ∀ t ∈ [1, 2, 3], 112 ≤ (discovery t).length ∧ leNat (((discovery t).drop 0).take 1) = 1
          ∧ leNat (((discovery t).drop 1).take 1) = t := by
  have type : ∀ t ∈ [1, 2, 3], 112 ≤ (discovery t).length ∧ leNat (((discovery t).drop 0).take 1) = 1
      ∧ leNat (((discovery t).drop 1).take 1) = t ∧ (discovery t).drop 112 = [] ∧ leNat (((discovery t).drop 8).take 8) = 9
      ∧ leNat (((discovery t).drop 32).take 16) = 0 ∧ leNat (((discovery t).drop 48).take 64) = 0 := by decide +kernel
  obtain ⟨a1, b1, c1, d1, e1, f1, g1⟩ := type 1 (by decide)
  obtain ⟨a2, b2, c2, d2, e2, f2, g2⟩ := type 2 (by decide)
  obtain ⟨a3, b3, c3, d3, e3, f3, g3⟩ := type 3 (by decide)
  have nonce : Link.atReset.nonce = 0 := rfl
  have peer : Link.atReset.peerKey = none := rfl
  refine ⟨?_, ?_, ?_, ?_, ?_⟩
  · simp only [recordOk, c2, peer]; rfl
  · simp only [recordOk, c1, d1, e1, List.take_nil, hk, hs]; rfl
  · simp only [recordOk, c2, f2, g2, nonce]; exact hv 2
  · simp only [recordOk, c3, f3, g3, nonce]; exact hv 3
  · intro t ht
    obtain ⟨a, b, c, -⟩ := type t ht
    exact ⟨a, b, c⟩

theorem test_hyp_LinksComeUpAndAreJudged_judging :
    let at0 (k : Link) : State := withLink 0 k up
    let new : Link := Link.atReset
    (let s := planned [entry0] (withLink 0 { new with step := 9 } up)
     s.linkHas 0 = true ∧ s.felt.plan.isSome = true ∧ (s.link 0).step = 9)
    ∧ ((at0 { new with idFailed := true }).link 0).idFailed = true
    ∧ (∀ s ∈ [at0 new, planned [entry0] (at0 new)], (s.link 0).idFailed = false ∧ s.swapOf 0 = none ∧ (s.link 0).settled = false)
    ∧ (∀ s ∈ [at0 { new with settled := true }, planned [{ entry0 with link := 4 }] (at0 { new with settled := true })],
        (s.link 0).idFailed = false ∧ s.swapOf 0 = none ∧ (s.link 0).settled = true ∧ s.planOf 0 = none)
    ∧ (∀ s ∈ [planned [entry0] (at0 { new with settled := true, step := 9, peerSerial := 9, peerLogical := 1 }),
          planned [entry0] (at0 { new with settled := true, step := 9, peerSerial := 8 })],
        (s.link 0).idFailed = false ∧ s.swapOf 0 = none ∧ (s.link 0).settled = true ∧ s.planOf 0 = some entry0)
    ∧ ((withLink 0 lit up).link 0).data = true := by decide +kernel

/-- An operation answered without a failing status. -/
def fine {α : Type} (x : Except Cause α) : Bool :=
  match x with
  | .ok _ => true
  | .error _ => false

/-- Member 1 of the job of two, with the handle 0x4_0000 that the fabric may read. -/
def target (s : State) : State :=
  member 1 (s.makeHandle 0 1 false
    { cls := 0, stripe := 3, place := 0, hostVisible := false, fabricRead := true, size := 2 ^ 21, base := 0, hdm := 0 })

/-- A packet from package 0 to package 1 for transfer 0, of a type. -/
def fabric (type : Nat) (rest : List Unit16) : Packet :=
  (({ dst := 1, src := 0, via := 1, type := type, last := true, poison := false, tagged := false, stable := false, xfer := 0 } : Hdr).unit) :: rest

/-- The packet has been received whole on VC 2 of link 0. -/
def received (p : Packet) (s : State) : State := { s with felt := { s.felt with rxq := [(0, 2, p)] } }

/-- Handle 0x4_0000 at the other end; nothing, one packet of 62 units, and 63 units. -/
theorem test_hyp_TransfersStartAndArrive_starts :
    let p (op len pkg : Nat) := packet op [(24, 2, pkg), (26, 2, 0xFFFF), (28, 4, 2 ^ 18), (38, 6, len), (44, 4, 2 ^ 18)]
    let s (op len pkg : Nat) := target (withCmd (p op len pkg) up)
    (∀ op ∈ [0x308, 0x309], ∀ len ∈ [0, 992, 1008], let t := (s op len 0).startCmd 0
        (s op len 0).Ready 0 (asRead (p op len 0)) op ∧ fld (p op len 0) 38 6 = len ∧ len % 16 = 0 ∧ fine (needJob t) = true
          ∧ fine (needMember t 0) = true ∧ fine (t.rangeFor 0 (2 ^ 18) 0 len) = true ∧ t.lowPlane (2 ^ 18) 0 len = false
          ∧ t.writeGuarded (2 ^ 18) = false)
    ∧ (let t := (s 0x308 16 9).startCmd 0
       (s 0x308 16 9).Ready 0 (asRead (p 0x308 16 9)) 0x308 ∧ t.me = some (job2, 1) ∧ job2.pos 9 = none)
    ∧ (let f := { s 0x308 16 0 with fail := { (s 0x308 16 0).fail with fenced := [(0, 2)] } }
       let t := f.startCmd 0
       f.Ready 0 (asRead (p 0x308 16 0)) 0x308 ∧ t.me = some (job2, 1) ∧ (job2.pos 0).isSome = true ∧ t.isFenced 0 = true) := by
  decide +kernel

/-- What a packet that has arrived is. -/
def gets (s : State) (types : List Nat) (p : Packet) (f : State → Packet → Bool) : Bool :=
  match s.arrival types p with
  | some ((0, 2, q), t) => (t.refusePkt 2 q).isNone && f t q
  | _ => false

theorem test_hyp_TransfersStartAndArrive_data :
    let d (tok off : Nat) := fabric tyData [xferHdr off (2 ^ 18 + tok * 2 ^ 32) 1, 0]
    let lands (s : State) (q : Packet) (guarded : Bool) (tok : Nat) : Bool :=
      hType q == tyData && fine (s.range (tArg q % 2 ^ 32) (tOff q) (16 * pktUnits q)) && s.writeGuarded (tArg q % 2 ^ 32) == guarded
        && tArg q / 2 ^ 32 == tok
    let sh : PShard := { weight := 2 ^ 18, state := 0, landing := 0, token := 0, rows := 1, cols := 1, config := 0, s0 := 0, resident := [], run := none, later := false, form := none }
    let guarded : State := { target up with press := { up.press with shards := [(0, sh)] } }
    (∀ tok ∈ [0xFFFF, 0, 0xFFFE], gets (received (d tok (2 ^ 21 - 16)) (target up)) [tyData, tyRData] (d tok (2 ^ 21 - 16))
        (fun t q => lands t q false tok) = true)
    ∧ gets (received (d 0 0) guarded) [tyData, tyRData] (d 0 0) (fun t q => lands t q true 0) = true
    ∧ (let bad := fabric tyData [xferHdr 8 (2 ^ 18) 1, 0]
       ((received bad (target up)).arrival [tyData, tyRData] bad).isSome = true ∧ pktFieldsOk bad = false) := by decide +kernel

/-- The last and the last but one packet of a GET, and of the acknowledgements of a PUT, of 2 units. -/
theorem test_hyp_TransfersStartAndArrive_ends :
    let k (op : Nat) := packet op [(24, 2, 0), (38, 6, 32), (44, 4, 2 ^ 18)]
    let s (op acked : Nat) (p : Packet) : State := received p (target (started (withCmd (k op) { up with
      xfer := { up.xfer with ones := [(0, { get_ := op == 0x309, pkg := 0, units := 2, acked := acked, status := 0 })] } })))
    let r := fabric tyRData [xferHdr 16 0 0, 0]
    let a := fabric tyAck [mkRec 128 [(0, 4, 1)]]
    let one (o : OneSided) : OneSided := { o with acked := o.acked + 1 }
    (∀ acked ∈ [0, 1], gets (s 0x309 acked r) [tyData, tyRData] r (fun t q => hType q == tyRData
        && (match t.oneOf (hXfer q), (t.trkFree 0).cmd 0 with
          | some (0, o), some c => o.get_ && decide (tOff q + 16 * pktUnits q ≤ fld c.packet 38 6) && decide (o.acked + pktUnits q ≤ o.units)
              && fine ((t.trkFree 0).range (fld c.packet 44 4) (fld c.packet 48 6) (fld c.packet 38 6))
              && (one o).acked == acked + 1
          | _, _ => false)) = true)
    ∧ (∀ acked ∈ [0, 1], gets (s 0x308 acked a) [tyAck] a (fun t q => fld (pktCw q 1) 0 4 == 1 && (match t.oneOf (hXfer q) with
        | some (0, o) => !o.get_ && o.acked == acked && o.units == 2
        | _ => false)) = true) := by decide +kernel

theorem test_hyp_TransfersStartAndArrive_reads :
    let p (n : Nat) := fabric tyRead [mkRec 128 [(0, 6, 0), (6, 2, n), (8, 4, 2 ^ 18)], mkRec 128 [(0, 6, 992)]]
    let readable (n : Nat) (s : State) (fab : Bool) : Bool := gets s [tyRead] (p n) (fun t q =>
      fld (pktCw q 1) 6 2 == n && (match t.range (fld (pktCw q 1) 8 4) (fld (pktCw q 1) 0 6) (16 * n) with
        | .ok e => e.fabricRead == fab && !t.lowPlane (2 ^ 18) 0 (16 * n)
        | .error _ => false))
    (∀ n ∈ [1, 62], readable n (received (p n) (target up)) true = true)
      ∧ readable 62 (received (p 62) (member 1 (withHandle 0 up))) false = true := by decide +kernel

theorem test_hyp_PacketsAreForwarded_routed :
    let p := fabric tyData [xferHdr 0 0 1, 0]
    let f := fabric tyFrame [0]
    let takes (s : State) (p : Packet) (g : State → Packet → Bool) : Bool :=
      match (received p s).takeRx (fun l v q => l != 24 && v == 2 && 2 ≤ 4 && q == p && (hDst q != s.pkgId || hType q == tyFrame)) with
      | some ((0, 2, q), t) => g t q
      | _ => false
    takes (member 0 up) p (fun t q => hDst q != t.pkgId && t.ownJob 2 q) = true
      ∧ takes { up with host := { up.host with idPkg := 9 } } p (fun t q => hDst q != t.pkgId && !t.ownJob 2 q) = true
      ∧ takes (member 1 up) f (fun t q => hDst q == t.pkgId) = true := by decide +kernel

/-- Circuit 0 enters on the link 0, by its edge 5; member 1 goes on by its edge 0. -/
def onCircuit (memberBit : Nat) (p : Packet) : State :=
  let s := member 1 up
  { s with
    job := { s.job with circuits := [(0, { entry := mkRec 256 [(0, 1, 1 + 2 * memberBit), (9, 1, 0x20)], dirs := [7, 0] })] }
    felt := { s.felt with rxq := [(0, 5, p)] } }

theorem test_hyp_PacketsAreForwarded_circuits :
    let pkt (dst type : Nat) (rest : List Unit16) : Packet :=
      (({ dst := dst, src := 0, via := 0, type := type, last := true, poison := false, tagged := false, stable := false, xfer := 0 } : Hdr).unit) :: rest
    let enters (m : Nat) (p : Packet) (g : State → Packet → Bool) : Bool :=
      let s := onCircuit m p
      match s.takeRx (fun l vc q => l != 24 && (vc == 5 || vc == 6) && q == p &&
          s.physLink (byteLink ((s.circuit (hVia q % 256)).edge 5 % 32)) == l && ((s.circuit (hVia q % 256)).edge 5).testBit 5) with
      | some ((0, 5, q), t) => (t.circuit (hVia q % 256)).valid && (t.circuit (hVia q % 256)).member == decide (m = 1)
          && t.ownJob 5 q && t.me.isSome && g t q
      | _ => false
    let data := pkt 0 tyData [xferHdr 0 0 1, 0]
    let ready := pkt 1 tyReady [0]
    (∀ m ∈ [0, 1], enters m data (fun _ q => hType q == tyData && hDst q == hSrc q) = true)
    ∧ enters 1 (pkt 1 tyPartial [xferHdr 0 0 1, 0]) (fun _ q => hType q == tyPartial) = true
    ∧ enters 0 ready (fun t q => hType q == tyReady && job2.index (job2.group 1 0) (hDst q) == some 1
        && ((t.circuit 0).dirs[1]?).getD 7 != 7) = true
    ∧ (match ((job2.entries 1)[0]? : Option Entry) with
      | some (Entry.member r) => some r
      | _ => none) = some 0 := by decide +kernel

/-- A stretch of one package and of fourteen; fifteen grants held; a stretch whose links end here and go on. -/
theorem test_hyp_PacketsAreForwarded_grants :
    let g (n : Nat) : Grant := { borrower := 3, share := 32, stretch := [(1, 32, 33), (0, 33, 32)].take n, slotsUsed := 0, windowAt := 0 }
    let p (share count : Nat) := packet 0x318 [(24, 4, 9), (28, 1, share), (29, 1, count), (32, 8, 0x1000)]
    let body (n : Nat) : List Byte := (List.replicate n [1, 0, 29, 0, 0, 0, 0, 0]).flatten
    let s (share n : Nat) (gs : Nat) := member 1 { withCmd (p share n) (withHost 0x1000 (body n) up) with
      xfer := { up.xfer with grants := (List.range gs).map (fun i => (i, g 1)) } }
    (∀ x ∈ [(1, 1, 0), (32, 14, 15)], let t := s x.1 x.2.1 x.2.2
        t.Ready 0 (asRead (p x.1 x.2.1)) 0x318 ∧ (t.startCmd 0).hostRead 0x1000 (8 * x.2.1) = some (body x.2.1)
          ∧ (∀ e ∈ (chunks x.2.1 8 (body x.2.1)).map leNat, e / 2 ^ 32 = 0 ∧ e / 2 ^ 16 % 256 < 32 ∧ e / 2 ^ 24 % 256 < 32
            ∧ e / 2 ^ 16 % 8 < 6 ∧ e / 2 ^ 24 % 8 < 6 ∧ (job2.pos (e % 2 ^ 16)).isSome = true)
          ∧ (t.startCmd 0).job.job = some job2
          ∧ (List.range 16).find? (fun g => (tget (t.startCmd 0).xfer.grants g).isNone) = some x.2.2)
    ∧ (let q := packet 0x319 [(24, 1, 14)]
       let t := { s 1 1 15 with host := (withCmd q up).host }
       t.Ready 0 (asRead q) 0x319 ∧ fine (needJob (t.startCmd 0)) = true ∧ (tget (t.startCmd 0).xfer.grants 14).isSome = true) := by
  decide +kernel

theorem test_hyp_PacketsAreForwarded_stretches :
    let g (n : Nat) : Grant := { borrower := 3, share := 32, stretch := [(1, 32, 33), (0, 33, 32)].take n, slotsUsed := 7, windowAt := 0 }
    let p (dst : Nat) : Packet := [mkRec 128 [(4, 2, dst), (11, 1, 1 + 3 * 16)]]
    let s (n dst : Nat) : State := withLink 1 lit (withLink 4 lit { up with
      xfer := { up.xfer with grants := [(2, g n)] }, felt := { up.felt with rxq := [(0, 7, p dst)] } })
    let enters (n dst : Nat) (now : Nat) (f : State → Grant → Bool) : Bool :=
      let t := (s n dst).advance now
      match t.takeRx (fun l v q => l != 24 && v == 7 && hTransit q && q == p dst && (t.onStretch l).isSome) with
      | some ((0, 7, q), _) => t.onStretch 0 == some (2, g n) && hDst q == dst && f t (g n)
      | _ => false
    enters 1 1 5 (fun t _ => t.pkgId == 1) = true
    ∧ enters 1 9 5 (fun t g => t.pkgId != 9 && !g.stretch.any (fun e => t.isFenced e.1) && t.stretchNext g 0 == some (4, true)) = true
    ∧ enters 2 9 1000 (fun t g => t.pkgId != 9 && !g.stretch.any (fun e => t.isFenced e.1) && t.stretchNext g 0 == some (4, false)
        && decide (g.windowAt + us 1 ≤ t.time) && decide (1 ≤ t.shareSlots g 4)) = true
    ∧ enters 2 9 999 (fun t g => t.pkgId != 9 && !g.stretch.any (fun e => t.isFenced e.1) && t.stretchNext g 0 == some (4, false)
        && decide (t.time < g.windowAt + us 1) && decide (g.slotsUsed + 1 ≤ t.shareSlots g 4)) = true
    ∧ (((s 2 9).onStretch 0).bind (fun g => (s 2 9).stretchNext g.2 0)).isSome = true
    ∧ ((s 2 9).onStretch 23).bind (fun g => (s 2 9).stretchNext g.2 23) = none := by decide +kernel

/-! ### Witnesses: collectives -/

/-- A command of member 1 whose host list holds two words. -/
def colled (p : BitVec 512) (a b : Nat) : State :=
  let sh : PShard := { weight := 9, state := 0, landing := 0, token := 5, rows := 1, cols := 1, config := 0, s0 := 0, resident := [],
                       run := none, later := false, form := none }
  let s := target (withCmd p (withHost 0x1000 (leBytes 4 a ++ leBytes 4 b) up))
  { s with press := { s.press with shards := [(1, sh)] } }

/-- What every collective asks. -/
def collects (p : BitVec 512) (op a b : Nat) (f : State → List Byte → Bool) : Bool :=
  let s := colled p a b
  let t := s.startCmd 0
  decide (s.Ready 0 (asRead p) op) && t.me == some (job2, 1) && fine (needJob t) && job2.group 1 (fld p 24 1) == [0, 1]
    && (match t.hostRead 0x1000 8 with
      | some bs => f t bs
      | none => false)

/-- A gather of both shards into the last bytes of the handle; a broadcast by this member and by the other. -/
theorem test_hyp_CollectivesStart :
    let h := 2 ^ 18
    let ga := packet 0x300 [(25, 1, 1), (38, 1, 2), (40, 4, h), (44, 6, 2 ^ 21 - 16384), (56, 8, 0x1000)]
    let br (root : Nat) := packet 0x301 [(32, 2, root), (36, 4, 2 ^ 17), (40, 4, h)]
    (collects ga 0x300 0 1 (fun t bs =>
        let shards := (chunks 2 4 bs).map leNat
        shards == [0, 1] && shards.all (fun x => decide (x < job2.shards.length))
          && (shards.filter (fun x => job2.shardOwner x == some 1)).all (fun x => (tget t.press.shards x).isSome)
          && fine (t.needDst 0 (fld ga 40 4) (fld ga 44 6) ((shards.map job2.shardBytes).sum))) = true)
    ∧ collects (br 1) 0x301 0 0 (fun t _ => fine (t.needSrc 0 (fld (br 1) 40 4) (fld (br 1) 44 6) (16 * fld (br 1) 36 4))) = true
    ∧ collects (br 0) 0x301 0 0 (fun t _ => fine (t.needDst 0 (fld (br 0) 40 4) (fld (br 0) 44 6) (16 * fld (br 0) 36 4))) = true := by
  decide +kernel

/-- Reductions of FP32 into BF16 by minimum and of nothing; an exchange of as many bytes as fit. -/
theorem test_hyp_CollectivesStart_reductions :
    let h := 2 ^ 18
    let re (op k f n : Nat) := packet op [(32, 1, k), (33, 1, f), (36, 4, n), (40, 4, h), (50, 4, h), (54, 6, 2 ^ 20)]
    let al := packet 0x304 [(32, 4, 2 ^ 19), (36, 4, h), (40, 6, 2 ^ 20), (46, 4, h), (56, 8, 0x1000)]
    (∀ op ∈ [0x302, 0x303], ∀ x ∈ [(0, 0, 0), (2, 16, 64), (1, 17, 128)], let p := re op x.1 x.2.1 x.2.2
        collects p op 0 0 (fun t _ => decide (fld p 32 1 ≤ 2 ∧ fld p 33 1 % 16 ≤ 1 ∧ fld p 33 1 / 16 ≤ 1 ∧ fld p 36 4 % 64 = 0)
          && fine (t.needSrc 0 (fld p 40 4) (fld p 44 6) (fld p 36 4 * redSize (fld p 33 1 % 16)))
          && fine (t.needDst 0 (fld p 50 4) (fld p 54 6) (job2.instBytes (Inst.start (asRead p) (op - 0x300) t.time 0 [] []) 2))) = true)
    ∧ collects al 0x304 0 (2 ^ 19) (fun t bs => fld al 32 4 % 16 == 0 && ((chunks 2 4 bs).map leNat).all (fun x => decide (x ≤ fld al 32 4))
        && fine (t.needSrc 0 (fld al 36 4) (fld al 40 6) (2 * fld al 32 4))
        && fine (t.needDst 0 (fld al 46 4) (fld al 50 6) (2 * fld al 32 4))) = true := by decide +kernel

/-- Member 1 of a job of two with an instance of a kind, as command 0, in role group `r`; group 1 is this member alone. -/
def inst (kind r : Nat) (fs : List (Nat × Nat × Nat)) : Inst :=
  Inst.start (asRead (packet (0x300 + kind) ((24, 1, r) :: fs))) kind 0 1 [1, 1] [0, 1]

def atInst (i : Inst) (s : State) : State := { s with xfer := { s.xfer with insts := [(0, i)] } }

/-- A broadcast by this member; a gather whose last and last but one shard is due at its step, and one that is early. -/
theorem test_hyp_CollectivesProgress_sends :
    let b := inst 1 1 []
    let g (left : List Nat) (tag : Nat) : Inst := { inst 0 1 [(32, 6, tag), (40, 4, 2 ^ 18), (50, 2, 0xFFFE)] with left := left }
    let sh : PShard := { weight := 2 ^ 18, state := 0, landing := 0, token := 5, rows := 1, cols := 1, config := 0, s0 := 0, resident := [],
                         run := none, later := false, form := none }
    let s (left : List Nat) (tag : Nat) : State := atInst (g left tag) { target up with
      press := { up.press with shards := [(1, sh)] }, host := { (target up).host with tokens := [(5, 4)] } }
    let t := atInst b (target up)
    t.me = some (job2, 1) ∧ t.inst 0 = some b ∧ b.kind ≠ 0 ∧ b.sent = false ∧ b.isOver = false ∧ t.mayStart' job2 1 b = true
    ∧ (∀ x ∈ [([0, 1], 4), ([1], 4), ([1], 5)],
        (s x.1 x.2).me = some (job2, 1) ∧ (s x.1 x.2).inst 0 = some (g x.1 x.2) ∧ (g x.1 x.2).kind = 0
          ∧ (tget (s x.1 x.2).press.shards 1).isSome = true ∧ fine ((s x.1 x.2).range (2 ^ 18) 0 8192) = true ∧ job2.shardBytes 1 = 8192
          ∧ fine ((s x.1 x.2).range (instDst (g x.1 x.2)).1 (instDst (g x.1 x.2)).2 (job2.instBytes (g x.1 x.2) 1)) = true
          ∧ (s x.1 x.2).token 5 = 4 ∧ fld (g x.1 x.2).packet 32 6 = x.2 ∧ (s x.1 x.2).mayStart' job2 1 (g x.1 x.2) = true)
    ∧ (let i := inst 1 1 [(26, 2, 65535)]
       let t := (atInst i up).advance (ms 65535)
       t.inst 0 = some i ∧ i.isOver = false ∧ instTimeout i ≠ 0 ∧ i.since + ms (instTimeout i) ≤ t.time
         ∧ ((atInst i up).advance (ms 65535 - 1)).time < i.since + ms (instTimeout i)) := by decide +kernel

/-- A packet that a circuit has delivered here. -/
def delivered (p : Packet) (s : State) : State := { s with felt := { s.felt with rxq := [(24, 5, p)] } }

/-- DATA that fills the landing; a PARTIAL that its counts allow, for this member's own segment and for the other's, and
one that exceeds them; a READY of an instance that runs and of one that does not. -/
theorem test_hyp_CollectivesProgress_arrives :
    let pkt (dst type : Nat) (rest : List Unit16) : Packet :=
      (({ dst := dst, src := 0, via := 0, type := type, last := true, poison := false, tagged := false, stable := false, xfer := 0 } : Hdr).unit) :: rest
    let here (i : Inst) (types : List Nat) (p : Packet) (f : State → Inst → Packet → Bool) : Bool :=
      match (delivered p (atInst i (target up))).arrival types p with
      | some ((24, 5, q), t) => (t.refusePkt 5 q).isNone && t.me == some (job2, 1) && (match t.instOf (hXfer q) with
          | some (0, k) => k == i && !k.isOver && f t k q
          | _ => false)
      | _ => false
    let b := inst 1 0 [(36, 4, 2), (40, 4, 2 ^ 18)]
    let r (c : Nat) : Inst := { inst 2 0 [(33, 1, 0), (36, 4, 64)] with sums := [(2 ^ 32 + 7, (c, [0, 0, 0, 0])), (7, (c, [0, 0, 0, 0]))] }
    let part (dst n : Nat) := pkt dst tyPartial (xferHdr 112 0 1 :: List.replicate n 0)
    (let p := pkt 0 tyData [xferHdr 16 0 1, 0]
     here b [tyData, tyRData] p (fun t i q => decide (tOff q + 16 * pktUnits q ≤ job2.instBytes i 2)
       && !(decide (i.land.lasts.length = i.land.expect ∧ i.land.totals < i.land.units + pktUnits q))
       && fine (t.range (instDst i).1 (instDst i).2 (job2.instBytes i 2))) = true)
    ∧ (∀ dst ∈ [0, 1], ∀ c ∈ [0, 1, 2], here (r c) [tyPartial] (part dst 1) (fun _ i q =>
        job2.index (job2.group 1 0) (hDst q) == some dst && decide (tOff q / 16 + pktUnits q ≤ segUnits i 2)
          && tTotal q == 1 && (tget i.sums (dst * 2 ^ 32 + 7 + 0)).elim 0 Prod.fst == c) = true)
    ∧ (let p := pkt 1 tyReady [mkRec 128 [(0, 2, 1), (2, 2, 1)]]
       here b [tyReady] p (fun _ _ _ => true) = true
         ∧ (match (delivered p (target up)).arrival [tyReady] p with
           | some ((24, 5, q), t) => (t.refusePkt 5 q).isNone && (t.instOf (hXfer q)).isNone
           | _ => false) = true) := by decide +kernel

/-! ### Witnesses: plans and congestion -/

/-- A plan of this package, whose serial number is 9, with one entry for the link 3 of port 5, split in four. -/
def planHead (serial : BitVec 64) : BitVec 256 := mkRec 256 [(0, 4, 1), (4, 4, 2), (8, 8, serial.toNat), (16, 2, 1), (18, 2, 2 * 4 ^ 5), (20, 1, 1)]
def planLine : BitVec 128 := mkRec 128 [(0, 1, 5 + 24), (1, 1, 1), (2, 1, 0), (4, 8, 9), (12, 2, 2)]
def planBytes (serial : BitVec 64) : List Byte := recBytes (planHead serial) ++ recBytes planLine

theorem test_hyp_FeltCommandsAndCongestion_plan :
    let p := packet 0x310 [(24, 8, 0x1000)]
    let s := withCmd p (withHost 0x1000 (planBytes 9) up)
    let t := s.startCmd 0
    let h := planHead 9
    let ps := [planEntry planLine]
    s.Ready 0 (asRead p) 0x310 ∧ fld p 24 8 = 0x1000 ∧ t.hostRec 256 0x1000 = some h
      ∧ (List.range (fld h 20 1)).mapM (fun i => t.hostRec 128 (0x1000 + 32 + 16 * i)) = some [planLine] ∧ fld h 20 1 ≤ 24 ∧ [planLine].length = fld h 20 1 ∧ fld h 21 11 = 0
      ∧ fld h 18 2 < 4096
      ∧ (fld planLine 0 1 < 32 ∧ fld planLine 1 1 < 2 ∧ fld planLine 2 1 < 32 ∧ fld planLine 3 1 = 0 ∧ fld planLine 14 2 = 0)
      ∧ 0x1000 % 64 = 0 ∧ BitVec.ofNat 64 (fld h 8 8) = 9 ∧ (List.range 6).all (fun i => fld h 18 2 / 4 ^ i % 4 != 3) = true
      ∧ (∀ p ∈ ps, p.link < 24 ∧ p.expected < 24 ∧ linkGroup p.link < 2 ^ (fld h 18 2 / 4 ^ linkPort p.link % 4))
      ∧ noDup (ps.map PlanEntry.link) = true := by decide +kernel

/-- A job whose slice uses link 4: a plan that keeps it matched with the neighbour of serial 9, and one that does not. -/
theorem test_hyp_FeltCommandsAndCongestion_slice :
    let s := member 1 (withLink 4 { lit with peerSerial := 9, peerLogical := 2 } up)
    let plan (serial : BitVec 64) : Plan := { id := 1, generation := 1, pkg := 1, modes := 0,
                                              entries := [{ link := 4, swapTol := false, expected := 2, serial := serial, pkg := 0 }] }
    s.sliceLinks.contains 4 = true ∧ s.keepsSlice (plan 9) = true ∧ s.keepsSlice (plan 8) = false ∧ up.keepsSlice (plan 8) = true := by decide +kernel

theorem test_hyp_FeltCommandsAndCongestion_links :
    let p (link act : Nat) := packet 0x311 [(24, 1, portByte link), (25, 1, act)]
    let s (link act : Nat) := withLink link lit (withCmd (p link act) up)
    (∀ x ∈ [(0, 0), (20, 1), (20, 2)], (s x.1 x.2).Ready 0 (asRead (p x.1 x.2)) 0x311 ∧ byteLink (fld (p x.1 x.2) 24 1) = x.1
        ∧ ((s x.1 x.2).startCmd 0).linkHas x.1 = true ∧ fld (p x.1 x.2) 25 1 = x.2
        ∧ ((s x.1 x.2).startCmd 0).sliceLinks.contains x.1 = false ∧ (((s x.1 x.2).startCmd 0).link x.1).unacked = [])
    ∧ (let u := member 1 (s 4 0)
       u.Ready 0 (asRead (p 4 0)) 0x311 ∧ byteLink (fld (p 4 0) 24 1) = 4 ∧ (u.startCmd 0).linkHas 4 = true
         ∧ (u.startCmd 0).sliceLinks.contains 4 = true)
    ∧ (let q := packet 0x312 [(24, 8, 0x20)]
       (withCmd q up).Ready 0 (asRead q) 0x312 ∧ fld q 24 8 % 32 = 0) := by decide +kernel

/-- Maps 3 and 4 of which the second is asked; the sample that is due, and one that is not; 99 and 100 samples. -/
theorem test_hyp_FeltCommandsAndCongestion_maps :
    let q := packet 0x313 [(24, 4, 4), (32, 8, 0x20)]
    let c := up.xfer.congest
    let s (k : Congest) : State := { up with xfer := { up.xfer with congest := k } }
    let m := withCmd q (s { c with maps := [(3, []), (4, [])] })
    (m.Ready 0 (asRead q) 0x313 ∧ fld q 32 8 % 32 = 0
      ∧ (m.startCmd 0).xfer.congest.maps.filter (fun m => decide (fld q 24 4 ≤ m.1)) = [(4, [])])
    ∧ (let t := (s { c with samples := List.replicate 99 [] }).advance (us 10)
       t.xfer.congest.samples.length < 100 ∧ t.xfer.congest.sampleAt + us 10 ≤ t.time)
    ∧ ((s c).advance (us 10 - 1)).time < c.sampleAt + us 10
    ∧ ((s { c with samples := List.replicate 100 [] }).advance 5).xfer.congest.samples.length = 100 := by decide +kernel

/-! ### Witnesses: the Vat -/

/-- A source of one chunk, and one of a raw container with two chunks after it. -/
def source1 : BitVec 512 := mkRec 512 [(0, 4, 1), (5, 1, 1), (32, 8, 0x2000), (40, 4, 1)]
def source2 : BitVec 512 := mkRec 512 [(0, 4, 2), (4, 1, 4), (5, 1, 4), (40, 4, 2), (48, 5, 1)]

/-- A profile of one patch of 8 by 8, a window of `win` samples, batches of `batch` and two regions. -/
def profile (win batch : Nat) : BitVec 1024 :=
  mkRec 1024 [(0, 2, 8), (2, 2, 8), (4, 1, 8), (5, 1, 1), (6, 1, 1), (7, 1, 1), (8, 1, 1), (11, 1, 1), (24, 4, 4096), (30, 2, 64),
    (56, 4, win), (60, 4, batch), (64, 1, 2), (66, 2, 20), (68, 2, 21)]

/-- A package with a job, a carve-out for the Vat, one source and a profile. -/
def vatted (s : State) : State :=
  let t := placed s
  { t with
    mem := { t.mem with carve := { t.mem.carve with vat := 2 ^ 31 + 2 ^ 14 } }
    vat := { t.vat with sources := [source1], cfg := some { profile := profile 2 1, handle := 2 ^ 18 } } }

def flowing (s : State) : State := { s with vat := { s.vat with running := true, chunks := 1 } }

theorem test_hyp_VatCommandsComplete_sources :
    let p := packet 0x400 [(24, 8, 0x1000), (32, 4, 1)]
    let s := vatted (withCmd p (withHost 0x1000 (recBytes source2) up))
    let q (n : Nat) := packet 0x401 [(24, 4, n)]
    let ok (s : State) : Bool :=
      let t := s.startCmd 0
      let all := t.vat.sources ++ [source2]
      fine (needJob t) && decide (s.Ready 0 (asRead p) 0x400) && t.hostRead 0x1000 64 == some (recBytes source2)
        && BitVec.ofNat 512 (leNat (recBytes source2)) == source2 && srcReservedOk source2 && srcLimitsOk source2
        && decide (all.length ≤ 2 ^ 20 ∧ (all.map srcCount).sum ≤ 2 ^ 40) && (basesOk t.chunkCount [source2]).isSome
        && noDup (all.map (fun d => fld d 0 4))
    ok s = true ∧ ok (flowing s) = true
    ∧ (s.startCmd 0).vat.running = false ∧ ((flowing s).startCmd 0).vat.running = true
    ∧ (∀ n ∈ [0, 1, 2], (vatted (withCmd (q n) up)).Ready 0 (asRead (q n)) 0x401
        ∧ ((vatted (withCmd (q n) up)).startCmd 0).vat.running = false) := by decide +kernel

theorem test_hyp_VatCommandsComplete_profile :
    let p := packet 0x408 [(24, 8, 0x1000)]
    let s (r : BitVec 1024) := vatted (withCmd p (withHost 0x1000 (recBytes r) up))
    let new (s : State) : State := { s with vat := { s.vat with cfg := none } }
    let ok (s : State) (r : BitVec 1024) : Bool :=
      let t := s.startCmd 0
      let q := readProfile r
      fine (needJob t) && decide (s.Ready 0 (asRead p) 0x408) && t.hostRec 1024 0x1000 == some r && fld r 65 1 == 0 && fld r 70 58 == 0
        && profileOk r && !t.vat.running && t.mem.carve.vat != 0 && decide (q.batchOff + q.regions * q.batch * q.slot ≤ t.mem.carve.vat)
        && (match t.vat.cfg with
          | some o => t.releaseHandle o.handle
          | none => t).nextSlot.isSome
    ok (s (profile 1 1)) (profile 1 1) = true ∧ ok (new (s (profile 1 1))) (profile 1 1) = true
      ∧ (readProfile (profile 2 1)).win ≠ (readProfile (profile 1 1)).win
      ∧ ((vatted up).mem.carve.vat = (readProfile (profile 1 1)).batchOff + 2 * 4096) := by decide +kernel

theorem test_hyp_VatCommandsComplete_runs :
    let st := packet 0x409 []
    let sp := packet 0x40A []
    let gp := packet 0x40B [(24, 8, 0x20)]
    let f : Fetch := { epoch := 0, k := 0, chunk := 0, skip := 0, source := 1, entry := 0, done := none }
    let s := vatted (withCmd st up)
    let r (fs : List Fetch) : State := let t := flowing (vatted (withCmd sp up)); { t with vat := { t.vat with fetches := fs } }
    (fine (needJob (s.startCmd 0)) = true ∧ s.Ready 0 (asRead st) 0x409 ∧ (s.startCmd 0).vat.running = false
      ∧ (s.startCmd 0).vat.cfg.isSome = true ∧ (s.startCmd 0).dataRank.2 ≤ (s.startCmd 0).chunkCount)
    ∧ (∀ fs ∈ [[], [f]], fine (needJob ((r fs).startCmd 0)) = true ∧ (r fs).Ready 0 (asRead sp) 0x40A
        ∧ ((r fs).startCmd 0).vat.running = true ∧ ((r fs).startCmd 0).vat.fetches.all (fun f => f.done.isSome) = fs.isEmpty)
    ∧ ((vatted (withCmd sp up)).Ready 0 (asRead sp) 0x40A ∧ ((vatted (withCmd sp up)).startCmd 0).vat.running = false)
    ∧ ((vatted (withCmd gp up)).Ready 0 (asRead gp) 0x40B ∧ fld gp 24 8 % 32 = 0) := by decide +kernel

/-- A position whose counter is the draw index, one beyond it, and two beyond it. -/
theorem test_hyp_VatCommandsComplete_position :
    let p := packet 0x40C [(24, 8, 0x1000)]
    let r (c : Nat) : BitVec 320 := mkRec 320 [(0, 4, 3), (6, 2, 1), (8, 8, 7), (24, 4, 2), (32, 8, c)]
    let ok (c : Nat) : Bool :=
      let s := vatted (withCmd p (withHost 0x1000 (recBytes (r c)) up))
      let t := s.startCmd 0
      fine (needJob t) && decide (s.Ready 0 (asRead p) 0x40C) && t.hostRec 320 0x1000 == some (r c) && fld (r c) 28 4 == 0
        && fld (r c) 21 2 == 0 && !t.vat.running && t.vat.cfg.isSome && fld (r c) 4 2 == t.dataRank.1 && fld (r c) 6 2 == t.dataRank.2
        && fld (r c) 24 4 == (readProfile (profile 2 1)).win && fld (r c) 8 8 % t.dataRank.2 == 0
        && fld (r c) 8 8 / t.dataRank.2 == 7 && fld (r c) 32 8 == c
    ok 7 = true ∧ ok 8 = true ∧ ok 9 = true := by decide +kernel

/-- The Vat of a job of one chunk runs, with its state changed. -/
def ingests (s : State) (f : Vat → Vat) : State :=
  let t := flowing (vatted s)
  { t with vat := f t.vat }

/-- Of one chunk the permutation is that chunk; its index entry is read at 0x2000, and holds samples or none. -/
theorem test_hyp_VatDrawsSamples_fetch :
    let fetch (fs : Nat) (x : BitVec 256) : Bool :=
      let f : Fetch := { epoch := 0, k := 0, chunk := 0, skip := 0, source := 1, entry := 0, done := none }
      let s := ingests (withHost 0x2000 (recBytes x) up) (fun v => { v with fetches := List.replicate fs f })
      let ch := permute (s.dataRank.1 + s.vat.k * s.dataRank.2) s.vat.chunks (epochKeys s.seed s.vat.epoch)
      s.vat.cfg == some { profile := profile 2 1, handle := 2 ^ 18 } && s.vat.active && s.vat.held.isEmpty
        && decide (s.vat.fetches.length < (readProfile (profile 2 1)).streams)
        && s.domOn 3 && decide (s.vat.k < shareLen s.vat.chunks s.dataRank.1 s.dataRank.2) && sourceOf s.vat.sources ch == some source1
        && s.hostRec 256 (fld source1 32 8 + 32 * (ch - srcBase source1)) == some x
    fetch 0 0 = true ∧ entrySkipped 0 = false ∧ fetch 63 (mkRec 256 [(12, 4, 1)]) = true ∧ entrySkipped (mkRec 256 [(12, 4, 1)]) = true := by
  decide +kernel

/-- Decoded: two pictures, of a stride and clip of 1, are two samples. -/
theorem test_hyp_VatDrawsSamples_draws :
    let p := readProfile (profile 2 1)
    let f : Fetch := { epoch := 0, k := 0, chunk := 0, skip := 0, source := 1, entry := 0, done := none }
    let x : Sample := { errClass := 0, lost := 0, concealed := 0, pts := 0, videoTokens := 1, audioFrames := 0, captionTokens := 0, subtitleBytes := 0, payload := [] }
    let res : DecodeResult := { noKeyframe := false, undecodable := false, area := 64, lostPackets := 0, concealedUnits := 0, leading := 0, subtitleTrunc := 0,
                                luma := 64, bits := 8, flags := 0, pictures := 2, samples := [x, x] }
    let dec := ingests up (fun v => { v with fetches := [f] })
    let full := ingests up (fun v => { v with nextQ := 4, copied := 2 })
    let win (c d b : Nat) (w : Bool) : State := ingests up (fun v => { v with window := some 0, copied := c, drawn := d, inBatch := b, regionWait := w })
    let hand := ingests up (fun v => { v with inBatch := 1, copied := 2, starts := [(1, (0, 0, 0))] })
    let wait (b : Nat) : State := ingests { up with host := { up.host with tokens := [(21, 1)] } } (fun v => { v with regionWait := true, batches := b })
    (dec.vat.active = true ∧ dec.vat.fetches[0]? = some f ∧ f.done = none ∧ res.samples.length = samplesOf p res
      ∧ (State.countChunk { dec with vat := { dec.vat with fetches := lupd dec.vat.fetches 0 (fun f => { f with done := some res }) } }
          res).vat.stopping = none)
    ∧ (full.vat.window = none ∧ full.vat.active = true ∧ full.vat.full p (full.vat.drawWindow p) = true)
    ∧ ((win 1 1 0 false).vat.window = some 0 ∧ (win 1 1 0 false).vat.drawn = (win 1 1 0 false).vat.copied)
    ∧ ((win 1 2 0 false).vat.window = some 0 ∧ (win 1 2 0 false).vat.drawn ≠ (win 1 2 0 false).vat.copied
      ∧ (win 1 2 0 false).vat.regionWait = false ∧ (win 1 2 0 false).vat.inBatch < p.batch)
    ∧ (hand.vat.inBatch = p.batch ∧ tget hand.vat.starts (hand.vat.copied / p.win) = some (0, 0, 0))
    ∧ ((wait 2).vat.regionWait = true ∧ (wait 2).regionFree p (wait 2).vat.batches = true ∧ (wait 3).regionFree p 3 = false) := by decide +kernel

/-! ### Witnesses: the Mould -/

/-- The handle 0x4_0000 whose first 16 bytes are known. -/
def holding (bs : List Byte) (s : State) : State :=
  (withHandle 0 s).extWrite { cls := 0, stripe := 3, place := 0, hostVisible := false, fabricRead := false, size := 2 ^ 21, base := 0, hdm := 0 } 0
    (bs ++ List.replicate (16 - bs.length) 0)

/-- A 1 by 1 matrix of BF16 with one nonzero tile, and unit `u` as `f` makes it. -/
def matrix1 (optical : Bool) : Matrix := { copy := [0x3F80], fmt := fmtBF16, m := 1, k := 1, pin := 0, optical := optical, tiles := [0], shard := none }
def withUnit (u : Nat) (f : MouldUnit → MouldUnit) (s : State) : State := s.setUnit u (f (s.unit u))

/-- A matrix of one element, the last of its handle, that is 1; one that is infinite; a package that holds 255 tiles. -/
theorem test_hyp_MouldCommandsComplete_declare :
    let p (f : Nat) := packet 0x500 [(24, 4, 2 ^ 18), (34, 1, f), (35, 1, 4), (36, 2, 1), (38, 2, 1)]
    let s (b : List Byte) : State := holding b (withCmd (p fmtBF16) { up with mould := { up.mould with mats := [(0, { matrix1 true with tiles := List.range 255 })] } })
    let h := 2 ^ 18
    let ok (b : List Byte) (f : List Byte → State → Bool) : Bool :=
      let t := (s b).startCmd 0
      decide ((s b).Ready 0 (asRead (p fmtBF16)) 0x500) && fld (p fmtBF16) 35 1 % 4 == 0 && mouldMatFmt fmtBF16
        && (match t.rangeFor 0 h 0 2 with
          | .ok e => !e.hostVisible && ((t.shardOf h).filter (fun p => p.2.weight == h)).isNone && !t.lowPlane h 0 2
              && (match t.extRead e 0 2 with
                | (bs, false, u) => f bs u
                | _ => false)
          | .error _ => false)
    let codes (bs : List Byte) := (unpackBits (fmtBits fmtBF16) bs 1).map (BitVec.ofNat 32)
    let value (x : BitVec 32) : FVal := decodeAs (srcFmt fmtBF16) x.toNat
    ok [0x80, 0x3F] (fun bs u => (tilesWhere 1 1 (codes bs) (fun x => !(value x).isFinite)).isEmpty && u.freeMatrix == some 1
        && decide (u.tileTotal + (tilesWhere 1 1 (codes bs) (fun x => !(value x).isZero)).length ≤ 256)) = true
      ∧ ok [0x80, 0x7F] (fun bs _ => tilesWhere 1 1 (codes bs) (fun x => !(value x).isFinite) == [0]) = true := by decide +kernel

/-- Electronic for want of an optical matrix; in light on unit 3, which holds the tile, and where the tile must be loaded, with MCLK at
100 MHz. -/
theorem test_hyp_MouldCommandsComplete_apply :
    let p (n : Nat) := packet 0x501 [(24, 1, 5), (25, 1, fmtBF16 * 17), (28, 4, n), (32, 4, 2 ^ 18), (46, 4, 2 ^ 18)]
    let s (n : Nat) (opt : Bool) (tile : Option (Nat × Nat)) : State :=
      let t := withHandle 0 (withCmd (p n) (withUnit 3 (fun m => { m with state := 3, lines := 0xFFFFFFFF, loaded := tile }) up))
      { t with mould := { t.mould with mats := [(5, matrix1 opt)] }, pwr := { t.pwr with clks := tmap t.pwr.clks (fun _ c => { c with j := 1 }) } }
    let ok (n : Nat) (opt : Bool) (tile : Option (Nat × Nat)) (f : State → ApplyCmd → Matrix → Bool) : Bool :=
      let u := s n opt tile
      let t := u.startCmd 0
      let a := applyCmd (p n)
      decide (u.Ready 0 (asRead (p n)) 0x501) && mouldInFmt a.fin_ && mouldOutFmt a.fout && decide (1 ≤ a.n)
        && (match tget t.mould.mats a.mat with
          | some x => fine (t.rangeFor 0 a.inH a.inOff ((a.n - 1) * a.inStride + a.inBytes x))
              && fine (t.rangeFor 0 a.outH a.outOff ((a.n - 1) * a.outStride + a.outBytes x))
              && !t.lowPlane a.inH a.inOff ((a.n - 1) * a.inStride + a.inBytes x) && !t.writeGuarded a.outH && f t a x
          | none => false)
    ok 1 false none (fun t a x => t.lightChoice a x == none) = true
      ∧ ok 1 true (some (5, 0)) (fun t a x => t.lightChoice a x == some [3] && (t.unloaded a.mat x [3]).isEmpty) = true
      ∧ ok (2 ^ 32 - 1) true none (fun t a x => t.lightChoice a x == some [3] && !(t.unloaded a.mat x [3]).isEmpty) = true := by decide +kernel

theorem test_hyp_MouldCommandsComplete_units :
    let r := packet 0x502 [(24, 1, 5)]
    let q := packet 0x503 [(24, 8, 0x20)]
    let k := packet 0x504 [(24, 1, 3)]
    let a := packet 0x501 [(24, 1, 5)]
    let s : State := { withCmd r up with mould := { up.mould with mats := [(5, matrix1 false)] } }
    let used : State := { s with host := { s.host with cmds := [(0, asRead r), (1, asRead a)] } }
    let any (t : State) := t.host.cmds.any (fun e => pktOp e.2.packet == 0x501 && fld e.2.packet 24 1 == 5)
    (s.Ready 0 (asRead r) 0x502 ∧ (tget (s.startCmd 0).mould.mats 5).isSome = true ∧ any (s.startCmd 0) = false)
      ∧ (used.Ready 0 (asRead r) 0x502 ∧ (tget (used.startCmd 0).mould.mats 5).isSome = true ∧ any (used.startCmd 0) = true)
      ∧ ((withCmd q up).Ready 0 (asRead q) 0x503 ∧ fld q 24 8 % 32 = 0 ∧ (fld q 32 1).testBit 0 = false)
      ∧ ((withCmd k up).Ready 0 (asRead k) 0x504 ∧ fld k 24 1 = 3 ∧ (((withCmd k up).startCmd 0).unit 3).retune = none) := by decide +kernel

theorem test_hyp_MouldUnitsAreTunedAndProbed_tuning :
    let s (f : MouldUnit → MouldUnit) : State := withUnit 3 f { up with mould := { up.mould with mats := [(5, matrix1 true)] } }
    let m (f : MouldUnit → MouldUnit) : MouldUnit := (s f).unit 3
    let load := s (fun m => { m with loading := some (5, 0) })
    let lines (m : MouldUnit) (ring : Nat) (locked : Bool) : BitVec 32 :=
      MouldUnit.linesNow { m with searching := if ring < 31 then m.searching.filter (· != ring) ++ [ring + 1] else m.searching.filter (· != ring),
                                  parked := if locked then m.parked else m.parked ++ [ring] }
    (((load.advance (us 40)).unit 3).loading = some (5, 0) ∧ (tget (load.advance (us 40)).mould.mats 5).isSome = true
      ∧ ((load.advance (us 40)).unit 3).loadAt + us 40 ≤ (load.advance (us 40)).time
      ∧ (load.advance (us 40 - 1)).time < ((load.advance (us 40 - 1)).unit 3).loadAt + us 40)
    ∧ (m (fun m => { m with state := 3 })).serving = true ∧ (m (fun m => { m with state := 4 })).serving = true
    ∧ (∀ st ∈ [1, 2, 5], (m (fun m => { m with state := st })).serving = false)
    ∧ (m (fun m => { m with comb := true })).comb = true
    ∧ ((m (fun m => { m with state := 1, searching := [0, 31 * 32 + 3] })).searching.contains 0 = true)
    ∧ (let x := m (fun m => { m with state := 1, searching := [31] })
       x.searching.contains 31 = true ∧ x.searching.filter (· != 31) = [] ∧ lines x 31 true ≠ 0)
    ∧ (m (fun m => { m with calibrating := true })).calibrating = true := by decide +kernel

/-- Ring 0 of a bus is wrong: no line is left; ring 31 is: 31 lines are left. -/
theorem test_hyp_MouldUnitsAreTunedAndProbed_dither :
    let m : MouldUnit := { up.unit 3 with state := 3, lines := 0xFFFFFFFF, comb := false, parked := [], searching := [] }
    let after (r : Nat) : BitVec 32 := MouldUnit.linesNow { m with searching := [r] }
    m.serving = true ∧ m.state ≠ 0 ∧ m.state ≠ 6 ∧ after (255 * 32) = 0 ∧ after (255 * 32 + 31) ≠ 0 := by decide +kernel

theorem test_hyp_MouldUnitsAreTunedAndProbed_probes :
    let s (f : MouldUnit → MouldUnit) : State := withUnit 0 f up
    let m (f : MouldUnit → MouldUnit) (t : Nat) : MouldUnit := ((s f).advance t).unit 0
    (∀ x ∈ [(0, 5), (7, ms 10)], (m (fun m => { m with state := 3, probeSeq := x.1 }) x.2).serving = true
        ∧ (m (fun m => { m with state := 3, probeSeq := x.1 }) x.2).probing = false
        ∧ (x.1 = 0 ∨ (m (fun m => { m with state := 3, probeSeq := x.1 }) x.2).captureAt + ms 10 ≤ ((s (fun m => { m with probeSeq := x.1 })).advance x.2).time))
    ∧ (f32Le dB3 0x403FFFFF = false ∧ f32Le dB3 0x40400000 = true)
    ∧ (f32Le rmsMax rmsMax = true ∧ f32Le errMax errMax = true ∧ f32Le (rmsMax + 1) rmsMax = false ∧ f32Le rmsDrift rmsDrift = true
      ∧ f32Le rmsMax rmsDrift = false ∧ f32Le (errMax + 1) errMax = false)
    ∧ (∀ d ∈ [1, 2], let x := m (fun m => { m with probing := true, drift := d }) 0
        x.probing = true ∧ x.hadamard = false ∧ x.drift + 1 = d + 1) ∧ 1 + 1 < 3 ∧ 3 ≤ 2 + 1
    ∧ (∀ n ∈ [8, 9], let x := m (fun m => { m with probing := true, hadamard := true, passes := n }) 0
        x.probing = true ∧ x.hadamard = true ∧ x.passes = n)
    ∧ (∀ st ∈ [3, 5], (m (fun m => { m with probing := true, state := st }) 0).serving = decide (st = 3)) := by decide +kernel

/-! ### Witnesses: the Press and the reduce path -/

/-- Weight, state and landing handles 0x4_0000 to 0x4_0002 of a shard, with a state header of step 4. -/
def shardExt (i : Nat) : Extent :=
  { cls := 2 + i, stripe := 3, place := 0, hostVisible := false, fabricRead := false, size := 2 ^ 21, base := i * 2 ^ 21, hdm := 0 }

/-- Shard 1 of job 2 on its owner: 128 rows of 32, by rule 0 with momentum, before its first step. -/
def shard1 : PShard :=
  { weight := 2 ^ 18, state := 2 ^ 18 + 1, landing := 2 ^ 18 + 2, config := 8, rows := 128, cols := 32, s0 := 4, token := 5, form := none,
    resident := [], run := none, later := false }

/-- The owner of shard 1, its handles and the header of its state; every block is frozen. -/
def owner (header : List Byte) (s : State) : State :=
  let t := (List.range 3).foldl (fun s i => s.makeHandle i 1 false (shardExt i)) (member 1 s)
  (t.extWrite (shardExt 1) 0 header).extWrite (shardExt 1) shard1.regions.frozen (List.replicate 16 0xFF)

def attached (p : PShard) (s : State) : State := { s with press := { s.press with shards := [(1, p)] } }

/-- A shard attached anew and one whose state stands; the same where it is attached already. -/
theorem test_hyp_PressCommandsComplete_attach :
    let p (init : Nat) := packet 0x600 [(24, 4, 1), (28, 4, 2 ^ 18), (32, 4, 2 ^ 18 + 1), (36, 4, 2 ^ 18 + 2), (40, 1, 8), (41, 1, init), (42, 2, 5),
      (44, 4, 128), (48, 4, 32), (52, 6, 4)]
    let s (init : Nat) (h : List Byte) := owner h (withCmd (p init) { up with host := { up.host with tokens := [(5, 4)] } })
    let ok (s : State) (init : Nat) (f : State → Bool) : Bool :=
      let t := s.startCmd 0
      decide (s.Ready 0 (asRead (p init)) 0x600) && fine (needJob t) && shard1.allowed && decide (fld (p init) 41 1 ≤ 1)
        && t.me == some (job2, 1) && job2.ownerPlace 1 == some 1 && job2.shards[1]? == some (128 * 32, b2n shard1.rounded)
        && (match t.handleFor 0 (2 ^ 18), t.handleFor 0 (2 ^ 18 + 1), t.handleFor 0 (2 ^ 18 + 2) with
          | some w, some st, some l => w.ext.cls == 2 && st.ext.cls == 3 && l.ext.cls == 4 && !w.ext.hostVisible && !st.ext.hostVisible
              && !l.ext.hostVisible && decide (shard1.weightBytes ≤ w.ext.size ∧ shard1.regions.fin_ ≤ st.ext.size) && f t
          | _, _, _ => false)
    let free (t : State) : Bool := (tget t.press.shards 1).isNone && (t.shardOf (2 ^ 18)).isNone && (t.shardOf (2 ^ 18 + 1)).isNone
      && (t.shardOf (2 ^ 18 + 2)).isNone && decide (t.token 5 ≤ 4)
    let header (t : State) (h : List Byte) : Bool := match t.extRead (shardExt 1) 0 64 with
      | (bs, false, _) => bs == h
      | _ => false
    let h := pressHeader 1 shard1 4
    let h2 := pressHeader 2 shard1 4
    ok (s 0 h) 0 free = true ∧ ok (s 1 h) 1 (fun t => free t && header t h && leNat ((h.drop 24).take 6) == 4) = true
      ∧ ok (s 1 h2) 1 (fun t => free t && header t h2 && h2 != pressHeader 1 shard1 (leNat ((h2.drop 24).take 6))) = true
      ∧ ok (attached shard1 (s 0 h)) 0 (fun t => (tget t.press.shards 1).isSome) = true := by decide +kernel

/-- Hyperparameters that are all 0 pass rule 0; a step after the last and the last one, by slices and by a list of rows. -/
theorem test_hyp_PressCommandsComplete_apply :
    let hp : BitVec 512 := 0
    let p (list step : Nat) := packet 0x601 [(24, 4, 1), (28, 6, step), (34, 1, list), (36, 8, 0x1000), (44, 4, if list = 0 then 0 else 2 ^ 18 + 3),
      (56, 4, list)]
    let s (list step row : Nat) : State :=
      let t := attached shard1 (owner (pressHeader 1 shard1 4) (withCmd (p list step) (withHost 0x1000 (List.replicate 64 0) up)))
      let e : Extent := { shardExt 3 with cls := 0 }
      (t.makeHandle 3 1 false e).extWrite e 0 (leBytes 16 row)
    let ok (list step row : Nat) (f : State → Bool) : Bool :=
      let u := s list step row
      let t := u.startCmd 0
      decide (u.Ready 0 (asRead (p list step)) 0x601) && fine (needJob t) && u.pressFree 0 1 && t.hostRec 512 0x1000 == some hp
        && tget t.press.shards 1 == some shard1 && (Hp.read hp).limits shard1
        && (match t.pressLast shard1 with
          | (4, false, v) => f v
          | _ => false)
    let rows (v : State) : Option (List Nat) := match v.rangeFor 0 (2 ^ 18 + 3) 0 4 with
      | .ok e => (match v.extRead e 0 4 with
        | (ib, false, _) => if v.lowPlane (2 ^ 18 + 3) 0 4 then none else some ((chunks 1 4 ib).map leNat)
        | _ => none)
      | .error _ => none
    ok 0 5 0 (fun _ => true) = true ∧ ok 0 4 0 (fun _ => true) = true ∧ 128 * shard1.cols ≤ (shardExt 2).size
      ∧ ok 1 5 127 (fun v => (rows v) == some [127] && badRow 128 [127] == none && fine (pressListForm 0 0 1 shard1 (Hp.read hp) false 5 [127] v)) = true
      ∧ ok 1 5 128 (fun v => (rows v) == some [128] && badRow 128 [128] == some 0) = true := by decide +kernel

/-- The last blocks of the shard; a shard to which a launch streams, and one that is not attached. -/
theorem test_hyp_PressCommandsComplete_others :
    let p := packet 0x602 [(24, 4, 1), (28, 4, 31), (32, 4, 1), (36, 1, 1)]
    let d := packet 0x603 [(24, 4, 1)]
    let s (k : BitVec 512) := attached shard1 (owner (pressHeader 1 shard1 4) (withCmd k up))
    let l : Launch := { program [] with bindings := [⟨1, 5, 4, 1, 2, false⟩] }
    let busy : State := { s d with sheet := { (s d).sheet with launches := [(7, l)] } }
    let u := owner [] (withCmd d up)
    ((s p).Ready 0 (asRead p) 0x602 ∧ fine (needJob ((s p).startCmd 0)) = true ∧ (s p).pressFree 0 1 = true
      ∧ tget ((s p).startCmd 0).press.shards 1 = some shard1 ∧ 31 + 1 ≤ shard1.nb ∧ (fld p 36 1).testBit 0 = true
      ∧ (match ((s p).startCmd 0).pressLast shard1 with
        | (4, false, v) => !(v.extRead (v.pressExt shard1.state) (shard1.regions.frozen + 3) 1).2.1
        | _ => false) = true)
    ∧ ((s d).Ready 0 (asRead d) 0x603 ∧ (tget ((s d).startCmd 0).press.shards 1).isSome = true ∧ (s d).pressFree 0 1 = true
      ∧ ((s d).startCmd 0).detachBlocked 1 = false)
    ∧ (busy.Ready 0 (asRead d) 0x603 ∧ (tget (busy.startCmd 0).press.shards 1).isSome = true ∧ busy.detachBlocked 1 = true
      ∧ (busy.startCmd 0).detachBlocked 1 = true)
    ∧ (u.Ready 0 (asRead d) 0x603 ∧ u.pressFree 0 1 = true ∧ tget (u.startCmd 0).press.shards 1 = none) := by decide +kernel

/-- The step 5 of shard 1 on its owner, and on the member that does not own it. -/
theorem test_hyp_ReduceToTheOwner_tiles :
    let own := attached shard1 (owner [] up)
    let other := member 0 up
    let with_ (r : RedStep) (s : State) := s.setRed 1 5 r
    let f := RedStep.fresh 0 0 0
    own.redPath 1 = some (job2, 1, 1) ∧ other.redPath 1 = some (job2, 0, 1)
      ∧ own.ownerMeets 1 4 1 = true ∧ own.ownerMeets 1 5 1 = false
      ∧ (List.replicate 1024 (0 : BitVec 32)).length = 1024
      ∧ ((with_ { f with credit := [3] } own).redStep 1 5).credit.contains 3 = true
      ∧ (own.redStep 1 5).refused = false ∧ (own.redStep 1 5).abandoned = false
      ∧ ((with_ { f with refused := true } other).redStep 1 5).refused = true
      ∧ ((with_ { f with abandoned := true } other).redStep 1 5).abandoned = true
      ∧ (other.redStep 1 5).credit.contains 0 = false := by decide +kernel

/-- The owner's Press command of step 5: a row whose buffer is free and one whose buffer is not; a slice that is complete; the
second in which no slice has become complete. -/
theorem test_hyp_ReduceToTheOwner_owner :
    let run : PressRun := { cmd := 0, step := 5, hp := 0, guard := false, frozen := 0, skips := 0, slices := 0, poison := false }
    let p : PShard := { shard1 with run := some run }
    let s (r : RedStep) := (attached p (owner (pressHeader 1 shard1 4) up)).setRed 1 5 r
    let f := RedStep.fresh 4 1 0
    let small (r : RedStep) : State := (s r).makeHandle 2 1 false { shardExt 2 with size := 128 * 32 }
    tget (s f).press.shards 1 = some p ∧ ((s f).landing p).map Prod.snd = some 512 ∧ ((small f).landing p).map Prod.snd = some 1
      ∧ 32 * 3 < p.rows ∧ (s f).redStep 1 5 = f ∧ f.credit.contains 3 = false ∧ f.refused = false ∧ f.abandoned = false
      ∧ bufferFree p.run f 5 512 3 = true ∧ bufferFree p.run f 5 1 3 = false
      ∧ ({ f with complete := [2] } : RedStep).complete[f.consumed]? = some 2
      ∧ 32 * ({ f with complete := [2, 0, 1] } : RedStep).complete.length < p.rows
      ∧ f.movedAt + sec 1 ≤ ((s f).advance (sec 1)).time ∧ ((s f).advance (sec 1 - 1)).time < f.movedAt + sec 1 := by decide +kernel

/-! ### Witnesses: the sink and checkpoints -/

/-- A sink of job 7 with two shards, whose SINK_START has completed. -/
def sink7 : Sink :=
  { job := 7, link := 0, interval := 60, whole := false, cmd := none, startAt := 0, generation := 1, shards := [(4096, 0), (4096, 0)], asm := [],
    copy := none, copyBytes := [], discardedAt := none, sealedAt := 0, round := none, rounds := 0, complete := 0, discarded := 0, stale := 0,
    high := 0 }

def sinking (k : Sink) (s : State) : State := s.setSink (some k)

/-- Package 0, the lead of job 7, with a sink edge on link 0. -/
def leading (s : State) : State :=
  let t := member 0 s
  { t with job := { t.job with job := some { job2 with sinkLink := 0x20 }, sinkOn := true } }

theorem test_hyp_SinkTakesItsRoleAndGathers_role :
    let p := packet 0x700 [(24, 4, 7), (28, 1, 5), (30, 2, 1440)]
    let q := packet 0x701 [(24, 4, 7)]
    let couch (by_ : Option Claimant) : State := let s := withCmd p up
      { s with mem := { s.mem with couchBy := by_, carve := { s.mem.carve with couch := 2 ^ 30 } } }
    let stop := sinking sink7 (withCmd q up)
    let part : Link := { lit with partialCw := [0] }
    ((couch none).Ready 0 (asRead p) 0x700 ∧ fld p 28 1 % 8 ≤ 5 ∧ fld p 30 2 ≤ 1440 ∧ ((couch none).startCmd 0).mem.couchBy = none
      ∧ ((couch none).startCmd 0).mem.carve.couch ≠ 0)
    ∧ ((couch (some .sink)).Ready 0 (asRead p) 0x700 ∧ ((couch (some .sink)).startCmd 0).mem.couchBy ≠ none)
    ∧ (stop.Ready 0 (asRead q) 0x701 ∧ (stop.startCmd 0).ckpt.sink = some sink7 ∧ sink7.job = fld q 24 4 ∧ sink7.cmd = none ∧ sink7.round = none
      ∧ ((stop.startCmd 0).link sink7.link).partialCw = [] ∧ (((withLink 0 part stop).startCmd 0).link sink7.link).partialCw ≠ [])
    ∧ ((withLink 0 part stop).Ready 0 (asRead q) 0x701)
    ∧ (let w := sinking { sink7 with cmd := some 0 } up
       (w.advance (sec 10)).ckpt.sink = some { sink7 with cmd := some 0 } ∧ sink7.startAt + sec 10 ≤ (w.advance (sec 10)).time
         ∧ (w.advance (sec 10 - 1)).time < sink7.startAt + sec 10)
    ∧ ((leading up).job.job.isSome = true ∧ (leading up).sinkEdge { job2 with sinkLink := 0x20 } = some 0 ∧ (leading up).isLead = true)
    ∧ sink7.generation ≠ 2
    ∧ (let w := sinking sink7 up
       sink7.sealedAt + sec 60 * sink7.interval ≤ (w.advance (sec 3600)).time ∧ (w.advance (sec 3600)).ckpt.sink = some sink7
         ∧ (w.advance (sec 3600 - 1)).time < sink7.sealedAt + sec 60 * sink7.interval) := by decide +kernel

/-- A tagged packet of shard 1; an entry of a round; the lead with a sink, a member without. -/
theorem test_hyp_SinkTakesItsRoleAndGathers_rounds :
    let p : Packet := [(({ dst := 0, src := 0, via := 0, type := tyData, last := true, poison := false, tagged := true, stable := true, xfer := 0 } : Hdr).unit),
      xferHdr 0 (1 + 5 * 2 ^ 32) 1, 0]
    let r : Round := { number := 1, step := 3, entries := [], ranks := [], copied := false, digests := [] }
    let e : BitVec 768 := mkRec 768 [(0, 4, 1)]
    (hTagged p = true ∧ hType p = tyData ∧ tArg p % 2 ^ 32 < sink7.shards.length ∧ sink7.copy ≠ some (fullTag sink7.high (tArg p / 2 ^ 32 % 2 ^ 16))
      ∧ ({ sink7 with copy := some 5 } : Sink).copy = some (fullTag sink7.high (tArg p / 2 ^ 32 % 2 ^ 16)))
    ∧ ((sinking { sink7 with round := some r } up).ckpt.sink = some { sink7 with round := some r } ∧ entryShard e < sink7.shards.length)
    ∧ ((leading up).ckpt.sink = none ∧ (leading up).job.job.isSome = true ∧ (leading up).isLead = true ∧ (leading up).job.sinkOn = true)
    ∧ ((member 1 up).ckpt.sink = none ∧ (member 1 up).job.job = some job2 ∧ (member 1 up).isLead = false)
    ∧ (let t := (member 1 up).advance 5
       t.job.job = some job2 ∧ t.fail.selfFenced = none ∧ t.dropRound.isLead = false)
    ∧ (let h := attached shard1 { up with ckpt := { up.ckpt with holds := [(1, 0)] } }
       tget (h.advance (sec 60)).ckpt.holds 1 = some 0 ∧ tget (h.advance (sec 60)).press.shards 1 = some shard1
         ∧ 0 + sec 60 ≤ (h.advance (sec 60)).time ∧ (h.advance (sec 60 - 1)).time < 0 + sec 60) := by decide +kernel

theorem test_hyp_CheckpointsSaveAndRestore_save :
    let size := shard1.weightBytes + shard1.regions.fin_
    let p (shard len : Nat) := packet 0x702 [(24, 6, 5), (30, 1, 1), (32, 4, shard), (52, 8, len)]
    let m := packet 0x702 [(24, 6, 5), (36, 8, 0x20)]
    let s (k : BitVec 512) (called : Option Nat) (late : List Nat) : State :=
      let t := attached shard1 (owner [] (withCmd k up))
      { t with ckpt := { t.ckpt with called := called, holds := if late = [] then [(1, 0)] else [], late := late } }
    let asks (k : BitVec 512) (called : Option Nat) (late : List Nat) (f : State → Bool) : Bool :=
      decide ((s k called late).Ready 0 (asRead k) 0x702) && fld k 36 8 % 32 == 0 && fld k 44 8 % 32 == 0 && f ((s k called late).startCmd 0)
    let manifest : Manifest := { step := 5, bytes := [1], saved := false }
    asks (p 1 0) none [] (fun t => t.ckpt.called == none && tget t.press.shards 1 == some shard1) = true
    ∧ asks (p 1 size) (some 5) [] (fun t => t.ckpt.called == some 5 && fld (p 1 size) 24 6 == 5 && !t.ckpt.late.contains 1
        && (tget t.ckpt.holds 1).isSome && decide (size ≤ fld (p 1 size) 52 8) && tget t.press.shards 1 == some shard1) = true
    ∧ asks (p 1 0) (some 5) [1] (fun t => t.ckpt.called == some 5 && t.ckpt.late.contains 1 && tget t.press.shards 1 == some shard1) = true
    ∧ (let u : State := placed (withCmd (p 0xFFFFFFFF 0) { up with ckpt := { up.ckpt with called := some 5 } })
       u.Ready 0 (asRead (p 0xFFFFFFFF 0)) 0x702 ∧ (u.startCmd 0).rankHolder = true ∧ (u.startCmd 0).ckpt.called = some 5)
    ∧ (let u : State := withCmd m { up with ckpt := { up.ckpt with manifests := [{ manifest with step := 4 }, manifest] } }
       u.Ready 0 (asRead m) 0x702 ∧ fld m 30 1 = 0 ∧ fld m 36 8 % 32 = 0 ∧ fld m 44 8 % 32 = 0 ∧ fld m 24 6 ≠ 0
         ∧ (u.startCmd 0).ckpt.manifests.reverse.find? (fun x => x.step == fld m 24 6) = some manifest
         ∧ (u.startCmd 0).ckpt.sink = none) := by decide +kernel

/-! ### Witnesses: CKPT_RESTORE -/

/-- A part of what host memory holds is read back. -/
theorem withHost_part (a : Nat) (pre mid post : List Byte) (s : State) :
    (withHost a (pre ++ mid ++ post) s).hostRead (a + pre.length) mid.length = some mid := by
  apply State.hostRead_eq
  intro i b h
  have e : (withHost a (pre ++ mid ++ post) s).host.mem = ((pre ++ mid ++ post).map some).zipIdx.map (fun p => (a + p.2, p.1)) := by
    simp [withHost, List.zipIdx_map, List.map_map, Function.comp_def, -List.map_append, -List.append_assoc]
  have l : i < mid.length := by
    have := List.getElem?_eq_some_iff.mp h
    exact this.1
  have at_ : (pre ++ mid ++ post)[pre.length + i]? = some b := by
    rw [List.append_assoc, List.getElem?_append_right (by omega), Nat.add_sub_cancel_left, List.getElem?_append_left l, h]
  have one : tget (withHost a (pre ++ mid ++ post) s).host.mem (a + (pre.length + i)) = some (some b) := by
    rw [e, tget_listed, List.getElem?_map, at_]
    rfl
  rw [Nat.add_assoc, State.hostByte, one]

theorem recBytes_length {w : Nat} (r : BitVec w) : (recBytes r).length = w / 8 := leBytes_length _ _

theorem recBytes_back {w : Nat} (hw : 8 * (w / 8) = w) (r : BitVec w) : BitVec.ofNat w (leNat (recBytes r)) = r := by
  rw [recBytes, leNat_leBytes]
  have p : (256 : Nat) ^ (w / 8) = 2 ^ w := by rw [show (256 : Nat) = 2 ^ 8 from rfl, ← Nat.pow_mul, hw]
  rw [p, Nat.mod_eq_of_lt r.isLt]
  exact BitVec.eq_of_toNat_eq (by simp)

/-- A record that stands in host memory between other bytes is read back. -/
theorem withHost_partRec {w : Nat} (hw : 8 * (w / 8) = w) (a : Nat) (pre post : List Byte) (r : BitVec w) (s : State) :
    (withHost a (pre ++ recBytes r ++ post) s).hostRec w (a + pre.length) = some r := by
  have h := withHost_part a pre (recBytes r) post s
  rw [recBytes_length] at h
  rw [State.hostRec, h, Option.map_some, recBytes_back hw]

/-- A shard of 4 rows of 32. -/
def shard4 : PShard := { shard1 with rows := 4 }

/-- The header, the entry and the trailer of a manifest of step 9 with one shard, whose seed digest and data digest are given. -/
def ckptHead (seed : BitVec 256) : BitVec 768 := BitVec.ofNat 768 (1 + 9 * 2 ^ 64 + 2 ^ 160 + seed.toNat * 2 ^ 256)
def ckptEntry (dig : BitVec 256) : BitVec 768 := BitVec.ofNat 768 (1 + 8 * 2 ^ 32 + 1664 * 2 ^ 64 + dig.toNat * 2 ^ 128)
def ckptTrailer : BitVec 1024 := mkRec 1024 [(64, 2, 1)]

/-- A record of a number below a 256-bit field at bit `k`. -/
theorem fld_top {w k low : Nat} (d : BitVec 256) (hl : low < 2 ^ k) (hk : k + 256 ≤ w) :
    (∀ o n, 8 * (o + n) ≤ k → fld (BitVec.ofNat w (low + d.toNat * 2 ^ k)) o n = low / 2 ^ (8 * o) % 2 ^ (8 * n))
      ∧ ∀ o, 8 * o = k → fld (BitVec.ofNat w (low + d.toNat * 2 ^ k)) o 32 = d.toNat := by
  have hd : d.toNat < 2 ^ 256 := d.isLt
  have lt : low + d.toNat * 2 ^ k < 2 ^ w := by
    calc low + d.toNat * 2 ^ k < 2 ^ k + d.toNat * 2 ^ k := by omega
      _ = (d.toNat + 1) * 2 ^ k := by rw [Nat.add_mul, Nat.one_mul, Nat.add_comm]
      _ ≤ 2 ^ 256 * 2 ^ k := Nat.mul_le_mul_right _ hd
      _ = 2 ^ (k + 256) := by rw [← Nat.pow_add, Nat.add_comm]
      _ ≤ 2 ^ w := Nat.pow_le_pow_right (by decide) hk
  constructor
  · intro o n h
    obtain ⟨m, rfl⟩ : ∃ m, k = 8 * o + (8 * n + m) := ⟨k - 8 * o - 8 * n, by omega⟩
    rw [fld, BitVec.toNat_ofNat, Nat.mod_eq_of_lt lt, Nat.shiftRight_eq_div_pow, Nat.pow_add 2 (8 * o), Nat.mul_left_comm,
      Nat.add_mul_div_left _ _ (Nat.two_pow_pos _), Nat.pow_add 2 (8 * n), Nat.mul_left_comm, Nat.add_mul_mod_self_left]
  · rintro o rfl
    rw [fld, BitVec.toNat_ofNat, Nat.mod_eq_of_lt lt, Nat.shiftRight_eq_div_pow, Nat.add_mul_div_right _ _ (Nat.two_pow_pos _),
      Nat.div_eq_of_lt hl, Nat.zero_add]
    exact Nat.mod_eq_of_lt hd

theorem ckptHead_fields (seed : BitVec 256) : fld (ckptHead seed) 0 2 = 1 ∧ fld (ckptHead seed) 8 6 = 9 ∧ fld (ckptHead seed) 20 4 = 1
    ∧ fld (ckptHead seed) 24 2 = 0 ∧ fld (ckptHead seed) 32 32 = seed.toNat := by
  obtain ⟨low, top⟩ := fld_top (w := 768) (k := 256) (low := 1 + 9 * 2 ^ 64 + 2 ^ 160) seed (by decide) (by decide)
  exact ⟨low 0 2 (by decide), low 8 6 (by decide), low 20 4 (by decide), low 24 2 (by decide), top 32 rfl⟩

theorem ckptEntry_fields (dig : BitVec 256) : fld (ckptEntry dig) 0 4 = 1 ∧ fld (ckptEntry dig) 4 1 = 8 ∧ fld (ckptEntry dig) 5 1 = 0
    ∧ fld (ckptEntry dig) 8 8 = 1664 ∧ BitVec.ofNat 256 (fld (ckptEntry dig) 16 32) = dig := by
  obtain ⟨low, top⟩ := fld_top (w := 768) (k := 128) (low := 1 + 8 * 2 ^ 32 + 1664 * 2 ^ 64) dig (by decide) (by decide)
  refine ⟨low 0 4 (by decide), low 4 1 (by decide), low 5 1 (by decide), low 8 8 (by decide), ?_⟩
  rw [ckptEntry, top 16 rfl]
  exact BitVec.eq_of_toNat_eq (by simp)

/-- The data of that shard: weights of 0, and a state whose header gives its shape. -/
def ckptData : List Byte :=
  List.replicate 512 0 ++ recBytes (mkRec 512 [(4, 4, 4), (8, 4, 32), (16, 6, 2)] : BitVec 512) ++ List.replicate 1088 0

/-- What host memory holds from 0x1000 on: the manifest, with a certificate of one byte, and the data. -/
def ckptBytes (seed root dig : BitVec 256) (data : List Byte) : List Byte :=
  recBytes (ckptHead seed) ++ (recBytes root ++ (recBytes (ckptEntry dig) ++ (recBytes ckptTrailer ++ ([7] ++ data))))

def ckptIn (seed root dig : BitVec 256) : ManifestIn :=
  { head := ckptHead seed, root := root, entries := recBytes (ckptEntry dig), sig := 0, cert := [7] }

/-- A manifest is read field by field. -/
theorem readManifest_eq {s : State} {a n : Nat} {head : BitVec 768} {root : BitVec 256} {entries cert : List Byte} {trailer : BitVec 1024}
    (hn : 96 * fld head 20 4 + 64 * fld head 24 2 = n) (h1 : s.hostRec 768 a = some head) (h2 : s.hostRec 256 (a + 96) = some root)
    (h3 : s.hostRead (a + 128) n = some entries) (h4 : s.hostRec 1024 (a + 128 + n) = some trailer)
    (h5 : s.hostRead (a + 256 + n) (fld trailer 64 2) = some cert) :
    s.readManifest a = some { head := head, root := root, entries := entries, sig := BitVec.ofNat 512 (fld trailer 0 64), cert := cert } := by
  subst hn
  simp [State.readManifest, h1, h2, h3, h4, h5]

/-- Its bytes one after another in host memory, with `data` behind them. -/
theorem ckptBytes_read (seed root dig : BitVec 256) (data : List Byte) (s : State) :
    (withHost 0x1000 (ckptBytes seed root dig data) s).readManifest 0x1000 = some (ckptIn seed root dig)
      ∧ (withHost 0x1000 (ckptBytes seed root dig data) s).hostRead 4449 data.length = some data := by
  obtain ⟨-, -, f20, f24, -⟩ := ckptHead_fields seed
  have r1 := withHost_partRec (by rfl) 0x1000 [] (recBytes root ++ (recBytes (ckptEntry dig) ++ (recBytes ckptTrailer ++ ([7] ++ data)))) (ckptHead seed) s
  have r2 := withHost_partRec (by rfl) 0x1000 (recBytes (ckptHead seed)) (recBytes (ckptEntry dig) ++ (recBytes ckptTrailer ++ ([7] ++ data))) root s
  have r3 := withHost_part 0x1000 (recBytes (ckptHead seed) ++ recBytes root) (recBytes (ckptEntry dig)) (recBytes ckptTrailer ++ ([7] ++ data)) s
  have r4 := withHost_partRec (by rfl) 0x1000 (recBytes (ckptHead seed) ++ recBytes root ++ recBytes (ckptEntry dig)) ([7] ++ data) ckptTrailer s
  have r5 := withHost_part 0x1000 (recBytes (ckptHead seed) ++ recBytes root ++ recBytes (ckptEntry dig) ++ recBytes ckptTrailer) [7] data s
  have r6 := withHost_part 0x1000 (recBytes (ckptHead seed) ++ recBytes root ++ recBytes (ckptEntry dig) ++ recBytes ckptTrailer ++ [7]) data [] s
  have t64 : fld ckptTrailer 64 2 = 1 := by decide +kernel
  have t0 : BitVec.ofNat 512 (fld ckptTrailer 0 64) = 0 := by decide +kernel
  simp only [List.append_assoc, List.nil_append, List.append_nil, List.length_append, List.length_nil, List.length_cons, recBytes_length,
    Nat.reduceDiv, Nat.reduceAdd, Nat.add_zero] at r1 r2 r3 r4 r5 r6
  unfold ckptBytes
  generalize withHost 0x1000 (recBytes (ckptHead seed) ++ (recBytes root ++ (recBytes (ckptEntry dig) ++ (recBytes ckptTrailer ++ ([7] ++ data))))) s = t
    at r1 r2 r3 r4 r5 r6 ⊢
  refine ⟨?_, r6⟩
  have m := readManifest_eq (n := 96) (by rw [f20, f24]) r1 r2 r3 r4 (by rw [t64]; exact r5)
  rw [t0] at m
  exact m

/-- A restore of shard 1, and the host memory that it reads, with a manifest of the digest `root`. -/
def restoring0 : State :=
  let s := attached shard4 (owner [] (withCmd (packet 0x703 [(24, 4, 1), (32, 8, 0x1000), (40, 8, 4449), (48, 8, 1664)]) up))
  { s with mem := { s.mem with carve := { s.mem.carve with couch := 2 ^ 20 } }, host := { s.host with tokens := [(5, 9)] } }

def restoring (seed root : BitVec 256) : State := withHost 0x1000 (ckptBytes seed root (pieceDigest ckptData) ckptData) restoring0

theorem withHost_startCmd (a : Nat) (bs : List Byte) (s : State) (id : Nat) :
    (withHost a bs s).startCmd id = withHost a bs (s.startCmd id) := by
  have e : (withHost a bs s).cmd id = s.cmd id := rfl
  unfold State.startCmd
  rw [e]
  cases s.cmd id with
  | none => rfl
  | some c =>
    unfold State.trace
    dsimp only
    split <;> split <;> first | rfl | contradiction

theorem withHost_rest (a : Nat) (bs : List Byte) (s : State) :
    (∀ id c op, (withHost a bs s).Ready id c op = s.Ready id c op) ∧ (∀ id n, (withHost a bs s).pressFree id n = s.pressFree id n)
      ∧ needJob (withHost a bs s) = needJob s ∧ (withHost a bs s).press = s.press ∧ (withHost a bs s).mem = s.mem
      ∧ (∀ n, (withHost a bs s).token n = s.token n) ∧ (withHost a bs s).seed = s.seed :=
  ⟨fun _ _ _ => rfl, fun _ _ => rfl, rfl, rfl, rfl, fun _ => rfl, rfl⟩

/-- The conditions on the state, whatever the digests. -/
theorem test_hyp_CheckpointsSaveAndRestore_restore (seed root : BitVec 256) :
    let k := packet 0x703 [(24, 4, 1), (32, 8, 0x1000), (40, 8, 4449), (48, 8, 1664)]
    let s := restoring seed root
    let t := s.startCmd 0
    let size := shard4.weightBytes + shard4.regions.fin_
    s.Ready 0 (asRead k) 0x703 ∧ fld k 24 4 = 1 ∧ s.pressFree 0 1 = true ∧ needJob t = .ok () ∧ tget t.press.shards 1 = some shard4
      ∧ t.mem.couchBy = none ∧ t.mem.carve.couch ≠ 0 ∧ size ≤ t.mem.carve.couch ∧ fld k 32 8 = 0x1000 ∧ fld k 40 8 = 4449 ∧ fld k 48 8 = 1664
      ∧ size = 1664 ∧ t.token shard4.token ≤ 9 ∧ t.seed = job2.seed ∧ shard4.config.toNat = 8 := by
  have h : let k := packet 0x703 [(24, 4, 1), (32, 8, 0x1000), (40, 8, 4449), (48, 8, 1664)]
      let s := restoring0
      let t := s.startCmd 0
      let size := shard4.weightBytes + shard4.regions.fin_
      s.Ready 0 (asRead k) 0x703 ∧ fld k 24 4 = 1 ∧ s.pressFree 0 1 = true ∧ fine (needJob t) = true ∧ tget t.press.shards 1 = some shard4
        ∧ t.mem.couchBy = none ∧ t.mem.carve.couch ≠ 0 ∧ size ≤ t.mem.carve.couch ∧ fld k 32 8 = 0x1000 ∧ fld k 40 8 = 4449 ∧ fld k 48 8 = 1664
        ∧ size = 1664 ∧ t.token shard4.token ≤ 9 ∧ t.seed = job2.seed ∧ shard4.config.toNat = 8 := by decide +kernel
  intro k s t size
  have ht : t = withHost 0x1000 (ckptBytes seed root (pieceDigest ckptData) ckptData) (restoring0.startCmd 0) := withHost_startCmd _ _ _ _
  obtain ⟨a, b, c, d, e⟩ := h
  obtain ⟨r1, r2, -⟩ := withHost_rest 0x1000 (ckptBytes seed root (pieceDigest ckptData) ckptData) restoring0
  obtain ⟨-, -, w3, w4, w5, w6, w7⟩ := withHost_rest 0x1000 (ckptBytes seed root (pieceDigest ckptData) ckptData) (restoring0.startCmd 0)
  have d' : needJob (restoring0.startCmd 0) = .ok () := by
    revert d
    cases needJob (restoring0.startCmd 0) <;> simp [fine]
  rw [ht, w3, w4, w5, w6, w7]
  exact ⟨(r1 _ _ _).mpr a, b, (r2 _ _).trans c, d', e⟩

/-- The conditions on the manifest and the data: with a root that is the digest of what it covers and with another. -/
theorem test_hyp_CheckpointsSaveAndRestore_manifest (seed root : BitVec 256) :
    let t := (restoring seed root).startCmd 0
    let e := ckptEntry (pieceDigest ckptData)
    let m := ckptIn seed root (pieceDigest ckptData)
    let head := ckptData.drop 512
    t.readManifest 0x1000 = some m ∧ fld m.head 0 2 = 1 ∧ 1 ≤ m.cert.length ∧ m.cert.length ≤ 1024
      ∧ (m.shards.find? (fun e => entryShard e == 1 && entryStatus e == 0) = some e) ∧ fld m.head 8 6 = 9 ∧ fld e 4 1 = 8
      ∧ fld m.head 32 32 = seed.toNat ∧ fld e 8 8 = 1664 ∧ t.hostRead 4449 1664 = some ckptData
      ∧ pieceDigest ckptData = BitVec.ofNat 256 (fld e 16 32) ∧ leNat ((head.drop 4).take 4) = 4 ∧ leNat ((head.drop 8).take 4) = 32
      ∧ ckptData.length = 1664 ∧ sm3 (recBytes m.head ++ m.entries) + 1 ≠ sm3 (recBytes m.head ++ m.entries) := by
  have n : ckptData.length = 1664 := by decide +kernel
  have hd : leNat (((ckptData.drop 512).drop 4).take 4) = 4 ∧ leNat (((ckptData.drop 512).drop 8).take 4) = 32 := by decide +kernel
  have hs : (restoring seed root).startCmd 0 = withHost 0x1000 (ckptBytes seed root (pieceDigest ckptData) ckptData) (restoring0.startCmd 0) :=
    withHost_startCmd _ _ _ _
  intro t e m head
  obtain ⟨h0, h8, h20, h24, h32⟩ := ckptHead_fields seed
  obtain ⟨e0, e4, e5, e8, e16⟩ := ckptEntry_fields (pieceDigest ckptData)
  obtain ⟨r, d⟩ := ckptBytes_read seed root (pieceDigest ckptData) ckptData (restoring0.startCmd 0)
  rw [n] at d
  have sh : m.shards = [e] := by
    have l : (recBytes e).length = 96 := recBytes_length e
    show (chunks (fld (ckptHead seed) 20 4) 96 ((recBytes e).take (96 * fld (ckptHead seed) 20 4))).map _ = _
    rw [h20, List.take_of_length_le (by rw [l]), chunks]
    · rw [chunks, List.take_of_length_le (by rw [l]), List.map_cons, List.map_nil]
      exact congrArg (fun x => [x]) (recBytes_back (w := 768) rfl e)
    · intro h
      rw [h] at l
      simp at l
  rw [← hs] at r d
  refine ⟨r, h0, Nat.le_refl 1, show 1 ≤ 1024 by decide, ?_, h8, e4, h32, e8, d, e16.symm, hd.1, hd.2, n, ?_⟩
  · rw [sh]
    simp [entryShard, entryStatus, e, e0, e5]
  · generalize sm3 (recBytes m.head ++ m.entries) = x
    bv_omega

/-! ### Witnesses: telemetry and time -/

/-- Two counter records are held; an index that is held and one that has been overwritten. -/
theorem test_hyp_TelemetryCommands_copies :
    let p := packet 0x800 [(24, 4, 2), (28, 4, 8), (32, 8, 0x2000)]
    let q := packet 0x802 [(24, 8, 1), (32, 8, 0x2000), (40, 4, 128)]
    let s (oldest : Nat) : State := let s := withCmd p up
      { s with ctr := { s.ctr with recs := [(oldest, 0), (oldest + 1, 0)], oldest := oldest, next := oldest + 2 } }
    let w := withCmd q up
    ((s 1).Ready 0 (asRead p) 0x800 ∧ fld p 32 8 % 32 = 0 ∧ ((s 1).startCmd 0).ctr.overwritten (fld p 24 4) = false)
    ∧ ((s 3).Ready 0 (asRead p) 0x800 ∧ ((s 3).startCmd 0).ctr.overwritten (fld p 24 4) = true)
    ∧ (w.Ready 0 (asRead q) 0x802 ∧ fld q 32 8 % 32 = 0 ∧ fld q 40 4 % 64 = 0) := by decide +kernel

theorem test_hyp_TelemetryCommands_switches :
    let p (f : Nat) := packet 0x801 [(24, 1, f), (28, 4, 0xFF)]
    let s (f : Nat) (by_ : Option Claimant) (already : Bool) : State := let s := withCmd (p f) up
      { s with mem := { s.mem with traceBy := by_, carve := { s.mem.carve with trace := 2 ^ 20 } }, trc := { s.trc with enabled := already } }
    let d (role src : Nat) := packet 0x803 [(24, 1, role), (25, 1, src)]
    let w (role src ball : Nat) : State := let s := withCmd (d role src) up
      { s with pins := { s.pins with ball := ball } }
    ((s 1 none false).Ready 0 (asRead (p 1)) 0x801 ∧ (fld (p 1) 24 1).testBit 0 = true ∧ ((s 1 none false).startCmd 0).trc.enabled = false
      ∧ ((s 1 none false).startCmd 0).mem.traceBy = none ∧ ((s 1 none false).startCmd 0).mem.carve.trace ≠ 0)
    ∧ ((s 1 (some .sink) false).Ready 0 (asRead (p 1)) 0x801 ∧ ((s 1 (some .sink) false).startCmd 0).trc.enabled = false
      ∧ ((s 1 (some .sink) false).startCmd 0).mem.traceBy ≠ none)
    ∧ ((s 1 (some .trace) true).Ready 0 (asRead (p 1)) 0x801 ∧ ((s 1 (some .trace) true).startCmd 0).trc.enabled = true)
    ∧ ((s 0 (some .trace) true).Ready 0 (asRead (p 0)) 0x801 ∧ (fld (p 0) 24 1).testBit 0 = false)
    ∧ (∀ x ∈ [((0, 0), 2), ((1, 0), 2), ((1, 1), 0), ((1, 1), 1)], (w x.1.1 x.1.2 x.2).Ready 0 (asRead (d x.1.1 x.1.2)) 0x803
        ∧ fld (d x.1.1 x.1.2) 24 1 ≤ 1 ∧ fld (d x.1.1 x.1.2) 25 1 ≤ fld (d x.1.1 x.1.2) 24 1
        ∧ (fld (d x.1.1 x.1.2) 25 1 = 1 → ((w x.1.1 x.1.2 x.2).startCmd 0).pins.ball ≠ 2))
    ∧ ((w 0 1 0).Ready 0 (asRead (d 0 1)) 0x803 ∧ fld (d 0 1) 24 1 < fld (d 0 1) 25 1) := by decide +kernel

/-- A package that follows the neighbour behind link 0, which carries data. -/
def following (f : Deckle → Deckle) : State :=
  let s := withLink 0 lit up
  { s with dk := f { s.dk with state := 2, up := some 0, mserial := 9, acquiring := false } }

/-- A master by its own clock. -/
def mastering (f : Deckle → Deckle) : State :=
  let s := withLink 0 lit up
  { s with dk := f { s.dk with state := 4, role := true, acquiring := false } }

theorem test_hyp_TimeIsKept_timers :
    (let t := (mastering id).advance (ms 1)
     (t.dk.state = 4 ∨ t.dk.state = 5) ∧ t.domOn 1 = true ∧ t.dk.announceAt + ms 1 ≤ t.time)
    ∧ (let t := (mastering id).advance (ms 1 - 1)
       t.dk.state = 4 ∧ t.domOn 1 = true ∧ t.time < t.dk.announceAt + ms 1)
    ∧ (let t := ({ up with dk := { up.dk with announces := [⟨0, 9, 2, 0, 0, 0⟩] } } : State).advance (ms 3)
       t.dk.announces.any (fun a => decide (a.heardAt + ms 3 ≤ t.time)) = true)
    ∧ (let t := (mastering id).advance 125000
       t.domOn 1 = true ∧ t.dk.state ≠ 0 ∧ t.dk.syncAt + 125000 ≤ t.time) := by decide +kernel

/-- An announce of the master 9 on the upstream link, and the same on a link that is not the upstream afterwards, of a worse master. -/
theorem test_hyp_TimeIsKept_announces (h : Config.serial ≠ 9) (h' : Config.serial ≠ 10) :
    let f (serial : Nat) : BitVec 128 := mkRec 128 [(0, 1, 1), (1, 1, 1), (4, 2, 2), (8, 8, serial)]
    let t (heard : Nat) : State := (following (fun d => { d with announces := [⟨0, 9, 2, 0, 0, heard⟩] })).advance 0
    let u (serial heard : Nat) : State := State.chooseMaster { t heard with dk := { (t heard).dk with
      announces := (t heard).dk.announces.filter (fun b => !(b.link == 0 && b.serial == BitVec.ofNat 64 serial))
        ++ [⟨0, BitVec.ofNat 64 serial, 2, 0, 0, 0⟩] } }
    ((t 0).link 0).data = true ∧ (t 0).domOn 1 = true ∧ (t 0).logicalLink 0 = 0
      ∧ (∀ n ∈ [9, 10], fld (f n) 0 1 = 1 ∧ fld (f n) 1 1 = 1 ∧ fld (f n) 8 8 = n ∧ fld (f n) 4 2 = 2 ∧ fld (f n) 2 1 = 0 ∧ fld (f n) 3 1 = 0)
      ∧ (9 : BitVec 64) ≠ Config.serial ∧ (10 : BitVec 64) ≠ Config.serial
      ∧ ((u 9 0).dk.up = some 0 ∧ (u 9 0).dk.mserial = 9) ∧ (u 10 0).dk.mserial ≠ 10 := by
  have a : let f (serial : Nat) : BitVec 128 := mkRec 128 [(0, 1, 1), (1, 1, 1), (4, 2, 2), (8, 8, serial)]
      let t : State := (following (fun d => { d with announces := [⟨0, 9, 2, 0, 0, 0⟩] })).advance 0
      (t.link 0).data = true ∧ t.domOn 1 = true ∧ t.logicalLink 0 = 0
      ∧ (∀ n ∈ [9, 10], fld (f n) 0 1 = 1 ∧ fld (f n) 1 1 = 1 ∧ fld (f n) 8 8 = n ∧ fld (f n) 4 2 = 2 ∧ fld (f n) 2 1 = 0 ∧ fld (f n) 3 1 = 0) := by
    decide +kernel
  obtain ⟨a1, a2, a3, a4⟩ := a
  refine ⟨a1, a2, a3, a4, h.symm, h'.symm, ?_, ?_⟩ <;> decide +kernel

theorem test_hyp_TimeIsKept_exchanges :
    let f (kind q : Nat) : BitVec 128 := mkRec 128 [(0, 1, 1), (1, 1, kind), (6, 2, q)]
    let asked := following (fun d => { d with t3 := some 0, seq := 7 })
    (let t := (following id).advance 0
     t.upLink = some 0 ∧ t.domOn 1 = true ∧ fld (f 2 7) 1 1 = 2)
    ∧ (let t := (mastering id).advance 0
       (t.link 0).data = true ∧ t.domOn 1 = true ∧ t.upLink ≠ some 0 ∧ fld (f 3 7) 1 1 = 3)
    ∧ (asked.dk.t3 = some 0 ∧ asked.upLink = some 0 ∧ asked.domOn 1 = true ∧ fld (f 4 7) 1 1 = 4 ∧ fld (f 4 7) 6 2 = asked.dk.seq)
    ∧ (let t := (following (fun d => { d with unanswered := 3 })).advance 0
       t.upLink = some 0 ∧ 3 ≤ t.dk.unanswered ∧ (t.link 0).data = true)
    ∧ (let t := (withLink 0 Link.atReset (following id)).advance 0
       t.upLink = some 0 ∧ (t.link 0).data = false) := by decide +kernel

theorem test_hyp_TimeIsKept_pulse :
    let pulsed (source acq : Bool) : State := let s := mastering (fun d => { d with source := source, acquiring := acq, pulseAt := some 0 })
      { s with pins := { s.pins with ball := 1 } }
    (let t := (pulsed true true).advance 5
     t.pins.ball = 1 ∧ t.domOn 1 = true ∧ t.pulseMaster = true ∧ t.dk.acquiring = true)
    ∧ (let t := (pulsed false false).advance 5
       t.pins.ball = 1 ∧ t.domOn 1 = true ∧ t.pulseMaster = false)
    ∧ (let t := (pulsed true true).advance (ms 1500)
       t.dk.pulseAt = some 0 ∧ t.pins.ball = 1 ∧ 0 + ms 1500 ≤ t.time ∧ ((pulsed true true).advance (ms 1500 - 1)).time < 0 + ms 1500)
    ∧ (let d := State.reset.dk
       d.acquiring = true ∧ ({ d with acquiring := false } : Deckle).acquiring = false ∧ (-(65536000 : Int)) ≤ -(65536000 : Int)
         ∧ -(65536000 : Int) < -65535999) := by decide +kernel

/-! ### Witnesses: power, clocks, thermal control -/

/-- Every clock at the step it heads for. -/
def ramped (s : State) : State := (List.range 16).foldl (fun t i => t.setClk i { t.clk i with j := t.clkTarget i }) s

/-- With the session the domains 0 to 2 are in use; without it none. -/
theorem test_hyp_PowerSetAndSelfTest_set :
    let p (mask c0 : Nat) := packet 0x906 [(24, 3, mask), (32, 2, c0), (34, 2, 1500)]
    let s (mask c0 : Nat) := withCmd (p mask c0) up
    let ask (mask c0 : Nat) : Bool := decide ((s mask c0).Ready 0 (asRead (p mask c0)) 0x906)
      && !(s mask c0).host.cmds.any (fun e => e.1 < 0 && pktOp e.2.packet == 0x906) && mask % 2 == 1 && fld (p mask c0) 24 3 == mask
      && (List.range 4).all (fun d => fld (p mask c0) (32 + 2 * d) 2 == 0
        || decide (400 ≤ fld (p mask c0) (32 + 2 * d) 2 ∧ fld (p mask c0) (32 + 2 * d) 2 ≤ 1500))
    let used (mask c0 : Nat) : Bool := let want := domClosure (domOrder.filter (fun d => (fld (p mask c0) 24 3).testBit d))
      ((s mask c0).startCmd 0).domsUsed.all (fun d => want.contains d || !((s mask c0).startCmd 0).domUp d)
    (ask 7 400 && used 7 400) = true ∧ (ask 0xFFFFF 0 && used 0xFFFFF 0) = true ∧ (ask 1 400 && !used 1 400) = true
      ∧ (let u := ramped { withCmd (p 7 400) up with pwr := { up.pwr with cmd := some 0 } }
         u.pwr.cmd = some 0 ∧ u.powerSettled = true ∧ u.pwr.tripped = false)
      ∧ (let u := { withCmd (p 7 400) up with pwr := { up.pwr with cmd := some 0, sequence := [(13, false)] } }
         u.pwr.cmd = some 0 ∧ u.powerSettled = false) := by decide +kernel

/-- A self-test of the Mould and Felt scopes, running: with the units up, and with units that tune. -/
theorem test_hyp_PowerSetAndSelfTest_selftest :
    let p (scope : Nat) := packet 0x905 [(24, 1, scope)]
    let run (ready_ : Bool) : State := started (withCmd (p 0x0C) { up with host := { up.host with mouldReady := ready_ } })
    let c : CmdRec := { asRead (p 0x0C) with phase := .started }
    let s (scope : Nat) := withCmd (p scope) up
    ((run true).Running 0 c 0x905 ∧ (selftestFin 0 0 c (run true)).isSome = true ∧ (run false).Running 0 c 0x905
      ∧ selftestFin 0 0 c (run false) = none)
    ∧ ((s 0x10).Ready 0 (asRead (p 0x10)) 0x905 ∧ ((s 0x10).startCmd 0).job.job = none ∧ bit (BitVec.ofNat 8 (fld (p 0x10) 24 1)) 0 = false
      ∧ bit (BitVec.ofNat 8 (fld (p 0x10) 24 1)) 1 = false ∧ bit (BitVec.ofNat 8 (fld (p 0x10) 24 1)) 2 = false
      ∧ bit (BitVec.ofNat 8 (fld (p 0x10) 24 1)) 3 = false
      ∧ ((s 0x10).startCmd 0).host.cmds.any (fun e => e.1 < 0 && e.2.phase == .started && pktOp e.2.packet == 0x905) = false
      ∧ ((s 0x10).startCmd 0).mem.stackBy ≠ some .selfTest)
    ∧ ((placed (s 0x1F)).Ready 0 (asRead (p 0x1F)) 0x905 ∧ ((placed (s 0x1F)).startCmd 0).job.job.isSome = true)
    ∧ (let s : State := { up with host := { up.host with dramReady := false } }
       s.domOn 13 = true ∧ s.domOn 14 = true ∧ s.domOn 15 = true ∧ s.domOn 16 = true ∧ s.host.dramReady = false)
    ∧ (let s : State := { up with host := { up.host with dramTested := false } }
       s.mgmt.fwState = 2 ∧ s.host.dramReady = true ∧ s.host.dramTested = false) := by decide +kernel

/-- HCLK and GCLK without lock, and locked; dividers below their targets. -/
theorem test_hyp_ClocksAndDomains_clocks :
    let cold (i : Nat) : State := up.setClk i Clk.atReset
    let slow (i j : Nat) : State := up.setClk i { (up.clk i) with j := j, target := j }
    (∀ x ∈ [(9, 81920), (0, 327680)], ((cold x.1).advance x.2).clkWanted x.1 = true ∧ (((cold x.1).advance x.2).clk x.1).locked = false
      ∧ (((cold x.1).advance x.2).clk x.1).stepAt + x.2 ≤ ((cold x.1).advance x.2).time
      ∧ ((cold x.1).advance (x.2 - 1)).clkWanted x.1 = true ∧ (((cold x.1).advance (x.2 - 1)).clk x.1).locked = false
      ∧ ((cold x.1).advance (x.2 - 1)).time < (((cold x.1).advance (x.2 - 1)).clk x.1).stepAt + x.2)
    ∧ (up.clk 10).locked = true ∧ (up.clk 15).locked = true
    ∧ (((up.advance 1000).clk 15).stepAt + (up.advance 1000).stepTime 15 ≤ (up.advance 1000).time
        ∧ (up.advance 999).time < ((up.advance 999).clk 15).stepAt + (up.advance 999).stepTime 15)
    ∧ (∀ i ∈ [0, 5], ((slow i 15).advance 1000).clk i = { (up.clk i) with j := 15, target := 15 }
        ∧ (((slow i 15).advance 1000).clk i).j < ((slow i 15).advance 1000).clkTarget i) := by decide +kernel

/-- A voltage that the fuses ask for is 650 mV or more, so a die that stands at less asks for it before a step up. -/
theorem test_hyp_ClocksAndDomains_rails :
    let s : State := (up.setClk 1 { (up.clk 1) with j := 3, target := 3 }).setDie 0 { Die.atReset with vcore := 649 }
    let t := s.advance 1000
    let fails (n : Nat) : State := up.setDie 3 { Die.atReset with avsFails := n }
    ((t.clk 1).j < t.clkTarget 1 ∧ 3 ≤ (t.clk 1).j ∧ (t.die (1 - 1)).vcore < vcoreMv (1 - 1) ((t.clk 1).j + 1))
      ∧ (((fails 0).advance 5).die 3).avsFails = 0 ∧ (((fails 99).advance (us 10)).die 3).avsFails = 99
      ∧ (((fails 99).advance (us 10)).die 3).avsAt + us 10 ≤ ((fails 99).advance (us 10)).time := by
  have h : let s : State := (up.setClk 1 { (up.clk 1) with j := 3, target := 3 }).setDie 0 { Die.atReset with vcore := 649 }
      let t := s.advance 1000
      let fails (n : Nat) : State := up.setDie 3 { Die.atReset with avsFails := n }
      (t.clk 1).j < t.clkTarget 1 ∧ (t.clk 1).j = 3 ∧ (t.die (1 - 1)).vcore = 649
        ∧ (((fails 0).advance 5).die 3).avsFails = 0 ∧ (((fails 99).advance (us 10)).die 3).avsFails = 99
        ∧ (((fails 99).advance (us 10)).die 3).avsAt + us 10 ≤ ((fails 99).advance (us 10)).time := by decide +kernel
  obtain ⟨a, b, c, d, e, f⟩ := h
  refine ⟨⟨a, Nat.le_of_eq b.symm, ?_⟩, d, e, f⟩
  rw [c, b]
  show 649 < 650
  decide

/-- Domain 1 on its way up and down; the next domain of a sequence, up and down. -/
theorem test_hyp_ClocksAndDomains_domains :
    let on_ (d : Nat) (x : Bool × Nat × Nat) (s : State) : State := { s.setStage d x with pwr := { (s.setStage d x).pwr with on := setBits s.pwr.on d d 0 } }
    let at_ (d : Nat) (x : Bool × Nat × Nat) (s : State) (n : Nat) : State := (s.setStage d x).advance n
    (tget (at_ 1 (true, 0, 0) up (us 200)).pwr.stage 1 = some (true, 0, 0) ∧ 0 + us 200 ≤ (at_ 1 (true, 0, 0) up (us 200)).time
      ∧ (∀ i ∈ domClocks 1, ((at_ 1 (true, 0, 0) up (us 200)).clk i).locked = true)
      ∧ (at_ 1 (true, 0, 0) up (us 200 - 1)).time < 0 + us 200)
    ∧ (tget (on_ 1 (true, 1, 0) up).pwr.stage 1 = some (true, 1, 0) ∧ (∀ i ∈ domClocks 1, ((on_ 1 (true, 1, 0) up).clk i).locked = true))
    ∧ (let t := ramped (on_ 1 (true, 2, 0) up)
       tget t.pwr.stage 1 = some (true, 2, 0) ∧ (∀ i ∈ domClocks 1, (t.clk i).j = t.clkTarget i))
    ∧ (let t := ramped (up.setStage 19 (false, 0, 0))
       tget t.pwr.stage 19 = some (false, 0, 0) ∧ t.ownClocks 19 = [12, 13, 14, 15] ∧ (∀ i ∈ t.ownClocks 19, (t.clk i).j = 0))
    ∧ (let t := at_ 18 (false, 1, 0) up (us 20)
       tget t.pwr.stage 18 = some (false, 1, 0) ∧ 0 + us 20 ≤ t.time ∧ t.ownClocks 18 = [])
    ∧ (∀ x ∈ [(2, true), (18, false)],
        let s : State := { up with pwr := { up.pwr with sequence := [x, (3, true)] } }
        let t := s.advance (ms 1)
        t.pwr.sequence = x :: [(3, true)] ∧ t.pwr.startedAt + ms 1 ≤ t.time ∧ tget t.pwr.stage x.1 = none ∧ t.pwr.crystal = true
          ∧ t.pwr.tripped = false
          ∧ (if x.2 then (domDeps x.1).all t.domOn else domOrder.all (fun e => !((domDeps e).contains x.1 && t.domOn e))) = true) := by
  decide +kernel

/-- The samples of a period with one sensor at `hot`, in units of 0.125 °C. -/
def readings (hot : BitVec 16) : List (BitVec 16) := hot :: List.replicate 255 200

theorem test_hyp_ThermalControl :
    let w (hot : BitVec 16) : State :=
      let u := (up.advance 5).takeSamples (readings hot) (List.replicate 64 200)
      (List.range 4).foldl State.criticalCheck ((List.range 4).foldl State.clampCheck u)
    let die0 (x : Die) (n : Nat) : State := (up.setDie 0 x).advance n
    let warm (l d : Int) : Die := { Die.atReset with logic := [[l]], dram := [d] }
    let held : Die := { warm 759 200 with reachedAt := some 0, clampActive := true }
    ((up.advance 5).pwr.crystal = true ∧ (readings 919).length = 256 ∧ (List.replicate 64 (200 : BitVec 16)).length = 64
      ∧ (w 919).tripSensor = none ∧ (w 920).tripSensor = some (0, 0, 920) ∧ (w 920).pwr.tripped = false)
    ∧ (∀ x ∈ [warm 760 200, warm 200 680, warm 743 663, warm 744 200], ((die0 x (ms 1)).die 0).loopAt + ms 1 ≤ (die0 x (ms 1)).time
        ∧ (die0 x (ms 1)).pwr.crystal = true ∧ (die0 x (ms 1 - 1)).time < ((die0 x (ms 1 - 1)).die 0).loopAt + ms 1)
    ∧ (760 ≤ (warm 760 200).logicHot ∧ 680 ≤ (warm 200 680).dramHot)
    ∧ ((warm 743 663).logicHot < 760 ∧ (warm 743 663).dramHot < 680 ∧ (warm 743 663).cool = true)
    ∧ ((warm 744 200).logicHot < 760 ∧ (warm 744 200).dramHot < 680 ∧ (warm 744 200).cool = false)
    ∧ ((die0 held (ms 10)).die 0 = held ∧ held.reachedAt = some 0 ∧ held.clampActive = true ∧ held.logic.any rises = false ∧ held.logicHot < 760
      ∧ 0 + ms 10 ≤ (die0 held (ms 10)).time ∧ (die0 held (ms 10 - 1)).time < 0 + ms 10) := by decide +kernel

/-! ### Witnesses: reset, firmware, quotes, the sideband, the black box -/

/-- An image of no body and security version 1, whose signatures are 0: its header names the key 0, which may sign both kinds. -/
def imageBytes (kind : Nat) : List Byte :=
  recBytes (mkRec 2048 [(0, 4, 0x57465731), (4, 1, kind), (8, 4, 7), (12, 2, 1), (24, 32, (sm3 []).toNat), (184, 1, 6)] : BitVec 2048)

/-- A bank of both images. -/
def bank : List Byte := imageBytes 1 ++ imageBytes 2

def image (kind : Nat) : Image := { head := imageBytes kind, body := [], rest := if kind = 1 then imageBytes 2 else [] }

theorem bank_images : bankImages bank = some (image 1, image 2) := by
  have h : bank.take 256 = imageBytes 1 ∧ (imageBytes 1).length = 256 ∧ leNat (((imageBytes 1).drop 16).take 4) = 0
      ∧ bank.drop 256 = imageBytes 2 ∧ (imageBytes 2).take 256 = imageBytes 2 ∧ (imageBytes 2).length = 256
      ∧ leNat (((imageBytes 2).drop 16).take 4) = 0 ∧ (imageBytes 2).drop 256 = [] ∧ bank.length = 512 := by decide +kernel
  obtain ⟨a, b, c, d, e, f, g, i, l⟩ := h
  simp [bankImages, takeImage, image, a, b, c, d, e, f, g, i, l]

/-- The image passes the checks of R611 where signatures of 0 verify. -/
theorem image_check (hv : ∀ k d, Config.sm2Verify k 3 d 0 = true) : ∀ kind ∈ [1, 2], (image kind).check kind 0 = none := by
  have h : ∀ kind ∈ [1, 2], (image kind).num 0 4 = 0x57465731 ∧ (image kind).num 4 1 = kind ∧ (image kind).num 5 3 = 0
      ∧ (image kind).num 14 2 = 0 ∧ (image kind).num 20 4 = 0 ∧ (image kind).num 185 7 = 0 ∧ (image kind).num 12 2 = 1
      ∧ (image kind).bits 512 120 = 0 ∧ ((image kind).num 184 1).testBit kind = true ∧ (image kind).bits 512 192 = 0
      ∧ sm3 (image kind).body = (image kind).bits 256 24 := by decide +kernel
  intro kind hk
  obtain ⟨a, b, c, d, e, f, g, i, j, k, l⟩ := h kind hk
  have v : ∀ k d, Config.sm2Verify k 3 d 0#512 = true := hv
  simp [Image.check, a, b, c, d, e, f, g, i, j, k, l, v]

/-- A bank that is valid and one that holds no image. -/
theorem bank_check (hv : ∀ k d, Config.sm2Verify k 3 d 0 = true) :
    bankCheck bank 0 = .ok (image 1, image 2) ∧ bankCheck [] 0 = .error 1 := by
  have l : bank.length = 512 ∧ (image 1).num 12 2 = (image 2).num 12 2 := by decide +kernel
  refine ⟨?_, rfl⟩
  simp [bankCheck, bank_images, image_check hv 1 (by decide), image_check hv 2 (by decide), l.1, l.2]

/-- The banks of a package with no fuse blown. -/
def banks (a b : List Byte) (flag : Bool) (s : State) : State :=
  { s with iden := { s.iden with fuses := 0, bankA := a, bankB := b, flag := flag } }

theorem test_hyp_ResetAndBringUp :
    let released : State := { State.reset with pwr := { State.reset.pwr with resetLow := false } }
    let firmware (st : Nat) : State := { up with mgmt := { up.mgmt with fwState := st } }
    State.reset.pwr.resetLow = true
    ∧ (let t := released.advance 2621440
       t.pwr.resetLow = false ∧ t.pwr.crystal = false ∧ t.pwr.startedAt + 2621440 ≤ t.time
         ∧ (released.advance 2621439).time < (released.advance 2621439).pwr.startedAt + 2621440)
    ∧ ((firmware 0).mgmt.fwState = 0 ∧ (firmware 0).mgmt.romDone = false ∧ (firmware 0).domOn 1 = true)
    ∧ (let t := (firmware 1).advance 5
       t.mgmt.fwState = 1 ∧ t.domOn 1 = true ∧ t.mgmt.sleep = 0)
    ∧ (let s : State := { banks [] [] false up with host := { up.host with idFw := 2 ^ 32 } }
       s.mgmt.fwState = 2 ∧ s.ready = true ∧ s.iden.fuses < s.svn ∧ s.iden.fuses < 64)
    ∧ ({ up.iden with fuses := 64 } : Identity).fuses = 64 := by decide +kernel

/-- The banks that the boot ROM finds: the active one valid, the other one, none. -/
theorem test_hyp_ResetAndBringUp_banks (hv : ∀ k d, Config.sm2Verify k 3 d 0 = true)
    (ht : Config.trustListOk (imageBytes 2) = true) :
    let check (s : State) (b : Bool) := bankCheck (s.iden.bank b) s.iden.fuses
    (let s := banks bank [] false up
     check s s.iden.flag = .ok (image 1, image 2) ∧ Config.trustListOk ((image 2).head ++ (image 2).body) = true)
    ∧ (let s := banks bank [] true up
       check s s.iden.flag = .error 1 ∧ check s (!s.iden.flag) = .ok (image 1, image 2))
    ∧ (let s := banks [] [] true up
       check s s.iden.flag = .error 1 ∧ check s (!s.iden.flag) = .error 1) := by
  obtain ⟨a, b⟩ := bank_check hv
  refine ⟨⟨a, ?_⟩, ⟨b, a⟩, b, b⟩
  show Config.trustListOk (imageBytes 2 ++ []) = true
  rw [List.append_nil]
  exact ht

/-- FW_STAGE of a bank in host memory, of no bytes, and of too many. -/
theorem test_hyp_FirmwareQuotesAndSideband_stage (hv : ∀ k d, Config.sm2Verify k 3 d 0 = true) :
    let p (len : Nat) := packet 0x901 [(24, 8, 0x1000), (32, 4, len)]
    let s (len : Nat) := withHost 0x1000 bank (banks [] [] false (withCmd (p len) up))
    let asks (len : Nat) : Prop := secureGate 0 (asRead (p len)) (s len) = true ∧ (s len).Ready 0 (asRead (p len)) 0x901 ∧ fld (p len) 32 4 = len
    (asks 512 ∧ ((s 512).startCmd 0).hostRead (fld (p 512) 24 8) 512 = some bank
      ∧ bankCheck bank ((s 512).startCmd 0).iden.fuses = .ok (image 1, image 2))
    ∧ (asks 0 ∧ ((s 0).startCmd 0).hostRead (fld (p 0) 24 8) 0 = some [] ∧ bankCheck [] ((s 0).startCmd 0).iden.fuses = .error 1)
    ∧ (asks (2 ^ 24 + 1) ∧ 2 ^ 24 < 2 ^ 24 + 1) := by
  have h : ∀ len ∈ [512, 0, 2 ^ 24 + 1], let p (len : Nat) := packet 0x901 [(24, 8, 0x1000), (32, 4, len)]
      let s (len : Nat) := banks [] [] false (withCmd (p len) up)
      secureGate 0 (asRead (p len)) (s len) = true ∧ (s len).Ready 0 (asRead (p len)) 0x901 ∧ fld (p len) 32 4 = len
        ∧ ((s len).startCmd 0).iden.fuses = 0 ∧ fld (p len) 24 8 = 0x1000 := by decide +kernel
  have n : bank.length = 512 := by decide +kernel
  obtain ⟨a, b⟩ := bank_check hv
  obtain ⟨a1, a2, a3, a4, a5⟩ := h 512 (by decide)
  obtain ⟨b1, b2, b3, b4, b5⟩ := h 0 (by decide)
  obtain ⟨c1, c2, c3, -, -⟩ := h (2 ^ 24 + 1) (by decide)
  have r (t : State) : (withHost 0x1000 bank t).hostRead 0x1000 512 = some bank := n ▸ withHost_read 0x1000 bank t
  refine ⟨⟨⟨a1, a2, a3⟩, ?_, ?_⟩, ⟨⟨b1, b2, b3⟩, rfl, b⟩, ⟨c1, c2, c3⟩, by decide⟩
  · simp only [withHost_startCmd, a5, r]
  · simp only [withHost_startCmd]
    exact a

/-- The activation of a bank: its command, its beginning, and its end in time and too late. -/
theorem test_hyp_FirmwareQuotesAndSideband_activate (hv : ∀ k d, Config.sm2Verify k 3 d 0 = true)
    (ht : Config.trustListOk (imageBytes 2) = true) :
    let p := packet 0x902 []
    let s : State := let s := withCmd p up
      { s with iden := { s.iden with staged := true } }
    let going : State := { banks [] bank false s with mgmt := { s.mgmt with activating := some (0, 0), fwState := 6 } }
    (secureGate 0 (asRead p) s = true ∧ s.Ready 0 (asRead p) 0x902 ∧ (s.startCmd 0).iden.staged = true ∧ (s.startCmd 0).job.job = none
      ∧ (s.startCmd 0).mgmt.activating = none ∧ (s.startCmd 0).host.cmds.any (fun e => decide (e.1 < 0)) = false)
    ∧ (secureGate 0 (asRead p) (placed s) = true ∧ (placed s).Ready 0 (asRead p) 0x902 ∧ ((placed s).startCmd 0).iden.staged = true
      ∧ ((placed s).startCmd 0).job.job.isSome = true)
    ∧ ((going.advance (sec 5)).mgmt.activating = some (0, 0) ∧ (going.advance (sec 5)).mgmt.fwState ≠ 1
      ∧ (going.advance (sec 5)).time ≤ 0 + sec 5 ∧ 0 + sec 5 ≤ (going.advance (sec 5)).time ∧ (going.advance (sec 5 - 1)).time < 0 + sec 5)
    ∧ bankCheck ((going.advance (sec 5)).iden.bank (!(going.advance (sec 5)).iden.flag)) (going.advance (sec 5)).iden.fuses
        = .ok (image 1, image 2)
    ∧ Config.trustListOk ((image 2).head ++ (image 2).body) = true := by
  have h : let p := packet 0x902 []
      let s : State := let s := withCmd p up
        { s with iden := { s.iden with staged := true } }
      let going : State := { banks [] bank false s with mgmt := { s.mgmt with activating := some (0, 0), fwState := 6 } }
      (secureGate 0 (asRead p) s = true ∧ s.Ready 0 (asRead p) 0x902 ∧ (s.startCmd 0).iden.staged = true ∧ (s.startCmd 0).job.job = none
        ∧ (s.startCmd 0).mgmt.activating = none ∧ (s.startCmd 0).host.cmds.any (fun e => decide (e.1 < 0)) = false)
      ∧ (secureGate 0 (asRead p) (placed s) = true ∧ (placed s).Ready 0 (asRead p) 0x902 ∧ ((placed s).startCmd 0).iden.staged = true
        ∧ ((placed s).startCmd 0).job.job.isSome = true)
      ∧ ((going.advance (sec 5)).mgmt.activating = some (0, 0) ∧ (going.advance (sec 5)).mgmt.fwState ≠ 1
        ∧ (going.advance (sec 5)).time ≤ 0 + sec 5 ∧ 0 + sec 5 ≤ (going.advance (sec 5)).time ∧ (going.advance (sec 5 - 1)).time < 0 + sec 5)
      ∧ (going.advance (sec 5)).iden.bank (!(going.advance (sec 5)).iden.flag) = bank ∧ (going.advance (sec 5)).iden.fuses = 0 := by
    decide +kernel
  obtain ⟨a, b, c, d, e⟩ := h
  refine ⟨a, b, c, ?_, ?_⟩
  · rw [d, e]
    exact (bank_check hv).1
  · show Config.trustListOk (imageBytes 2 ++ []) = true
    rw [List.append_nil]
    exact ht

/-- ATTEST with room for its quote and without. -/
theorem test_hyp_FirmwareQuotesAndSideband_attest (hw : Config.watermark.length ≤ 1000) :
    let p (len : Nat) := packet 0x900 [(40, 8, 0x2000), (48, 4, len), (52, 4, 0xFF)]
    let s (len : Nat) := withCmd (p len) up
    (∀ len ∈ [1384, 0], secureGate 0 (asRead (p len)) (s len) = true ∧ (s len).Ready 0 (asRead (p len)) 0x900 ∧ fld (p len) 52 4 < 256
      ∧ fld (p len) 40 8 % 32 = 0)
    ∧ quoteLength (fld (p 1384) 52 4) ≤ fld (p 1384) 48 4 ∧ fld (p 0) 48 4 < quoteLength (fld (p 0) 52 4) := by
  have h : let p (len : Nat) := packet 0x900 [(40, 8, 0x2000), (48, 4, len), (52, 4, 0xFF)]
      let s (len : Nat) := withCmd (p len) up
      (∀ len ∈ [1384, 0], secureGate 0 (asRead (p len)) (s len) = true ∧ (s len).Ready 0 (asRead (p len)) 0x900 ∧ fld (p len) 52 4 < 256
        ∧ fld (p len) 40 8 % 32 = 0)
      ∧ (∀ len ∈ [1384, 0], (quoteSlots (fld (p len) 52 4)).length = 8 ∧ fld (p len) 48 4 = len) := by decide +kernel
  obtain ⟨a, b⟩ := h
  obtain ⟨c1, c2⟩ := b 1384 (by decide)
  obtain ⟨d1, d2⟩ := b 0 (by decide)
  refine ⟨a, ?_, ?_⟩
  · rw [quoteLength, c1, c2]
    omega
  · rw [quoteLength, d1, d2]
    omega

/-- A challenge drawn and answered with signatures that verify; one that was never drawn. -/
theorem test_hyp_FirmwareQuotesAndSideband_sideband (hv : ∀ k d, Config.sm2Verify k 3 d 0 = true) :
    let s : State := { up with iden := { up.iden with challenge := some 5 } }
    up.host.linkUp = true ∧ s.pwr.crystal = true ∧ spdmCodes.contains 0x84 = true ∧ spdmCodes.contains 0x85 = false
      ∧ s.iden.challenge = some 5 ∧ Config.sm2Verify Config.rootKey 3 (sm3 (recBytes (0 : BitVec 512))) 0 = true
      ∧ Config.sm2Verify 0 3 (sm3 (recBytes Config.serial ++ recBytes (5 : BitVec 128))) 0 = true
      ∧ up.pwr.crystal = true ∧ up.iden.challenge ≠ some 5 :=
  ⟨rfl, rfl, by decide, by decide, rfl, hv _ _, hv _ _, rfl, by decide⟩

theorem test_hyp_BlackBoxKeepsRecords :
    let p (n : Nat) := packet 0x903 [(24, 4, 1), (28, 4, n), (32, 8, 0x2000)]
    let q (v : Nat) := packet 0x904 [(24, 1, v)]
    let kept (s : State) : State := { s with bb := { s.bb with recs := [(1, 0), (2, 0)], next := 3, mark := 1 } }
    let ball (n : Nat) (s : State) : State := { s with pins := { s.pins with ball := n } }
    let queued : State := { up with bb := { up.bb with charged := true, queue := [(1, 0, []), (13, 0, [])] } }
    let dumped (a : Option Nat) : State := ball 2 { up with bb := { up.bb with dumpAt := a } }
    (queued.bb.queue = (1, 0, []) :: [(13, 0, [])] ∧ queued.pwr.crystal = true ∧ queued.bb.charged = true)
    ∧ (∀ n ∈ [0, 1, 9], (kept (withCmd (p n) up)).Ready 0 (asRead (p n)) 0x903 ∧ fld (p n) 32 8 % 32 = 0
        ∧ let t := (kept (withCmd (p n) up)).startCmd 0
          (((t.bb.recs.filter (fun r => decide (t.bbFirst (fld (p n) 24 4) ≤ r.1))).take (fld (p n) 28 4)).map (fun r => r.1))
            = [1, 2].take n)
    ∧ (∀ x ∈ [(1, 0), (1, 1), (0, 2), (0, 1), (2, 0)], (ball x.2 (withCmd (q x.1) up)).Ready 0 (asRead (q x.1)) 0x904
        ∧ fld (q x.1) 24 1 = x.1 ∧ ((ball x.2 (withCmd (q x.1) up)).startCmd 0).pins.ball = x.2)
    ∧ (∀ a ∈ [none, some 0], ((dumped a).advance (ms 100 - 1)).pins.ball = 2 ∧ ((dumped a).advance (ms 100 - 1)).bb.dumpAt = a
        ∧ ((dumped a).advance (ms 100 - 1)).time < 0 + ms 100)
    ∧ ((kept up).pwr.crystal = true ∧ 0 < (kept up).bbOldest ∧ (kept up).bbOldest ≤ 1)
    ∧ (let s : State := { up with bb := { up.bb with charged := true } }
       s.bb.charged = true ∧ s.pwr.crystal = true ∧ s.bb.queue = [])
    ∧ State.reset.bb.charged = false := by decide +kernel

end Sys2Proof.Tests
end

/-! SUPPORT. What the Vat's instructions do while it runs on a profile: each instruction once, then the statement about all
of them. -/
namespace Sys2Proof.Machine

/-- An active Vat runs; one that VAT_STOP is stopping runs too, and is not active (R79). -/
theorem Vat.running_of_active {v : Vat} (h : v.active = true) : v.running = true :=
  (Bool.and_eq_true_iff.mp h).1

@[simp] theorem State.raiseToken_token_same (s : State) (t v : Nat) :
    (s.raiseToken t v).token t = Max.max (s.token t) (v % 2 ^ 48) := by
  simp [State.raiseToken]

/-! ### The Vat at work -/

section Active
variable {s : State} {v : VatCfg} (hcfg : s.vat.cfg = some v) (hactive : s.vat.active = true)
include hcfg hactive

/-- Within the share of the epoch the cursor does not wrap, so the chunk fetched is the cursor's own (R70). -/
theorem execChunkFetch_in_share {src : BitVec 512} {x : BitVec 256} (hheld : s.vat.held = [])
    (hfree : s.vat.fetches.length < (readProfile v.profile).streams) (hon : s.domOn 3 = true)
    (hk : s.vat.k < shareLen s.vat.chunks s.dataRank.1 s.dataRank.2) :
    let ch := permute (s.dataRank.1 + s.vat.k * s.dataRank.2) s.vat.chunks (epochKeys s.seed s.vat.epoch)
    let next : State := { s with vat := { s.vat with k := s.vat.k + 1, skip := 0 } }
    let f : Fetch := { epoch := s.vat.epoch, k := s.vat.k, chunk := ch, skip := s.vat.skip, source := fld src 0 4,
                       entry := x, done := none }
    sourceOf s.vat.sources ch = some src → s.hostRec 256 (fld src 32 8 + 32 * (ch - srcBase src)) = some x →
    execChunkFetch s = if entrySkipped x then .next (next.bump (slotBeat 0) 1)
      else .next { next with vat := { next.vat with fetches := s.vat.fetches ++ [f] } } := by
  intro ch next f hsrc hx
  have hwrap : decide (shareLen s.vat.chunks s.dataRank.1 s.dataRank.2 ≤ s.vat.k) = false :=
    decide_eq_false (Nat.not_le.mpr hk)
  simp [execChunkFetch, hcfg, hactive, hheld, hfree, hon, hwrap, hsrc, hx, ch, next, f]

/-- A decode that ends while the Vat is not being stopped has the finished chunks numbered and their samples placed. -/
theorem execChunkDecodeDone_flowing {pos : Nat} {f : Fetch} {res : DecodeResult} (hf : s.vat.fetches[pos]? = some f)
    (hdone : f.done = none) (hlen : res.samples.length = samplesOf (readProfile v.profile) res) :
    let p := readProfile v.profile
    let t := State.countChunk { s with vat := { s.vat with
      fetches := lupd s.vat.fetches pos (fun f => { f with done := some res }) } } res
    let u := t.retireChunks (t.vat.fetches.length + 1) p
    t.vat.stopping = none → execChunkDecodeDone pos res s = .next (u.fillSlots (u.vat.held.length + 1) p) := by
  intro p t u hstop
  have hends : (s.vat.running && f.done.isNone && res.samples.length == samplesOf p res) = true := by
    simp [Vat.running_of_active hactive, hdone, hlen, p]
  unfold execChunkDecodeDone
  split
  case h_1 v' f' hcfg' hf' =>
    obtain rfl : v' = v := Option.some.inj (hcfg'.symm.trans hcfg)
    obtain rfl : f' = f := Option.some.inj (hf'.symm.trans hf)
    have hgoes : ¬ t.vat.stopping.isSome = true := by simp [hstop]
    exact (if_pos hends).trans (congrArg Host.Outcome.next (if_neg hgoes))
  case h_2 hnone => exact absurd hf (hnone v f hcfg)

/-- With no window under way, a full one is taken for drawing (R75). -/
theorem execWindowDrawStart_full (n : Nat) (hnone : s.vat.window = none)
    (hfull : s.vat.full (readProfile v.profile) (s.vat.drawWindow (readProfile v.profile)) = true) :
    let t := s.bump (slotBeat 7) (if s.vat.stalled then n else 0)
    execWindowDrawStart n s = .next { t with vat := { t.vat with
      window := some (s.vat.drawWindow (readProfile v.profile)), stalled := false } } := by
  intro t
  simp [execWindowDrawStart, whenThen, hcfg, hactive, hnone, hfull, t]

/-- Every computed draw stands in the batch, so the next one is computed (R74). -/
theorem execVatDraw_computes {w : Nat} (hw : s.vat.window = some w) (heq : s.vat.drawn = s.vat.copied) :
    execVatDraw s = .next { s with vat := { s.vat with drawn := s.vat.copied + 1 } } := by
  simp [execVatDraw, hcfg, hactive, hw, heq]

/-- A computed draw goes into a region that may be filled and has room (R76, R25). -/
theorem execVatDraw_copies {w : Nat} (hw : s.vat.window = some w) (hne : s.vat.drawn ≠ s.vat.copied)
    (hfree : s.vat.regionWait = false) (hroom : s.vat.inBatch < (readProfile v.profile).batch) :
    execVatDraw s = .next (s.copyDraw (readProfile v.profile) w) := by
  simp [execVatDraw, whenThen, hcfg, hactive, hw, hne, hfree, hroom]

/-- The batch token of a full batch n rises to n + 1 (R479), and its position is recorded (R78), once the first sample of the
window it names has been numbered (log 42). -/
theorem execBatchHandover_full {e k i : Nat} (hfull : s.vat.inBatch = (readProfile v.profile).batch)
    (hstart : tget s.vat.starts (s.vat.copied / (readProfile v.profile).win) = some (e, k, i)) :
    let p := readProfile v.profile
    ∃ t, execBatchHandover s = .next t ∧ t.vat.inBatch = 0 ∧ t.vat.batches = s.vat.batches + 1
      ∧ t.vat.position = ⟨e, k, i, s.vat.copied, s.vat.drawn⟩
      ∧ t.token p.batchToken = Max.max (s.token p.batchToken) ((s.vat.batches + 1) % 2 ^ 48) ∧ t.mem = s.mem := by
  intro p
  simp only [execBatchHandover, whenThen, hcfg, hactive, hstart, hfull, beq_self_eq_true, Bool.and_self, ↓reduceIte]
  exact ⟨_, rfl, rfl, rfl, rfl, s.raiseToken_token_same _ _, rfl⟩

/-- The wait for a region ends once its release token allows (R25). -/
theorem execBatchRegionReuse_free (n : Nat) (hwait : s.vat.regionWait = true)
    (hfree : s.regionFree (readProfile v.profile) s.vat.batches = true) :
    let t := s.bump (slotBeat 8) n
    execBatchRegionReuse n s = .next { t with vat := { t.vat with regionWait := false } } := by
  intro t
  simp [execBatchRegionReuse, whenThen, hcfg, hactive, hwait, hfree, t]

end Active

/-- Settles O44: each clause is what one of the Vat's instructions does while the Vat is active. -/
theorem vatDrawsSamples : Obligations.VatDrawsSamples := by
  intro s v hcfg hactive p
  refine ⟨?fetch, ?decode, fun n => execWindowDrawStart_full hcfg hactive n, ?draw,
    fun _ _ _ => execBatchHandover_full hcfg hactive, fun n => execBatchRegionReuse_free hcfg hactive n⟩
  case fetch =>
    intro src x hheld hfree hon hk ch next hsrc hx
    have hexec := execChunkFetch_in_share hcfg hactive hheld hfree hon hk hsrc hx
    exact ⟨fun hskip => hexec.trans (if_pos hskip),
      fun hyields => hexec.trans (if_neg (ne_true_of_eq_false hyields))⟩
  case decode =>
    intro pos f res hf hdone hlen
    exact execChunkDecodeDone_flowing hcfg hactive hf hdone hlen
  case draw =>
    intro w hw
    exact ⟨execVatDraw_computes hcfg hactive hw, execVatDraw_copies hcfg hactive hw⟩

end Sys2Proof.Machine

/-! SUPPORT. What a byte of bonded DRAM and of host memory reads after bytes are written, and the statement that writes
change their bytes and no other. -/
namespace Sys2Proof.Machine

variable {α : Type}

/-- A table after a list of changes reads as before at a key that no change names. -/
theorem tget_foldl_tset_of_notMem (ps : List (Nat × α)) (m : Tab α) {a : Nat} (h : a ∉ ps.map Prod.fst) :
    tget (ps.foldl (fun m p => tset m p.1 p.2) m) a = tget m a := by
  induction ps generalizing m with
  | nil => rfl
  | cons p ps ih =>
    rw [List.map_cons, List.mem_cons, not_or] at h
    obtain ⟨hp, hps⟩ := h
    rw [List.foldl_cons, ih _ hps, tget_tset_ne _ _ (Ne.symm hp)]

/-- Where no key is named twice, each change is read back. -/
theorem tget_foldl_tset_of_mem {ps : List (Nat × α)} (m : Tab α) {a : Nat} {v : α} (hnd : (ps.map Prod.fst).Nodup)
    (h : (a, v) ∈ ps) : tget (ps.foldl (fun m p => tset m p.1 p.2) m) a = some v := by
  induction ps generalizing m with
  | nil => cases h
  | cons p ps ih =>
    rw [List.map_cons, List.nodup_cons] at hnd
    obtain ⟨hp, hps⟩ := hnd
    rcases List.mem_cons.mp h with rfl | hmem
    · rw [List.foldl_cons, tget_foldl_tset_of_notMem _ _ hp, tget_tset_self]
    · exact ih _ hps hmem

/-- A byte of DRAM whose address is not written is as it was. -/
theorem State.writeBytes_dramByte_of_notMem (s : State) {as : List Nat} (bs : List Byte) {a : Nat} (ha : a ∉ as) :
    (s.writeBytes as bs).dramByte a = s.dramByte a := by
  have hzip : a ∉ (as.zip bs).map Prod.fst := fun hmem => by
    obtain ⟨p, hp, rfl⟩ := List.mem_map.mp hmem
    exact ha (List.of_mem_zip hp).1
  simp only [State.dramByte, State.writeBytes, tget_foldl_tset_of_notMem _ _ hzip]

/-- A byte of DRAM written once reads as written. -/
theorem State.writeBytes_dramByte_at (s : State) {as : List Nat} {bs : List Byte} (hlen : as.length = bs.length)
    (hnd : as.Nodup) {i a : Nat} {b : Byte} (ha : as[i]? = some a) (hb : bs[i]? = some b) :
    (s.writeBytes as bs).dramByte a = b := by
  have hkeys : ((as.zip bs).map Prod.fst).Nodup := by rwa [List.map_fst_zip hlen.le]
  have hmem : (a, b) ∈ as.zip bs := List.mem_of_getElem? (List.getElem?_zip_eq_some.mpr ⟨ha, hb⟩)
  simp only [State.dramByte, State.writeBytes, tget_foldl_tset_of_mem _ hkeys hmem, Option.getD_some]

/-- Bytes put from `a` on leave what lies before and behind them. -/
theorem tget_hostPut_outside (m : Tab (Option Byte)) (a : Nat) (bs : List Byte) {x : Nat}
    (h : x < a ∨ a + bs.length ≤ x) : tget (hostPut m a bs) x = tget m x := by
  induction bs generalizing m a with
  | nil => rfl
  | cons b r ih =>
    rw [List.length_cons] at h
    rw [hostPut, ih _ _ (by omega), tget_tset_ne _ _ (by omega)]

/-- Bytes put from `a` on are read back. -/
theorem tget_hostPut_at (m : Tab (Option Byte)) (a : Nat) {bs : List Byte} {i : Nat} {b : Byte} (h : bs[i]? = some b) :
    tget (hostPut m a bs) (a + i) = some (some b) := by
  induction bs generalizing m a i with
  | nil => cases h
  | cons c r ih =>
    cases i with
    | zero =>
      rw [List.getElem?_cons_zero, Option.some_inj] at h
      rw [hostPut, tget_hostPut_outside _ _ _ (by omega), h, Nat.add_zero, tget_tset_self]
    | succ j => rw [hostPut, show a + (j + 1) = a + 1 + j by omega, ih _ _ h]

/-- A byte of host memory outside the bytes written is as it was. -/
theorem State.hostWrite_hostByte_outside (s : State) (a : Nat) (bs : List Byte) {x : Nat}
    (h : x < a ∨ a + bs.length ≤ x) : (s.hostWrite a bs).hostByte x = s.hostByte x := by
  simp only [State.hostByte, State.hostWrite, tget_hostPut_outside _ _ _ h]

/-- A byte of host memory that is written reads as written. -/
theorem State.hostWrite_hostByte_at (s : State) (a : Nat) {bs : List Byte} {i : Nat} {b : Byte} (h : bs[i]? = some b) :
    (s.hostWrite a bs).hostByte (a + i) = some b := by
  simp only [State.hostByte, State.hostWrite, tget_hostPut_at _ _ h]

/-- Settles O9: each half is what is read, after a list of changes to a table, at the keys that they name and at others. -/
theorem writesChangeTheirBytes : Obligations.WritesChangeTheirBytes :=
  ⟨fun s _ bs hlen hnd => ⟨fun _ ha => s.writeBytes_dramByte_of_notMem bs ha,
      fun _ _ _ ha hb => s.writeBytes_dramByte_at hlen hnd ha hb⟩,
    fun s a bs => ⟨fun _ hx => s.hostWrite_hostByte_outside a bs hx, fun _ _ hb => s.hostWrite_hostByte_at a hb⟩⟩

end Sys2Proof.Machine

/-! SUPPORT. What HANDLE_ALLOC, HANDLE_FREE and HANDLE_QUERY answer: the check that turns each away or its work, once, then
the statement about handles. -/
namespace Sys2Proof.Machine

@[simp] theorem State.startCmd_nextSlot (s : State) (id : Nat) : (s.startCmd id).nextSlot = s.nextSlot := by
  simp only [State.nextSlot, State.startCmd_mem]

variable {s : State} {id : Nat} {c : CmdRec}

/-! ### HANDLE_ALLOC -/

/-- The extent that a HANDLE_ALLOC packet asks for, before it has a place in its stripe (R97, R104). -/
def allocWant (p : BitVec 512) : Extent :=
  let visible := (fld p 33 1).testBit 0
  let size := roundUp (fld p 24 8) (2 ^ 21)
  let at_ := stripeFor (fld p 32 1) (fld p 34 1) (fld p 36 2) size visible
  { cls := fld p 32 1, stripe := at_.1, place := at_.2, hostVisible := visible, fabricRead := (fld p 33 1).testBit 1,
    size := size, base := 0, hdm := 0 }

/-- The parameters of a HANDLE_ALLOC packet are in range, and a host-visible handle has a window to lie in (R96, R104,
R131). -/
structure AllocChecked (p : BitVec 512) (s : State) : Prop where
  cls : fld p 32 1 < 8
  pos : fld p 24 8 ≠ 0
  size : fld p 24 8 ≤ 2 ^ 40
  place : (fld p 34 1 = 1 ∧ fld p 36 2 < 128) ∨ (fld p 34 1 = 2 ∧ fld p 36 2 < 4)
    ∨ ((fld p 34 1 = 0 ∨ fld p 34 1 = 3) ∧ fld p 36 2 = 0)
  window : (fld p 33 1).testBit 0 = true → s.mem.carve.window ≠ 0 ∧ s.host.cxlMode = true

/-- Past its checks, HANDLE_ALLOC is down to a slot and a place. -/
theorem handleAllocBody_checked (h : AllocChecked c.packet s) : handleAllocBody id c s =
    match s.nextSlot with
    | none => .error (stNoResource, 0)
    | some (slot, gen) => match s.draw.2.placeExtent (allocWant c.packet) s.free with
      | none => .error (stNoResource, 0)
      | some e => okDone (s.draw.2.makeHandle slot gen false e) (mkHandle slot gen) := by
  obtain ⟨hcls, hpos, hsize, hplace, hwindow⟩ := h
  have hconsumers : fld c.packet 34 1 ≤ 3 := by omega
  have hwin : (!((fld c.packet 33 1).testBit 0 && (s.mem.carve.window == 0 || !s.host.cxlMode))) = true := by
    cases hv : (fld c.packet 33 1).testBit 0 with
    | false => rfl
    | true => obtain ⟨hw, hm⟩ := hwindow hv; simp [hw, hm]
  simp only [handleAllocBody, hconsumers, hwin, hplace, hpos, hsize, hcls.not_ge, hcls.trans (by decide : 8 < 16),
    need_of, decide_true, decide_false, Bool.false_and, Bool.not_false, ok_bind, ne_eq, not_false_eq_true, and_self]
  rfl

theorem handleAllocBody_placed (h : AllocChecked c.packet s) {slot gen : Nat} {e : Extent}
    (hslot : s.nextSlot = some (slot, gen)) (hplace : s.draw.2.placeExtent (allocWant c.packet) s.free = some e) :
    handleAllocBody id c s = okDone (s.draw.2.makeHandle slot gen false e) (mkHandle slot gen) := by
  simp only [handleAllocBody_checked h, hslot, hplace]

/-- Where no slot is free or no range is large enough, nothing is created (R97, R99). -/
theorem handleAllocBody_no_resource (h : AllocChecked c.packet s)
    (hnone : s.nextSlot = none ∨ s.draw.2.placeExtent (allocWant c.packet) s.free = none) :
    handleAllocBody id c s = .error (stNoResource, 0) := by
  rw [handleAllocBody_checked h]
  cases hslot : s.nextSlot with
  | none => rfl
  | some slot =>
    have hplace := hnone.resolve_left (by simp [hslot])
    simp only [hplace]

/-! ### HANDLE_FREE and HANDLE_QUERY -/

theorem handleFreeBody_invalid (h : s.handleFor id (fld c.packet 24 4) = none) :
    handleFreeBody id c s = .error (stBadParam, fld c.packet 24 4) := by
  simp only [handleFreeBody, h]

theorem handleFreeBody_refused (h : (s.handleFor id (fld c.packet 24 4)).isSome = true)
    (hr : s.freeRefused id (fld c.packet 24 4) = true) : handleFreeBody id c s = .error (stConflict, 0) := by
  obtain ⟨sl, hsl⟩ := Option.isSome_iff_exists.mp h
  simp [handleFreeBody, hsl, hr, need]

theorem handleFreeBody_valid (h : (s.handleFor id (fld c.packet 24 4)).isSome = true)
    (hr : s.freeRefused id (fld c.packet 24 4) = false) : handleFreeBody id c s = .ok (.busy s) := by
  obtain ⟨sl, hsl⟩ := Option.isSome_iff_exists.mp h
  simp [handleFreeBody, hsl, hr, need]

/-- The wait of HANDLE_FREE is over once no command read before it is left (R102). -/
theorem handleFreeDone_of_no_earlier (h : s.host.cmds.any (fun e => decide (e.1 < id)) = false) :
    handleFreeDone id c s = some ((stOk, 0), s.releaseHandle (fld c.packet 24 4)) := by
  rw [handleFreeDone, if_pos (by rw [← List.not_any_eq_all_not, h]; rfl)]

theorem handleFreeDone_of_earlier (h : s.host.cmds.any (fun e => decide (e.1 < id)) = true) :
    handleFreeDone id c s = none := by
  rw [handleFreeDone, if_neg (by rw [← List.not_any_eq_all_not, h]; decide)]

theorem handleQueryBody_invalid (ha : fld c.packet 32 8 % 32 = 0) (h : s.handleFor id (fld c.packet 24 4) = none) :
    handleQueryBody id c s = .error (stBadParam, fld c.packet 24 4) := by
  simp [handleQueryBody, need, ha, h]

theorem handleQueryBody_valid (ha : fld c.packet 32 8 % 32 = 0) {sl : HSlot}
    (h : s.handleFor id (fld c.packet 24 4) = some sl) : handleQueryBody id c s =
      okDone (s.hostWrite (fld c.packet 32 8) (recBytes (handleRecord (fld c.packet 24 4) sl.ext))) := by
  simp [handleQueryBody, need, ha, h]

/-- Settles O14: the checks, the slot and the place decide HANDLE_ALLOC; the handle, its holders and the commands read before
decide HANDLE_FREE. -/
theorem handlesAreMadeAndFreed : Obligations.HandlesAreMadeAndFreed := by
  refine ⟨?alloc, ?free_query⟩
  case alloc =>
    intro s id c hready p u visible size at_ want hcls hpos hsize hplace hwindow
    have hwin : visible = true → u.mem.carve.window ≠ 0 ∧ u.host.cxlMode = true := by simpa [u, State.draw] using hwindow
    have hchecked : AllocChecked p (s.startCmd id) := ⟨hcls, hpos, hsize, hplace, hwin⟩
    refine ⟨fun slot gen e hslot he => ?_, fun hnone => ?_⟩
    · exact jeisk_done hready (handleAllocBody_placed hchecked (by rwa [s.startCmd_nextSlot]) he)
    · exact jeisk_error hready (handleAllocBody_no_resource hchecked (by rwa [s.startCmd_nextSlot]))
  case free_query =>
    intro s id c h u earlier
    refine ⟨fun hready => ⟨fun hnone => ?_, fun hsome hr => ?_, fun hsome hr => ⟨fun he => ?_, fun he => ?_⟩⟩,
      fun hrun => ⟨fun he => ?_, fun he => ?_⟩, fun hready ha => ⟨fun hnone => ?_, fun sl hsl => ?_⟩⟩
    · exact jeiskWait_error hready (handleFreeBody_invalid hnone)
    · exact jeiskWait_error hready (handleFreeBody_refused hsome hr)
    · exact jeiskWait_done hready (handleFreeBody_valid hsome hr) (handleFreeDone_of_no_earlier he)
    · exact jeiskWait_busy hready (handleFreeBody_valid hsome hr) (handleFreeDone_of_earlier he)
    · exact jeiskWait_resume hrun (handleFreeDone_of_no_earlier he)
    · exact jeiskWait_idle hrun (handleFreeDone_of_earlier he)
    · exact jeisk_error hready (handleQueryBody_invalid ha hnone)
    · exact jeisk_done hready (handleQueryBody_valid ha hsl)

end Sys2Proof.Machine

/-! SUPPORT. What MEM_CONFIG and TRACK_CONFIG answer: the check that turns each away or its work, once, then the statement
about both. -/
namespace Sys2Proof.Machine

@[simp] theorem State.startCmd_carveInUse (s : State) (id : Nat) : (s.startCmd id).carveInUse = s.carveInUse := by
  simp only [State.carveInUse, State.startCmd_mem, State.startCmd_vat]

@[simp] theorem State.startCmd_guarantee (s : State) (id x : Nat) : (s.startCmd id).guarantee x = s.guarantee x := by
  simp only [State.guarantee, State.startCmd_trk]

@[simp] theorem State.startCmd_poolCap (s : State) (id x : Nat) : (s.startCmd id).poolCap x = s.poolCap x := by
  simp only [State.poolCap, State.startCmd_trk]

variable {s : State} {id : Nat} {c : CmdRec}

/-! ### MEM_CONFIG -/

/-- What carve-outs add up to whose counters do not lie with the firmware. -/
theorem Carve.sizes_sum {k : Carve} (h : k.countersInFw = false) :
    k.sizes.sum = k.vat + k.stack + k.spill + k.counters + k.trace + k.couch + k.window := by
  simp [Carve.sizes, h, Nat.add_assoc]

theorem carveFits_iff (p : BitVec 512) : let k := Carve.named p
    carveFits p = true ↔ (fld p 24 2 = 0 ∨ (4 ≤ fld p 24 2 ∧ fld p 24 2 ≤ 384)) ∧ fld p 26 1 ≤ 128 ∧ 1 ≤ fld p 27 1
      ∧ fld p 27 1 ≤ 64 ∧ 1 ≤ fld p 28 1 ∧ fld p 28 1 ≤ 64 ∧ fld p 29 1 ≤ 64 ∧ fld p 30 1 ≤ 64 ∧ fld p 32 2 ≤ 1024
      ∧ k.vat + k.stack + k.spill + k.counters + k.trace + k.couch + k.window ≤ 510 * gib := by
  intro k
  simp only [carveFits, Carve.sizes_sum (k := Carve.named p) rfl, Bool.and_eq_true, decide_eq_true_eq, and_assoc, k]

theorem State.carveInUse_iff (s : State) : s.carveInUse = true ↔
    (∃ e ∈ s.mem.slots, e.2.live = true ∧ e.2.firmware = false) ∨ s.vat.running = true ∨ s.vat.cfg.isSome = true
      ∨ s.mem.stackBy.isSome = true ∨ s.mem.traceBy.isSome = true ∨ s.mem.couchBy.isSome = true := by
  simp only [State.carveInUse, Bool.or_eq_true, List.any_eq_true, Bool.and_eq_true, Bool.not_eq_true', or_assoc]

theorem memConfigBody_out_of_range (h : carveFits c.packet = false) : memConfigBody id c s = .error (stBadParam, 0) := by
  simp only [memConfigBody, h, need_not, error_bind]

theorem memConfigBody_in_use (h : carveFits c.packet = true) (hu : s.carveInUse = true) :
    memConfigBody id c s = .error (stConflict, 0) := by
  simp only [memConfigBody, h, hu, need_of, need_not, ok_bind, error_bind, Bool.not_true]

theorem memConfigBody_done (h : carveFits c.packet = true) (hu : s.carveInUse = false) : memConfigBody id c s =
    okDone { s.freeStats with mem := { s.freeStats.mem with carve := Carve.named c.packet } } := by
  simp only [memConfigBody, h, hu, need_of, ok_bind, Bool.not_false]

/-! ### TRACK_CONFIG -/

/-- The contexts that a TRACK_CONFIG packet names take the value `v` (R117). -/
def trackNamed (p : BitVec 512) (t : Tab Nat) (v : Nat) : Tab Nat :=
  (List.range (fld p 26 2)).foldl (fun t i => tset t (fld p 24 2 + i) v) t

/-- The guarantees after a TRACK_CONFIG, which its bit 0 selects. -/
def trackGuarantees (p : BitVec 512) (k : Tracker) : Tab Nat :=
  if (fld p 34 1).testBit 0 then trackNamed p k.guarantee (fld p 28 2) else k.guarantee

/-- The tracker after a TRACK_CONFIG: each apply bit selects its fields (R117, R121). -/
def Tracker.configured (p : BitVec 512) (k : Tracker) : Tracker :=
  { k with
    guarantee := trackGuarantees p k
    cap := if (fld p 34 1).testBit 0 then trackNamed p k.cap (fld p 30 2) else k.cap
    threshold := if (fld p 34 1).testBit 1 then fld p 32 2 else k.threshold }

/-- What the first apply bit asks of a TRACK_CONFIG packet: its fields are in range, the guarantees fit, and no context
with a request outstanding gets other limits (R117, R118). -/
structure TrackLimits (p : BitVec 512) (s : State) : Prop where
  fields : 1 ≤ fld p 26 2 ∧ fld p 26 2 ≤ 1024 ∧ fld p 24 2 + fld p 26 2 ≤ 1024 ∧ 8 ≤ fld p 28 2 ∧ fld p 28 2 ≤ 4096
    ∧ fld p 28 2 % 8 = 0 ∧ 1 ≤ fld p 30 2 ∧ fld p 30 2 ≤ 1024
  sum : guaranteeSum (trackGuarantees p s.trk) ≤ 524288
  kept : ∀ e ∈ s.trk.entries, e.ctx < fld p 24 2 ∨ fld p 24 2 + fld p 26 2 ≤ e.ctx
    ∨ (s.guarantee e.ctx = fld p 28 2 ∧ s.poolCap e.ctx = fld p 30 2)

/-- No outstanding request is of a context whose limits the packet changes. -/
theorem TrackLimits.no_entry_changes {p : BitVec 512} (h : TrackLimits p s) :
    s.trk.entries.any (fun e => decide (fld p 24 2 ≤ e.ctx ∧ e.ctx < fld p 24 2 + fld p 26 2)
      && (s.guarantee e.ctx != fld p 28 2 || s.poolCap e.ctx != fld p 30 2)) = false := by
  rw [List.any_eq_false]
  intro e he
  rcases h.kept e he with hlow | hhigh | ⟨hg, hc⟩
  · simp [hlow.not_ge]
  · simp [hhigh.not_gt]
  · simp [hg, hc]

theorem trackConfigBody_done (h0 : (fld c.packet 34 1).testBit 0 = true → TrackLimits c.packet s)
    (h1 : (fld c.packet 34 1).testBit 1 = true → fld c.packet 32 2 ≤ 1024) : trackConfigBody id c s =
      okDone (State.poolNotice s { s with trk := s.trk.configured c.packet }) := by
  have hthreshold : (!(fld c.packet 34 1).testBit 1 || decide (fld c.packet 32 2 ≤ 1024)) = true := by
    cases ht : (fld c.packet 34 1).testBit 1 with
    | false => rfl
    | true => exact decide_eq_true (h1 ht)
  cases ha : (fld c.packet 34 1).testBit 0 with
  | false =>
    simp only [trackConfigBody, ha, hthreshold, need_of, ok_bind, Bool.not_false, Bool.true_or, Bool.false_and,
      Tracker.configured, trackGuarantees, Bool.false_eq_true, ↓reduceIte]
  | true =>
    have hlim := h0 ha
    have hsum := hlim.sum
    simp only [trackGuarantees, trackNamed, ha, ↓reduceIte] at hsum
    simp only [trackConfigBody, ha, hthreshold, hlim.fields, hsum, hlim.no_entry_changes, need_of, ok_bind, Bool.not_true,
      Bool.false_or, Bool.and_false, Bool.not_false, decide_true, and_self, Tracker.configured, trackGuarantees, trackNamed,
      ↓reduceIte]

/-- Settles O15: MEM_CONFIG goes by its sizes and then by what uses a carve-out, TRACK_CONFIG by the fields that its apply
bits select. -/
theorem memoryAndTrackerAreConfigured : Obligations.MemoryAndTrackerAreConfigured := by
  refine ⟨?mem, ?track⟩
  case mem =>
    intro s id c hready p k u
    refine ⟨carveFits_iff p, s.carveInUse_iff, fun hfits hu => ?_, fun hfits hu => ?_, fun hfits => ?_⟩
    · exact jeisk_done hready (memConfigBody_done hfits (by rwa [s.startCmd_carveInUse]))
    · exact jeisk_error hready (memConfigBody_in_use hfits (by rwa [s.startCmd_carveInUse]))
    · exact jeisk_error hready (memConfigBody_out_of_range hfits)
  case track =>
    intro s id c hready p u a0 a1 named gs cs h0 h1 trk
    have hlimits : a0 = true → TrackLimits p u := fun ha => by
      obtain ⟨hcount, hcount', hlast, hg, hg', hmod, hcap, hcap', hsum, hkept⟩ := h0 ha
      refine ⟨⟨hcount, hcount', hlast, hg, hg', hmod, hcap, hcap'⟩, ?_, ?_⟩
      · rwa [s.startCmd_trk]
      · simpa only [u, State.startCmd_trk, State.startCmd_guarantee, State.startCmd_poolCap] using hkept
    have htrk : trk = u.trk.configured p := by
      simp only [trk, gs, cs, u, State.startCmd_trk]
      rfl
    rw [htrk]
    exact jeisk_done hready (trackConfigBody_done hlimits h1)

end Sys2Proof.Machine

/-! SUPPORT. What the indexed copies, the indexed commands and the near-memory adds answer once their checks pass: each
operation once, then the statement about all of them. -/
namespace Sys2Proof.Machine

/-! ### The words of the copy queue (R202, R203) -/

/-- What a word of the copy queue comes to is what its operation comes to. -/
theorem runCopy_ran {s : State} {cl pos o : Nat} {f : OpFn} {q : QWord} {k : Cluster} {r : Ran} (h : s.AtCopy cl pos o q k)
    (hf : f cl q (s.setClus cl k) = r) : runCopy o f cl pos s = .next (State.afterRun 0 cl q r) :=
  hf ▸ runCopy_at h

section Copies
variable {cl : Nat} {q : QWord} {s u : State} {tb : IdxTable} {ix : List (Option Nat)}
  (hready : ixReady cl q s.free s.draw.2 = .ok (tb, ix))
include hready

/-- CP_GATHER brings its rows to scratch. -/
theorem cpGather_done {out : List Byte} {fl : Flags}
    (hfits : scratchOk (ixSaddr q.word + q.reg (ixXs q.word)) (ixCount q.word * (ixShape q).2) = true)
    (hrows : gatherRows s.draw.2 tb (wFa q.word) (wFd q.word) (ixShape q).1 (ixShape q).2
      (s.draw.2.wordRandom q (cpStoch q) (cpRctx q.word)) ix = (out, false, fl, u)) :
    let v := u.addOp (u.clusCtx cl) wDramRead (liveCount ix * tb.len)
    cpGather cl q s = .done ((((v.swrite cl (ixSaddr q.word + q.reg (ixXs q.word)) out).copyFlag cl fl).countIn cl
      out.length).countGen cl q (cpStoch q) (cpRctx q.word) (ixCount q.word * (ixShape q).1)) := by
  intro v
  simp only [State.draw] at hready hrows
  simp [cpGather, State.draw, hready, hfits, hrows, v]

section Source
variable {src : List Byte}
  (hsrc : s.draw.2.sread s.free cl (ixSaddr q.word + q.reg (ixXs q.word)) (ixCount q.word * (ixShape q).2) = some src)
include hsrc

/-- CP_SCATTER writes its rows to the table. -/
theorem cpScatter_done :
    let img := scatterImages (wFa q.word) (wFd q.word) (ixShape q).1 tb.len (ixShape q).2 src (ixCount q.word)
    cpScatter cl q s = .done ((((scatterRows s.draw.2 tb ix img.1).copyFlag cl img.2).countOut cl src.length).addOp
      (s.draw.2.clusCtx cl) wDramWrite (liveCount ix * tb.len)) := by
  simp only [State.draw] at hready hsrc
  simp [cpScatter, State.draw, hready, hsrc]

/-- CP_SCATTER_ADD issues its adds, if any, and stays until they are performed. -/
theorem cpScatterAdd_issues :
    let adds := scatterAdds tb (wFa q.word) (ixShape q).1 (ixShape q).2 src ix (.cluster cl q.uid)
    let v := s.draw.2
    let u := ((v.countOut cl src.length).addOp (v.clusCtx cl) wDramRead (4 * adds.length)).addOp (v.clusCtx cl) wDramWrite
      (4 * adds.length)
    let x := u.onClus cl (fun c => { c with copyQ := setStarted c.copyQ q.uid true })
    cpScatterAdd cl q s =
      if adds.isEmpty then .done u else .hold { x with mem := { x.mem with adds := x.mem.adds ++ adds } } := by
  simp only [State.draw] at hready hsrc
  simp [cpScatterAdd, State.draw, hready, hsrc]

end Source
end Copies

/-! ### The commands (R122 to R127, R472) -/

section Commands
variable {id : Nat} {c : CmdRec} {s t v : State} {r : IdxReady}

/-- INDEX_GATHER writes the rows of its table to the packed place. -/
theorem indexGatherBody_done {out : List Byte} {fl : Flags}
    (hchecks : idxChecks id (idxCmd c.packet) true false s = .ok (some r, t))
    (hrows : gatherRows t r.tbl (idxCmd c.packet).fa (idxCmd c.packet).fd r.n r.ob none r.ix = (out, false, fl, v)) :
    let w := (v.cmdFlags id fl).addOp c.ctx wDramRead (liveCount r.ix * r.tbl.len)
    indexGatherBody id c s =
      okDone ((w.extWrite r.ext (idxCmd c.packet).dataOff out).addOp c.ctx wDramWrite out.length) := by
  simp [indexGatherBody, hchecks, hrows]

section Packed
variable {src : List Byte}
  (hsrc : t.extRead r.ext (idxCmd c.packet).dataOff ((idxCmd c.packet).count * r.ob) = (src, false, v))
include hsrc

/-- INDEX_SCATTER writes its packed rows to the table. -/
theorem indexScatterBody_done (hchecks : idxChecks id (idxCmd c.packet) false false s = .ok (some r, t)) :
    let k := idxCmd c.packet
    let img := scatterImages k.fa k.fd r.n r.tbl.len r.ob src k.count
    indexScatterBody id c s = okDone (((scatterRows (v.addOp c.ctx wDramRead src.length) r.tbl r.ix img.1).cmdFlags id
      img.2).addOp c.ctx wDramWrite (liveCount r.ix * r.tbl.len)) := by
  simp [indexScatterBody, hchecks, hsrc]

/-- INDEX_SCATTER_ADD issues its adds, if any, and stays until they are performed. -/
theorem indexScatterAddBody_issues (hchecks : idxChecks id (idxCmd c.packet) false true s = .ok (some r, t)) :
    let adds := scatterAdds r.tbl (idxCmd c.packet).fa r.n r.ob src r.ix (.command id)
    let w := ((v.addOp c.ctx wDramRead src.length).addOp c.ctx wDramRead (4 * adds.length)).addOp c.ctx wDramWrite
      (4 * adds.length)
    indexScatterAddBody id c s =
      if adds.isEmpty then okDone w else .ok (.busy { w with mem := { w.mem with adds := w.mem.adds ++ adds } }) := by
  simp [indexScatterAddBody, hchecks, hsrc]

end Packed
end Commands

/-! ### Near-memory adds (R125) -/

/-- The flags of a near-memory add go to its issuer: the summary of the command, or the copy flags of the cluster. -/
def State.addFlags (s : State) (who : AddIssuer) (fl : Flags) : State :=
  match who with
  | .command id => s.cmdFlags id fl
  | .cluster cl _ => s.copyFlag cl fl

/-- An add whose four bytes read well writes the sum over them. -/
theorem execNearMemoryAdd_performed {s u : State} {pos : Nat} {a : PendAdd} {bs : List Byte}
    (ha : s.mem.adds[pos]? = some a) :
    let s' : State := { s with mem := { s.mem with adds := s.mem.adds.eraseIdx pos } }
    let as := (List.range 4).map (a.addr + ·)
    let sum := f32Add (BitVec.ofNat 32 (leNat bs)) a.value
    s'.readBytes as = (bs, false, u) →
    execNearMemoryAdd pos s =
      .next (((u.writeBytes as (leBytes 4 sum.1.toNat)).addFlags a.issuer sum.2).addDone a.issuer) := by
  intro s' as sum hread
  simp only [execNearMemoryAdd, ha, s', as] at hread ⊢
  rw [hread]
  rfl

/-- Settles O20: each operation's own meaning, under the common rules of the copy queue and of commands. -/
theorem indexedAccessCompletes : Obligations.IndexedAccessCompletes := by
  refine ⟨?copies, ?commands, ?adds⟩
  case copies =>
    intro s cl pos q k w v ob unit
    refine ⟨?gather, ?scatter, ?scatterAdd⟩
    case gather =>
      intro hat tb ix out fl u hready hfits hrows u'
      exact runCopy_ran hat (cpGather_done hready hfits hrows)
    case scatter =>
      intro hat tb ix src hready hsrc img u
      exact runCopy_ran hat (cpScatter_done hready hsrc)
    case scatterAdd =>
      intro hat tb ix src hready hsrc adds u
      have hissues := cpScatterAdd_issues hready hsrc
      refine ⟨fun hnil => ?_, fun hne => ?_⟩
      · exact runCopy_ran hat (hissues.trans (if_pos (List.isEmpty_iff.mpr hnil)))
      · exact runCopy_ran hat (hissues.trans (if_neg (mt List.isEmpty_iff.mp hne)))
  case commands =>
    intro s id c u k
    refine ⟨?gather, ?scatter, ?scatterAdd⟩
    case gather =>
      intro hready r t out fl v hchecks hrows
      exact jeisk_done hready (indexGatherBody_done hchecks hrows)
    case scatter =>
      intro hready r t src v hchecks hsrc
      exact jeisk_done hready (indexScatterBody_done hsrc hchecks)
    case scatterAdd =>
      intro hready r t src v hchecks hsrc adds w
      have hissues := indexScatterAddBody_issues hsrc hchecks
      refine ⟨fun hnil => ?_, fun hne => ?_⟩
      · exact jeisk_done hready (hissues.trans (if_pos (List.isEmpty_iff.mpr hnil)))
      · exact jeisk_busy hready (hissues.trans (if_neg (mt List.isEmpty_iff.mp hne)))
  case adds =>
    intro s pos a bs u ha s' as hread sum u'
    have hadd := execNearMemoryAdd_performed ha hread
    refine ⟨fun id hwho => ?_, fun cl i hwho => ?_⟩
    · exact hadd.trans (by simp only [State.addFlags, hwho]; rfl)
    · exact hadd.trans (by simp only [State.addFlags, hwho]; rfl)

end Sys2Proof.Machine

/-! SUPPORT. What each word of the matrix queue comes to once its operands, pages and group are as the rules ask: each
operation once, then the statement about all of them. -/
namespace Sys2Proof.Machine

/-- What the head of a queue comes to is what its operation comes to in the state in which it has begun. -/
theorem runQueue_ran {s : State} {cl n o : Nat} {sel : Word128 → Bool} {f : OpFn} {q : QWord} {r : Ran}
    (h : s.AtHead cl n o q) (hsel : sel q.word = true) (hf : f cl q (s.begun cl n q) = r) :
    runQueue n o sel f cl s = .next (State.afterRun n cl q r) :=
  hf ▸ runQueue_head h hsel

variable {s : State} {cl : Nat} {q : QWord} {g : Group}

/-! ### GROUP_OPEN (R168, R169) -/

/-- The group that a GROUP_OPEN word opens: no level is occupied, and its top is valid where the word keeps the page. -/
def openedGroup (w : Word128) : Group :=
  { depth := mDepth w, occupied := List.replicate (mDepth w) false, topValid := mKeep w, kind := none }

/-- A group meets no open page where none of its pages, from `p` to `p` + depth, is open. -/
theorem groupPages_any_pageOpen {c : Cluster} {p : Nat} (h : ∀ i, i ≤ g.depth → c.pageOpen (p + i) = false) :
    (groupPages p g).any c.pageOpen = false := by
  rw [List.any_eq_false]
  intro n hn
  obtain ⟨i, hi, rfl⟩ := List.mem_map.mp hn
  simp [h i (Nat.le_of_lt_succ (List.mem_range.mp hi))]

/-- GROUP_OPEN opens its group where the pages exist and are free and fewer than eight groups are open. -/
theorem groupOpen_done (hpages : mPage q.word + mDepth q.word ≤ 63) (hcount : (s.clus cl).groups.length < 8)
    (hfree : ∀ i, i ≤ mDepth q.word → (s.clus cl).pageOpen (mPage q.word + i) = false) :
    groupOpen cl q s = .done (s.onClus cl (fun k =>
      { k with groups := tset k.groups (mPage q.word) (openedGroup q.word) })) := by
  have hany := groupPages_any_pageOpen (g := openedGroup q.word) hfree
  refine if_neg ?_
  rintro (hover | hfull | hopen)
  · exact hpages.not_gt hover
  · exact hcount.not_ge hfull
  · exact Bool.false_ne_true (hany.symm.trans hopen)

/-! ### MMA (R170, R171, R205 to R207) -/

/-- The MMA word multiplies two I8 operands, so its group holds INT32 sums (R149, R171). -/
def mmaInt (w : Word128) : Bool := wFa w == fmtI8 && mmaFb w == fmtI8

/-- The K-blocks of an MMA word enter the levels of its group in order (R170). -/
def State.addKBlocks (s : State) (d cl : Nat) (w : Word128) (a b : MOperand) (g : Group) : State × Group :=
  (List.range (mmaNk w)).foldl (fun (st : State × Group) j =>
    State.addLevels 17 (st.1.matFlag cl (groupFlags (kBlock (wFa w) (mmaFb w) a b j).2)) d cl (mmaPage w) st.2 (mmaInt w) 0
      (kBlock (wFa w) (mmaFb w) a b j).1) (s, { g with kind := some (mmaInt w) })

/-- A group that has no kind yet, or the kind of the word, has not the other kind. -/
theorem Group.kind_ne_other {int : Bool} (h : g.kind = none ∨ g.kind = some int) : g.kind ≠ some (!int) := by
  rcases h with h | h <;> simp [h]

/-- MMA adds its K-blocks to an open group of its kind and counts its products. -/
theorem mma_done {a b : MOperand} (hgroup : tget (s.clus cl).groups (mmaPage q.word) = some g)
    (hkind : g.kind = none ∨ g.kind = some (mmaInt q.word))
    (ha : s.draw.2.mOperand s.free cl (wFa q.word) (mmaA q.word + q.reg (mmaXa q.word)) (mmaLda q.word) (mmaNk q.word)
      (!mmaTa q.word) = some a)
    (hb : s.draw.2.mOperand s.free cl (mmaFb q.word) (mmaB q.word + q.reg (mmaXb q.word)) (mmaLdb q.word) (mmaNk q.word)
      (mmaTb q.word) = some b) :
    let r := s.draw.2.addKBlocks s.free cl q.word a b g
    let u := r.1.onClus cl (fun c =>
      { c with groups := tset c.groups (mmaPage q.word) r.2, kBlocks := c.kBlocks + mmaNk q.word })
    mma cl q s = .done (u.addOp (u.clusCtx cl) (productWord (wFa q.word) (mmaFb q.word)) (32768 * mmaNk q.word)) := by
  have hother := Group.kind_ne_other hkind
  have hdrawn : tget (s.draw.2.clus cl).groups (mmaPage q.word) = some g := hgroup
  simp only [mmaInt] at hother
  simp only [State.draw] at hdrawn ha hb
  simp only [mma, State.draw, hdrawn, hother, ha, hb, ↓reduceIte]
  rfl

/-! ### GROUP_CLOSE to scratch (R172, R208) -/

/-- The rows of a closed tile, `ld` units apart from unit `u` on, and behind the 32 rows its scale plane, if it has one. -/
def State.writeTile (s : State) (cl u ld : Nat) (rows : List (List Byte)) (scales : List Byte) : State :=
  let t := rows.zipIdx.foldl (fun t r => t.swrite cl (u + r.2 * ld) r.1) s
  if scales.isEmpty then t else t.swrite cl (u + 32 * ld) scales

/-- GROUP_CLOSE to scratch writes the sum of its group in the destination format and frees the group's pages. -/
theorem groupCloseScratch_done (hgroup : tget (s.clus cl).groups (mPage q.word) = some g)
    (hrows : scratchOk (gcAddr q.word + q.reg (gcXc q.word) + 31 * gcLdc q.word) (32 * fmtBits (wFd q.word) / 8) = true)
    (hscales : fmtBlock (wFd q.word) = true →
      scratchOk (gcAddr q.word + q.reg (gcXc q.word) + 32 * gcLdc q.word) 32 = true) :
    let int := g.kind == some true
    let sum := s.draw.2.groupSum s.free cl (mPage q.word) g int
    let out := closeRows int (wFd q.word) (s.draw.2.wordRandom q (gcRnd q.word) (gcRctx q.word)) sum.1
    let u := s.draw.2.writeTile cl (gcAddr q.word + q.reg (gcXc q.word)) (gcLdc q.word) out.1 out.2.1
    groupCloseScratch cl q s = .done (((u.closeGroup cl (mPage q.word)).matFlag cl (sum.2 ||| out.2.2)).countGen cl q
      (gcRnd q.word && wFd q.word != fmtFP32) (gcRctx q.word) 1024) := by
  have hfits : (!scratchOk (gcAddr q.word + q.reg (gcXc q.word) + 31 * gcLdc q.word) (32 * fmtBits (wFd q.word) / 8)
      || (fmtBlock (wFd q.word) && !scratchOk (gcAddr q.word + q.reg (gcXc q.word) + 32 * gcLdc q.word) 32)) = false := by
    cases hblock : fmtBlock (wFd q.word) with
    | false => simp [hrows]
    | true => simp [hrows, hscales hblock]
  have hdrawn : tget (s.draw.2.clus cl).groups (mPage q.word) = some g := hgroup
  simp only [State.draw] at hdrawn
  simp only [groupCloseScratch, State.draw, hdrawn, hfits, Bool.false_eq_true, ↓reduceIte]
  rfl

/-! ### GROUP_CLOSE to a stream (R209, R231, R642) -/

/-- A streaming close of tile (`row`, `col`) under binding `b`, whose step stands as `r`, is in order: its group does not
hold INT32 sums, the tile lies in the binding's grid and has not been streamed, and the step has not been abandoned. -/
structure StreamChecked (g : Group) (b : Binding) (r : RedStep) (row col : Nat) : Prop where
  kind : g.kind ≠ some true
  inRows : row < b.rows
  inCols : col < b.cols
  fresh : r.streamed.contains (row * 65536 + col) = false
  going : r.abandoned = false

/-- No check of the close answers ST_BAD_PARAM. -/
theorem StreamChecked.not_bad {b : Binding} {r : RedStep} {row col : Nat} (h : StreamChecked g b r row col) :
    (g.kind == some true || decide (b.rows ≤ row ∨ b.cols ≤ col) || r.streamed.contains (row * 65536 + col)) = false := by
  rw [h.fresh, beq_false_of_ne h.kind, decide_eq_false (not_or.mpr ⟨h.inRows.not_ge, h.inCols.not_ge⟩)]
  rfl

/-- GROUP_CLOSE to a stream sends its tile into the reduce path once the tile row has credit, and frees the group's pages. -/
theorem groupCloseStream_done {b : Binding} (hgroup : tget (s.clus cl).groups (mPage q.word) = some g)
    (hbinding : (s.launchOf (s.clusCmd cl)).bind (fun l => l.bindings[gcBinding q.word]?) = some b)
    (hchecked : StreamChecked g b (s.redStep b.shard b.step) (gcRow q.word + q.reg (gcXr q.word)) (gcCol q.word))
    (hrefused : ((s.draw.2.firstClose b).redStep b.shard b.step).refused = false)
    (hcredit : ((s.draw.2.firstClose b).redStep b.shard b.step).credit.contains
      (gcRow q.word + q.reg (gcXr q.word)) = true) :
    let u := s.draw.2.firstClose b
    let sum := u.groupSum s.free cl (mPage q.word) g false
    groupCloseStream cl q s = .done (((u.matFlag cl sum.2).streamTile b (gcRow q.word + q.reg (gcXr q.word))
      (gcCol q.word) sum.1).closeGroup cl (mPage q.word)) := by
  have hdrawn : tget (s.draw.2.clus cl).groups (mPage q.word) = some g := hgroup
  have hbound : (s.draw.2.launchOf (s.draw.2.clusCmd cl)).bind (fun l => l.bindings[gcBinding q.word]?) = some b := hbinding
  have hchecked' : StreamChecked g b (s.draw.2.redStep b.shard b.step) _ _ := hchecked
  have hbad := hchecked'.not_bad
  have hgoing := hchecked'.going
  simp only [State.draw] at hdrawn hbound hbad hgoing hrefused hcredit
  simp only [groupCloseStream, State.draw, hdrawn, hbound, hbad, hgoing, hrefused, hcredit, Bool.not_true,
    Bool.false_eq_true, ↓reduceIte]

/-! ### PAGE_LOAD (R210) -/

/-- The 1,024 words that 32 rows of 128 bytes hold in scratch, `ld` units apart from unit `u` on. -/
def State.scratchTile (s : State) (d cl u ld : Nat) : List (BitVec 32) :=
  (chunks 1024 4 ((List.range 32).flatMap (fun r => (s.sread d cl (u + r * ld) 128).getD []))).map
    (fun b => BitVec.ofNat 32 (leNat b))

/-- PAGE_LOAD fills a page that no open group uses. -/
theorem pageLoad_done (hpage : (s.clus cl).pageOpen (mPage q.word) = false)
    (hrows : scratchOk (plAddr q.word + q.reg (plXs q.word) + 31 * plLds q.word) 128 = true) :
    pageLoad cl q s = .done (s.draw.2.setPage cl (mPage q.word)
      (s.draw.2.scratchTile s.free cl (plAddr q.word + q.reg (plXs q.word)) (plLds q.word))) := by
  have hdrawn : (s.draw.2.clus cl).pageOpen (mPage q.word) = false := hpage
  simp only [State.draw] at hdrawn
  simp only [pageLoad, State.draw, hdrawn, hrows, Bool.not_true, Bool.or_self, Bool.false_eq_true, ↓reduceIte]
  rfl

/-- Settles O18: each operation's own meaning, under the common rule of the heads of queues. -/
theorem matrixWordsComplete : Obligations.MatrixWordsComplete := by
  intro s cl q w t done
  refine ⟨?groupOpen, ?mma, ?closeScratch, ?closeStream, ?pageLoad⟩
  case groupOpen =>
    intro hat hpages hcount hfree g
    exact runQueue_ran (sel := fun _ => true) hat rfl (groupOpen_done hpages hcount hfree)
  case mma =>
    intro hat g a b hgroup hkind ha hb int r k u
    exact runQueue_ran (sel := fun _ => true) hat rfl (mma_done hgroup hkind ha hb)
  case closeScratch =>
    intro hat hscratch g hgroup hrows hscales int sum out u u'
    exact runQueue_ran (sel := fun w => !gcStream w) hat (by simpa using hscratch)
      (groupCloseScratch_done hgroup hrows hscales)
  case closeStream =>
    intro hat hstream g b hgroup hbinding row u hkind hrow hcol hfresh hgoing hrefused hcredit sum
    exact runQueue_ran hat hstream
      (groupCloseStream_done hgroup hbinding ⟨hkind, hrow, hcol, hfresh, hgoing⟩ hrefused hcredit)
  case pageLoad =>
    intro hat hpage hrows
    exact runQueue_ran (sel := fun _ => true) hat rfl (pageLoad_done hpage hrows)

end Sys2Proof.Machine

/-! SUPPORT. What each linear copy and each stack copy comes to once its ranges are as the rules ask: each operation once,
then the statement about all of them. -/
namespace Sys2Proof.Machine

section LinearCopies
variable {s u : State} {cl : Nat} {q : QWord} {e : Extent} {src : List (List Byte)}

/-- The offset of a copy's last row from the start of its slot (R198). -/
def cpLastRow (q : QWord) : Nat := cpRow0 q + (cpRows q.word - 1) * (16 * cpStride q.word)

/-- The place of row `r` of a copy in the extent of its slot (R198). -/
def State.cpRowAt (s : State) (cl : Nat) (q : QWord) (r : Nat) : Nat :=
  (s.slot cl (cpSlot q.word)).off + cpRow0 q + r * (16 * cpStride q.word)

/-- The pieces of a copy's converted rows written to DRAM, each row at its place (R198). -/
def State.writeRows (s : State) (cl : Nat) (q : QWord) (e : Extent) (rows : List (List Piece)) : State :=
  rows.zipIdx.foldl (fun u r => r.1.foldl (fun u p => u.extWrite e (s.cpRowAt cl q r.2 + p.1) p.2) u) s

/-- The rows of a copy in its destination format, with the flags of the conversion (R199 to R201). -/
def State.cpConvert (s : State) (q : QWord) (rows : List (List Byte)) : List (List Piece) × Flags :=
  convertRows (wFa q.word) (wFd q.word) (s.wordRandom q (cpStoch q) (cpRctx q.word)) rows

/-- The converted rows packed into scratch, with their flags (R198). -/
def State.putRows (s : State) (cl : Nat) (q : QWord) (out : List (List Piece) × Flags) : State :=
  (s.writePacked cl (cpUnit q) (units16 (cpDstBytes q)) out.1).copyFlag cl out.2

/-- Generator words counted for the elements that a copy converts. -/
def State.cpCountGen (s : State) (cl : Nat) (q : QWord) : State :=
  s.countGen cl q (cpStoch q) (cpRctx q.word) (cpRows q.word * planeElems (wFa q.word) (cpSrcBytes q))

section ToScratch
variable (hfits : scratchOk (cpUnit q) (16 * units16 (cpDstBytes q) * cpRows q.word) = true)
include hfits

/-- CP_LOAD brings rows that are in bounds and not poisoned from DRAM to scratch. -/
theorem cpLoad_done {bs : List Byte} (hslot : s.slotExt cl (cpSlot q.word) (cpLastRow q) (cpSrcBytes q) = some e)
    (hread : s.readBytes ((List.range (cpRows q.word)).flatMap (fun r => e.addrs (s.cpRowAt cl q r) (cpSrcBytes q)))
      = (bs, false, u)) :
    let u := u.addOp (u.clusCtx cl) wDramRead bs.length
    cpLoad cl q s = .done (((u.putRows cl q (u.cpConvert q (chunks (cpRows q.word) (cpSrcBytes q) bs))).countIn cl
      (cpRows q.word * cpDstBytes q)).cpCountGen cl q) := by
  simp only [cpLastRow, State.cpRowAt] at hslot hread
  simp only [cpLoad, hslot, hfits, hread, Bool.not_true, Bool.false_eq_true, ↓reduceIte]
  rfl

/-- CP_MOVE brings packed rows from one scratch range to another. -/
theorem cpMove_done (hsrc : s.draw.2.readPacked s.free cl (cpMoveSrc q.word + q.reg (cpXd q.word)) (cpRowLen q.word)
      (cpRows q.word) = some src) :
    cpMove cl q s = .done ((s.draw.2.putRows cl q (s.draw.2.cpConvert q src)).cpCountGen cl q) := by
  simp only [State.draw] at hsrc
  simp only [cpMove, State.draw, hsrc, hfits, Bool.not_true, Bool.false_eq_true, ↓reduceIte]
  rfl

end ToScratch

/-- CP_STORE brings packed rows of scratch to the rows' places in DRAM. -/
theorem cpStore_done (hslot : s.draw.2.slotExt cl (cpSlot q.word) (cpLastRow q) (cpDstBytes q) = some e)
    (hsrc : s.draw.2.readPacked s.free cl (cpUnit q) (cpRowLen q.word) (cpRows q.word) = some src) :
    let out := s.draw.2.cpConvert q src
    let u := s.draw.2.writeRows cl q e out.1
    cpStore cl q s = .done ((((u.copyFlag cl out.2).countOut cl (cpRows q.word * cpDstBytes q)).addOp (u.clusCtx cl)
      wDramWrite (cpRows q.word * cpDstBytes q)).cpCountGen cl q) := by
  simp only [State.draw, cpLastRow] at hslot hsrc
  simp only [cpStore, State.draw, hslot, hsrc]
  rfl

/-- CP_FILL writes its 16-byte pattern over its scratch range (R198). -/
theorem cpFill_done (hfits : scratchOk (cpUnit q) (16 * cpRowLen q.word) = true) :
    cpFill cl q s = .done (s.swrite cl (cpUnit q) (List.replicate (cpRowLen q.word)
      (leBytes 8 (s.param cl 14).toNat ++ leBytes 8 (s.param cl 15).toNat)).flatten) :=
  if_pos hfits

end LinearCopies

/-! ### The activation stack (R264, R266) -/

section StackCopies
variable {s : State} {cl : Nat} {q : QWord}

/-- Bytes of the record that a stack copy pushes or pops. -/
def cpStackBytes (q : QWord) : Nat := cpRows q.word * cpSrcBytes q

/-- CP_PUSH puts its record on top of the sub-stack, or stops where the sub-stack has no room (R264, R266). -/
theorem cpPush_of_read {bs : List Byte} (hread : s.draw.2.sread s.free cl (cpUnit q) (cpStackBytes q) = some bs) :
    let v := s.draw.2
    cpPush cl q s =
      if v.subSize < stackBytes (v.subStack cl) + 16 + cpStackBytes q then .stop v (stNoResource, q.idx)
      else .done (((v.setStack cl ({ mark := cpMark q.word, len := cpStackBytes q, data := bs } :: v.subStack cl)).countOut cl
        (cpStackBytes q)).addOp (v.clusCtx cl) wDramWrite (cpStackBytes q + 16)) := by
  simp only [State.draw, cpStackBytes] at hread
  simp only [cpPush, State.draw, hread]
  rfl

/-- CP_POP takes the top record back to scratch, or stops where its mark or its length is another (R264, R266). -/
theorem cpPop_of_record (hfits : scratchOk (cpUnit q) (cpStackBytes q) = true) {r : StackRec} {rest : List StackRec}
    (htop : s.subStack cl = r :: rest) :
    cpPop cl q s =
      if r.mark = cpMark q.word ∧ r.len = cpStackBytes q then
        .done ((((s.setStack cl rest).swrite cl (cpUnit q) r.data).countIn cl (cpStackBytes q)).addOp (s.clusCtx cl) wDramRead
          (cpStackBytes q + 16))
      else .stop s (stDataMismatch, q.idx) := by
  simp only [cpStackBytes] at hfits
  simp only [cpPop, hfits, htop, Bool.not_true, Bool.false_eq_true, ↓reduceIte]
  rfl

end StackCopies

/-- Settles O19: each operation's own meaning, under the common rule of the copy queue. -/
theorem copiesComplete : Obligations.CopiesComplete := by
  refine ⟨?linear, ?stack⟩
  case linear =>
    intro s cl pos q k w t v done elems last at_ rnd
    refine ⟨?load, ?store, ?move, ?fill⟩
    case load =>
      intro hat e bs u hslot hfits hread u' out
      exact runCopy_ran hat (cpLoad_done hfits hslot hread)
    case store =>
      intro hat e src hslot hsrc out u
      exact runCopy_ran hat (cpStore_done hslot hsrc)
    case move =>
      intro hat src hsrc hfits out
      exact runCopy_ran hat (cpMove_done hfits hsrc)
    case fill =>
      intro hat hfits
      exact runCopy_ran hat (cpFill_done hfits)
  case stack =>
    intro s cl pos q k w t v n
    refine ⟨?push, ?pop⟩
    case push =>
      intro hat bs hread
      have hpush := cpPush_of_read hread
      refine ⟨fun hroom => ?_, fun hfull => ?_⟩
      · exact runCopy_ran hat (hpush.trans (if_neg hroom.not_gt))
      · exact runCopy_ran hat (hpush.trans (if_pos hfull))
    case pop =>
      intro hat hfits r rest htop
      have hpop := cpPop_of_record hfits htop
      refine ⟨fun hmark hlen => ?_, fun hother => ?_⟩
      · exact runCopy_ran hat (hpop.trans (if_pos ⟨hmark, hlen⟩))
      · exact runCopy_ran hat (hpop.trans (if_neg (not_and_or.mpr hother)))

end Sys2Proof.Machine

/-! SUPPORT. The elementwise words of the vector queue: what each comes to once its operands have been read, and that
operands within scratch are read and results within scratch written; then the statement about all of them. -/
namespace Sys2Proof.Machine

variable {s v : State} {cl o m n : Nat} {q : QWord} {a b : List VElem}

/-! ### Words that complete -/

theorem QWord.fits_iff : q.fits n m = true ↔
    planesFit (wFa q.word) (vU1 q) n = true ∧ planesFit (wFd q.word) (vD q.word + q.reg (vXd q.word)) m = true :=
  Bool.and_eq_true_iff

/-- A vector word at its head completes where what its operation comes to is complete. -/
theorem runQueue_completes {f : OpFn} {r : Ran} (h : s.AtHead cl 2 o q) (hf : f cl q (s.begun cl 2 q) = r)
    (hr : ∃ u, r = .done u) :
    ∃ u, r = .done u ∧ runQueue 2 o (fun _ => true) f cl s = .next (State.afterRun 2 cl q (.done u)) := by
  obtain ⟨u, hu⟩ := hr
  exact ⟨u, hu, runQueue_ran (sel := fun _ => true) h rfl (hf.trans hu)⟩

/-- A vector word that comes to writing `m` results completes where they lie within scratch. -/
theorem runQueue_writes {f : OpFn} {rs : List VElem} (h : s.AtHead cl 2 o q)
    (hf : f cl q (s.begun cl 2 q) = vWrite cl q rs v) (hlen : rs.length = m)
    (hfits : planesFit (wFd q.word) (vD q.word + q.reg (vXd q.word)) m = true) :
    ∃ u, vWrite cl q rs v = .done u ∧ runQueue 2 o (fun _ => true) f cl s = .next (State.afterRun 2 cl q (.done u)) :=
  runQueue_completes h hf (vWrite_done cl q rs v (hlen ▸ hfits))

/-! ### Operations of one source -/

/-- An element under an operation of one source, with the flags of reading it and of the operation. -/
def unaryElem (f : BitVec 32 → VElem) (x : VElem) : VElem := ((f x.1).1, x.2 ||| (f x.1).2)

theorem vUnary_of_read {k : Nat} {f : BitVec 32 → VElem}
    (ha : s.draw.2.vRead s.free cl (wFa q.word) (vU1 q) (64 * vN q.word) (64 * vN q.word) = some a) :
    vUnary k f cl q s = vWrite cl q (a.map (unaryElem f)) (s.draw.2.countVec cl k (64 * vN q.word)) := by
  simp only [State.draw] at ha
  simp only [vUnary, State.draw, ha]
  rfl

/-- A word of one source whose operands lie within scratch completes. -/
theorem vUnary_completes {k : Nat} {f : BitVec 32 → VElem} (h : s.AtHead cl 2 o q)
    (hfits : q.fits (64 * vN q.word) (64 * vN q.word) = true) :
    ∃ a u, (s.begun cl 2 q).draw.2.vRead s.free cl (wFa q.word) (vU1 q) (64 * vN q.word) (64 * vN q.word) = some a
      ∧ vWrite cl q (a.map (unaryElem f)) ((s.begun cl 2 q).draw.2.countVec cl k (64 * vN q.word)) = .done u
      ∧ runQueue 2 o (fun _ => true) (vUnary k f) cl s = .next (State.afterRun 2 cl q (.done u)) := by
  obtain ⟨hsrc, hdst⟩ := QWord.fits_iff.mp hfits
  obtain ⟨a, ha, hlen⟩ := (s.begun cl 2 q).draw.2.vRead_planes s.free cl _ _ _ hsrc
  obtain ⟨u, hu, hrun⟩ := runQueue_writes h (vUnary_of_read ha) ((List.length_map _).trans hlen) hdst
  exact ⟨a, u, ha, hu, hrun⟩

/-! ### Operations of two sources -/

/-- Two elements under an operation of two sources, with the flags of reading them and of the operation. -/
def binaryElem (f : FVal → FVal → FVal × Flags) (x y : VElem) : VElem :=
  ((toF32 (f (f32 x.1) (f32 y.1))).1, x.2 ||| y.2 ||| (toF32 (f (f32 x.1) (f32 y.1))).2)

theorem vBinary_of_read {k : Nat} {f : FVal → FVal → FVal × Flags}
    (ha : s.draw.2.vRead s.free cl (wFa q.word) (vU1 q) (64 * vN q.word) (64 * vN q.word) = some a)
    (hb : s.draw.2.vOperand s.free cl (wFa q.word) (vU2 q) (64 * vN q.word) (vB2 q.word) = some b) :
    vBinary k f cl q s = vWrite cl q (a.zipWith (binaryElem f) b) (s.draw.2.countVec cl k (64 * vN q.word)) := by
  simp only [State.draw] at ha hb
  simp only [vBinary, State.draw, ha, hb]
  rfl

/-- A word of two sources whose operands lie within scratch completes. -/
theorem vBinary_completes {k : Nat} {f : FVal → FVal → FVal × Flags} (h : s.AtHead cl 2 o q)
    (hfits : q.fits (64 * vN q.word) (64 * vN q.word) = true)
    (hfits2 : q.operandFits (vU2 q) (64 * vN q.word) (vB2 q.word) = true) :
    ∃ a b u, (s.begun cl 2 q).draw.2.vRead s.free cl (wFa q.word) (vU1 q) (64 * vN q.word) (64 * vN q.word) = some a
      ∧ (s.begun cl 2 q).draw.2.vOperand s.free cl (wFa q.word) (vU2 q) (64 * vN q.word) (vB2 q.word) = some b
      ∧ vWrite cl q (a.zipWith (binaryElem f) b) ((s.begun cl 2 q).draw.2.countVec cl k (64 * vN q.word)) = .done u
      ∧ runQueue 2 o (fun _ => true) (vBinary k f) cl s = .next (State.afterRun 2 cl q (.done u)) := by
  obtain ⟨hsrc, hdst⟩ := QWord.fits_iff.mp hfits
  obtain ⟨a, ha, halen⟩ := (s.begun cl 2 q).draw.2.vRead_planes s.free cl _ _ _ hsrc
  obtain ⟨b, hb, hblen⟩ := (s.begun cl 2 q).draw.2.vOperand_some s.free cl _ _ q _ hfits2
  obtain ⟨u, hu, hrun⟩ := runQueue_writes h (vBinary_of_read ha hb) (by simp [halen, hblen]) hdst
  exact ⟨a, b, u, ha, hb, hu, hrun⟩

/-- Settles O21: each row of Table 13 that computes element by element is one of two operations, whose words complete. -/
theorem vectorElementwiseCompletes : Obligations.VectorElementwiseCompletes := by
  refine ⟨?unary, ?binary⟩
  case unary =>
    intro e he s cl q hat hfits t
    have hexec : exec (e.2.1 cl) s = runQueue 2 e.1 (fun _ => true) (vUnary e.2.2.1 e.2.2.2) cl s := by
      fin_cases he <;> rfl
    exact hexec ▸ vUnary_completes hat hfits
  case binary =>
    intro e he s cl q hat hfits hfits2 t
    have hexec : exec (e.2.1 cl) s = runQueue 2 e.1 (fun _ => true) (vBinary e.2.2.1 e.2.2.2) cl s := by
      fin_cases he <;> rfl
    exact hexec ▸ vBinary_completes hat hfits hfits2

end Sys2Proof.Machine

/-! SUPPORT. Comparisons, masks, selection, FMA, reductions, segment reductions, sorts and top-k: what each word comes to once
its operands have been read, and that it has as many results as its destination holds; then the statement about all of
them. -/
namespace Sys2Proof.Machine

/-! ### Counting results -/

section Counting
variable {α : Type} {k n : Nat} {l : List α}

/-- A list of whole pieces is cut into just them. -/
theorem chunks_length_of_whole (hn : 0 < n) (h : l.length = k * n) : (chunks k n l).length = k := by
  rw [chunks_length n hn, h, ceilDiv, Nat.add_sub_assoc hn, Nat.mul_comm, Nat.mul_add_div hn,
    Nat.div_eq_of_lt (Nat.sub_one_lt_of_lt hn), Nat.add_zero, Nat.min_self]

/-- Every piece of a list of whole pieces is whole. -/
theorem length_of_mem_chunks (h : l.length = k * n) : ∀ c ∈ chunks k n l, c.length = n := by
  induction k generalizing l with
  | zero => simp [chunks]
  | succ k ih =>
    have hsplit : l.length = k * n + n := h.trans (Nat.succ_mul k n)
    cases l with
    | nil => simp [chunks]
    | cons x r =>
      intro c hc
      rcases List.mem_cons.mp hc with rfl | hc
      · rw [List.length_take, hsplit]
        exact Nat.min_eq_left (Nat.le_add_left n _)
      · exact ih (by rw [List.length_drop, hsplit, Nat.add_sub_cancel]) c hc

/-- The bytes that are read from scratch are as many as asked for. -/
theorem State.sread_length {s : State} {d cl u n : Nat} {bs : List Byte} (h : s.sread d cl u n = some bs) :
    bs.length = n := by
  obtain ⟨-, hbs⟩ := Option.ite_none_right_eq_some.mp h
  rw [← Option.some.inj hbs, List.length_map, List.length_range]

theorem ceilDiv_64_mul_8 (n : Nat) : ceilDiv (64 * n) 8 = 8 * n := by
  unfold ceilDiv
  omega

end Counting

variable {s : State} {cl o : Nat} {q : QWord} {a b c : List VElem}

/-! ### Comparisons and masks (R213, R214) -/

/-- A mask of 64-element rows that lies within scratch is written. -/
theorem vWriteMask_done {bs : List Bool} {fl : Flags} (hlen : bs.length = 64 * vN q.word)
    (hfits : scratchOk (vD q.word + q.reg (vXd q.word)) (8 * vN q.word) = true) :
    vWriteMask cl q bs fl s =
      .done ((s.swrite cl (vD q.word + q.reg (vXd q.word)) (packMask bs)).vecFlag cl fl) := by
  have hbytes : (packMask bs).length = 8 * vN q.word := by rw [packMask_length, hlen, ceilDiv_64_mul_8]
  exact if_pos (hbytes ▸ hfits)

/-- A mask of 64-element rows, broadcast or not, that lies within scratch is read, with as many bits as there are elements. -/
theorem State.vMask_some (s : State) (d cl u n : Nat) (bcast : Bool)
    (h : scratchOk u (if bcast then 1 else 8 * n) = true) :
    ∃ m, s.vMask d cl u (64 * n) bcast = some m ∧ m.length = 64 * n := by
  cases bcast with
  | true =>
    obtain ⟨bs, hbs, -⟩ := s.sread_some d cl u 1 h
    exact ⟨_, congrArg (Option.map _) hbs, List.length_replicate⟩
  | false =>
    obtain ⟨bs, hbs, hlen⟩ := s.sread_some d cl u (8 * n) h
    rw [← ceilDiv_64_mul_8] at hbs
    refine ⟨_, congrArg (Option.map _) hbs, ?_⟩
    rw [List.length_take, flatMap_length_const _ 8 _ (fun _ _ => by simp), hlen]
    omega

/-- The mask of a comparison of two sources, element by element. -/
def compareMask (f : Option Ordering → Bool) (a b : List VElem) : List Bool :=
  a.zipWith (fun x y => f (FVal.cmp (f32 x.1) (f32 y.1))) b

/-- The flags of reading the elements of a source. -/
def readFlags (a : List VElem) : Flags := a.foldl (fun g x => g ||| x.2) 0

theorem vCompare_of_read {f : Option Ordering → Bool}
    (ha : s.draw.2.vRead s.free cl (wFa q.word) (vU1 q) (64 * vN q.word) (64 * vN q.word) = some a)
    (hb : s.draw.2.vOperand s.free cl (wFa q.word) (vU2 q) (64 * vN q.word) (vB2 q.word) = some b) :
    vCompare f cl q s = vWriteMask cl q (compareMask f a b) (readFlags (a ++ b))
      (s.draw.2.countVec cl wVecElem (64 * vN q.word)) := by
  simp only [State.draw] at ha hb
  simp only [vCompare, State.draw, ha, hb]
  rfl

/-- A comparison whose operands lie within scratch completes. -/
theorem vCompare_completes {f : Option Ordering → Bool} (h : s.AtHead cl 2 o q)
    (hfits : planesFit (wFa q.word) (vU1 q) (64 * vN q.word) = true)
    (hfits2 : q.operandFits (vU2 q) (64 * vN q.word) (vB2 q.word) = true)
    (hmask : scratchOk (vD q.word + q.reg (vXd q.word)) (8 * vN q.word) = true) :
    let v := (s.begun cl 2 q).draw.2
    ∃ a b, v.vRead s.free cl (wFa q.word) (vU1 q) (64 * vN q.word) (64 * vN q.word) = some a
      ∧ v.vOperand s.free cl (wFa q.word) (vU2 q) (64 * vN q.word) (vB2 q.word) = some b
      ∧ runQueue 2 o (fun _ => true) (vCompare f) cl s = .next (State.afterRun 2 cl q
          (.done (((v.countVec cl wVecElem (64 * vN q.word)).swrite cl (vD q.word + q.reg (vXd q.word))
            (packMask (compareMask f a b))).vecFlag cl (readFlags (a ++ b))))) := by
  intro v
  obtain ⟨a, ha, halen⟩ := v.vRead_planes s.free cl _ _ _ hfits
  obtain ⟨b, hb, hblen⟩ := v.vOperand_some s.free cl _ _ q _ hfits2
  refine ⟨a, b, ha, hb, runQueue_ran (sel := fun _ => true) h rfl ?_⟩
  have hlen : (compareMask f a b).length = 64 * vN q.word := by simp [compareMask, halen, hblen]
  exact (vCompare_of_read ha hb).trans (vWriteMask_done hlen hmask)

/-- The mask of V_MASK_RAND: bit e is 1 where the random value of e lies below the word's threshold (R214). -/
def State.randomMask (s : State) (q : QWord) : List Bool :=
  (List.range (64 * vN q.word)).map (fun e => decide (ctxRandom s.seed (q.ctx (vRctx q.word)) e < vS3 q.word))

/-- V_MASK_RAND writes its mask where it lies within scratch. -/
theorem vMaskRand_done (hmask : scratchOk (vD q.word + q.reg (vXd q.word)) (8 * vN q.word) = true) :
    vMaskRand cl q s = .done ((((s.countVec cl wVecElem (64 * vN q.word)).addOp (s.clusCtx cl) wGen
      (genWords (q.ctx (vRctx q.word)).base (64 * vN q.word))).swrite cl (vD q.word + q.reg (vXd q.word))
        (packMask (s.randomMask q))).vecFlag cl 0) :=
  vWriteMask_done (bs := s.randomMask q) (by simp [State.randomMask]) hmask

/-! ### V_SELECT and V_FMA (R213) -/

section ThreeSources
variable (ha : s.draw.2.vRead s.free cl (wFa q.word) (vU1 q) (64 * vN q.word) (64 * vN q.word) = some a)
  (hb : s.draw.2.vOperand s.free cl (wFa q.word) (vU2 q) (64 * vN q.word) (vB2 q.word) = some b)
include ha hb

/-- The element of the first source where its mask bit is 1, else that of the second, with the flags of reading both. -/
def selectElem (x : VElem × VElem × Bool) : VElem := (if x.2.2 then x.1.1 else x.2.1.1, x.1.2 ||| x.2.1.2)

theorem vSelect_of_read {m : List Bool}
    (hm : s.draw.2.vMask s.free cl (vS3 q.word) (64 * vN q.word) (vB3 q.word) = some m) :
    vSelect cl q s = vWrite cl q ((a.zip (b.zip m)).map selectElem)
      (s.draw.2.countVec cl wVecElem (64 * vN q.word)) := by
  have helem : selectElem = fun x => if x.2.2 then (x.1.1, x.1.2 ||| x.2.1.2) else (x.2.1.1, x.1.2 ||| x.2.1.2) := by
    funext x
    cases hbit : x.2.2 <;> simp [selectElem, hbit]
  simp only [State.draw] at ha hb hm
  simp only [vSelect, State.draw, ha, hb, hm, helem]

/-- The element a × b + c rounded once, with the flags of reading the three and of the operation. -/
def fmaElem (x : VElem × VElem × VElem) : VElem :=
  let p := (f32 x.1.1).mul (f32 x.2.1.1)
  let sum := p.1.add (f32 x.2.2.1)
  ((toF32 (sum.1, p.2 ||| sum.2)).1, x.1.2 ||| x.2.1.2 ||| x.2.2.2 ||| (toF32 (sum.1, p.2 ||| sum.2)).2)

theorem vFma_of_read (hc : s.draw.2.vOperand s.free cl (wFa q.word) (vS3 q.word) (64 * vN q.word) (vB3 q.word) = some c) :
    vFma cl q s = vWrite cl q ((a.zip (b.zip c)).map fmaElem) (s.draw.2.countVec cl wVecElem (64 * vN q.word)) := by
  simp only [State.draw] at ha hb hc
  simp only [vFma, State.draw, ha, hb, hc]
  rfl

end ThreeSources

section ThreeSourceWords
variable (hfits : q.fits (64 * vN q.word) (64 * vN q.word) = true)
  (hfits2 : q.operandFits (vU2 q) (64 * vN q.word) (vB2 q.word) = true)
include hfits hfits2

/-- V_SELECT completes where its sources, its mask and its destination lie within scratch. -/
theorem vSelect_completes (h : s.AtHead cl 2 o q)
    (hmask : scratchOk (vS3 q.word) (if vB3 q.word then 1 else 8 * vN q.word) = true) :
    let v := (s.begun cl 2 q).draw.2
    ∃ a b m u, v.vRead s.free cl (wFa q.word) (vU1 q) (64 * vN q.word) (64 * vN q.word) = some a
      ∧ v.vOperand s.free cl (wFa q.word) (vU2 q) (64 * vN q.word) (vB2 q.word) = some b
      ∧ v.vMask s.free cl (vS3 q.word) (64 * vN q.word) (vB3 q.word) = some m
      ∧ vWrite cl q ((a.zip (b.zip m)).map selectElem) (v.countVec cl wVecElem (64 * vN q.word)) = .done u
      ∧ runQueue 2 o (fun _ => true) vSelect cl s = .next (State.afterRun 2 cl q (.done u)) := by
  intro v
  obtain ⟨hsrc, hdst⟩ := QWord.fits_iff.mp hfits
  obtain ⟨a, ha, halen⟩ := v.vRead_planes s.free cl _ _ _ hsrc
  obtain ⟨b, hb, hblen⟩ := v.vOperand_some s.free cl _ _ q _ hfits2
  obtain ⟨m, hm, hmlen⟩ := v.vMask_some s.free cl _ _ _ hmask
  obtain ⟨u, hu, hrun⟩ := runQueue_writes h (vSelect_of_read ha hb hm) (by simp [halen, hblen, hmlen]) hdst
  exact ⟨a, b, m, u, ha, hb, hm, hu, hrun⟩

/-- V_FMA completes where its three sources and its destination lie within scratch. -/
theorem vFma_completes (h : s.AtHead cl 2 o q)
    (hfits3 : q.operandFits (vS3 q.word) (64 * vN q.word) (vB3 q.word) = true) :
    let v := (s.begun cl 2 q).draw.2
    ∃ a b c u, v.vRead s.free cl (wFa q.word) (vU1 q) (64 * vN q.word) (64 * vN q.word) = some a
      ∧ v.vOperand s.free cl (wFa q.word) (vU2 q) (64 * vN q.word) (vB2 q.word) = some b
      ∧ v.vOperand s.free cl (wFa q.word) (vS3 q.word) (64 * vN q.word) (vB3 q.word) = some c
      ∧ vWrite cl q ((a.zip (b.zip c)).map fmaElem) (v.countVec cl wVecElem (64 * vN q.word)) = .done u
      ∧ runQueue 2 o (fun _ => true) vFma cl s = .next (State.afterRun 2 cl q (.done u)) := by
  intro v
  obtain ⟨hsrc, hdst⟩ := QWord.fits_iff.mp hfits
  obtain ⟨a, ha, halen⟩ := v.vRead_planes s.free cl _ _ _ hsrc
  obtain ⟨b, hb, hblen⟩ := v.vOperand_some s.free cl _ _ q _ hfits2
  obtain ⟨c, hc, hclen⟩ := v.vOperand_some s.free cl _ _ q _ hfits3
  obtain ⟨u, hu, hrun⟩ := runQueue_writes h (vFma_of_read ha hb hc) (by simp [halen, hblen, hclen]) hdst
  exact ⟨a, b, c, u, ha, hb, hc, hu, hrun⟩

end ThreeSourceWords

/-! ### Reductions of rows (R217) -/

/-- The `n` rows of 64 elements, each reduced through its tree. -/
def reducedRows (f : VElem → VElem → VElem) (n : Nat) (a : List VElem) : List VElem :=
  (chunks n 64 a).map (fun r => (treeFold 6 f r).headD (0, 0))

theorem reducedRows_length {f : VElem → VElem → VElem} {n : Nat} (h : a.length = 64 * n) :
    (reducedRows f n a).length = n := by
  rw [reducedRows, List.length_map, chunks_length_of_whole (by decide) (h.trans (Nat.mul_comm ..))]

/-- The results of a reduction: one for each row, or with mode_a 1 the combination of all rows. -/
def reduceResults (f : VElem → VElem → VElem) (w : Word128) (a : List VElem) : List VElem :=
  if vModeA w then [(levelFold 12 f (reducedRows f (vN w) a)).getD (0, 0)] else reducedRows f (vN w) a

theorem vReduce_of_read {f : VElem → VElem → VElem}
    (ha : s.draw.2.vRead s.free cl (wFa q.word) (vU1 q) (64 * vN q.word) (64 * vN q.word) = some a) :
    vReduce f cl q s = vWrite cl q (reduceResults f q.word a) (s.draw.2.countVec cl wVecReduce (64 * vN q.word)) := by
  simp only [State.draw] at ha
  simp only [vReduce, State.draw, ha]
  rfl

/-- The reductions of rows, with their operation codes and combining functions (Table 13 of ch. 05). -/
def reductionWords : List (Nat × (Nat → Instr) × (VElem → VElem → VElem)) :=
  [(0x30, Instr.vRedSum, f32AddF), (0x31, Instr.vRedMax, vMaxF), (0x32, Instr.vRedMin, vMinF)]

theorem exec_of_mem_reductionWords {e : Nat × (Nat → Instr) × (VElem → VElem → VElem)} (he : e ∈ reductionWords)
    (cl : Nat) (s : State) : exec (e.2.1 cl) s = runQueue 2 e.1 (fun _ => true) (vReduce e.2.2) cl s := by
  fin_cases he <;> rfl

/-- A reduction whose rows and whose results lie within scratch completes. -/
theorem vReduce_completes {f : VElem → VElem → VElem} (h : s.AtHead cl 2 o q)
    (hfits : q.fits (64 * vN q.word) (if vModeA q.word then 1 else vN q.word) = true) :
    let v := (s.begun cl 2 q).draw.2
    ∃ a, v.vRead s.free cl (wFa q.word) (vU1 q) (64 * vN q.word) (64 * vN q.word) = some a
      ∧ ∃ u, vWrite cl q (reduceResults f q.word a) (v.countVec cl wVecReduce (64 * vN q.word)) = .done u
        ∧ runQueue 2 o (fun _ => true) (vReduce f) cl s = .next (State.afterRun 2 cl q (.done u)) := by
  intro v
  obtain ⟨hsrc, hdst⟩ := QWord.fits_iff.mp hfits
  obtain ⟨a, ha, hlen⟩ := v.vRead_planes s.free cl _ _ _ hsrc
  have hcount : (reduceResults f q.word a).length = if vModeA q.word then 1 else vN q.word := by
    rw [reduceResults]
    split
    · rfl
    · exact reducedRows_length hlen
  exact ⟨a, ha, runQueue_writes h (vReduce_of_read ha) hcount hdst⟩

/-! ### Segment reductions (R218) -/

section Segments
variable {f : VElem → VElem → VElem} {empty : BitVec 32} {last : VElem → Nat → VElem}

theorem segRow_length (width : Nat) (rows : List (List VElem)) : (segRow f empty last width rows).length = width := by
  rw [segRow]
  split <;> simp

/-- The offsets of a segment reduction of `n` segments, from the bytes of its second source. -/
def segOffsets (n : Nat) (bs : List Byte) : List Nat := (chunks (n + 1) 4 bs).map leNat

/-- The segments that the offsets `os` delimit, each reduced to a row of `width` elements. -/
def segResults (f : VElem → VElem → VElem) (empty : BitVec 32) (last : VElem → Nat → VElem) (width : Nat) (os : List Nat)
    (a : List VElem) : List VElem :=
  (os.zip os.tail).flatMap (fun p => segRow f empty last width (((chunks (os.getLastD 0) width a).drop p.1).take (p.2 - p.1)))

theorem segResults_length {n width : Nat} {os : List Nat} (h : os.length = n + 1) :
    (segResults f empty last width os a).length = n * width := by
  rw [segResults, flatMap_length_const _ width _ (fun _ _ => segRow_length ..)]
  simp [h]

/-- What a segment reduction comes to once its offsets, which begin at 0 and never fall, and its rows have been read. -/
theorem vSegment_of_read {ob : List Byte} (hob : s.draw.2.sread s.free cl (vU2 q) (4 * (vN q.word + 1)) = some ob) :
    let os := segOffsets (vN q.word) ob
    let total := os.getLastD 0 * (64 * vW q.word)
    badOffset os = none → s.draw.2.vRead s.free cl (wFa q.word) (vU1 q) total total = some a →
    vSegment f empty last cl q s = vWrite cl q (segResults f empty last (64 * vW q.word) os a)
      ((s.draw.2.countVec cl wVecReduce total).vecFlag cl (readFlags a)) := by
  intro os total hgood ha
  simp only [State.draw, os, total, segOffsets] at hob hgood ha
  simp only [vSegment, State.draw, hob, hgood, ha]
  rfl

/-- A segment reduction whose offsets begin at 0 and never fall completes where its rows and its results lie within
scratch. -/
theorem vSegment_completes {ob : List Byte} (h : s.AtHead cl 2 o q)
    (hob : (s.begun cl 2 q).draw.2.sread s.free cl (vU2 q) (4 * (vN q.word + 1)) = some ob) :
    let v := (s.begun cl 2 q).draw.2
    let os := segOffsets (vN q.word) ob
    let width := 64 * vW q.word
    let total := os.getLastD 0 * width
    badOffset os = none → planesFit (wFa q.word) (vU1 q) total = true →
    planesFit (wFd q.word) (vD q.word + q.reg (vXd q.word)) (vN q.word * width) = true →
    ∃ a, v.vRead s.free cl (wFa q.word) (vU1 q) total total = some a
      ∧ ∃ u, vWrite cl q (segResults f empty last width os a)
          ((v.countVec cl wVecReduce total).vecFlag cl (readFlags a)) = .done u
        ∧ runQueue 2 o (fun _ => true) (vSegment f empty last) cl s = .next (State.afterRun 2 cl q (.done u)) := by
  intro v os width total hgood hsrc hdst
  have hbytes : ob.length = (vN q.word + 1) * 4 := (State.sread_length hob).trans (Nat.mul_comm ..)
  have hos : os.length = vN q.word + 1 := (List.length_map _).trans (chunks_length_of_whole (by decide) hbytes)
  obtain ⟨a, ha, -⟩ := v.vRead_planes s.free cl _ _ _ hsrc
  exact ⟨a, ha, runQueue_writes h (vSegment_of_read hob hgood ha) (segResults_length hos) hdst⟩

end Segments

/-! ### Sort and top-k (R219) -/

theorem sortInsert_length (lt : FVal → FVal → Bool) (x : BitVec 32 × Nat) (l : List (BitVec 32 × Nat)) :
    (sortInsert lt x l).length = l.length + 1 := by
  induction l with
  | nil => rfl
  | cons y r ih =>
    rw [sortInsert]
    split
    · rfl
    · rw [List.length_cons, ih, List.length_cons]

theorem foldl_sortInsert_length (lt : FVal → FVal → Bool) (xs l : List (BitVec 32 × Nat)) :
    (xs.foldl (fun l x => sortInsert lt x l) l).length = l.length + xs.length := by
  induction xs generalizing l with
  | nil => rfl
  | cons x r ih =>
    rw [List.foldl_cons, ih, sortInsert_length, List.length_cons]
    omega

theorem sortRow_length (desc : Bool) (r : List (BitVec 32)) : (sortRow desc r).length = r.length := by
  rw [sortRow, foldl_sortInsert_length, List.length_zipIdx, List.length_nil, Nat.zero_add]

/-- The first `k` keys of each sorted row, with the indices of their source elements. -/
def sortedKeys (desc : Bool) (k rows : Nat) (a : List VElem) : List (BitVec 32 × Nat) :=
  (chunks rows 64 a).zipIdx.flatMap (fun r =>
    ((sortRow desc (r.1.map Prod.fst)).take k).map (fun x => (x.1, 64 * r.2 + x.2)))

theorem sortedKeys_length {desc : Bool} {k rows : Nat} (hk : k ≤ 64) (h : a.length = 64 * rows) :
    (sortedKeys desc k rows a).length = rows * k := by
  have hwhole : a.length = rows * 64 := h.trans (Nat.mul_comm ..)
  rw [sortedKeys, flatMap_length_const _ k, List.length_zipIdx, chunks_length_of_whole (by decide) hwhole]
  intro r hr
  have hrow : r.1.length = 64 := length_of_mem_chunks hwhole _ (List.fst_mem_of_mem_zipIdx hr)
  rw [List.length_map, List.length_take, sortRow_length, List.length_map, hrow]
  exact Nat.min_eq_left hk

/-- A sorted key as it is written. -/
def keyElem (x : BitVec 32 × Nat) : VElem := ((toF32 (f32 x.1, 0)).1, 0)

/-- The state in which a sort of `rows` rows has been counted and the flags `fl` of reading them have been raised. -/
def State.countSort (s : State) (cl rows : Nat) (fl : Flags) : State :=
  ((s.onClus cl (fun c => { c with elems := c.elems + 64 * rows })).addOp (s.clusCtx cl) wVecSort rows).vecFlag cl fl

/-- A sort writes its keys and, with mode_b 1, their indices. -/
theorem vSort_of_write {u : State} {desc : Bool} {k : Nat}
    (ha : s.draw.2.vRead s.free cl (wFa q.word) (vU1 q) (64 * vN q.word) (64 * vN q.word) = some a)
    (hindex : vModeB q.word = true → scratchOk (vU2 q) (4 * vN q.word * k) = true)
    (hu : vWrite cl q ((sortedKeys desc k (vN q.word) a).map keyElem)
      (s.draw.2.countSort cl (vN q.word) (readFlags a)) = .done u) :
    vSort desc k cl q s = .done (if vModeB q.word then
      u.swrite cl (vU2 q) ((sortedKeys desc k (vN q.word) a).flatMap (fun x => leBytes 4 x.2)) else u) := by
  have hin : ¬ (vModeB q.word ∧ !scratchOk (vU2 q) (4 * vN q.word * k)) := by
    rintro ⟨hmode, hout⟩
    simp [hindex hmode] at hout
  have helem : keyElem = fun x => ((toF32 (f32 x.1, 0)).1, 0) := rfl
  simp only [State.draw, State.countSort, readFlags, sortedKeys, helem] at ha hu
  simp only [vSort, State.draw, ha, hin, hu, ↓reduceIte]
  rfl

/-- A sort completes where its rows, its keys and, with mode_b 1, its indices lie within scratch. -/
theorem vSort_done {desc : Bool} {k : Nat} (hk : k ≤ 64) (hfits : q.fits (64 * vN q.word) (vN q.word * k) = true)
    (hindex : vModeB q.word = true → scratchOk (vU2 q) (4 * vN q.word * k) = true) :
    ∃ u, vSort desc k cl q s = .done u := by
  obtain ⟨hsrc, hdst⟩ := QWord.fits_iff.mp hfits
  obtain ⟨a, ha, hlen⟩ := s.draw.2.vRead_planes s.free cl _ _ _ hsrc
  have hcount : ((sortedKeys desc k (vN q.word) a).map keyElem).length = vN q.word * k :=
    (List.length_map _).trans (sortedKeys_length hk hlen)
  obtain ⟨u, hu⟩ := vWrite_done cl q _ (s.draw.2.countSort cl (vN q.word) (readFlags a)) (hcount.symm ▸ hdst)
  exact ⟨_, vSort_of_write ha hindex hu⟩

/-- A sort whose direction `desc` and count `k` its word names completes. -/
theorem vSort_completes (desc : Word128 → Bool) (k : Word128 → Nat) (h : s.AtHead cl 2 o q) (hk : k q.word ≤ 64)
    (hfits : q.fits (64 * vN q.word) (vN q.word * k q.word) = true)
    (hindex : vModeB q.word = true → scratchOk (vU2 q) (4 * vN q.word * k q.word) = true) :
    ∃ u, vSort (desc q.word) (k q.word) cl q (s.begun cl 2 q) = .done u
      ∧ runQueue 2 o (fun _ => true) (fun cl q s => vSort (desc q.word) (k q.word) cl q s) cl s =
          .next (State.afterRun 2 cl q (.done u)) :=
  runQueue_completes (f := fun cl q s => vSort (desc q.word) (k q.word) cl q s) h rfl (vSort_done hk hfits hindex)

theorem vW_le_64 (w : Word128) : vW w ≤ 64 := by
  have hbits : bits w 25 20 < 64 := Nat.mod_lt _ (by decide)
  rw [vW, orMax]
  split <;> omega

/-! ### The statement -/

/-- Settles O22: each word once, under the common rule of the heads of queues. -/
theorem vectorMasksAndReductionsComplete : Obligations.VectorMasksAndReductionsComplete := by
  refine ⟨?masks, ?rows⟩
  case masks =>
    intro s cl q n t v maskFits
    refine ⟨?compare, ?maskRand, ?select, ?fma⟩
    case compare =>
      intro e he hat hfits hfits2 hmask
      have hexec : exec (e.2.1 cl) s = runQueue 2 e.1 (fun _ => true) (vCompare e.2.2) cl s := by
        fin_cases he <;> rfl
      exact hexec ▸ vCompare_completes hat hfits hfits2 hmask
    case maskRand =>
      intro hat hmask rc u
      exact runQueue_ran (sel := fun _ => true) hat rfl (vMaskRand_done hmask)
    case select =>
      intro hat hfits hfits2 hmask
      exact vSelect_completes hfits hfits2 hat hmask
    case fma =>
      intro hat hfits hfits2 hfits3
      exact vFma_completes hfits hfits2 hat hfits3
  case rows =>
    intro s cl q n t v done
    refine ⟨?reduceEach, ?reduceAll, ?segments, ?sort, ?topk⟩
    case reduceEach =>
      intro e he hat hmode hfits
      obtain ⟨a, ha, u, hu, hrun⟩ := vReduce_completes (f := e.2.2) hat (by simpa [hmode] using hfits)
      simp only [reduceResults, hmode, Bool.false_eq_true, ↓reduceIte] at hu
      exact ⟨a, ha, u, hu, (exec_of_mem_reductionWords he cl s).trans hrun⟩
    case reduceAll =>
      intro e he hat hmode hfits
      obtain ⟨a, ha, u, hu, hrun⟩ := vReduce_completes (f := e.2.2) hat (by simpa [hmode] using hfits)
      simp only [reduceResults, hmode, ↓reduceIte] at hu
      exact ⟨a, ha, u, hu, (exec_of_mem_reductionWords he cl s).trans hrun⟩
    case segments =>
      intro e he ob hat hob os width hgood hsrc hdst
      have hexec : exec (e.2.1 cl) s =
          runQueue 2 e.1 (fun _ => true) (vSegment e.2.2.1 e.2.2.2.1 e.2.2.2.2) cl s := by
        fin_cases he <;> rfl
      obtain ⟨a, ha, u, hu, hrun⟩ := vSegment_completes hat hob hgood hsrc hdst
      exact ⟨a, ha, u, hu, hexec.trans hrun⟩
    case sort =>
      intro hat hindex hfits
      have hfits' : q.fits (64 * vN q.word) (vN q.word * 64) = true := by rwa [Nat.mul_comm (vN q.word) 64]
      exact vSort_completes vModeA (fun _ => 64) hat (Nat.le_refl 64) hfits' hindex
    case topk =>
      intro hat hindex hfits
      exact vSort_completes (fun _ => true) vW hat (vW_le_64 q.word) hfits hindex

end Sys2Proof.Machine

/-! SUPPORT. The row engine: a row keeps the statistics, the banks and the DRAM words that later rows look up, and what it frees
is its own statistic alone; then the statement that every row-engine operation completes. -/
namespace Sys2Proof.Machine

variable {s u : State} {cl : Nat} {q : QWord}

/-! ### What counting leaves as it was -/

@[simp] theorem State.addOp_host (s : State) (ctx word n : Nat) : (s.addOp ctx word n).host = s.host := by
  unfold State.addOp; split <;> rfl
@[simp] theorem State.addOp_mem (s : State) (ctx word n : Nat) : (s.addOp ctx word n).mem = s.mem := by
  unfold State.addOp; split <;> rfl
@[simp] theorem State.addOp_sheet (s : State) (ctx word n : Nat) : (s.addOp ctx word n).sheet = s.sheet := by
  unfold State.addOp; split <;> rfl

/-! ### The context of a cluster (R256) -/

theorem State.clusCtx_eq (s : State) (cl : Nat) :
    s.clusCtx cl = ((s.cmd (s.clusCmd cl)).map CmdRec.ctx).getD 1024 := by
  rw [State.clusCtx]
  cases s.cmd (s.clusCmd cl) <;> rfl

theorem State.clusCtx_congr (hclus : u.clus cl = s.clus cl) (hcmd : ∀ id, u.cmd id = s.cmd id) :
    u.clusCtx cl = s.clusCtx cl := by
  simp only [State.clusCtx, State.clusCmd, hclus, hcmd]

/-- A cluster that works on for its launch keeps its context. -/
theorem State.setClus_clusCtx {c : Cluster} (h : c.launch = (s.clus cl).launch) :
    (s.setClus cl c).clusCtx cl = s.clusCtx cl := by
  simp only [State.clusCtx, State.clusCmd, State.setClus_clus, ↓reduceIte, h]
  rfl

/-- Flags that join a command's summary leave every context. -/
@[simp] theorem State.cmdFlags_clusCtx (s : State) (id : Nat) (fl : Flags) (cl : Nat) :
    (s.cmdFlags id fl).clusCtx cl = s.clusCtx cl := by
  have hcmd (n : Nat) : ((s.cmdFlags id fl).cmd n).map CmdRec.ctx = (s.cmd n).map CmdRec.ctx := by
    rw [State.cmd, State.cmdFlags, tget_tmod]
    split
    case isTrue hid => subst hid; cases h : tget s.host.cmds id <;> simp [State.cmd, h]
    case isFalse => rfl
  rw [State.clusCtx_eq, State.clusCtx_eq]
  exact congrArg (Option.getD · 1024) (hcmd (s.clusCmd cl))

@[simp] theorem State.swrite_clusCtx (s : State) (cl u : Nat) (bs : List Byte) :
    (s.swrite cl u bs).clusCtx cl = s.clusCtx cl :=
  State.setClus_clusCtx rfl

@[simp] theorem State.rowFlag_clusCtx (s : State) (cl : Nat) (fl : Flags) : (s.rowFlag cl fl).clusCtx cl = s.clusCtx cl :=
  (State.cmdFlags_clusCtx _ _ _ _).trans (State.setClus_clusCtx rfl)

/-- Writing a row's results and raising its flags keep the context of the cluster. -/
theorem rowStore_clusCtx (r : Nat) (o : RowOut) (s : State) : (rowStore cl q r o s).clusCtx cl = s.clusCtx cl :=
  (State.rowFlag_clusCtx _ _ _).trans (State.swrite_clusCtx _ _ _ _)

/-! ### Live statistics (R258) -/

/-- A statistic is live at its home or in its spill record. -/
def State.StatLive (s : State) (bank tag : Nat) : Prop :=
  (s.statHome bank tag).isSome = true ∨ (s.statSpilled bank tag).isSome = true

/-- A lookup finds a live statistic, unpoisoned where no DRAM word is in error, and does no more than count itself. -/
theorem State.lookupStat_of_live {bank tag : Nat} (hlive : s.StatLive bank tag) (herr : s.mem.err = []) :
    ∃ e n, s.lookupStat bank tag = some (e, false, s.bump (slotRow 2) n) := by
  cases hhome : s.statHome bank tag with
  | some e => exact ⟨e, 0, by simp [State.lookupStat, hhome, State.bump]⟩
  | none =>
    obtain ⟨e, he⟩ := Option.isSome_iff_exists.mp (hlive.resolve_left (by simp [hhome]))
    exact ⟨e, 1, by simp [State.lookupStat, hhome, he, State.readBytes, herr]⟩

/-- Freeing a statistic changes its home, its spill record and DRAM alone, and puts no error into a DRAM without errors. -/
theorem State.freeStat_changes (s : State) (bank tag : Nat) : ∃ spilled dram err,
    s.freeStat bank tag = { s with
      sheet := { s.sheet with
        homes := tmod s.sheet.homes (tag % 128) (fun l => l.filter (fun e => !sameStat bank tag e)), spilled := spilled }
      mem := { s.mem with dram := dram, err := err } }
    ∧ (∀ key, statKey bank tag ≠ key → tget spilled key = tget s.sheet.spilled key)
    ∧ (s.mem.err = [] → err = []) := by
  unfold State.freeStat
  dsimp only
  split
  · exact ⟨s.sheet.spilled, s.mem.dram, s.mem.err, rfl, fun _ _ => rfl, id⟩
  · refine ⟨_, _, _, rfl, fun key hkey => ?_, fun herr => ?_⟩
    · rw [tget_tdel, if_neg hkey]
    · simp [herr]

/-- An entry of one tag is not of another. -/
theorem not_sameStat_of_sameStat {bank tag tag' : Nat} {e : Stat} (hne : tag ≠ tag') (h : sameStat bank tag' e = true) :
    (!sameStat bank tag e) = true := by
  simp only [sameStat, Bool.and_eq_true, beq_iff_eq] at h
  simp [sameStat, h.2, Ne.symm hne]

theorem State.freeStat_statHome_ne {bank tag tag' : Nat} (hne : tag ≠ tag') :
    (s.freeStat bank tag).statHome bank tag' = s.statHome bank tag' := by
  have hkept (l : List Stat) :
      (l.filter (fun e => !sameStat bank tag e)).find? (sameStat bank tag') = l.find? (sameStat bank tag') := by
    rw [List.find?_filter]
    congr 1
    funext e
    cases he : sameStat bank tag' e with
    | false => simp
    | true => simp [not_sameStat_of_sameStat hne he]
  obtain ⟨spilled, dram, err, hfree, -, -⟩ := s.freeStat_changes bank tag
  rw [State.statHome, hfree, tgetD, tget_tmod]
  split
  case isFalse => rfl
  case isTrue hhome =>
    rw [State.statHome, tgetD, ← hhome]
    cases tget s.sheet.homes (tag % 128) with
    | none => rfl
    | some l => exact hkept l

/-- Freeing a statistic leaves those of other tags live. -/
theorem State.freeStat_statLive_ne {bank tag tag' : Nat} (hne : tag ≠ tag') (h : s.StatLive bank tag') :
    (s.freeStat bank tag).StatLive bank tag' := by
  have hkey : statKey bank tag ≠ statKey bank tag' := fun hk => hne (Nat.add_left_cancel hk)
  have hspilled : (s.freeStat bank tag).statSpilled bank tag' = s.statSpilled bank tag' := by
    obtain ⟨spilled, dram, err, hfree, hothers, -⟩ := s.freeStat_changes bank tag
    rw [hfree]
    exact hothers _ hkey
  rwa [State.StatLive, State.freeStat_statHome_ne hne, hspilled]

/-! ### Rows that can run backward -/

/-- The statistics with the tags `tags` are live in `bank`, the bank of the cluster's command, and no DRAM word is in error. -/
structure State.StatsReady (s : State) (cl bank : Nat) (tags : List Nat) : Prop where
  err : s.mem.err = []
  inBank : s.statBank cl = bank
  live : ∀ tag ∈ tags, s.StatLive bank tag

section Ready
variable {bank : Nat} {tags : List Nat} (h : s.StatsReady cl bank tags)
include h

/-- What leaves the statistics, the memory and the cluster's context leaves the statistics ready. -/
theorem State.StatsReady.congr (hhomes : u.sheet.homes = s.sheet.homes) (hspilled : u.sheet.spilled = s.sheet.spilled)
    (hmem : u.mem = s.mem) (hctx : u.clusCtx cl = s.clusCtx cl) : u.StatsReady cl bank tags := by
  refine ⟨hmem ▸ h.err, ?_, fun tag htag => ?_⟩
  · rw [State.statBank, State.banks, hmem, hctx]
    exact h.inBank
  · rw [State.StatLive, State.statHome, State.statSpilled, hhomes, hspilled]
    exact h.live tag htag

theorem State.StatsReady.bump (slot n : Nat) : (s.bump slot n).StatsReady cl bank tags :=
  h.congr (by simp) (by simp) (by simp) (State.clusCtx_congr (by simp [State.clus]) (by simp))

theorem State.StatsReady.addOp (ctx word n : Nat) : (s.addOp ctx word n).StatsReady cl bank tags :=
  h.congr (by simp) (by simp) (by simp) (State.clusCtx_congr (by simp [State.clus]) (by simp [State.cmd]))

theorem State.StatsReady.rowStore (r : Nat) (o : RowOut) : (Machine.rowStore cl q r o s).StatsReady cl bank tags :=
  h.congr rfl rfl rfl (rowStore_clusCtx r o s)

/-- Of the statistics that are ready, those with fewer tags are. -/
theorem State.StatsReady.subset {tags' : List Nat} (hsub : tags' ⊆ tags) : s.StatsReady cl bank tags' :=
  ⟨h.err, h.inBank, fun tag htag => h.live tag (hsub htag)⟩

/-- Freeing the statistic of another tag keeps those that are ready. -/
theorem State.StatsReady.freeStat {tag : Nat} (hnew : tag ∉ tags) : (s.freeStat bank tag).StatsReady cl bank tags := by
  have hlive (tag' : Nat) (htag' : tag' ∈ tags) : (s.freeStat bank tag).StatLive bank tag' :=
    State.freeStat_statLive_ne (fun heq => hnew (heq ▸ htag')) (h.live tag' htag')
  obtain ⟨spilled, dram, err, hfree, -, herr⟩ := s.freeStat_changes bank tag
  rw [hfree] at hlive ⊢
  exact ⟨herr h.err, h.inBank, hlive⟩

end Ready

/-! ### Row after row (R259) -/

/-- The tag of row `r` of a row-engine word (R245). -/
def rowTag (q : QWord) (r : Nat) : Nat := (q.reg (rwXt q.word) % 2 ^ 24 + r) % 2 ^ 24

/-- The rows of a word, at most 256, have tags of their own. -/
theorem rowTags_nodup (q : QWord) : ((List.range (rwRows q.word)).map (rowTag q)).Nodup := by
  have hrows : rwRows q.word ≤ 256 := by
    have hbits : bits q.word 19 12 < 256 := Nat.mod_lt _ (by decide)
    rw [rwRows, orMax]
    split <;> omega
  refine (List.nodup_range).map_on (fun r hr r' hr' heq => ?_)
  rw [List.mem_range] at hr hr'
  simp only [rowTag] at heq
  omega

section Rows
variable (d : Nat) (prm : BitVec 64) (f : RowIn → RowOut)

/-- Forward, every row is written. -/
theorem rowLoop_forward_done (rows : List Nat) (s : State) : ∃ u, rowLoop cl q d prm true f rows s = .done u := by
  induction rows generalizing s with
  | nil => exact ⟨s, rfl⟩
  | cons r rest ih => exact ih _

/-- Backward, a row that finds its statistic is written, and unless kept the statistic is freed. -/
theorem rowLoop_backward_cons {r : Nat} {rest : List Nat} {e : Stat}
    (hlookup : s.lookupStat (s.statBank cl) (rowTag q r) = some (e, false, u)) :
    ∃ o, rowLoop cl q d prm false f (r :: rest) s = rowLoop cl q d prm false f rest
      (if rwKeep q.word then rowStore cl q r o u else (rowStore cl q r o u).freeStat (s.statBank cl) (rowTag q r)) := by
  rw [rowTag] at hlookup
  rw [rowLoop]
  simp only [hlookup, Bool.false_eq_true, ↓reduceIte]
  exact ⟨_, rfl⟩

/-- Backward, every row is written where the statistics of all are ready: a row frees none that a later one looks up. -/
theorem rowLoop_backward_done {bank : Nat} {rows : List Nat} (hready : s.StatsReady cl bank (rows.map (rowTag q)))
    (hnodup : (rows.map (rowTag q)).Nodup) : ∃ u, rowLoop cl q d prm false f rows s = .done u := by
  induction rows generalizing s with
  | nil => exact ⟨s, rfl⟩
  | cons r rest ih =>
    rw [List.map_cons] at hready hnodup
    obtain ⟨hnew, hrest⟩ := List.nodup_cons.mp hnodup
    obtain ⟨e, n, hlookup⟩ := State.lookupStat_of_live (hready.live _ List.mem_cons_self) hready.err
    obtain ⟨o, hrow⟩ := rowLoop_backward_cons d prm f (rest := rest) (hready.inBank.symm ▸ hlookup)
    have hstored : (Machine.rowStore cl q r o (s.bump (slotRow 2) n)).StatsReady cl bank (rest.map (rowTag q)) :=
      ((hready.bump _ n).rowStore r o).subset (List.subset_cons_self _ _)
    rw [hrow, hready.inBank]
    refine ih ?_ hrest
    split
    · exact hstored
    · exact hstored.freeStat hnew

end Rows

/-! ### The statement -/

/-- The parameter of a row-engine word is finite and above 0 (R247). -/
def GoodParam (prm : BitVec 64) : Prop :=
  (f32 (BitVec.ofNat 32 prm.toNat)).isFinite = true ∧ FVal.lt .zero (f32 (BitVec.ofNat 32 prm.toNat)) = true

/-- The state in which the rows of a word have been counted, before the first of them runs. -/
def State.rowsCounted (s : State) (cl : Nat) (w : Word128) : State :=
  (s.draw.2.bump (slotRow 0) (rwRows w)).addOp (s.clusCtx cl) wRowRows (rwRows w)

/-- An operation whose parameter is good and whose operands lie within scratch counts its rows and runs them. -/
theorem rowOp_checked {fwd : Bool} {f : RowIn → RowOut} (hgood : GoodParam (s.param cl (rwPrm q.word)))
    (hrange : rowRange q (!fwd) = true) :
    rowOp fwd f cl q s = rowLoop cl q s.free (s.param cl (rwPrm q.word)) fwd f (List.range (rwRows q.word))
      (s.rowsCounted cl q.word) := by
  obtain ⟨hfinite, hpos⟩ := hgood
  simp only [rowOp, hfinite, hpos, hrange, Bool.and_self, Bool.not_true, Bool.or_self, Bool.false_eq_true, ↓reduceIte]
  rfl

theorem State.StatsReady.rowsCounted {bank : Nat} {tags : List Nat} (h : s.StatsReady cl bank tags) (w : Word128) :
    (s.rowsCounted cl w).StatsReady cl bank tags :=
  ((h.congr (u := s.draw.2) rfl rfl rfl rfl).bump _ _).addOp _ _ _

/-- Settles O23: forward no row can stop, and backward a row frees its own statistic only, so each finds its own. -/
theorem rowOperationsComplete : Obligations.RowOperationsComplete := by
  intro s cl q w t prm v good
  refine ⟨?forward, ?backward⟩
  case forward =>
    intro e he hat hgood hrange
    have hexec : exec (e.2.1 cl) s = runQueue 2 e.1 (fun _ => true) (rowOp true e.2.2) cl s := by
      fin_cases he <;> rfl
    rw [hexec]
    exact runQueue_completes hat (rowOp_checked hgood hrange) (rowLoop_forward_done ..)
  case backward =>
    intro e he hat hgood hrange herr hlive
    have hexec : exec (e.2.1 cl) s = runQueue 2 e.1 (fun _ => true) (rowOp false e.2.2) cl s := by
      fin_cases he <;> rfl
    have hready : t.StatsReady cl (t.statBank cl) ((List.range (rwRows w)).map (rowTag q)) :=
      ⟨herr, rfl, List.forall_mem_map.mpr (fun r hr => hlive r (List.mem_range.mp hr))⟩
    rw [hexec]
    exact runQueue_completes hat (rowOp_checked hgood hrange)
      (rowLoop_backward_done _ _ _ (hready.rowsCounted w) (rowTags_nodup q))

end Sys2Proof.Machine

/-! SUPPORT. What each message and each event of the reduce path comes to on a package that lies in the shard's tree, and on the
owner while a Press command of the shard runs: each once, then the statement about all of them. -/
namespace Sys2Proof.Machine

theorem whenThen_of {c : Bool} (s t : State) (h : c = true) : whenThen c s t = .next t := if_pos h

theorem whenThen_not {c : Bool} (s t : State) (h : c = false) : whenThen c s t = .next s :=
  if_neg (Bool.eq_false_iff.mp h)

variable {s : State} {shard step : Nat}

/-! ### On a package of the shard's tree (R233) -/

section Tree
variable {j : Job} {i o : Nat} (hpath : s.redPath shard = some (j, i, o))
include hpath

/-- A credit request goes up the tree; the owner keeps it while its shard meets the conditions and refuses it otherwise
(R642). -/
theorem execReduceCreditRequest_on_path (rows cols m : Nat) :
    let r := s.redStep shard step
    execReduceCreditRequest shard step rows cols m s = .next (
      if i ≠ o then s.toParent shard (fun d => .creditRequest d shard step rows cols)
      else if s.ownerMeets shard rows cols then
        s.setRed shard step { r with rows := rows, cols := cols, waiters := r.waiters ++ [m] }
      else s.refuse shard step false) := by
  simp only [execReduceCreditRequest, State.creditRequest, hpath]

/-- A partial at this member is combined by its place, unless its step is refused or abandoned (R234, R241, R642). -/
theorem State.combine_on_path (row col n : Nat) (ws : List (BitVec 32)) (fl : Flags) :
    let r := s.redStep shard step
    s.combine shard step row col n ws fl =
      if r.refused || r.abandoned then s
      else if i = o then s.ownerCombine shard step row col n ws fl
      else s.memberCombine j i o shard step row col n ws fl := by
  simp only [State.combine, hpath]

/-- A whole tile arrives at a member, or at the owner in a tile row that credit covers. -/
theorem execPartialTileArrival_on_path {row col n : Nat} {ws : List (BitVec 32)} (fl : Flags) (hlen : ws.length = 1024)
    (hcount : 1 ≤ n) (hcredit : i ≠ o ∨ (s.redStep shard step).credit.contains row = true) :
    execPartialTileArrival shard step row col n ws fl s = .next (s.combine shard step row col n ws fl) := by
  have hcomes : (i != o || (s.redStep shard step).credit.contains row) = true := by
    rw [Bool.or_eq_true, bne_iff_ne]
    exact hcredit
  simp only [execPartialTileArrival, hpath, hlen, hcount, hcomes, and_self, decide_true, Bool.true_and, Bool.true_or,
    whenThen_of]

section Member
variable (hmember : i ≠ o)
include hmember

/-- Credit for a tile row that had none is taken and passed on (R237). -/
theorem execReduceCreditReceive_at_member {row : Nat} (hnone : (s.redStep shard step).credit.contains row = false)
    (hrefused : (s.redStep shard step).refused = false) (habandoned : (s.redStep shard step).abandoned = false) :
    execReduceCreditReceive shard step row s = .next (s.takeCredit shard step row) := by
  simp only [execReduceCreditReceive, hpath, bne_iff_ne.mpr hmember, hnone, hrefused, habandoned, Bool.not_false,
    Bool.and_self, whenThen_of]

/-- A refusal is taken and goes down the tree (R642). -/
theorem execReduceRefusal_at_member (later : Bool) :
    execReduceRefusal shard step later s = .next (s.refuse shard step later) := by
  simp only [execReduceRefusal, hpath, bne_iff_ne.mpr hmember, whenThen_of]

/-- An abandonment is taken and goes down the tree (R241). -/
theorem execReduceAbandon_at_member : execReduceAbandon shard step s = .next (s.abandonHere shard step) := by
  simp only [execReduceAbandon, hpath, bne_iff_ne.mpr hmember, whenThen_of]

end Member
end Tree

/-! ### On the owner while a Press command of the shard runs (R236, R284) -/

section Owner
variable {p : PShard} {run : PressRun} {e : Extent} {l : Nat} (hshard : tget s.press.shards shard = some p)
  (hrun : p.run = some run)
include hshard hrun

/-- Whether the owner grants credit for a tile row of its grid that waits for it is whether the row's buffer is free. -/
theorem execReduceCreditGrant_on_owner {row : Nat} (hlanding : s.landing p = some (e, l)) (hl : 1 ≤ l)
    (hrow : 32 * row < p.rows) (hnone : (s.redStep shard run.step).credit.contains row = false)
    (hrefused : (s.redStep shard run.step).refused = false) (habandoned : (s.redStep shard run.step).abandoned = false) :
    execReduceCreditGrant shard row s =
      whenThen (bufferFree p.run (s.redStep shard run.step) run.step l row) s (s.takeCredit shard run.step row) := by
  simp only [execReduceCreditGrant, hshard, hrun, hlanding, hl, hrow, hnone, hrefused, habandoned, and_self, decide_true,
    Bool.not_false, Bool.and_self, Bool.true_and]

/-- The Press takes the next slice that is complete. -/
theorem execPressSliceConsume_on_owner {t last : Nat} {bad : Bool} {u : State} (hlanding : s.landing p = some (e, l))
    (hnext : (s.redStep shard run.step).complete[(s.redStep shard run.step).consumed]? = some t)
    (hlast : s.pressLast p = (last, bad, u)) :
    execPressSliceConsume shard s =
      .next (((PressAcc.start u).sliceRun shard p run last t l).sliceTaken shard p run (s.redStep shard run.step)
        ((s.cmd run.cmd).elim 1024 CmdRec.ctx) bad) := by
  simp only [execPressSliceConsume, hshard, hrun, hlanding, hnext, hlast]

end Owner

/-- While a slice is incomplete, whether the owner abandons its step is whether 1 s has passed without progress (R241). -/
theorem execReduceWatchdogExpiry_running {now : Nat} {p : PShard} {run : PressRun}
    (hshard : tget (s.advance now).press.shards shard = some p) (hrun : p.run = some run)
    (hopen : 32 * ((s.advance now).redStep shard run.step).complete.length < p.rows) :
    execReduceWatchdogExpiry shard now s =
      whenThen (decide (((s.advance now).redStep shard run.step).movedAt + sec 1 ≤ (s.advance now).time)) s
        ((s.advance now).ownerAbandon shard stTimeout) := by
  simp only [execReduceWatchdogExpiry, hshard, hrun, hopen, true_and]

/-- Settles O48: each clause is what one message or event comes to, in the tree of the shard or on its owner. -/
theorem reduceToTheOwner : Obligations.ReduceToTheOwner := by
  intro s shard step
  refine ⟨?tree, ?grant, ?consume, ?watchdog⟩
  case tree =>
    intro j i o hpath r
    refine ⟨?request, ?partials, ?credit, ?down⟩
    case request =>
      intro rows cols m
      have hrequest := execReduceCreditRequest_on_path (step := step) hpath rows cols m
      refine ⟨fun hne => ?_, fun heq hmeets => ?_, fun heq hmeets => ?_⟩
      · exact hrequest.trans (by rw [if_pos hne])
      · exact hrequest.trans (by rw [if_neg (not_not_intro heq), if_pos hmeets])
      · exact hrequest.trans (by rw [if_neg (not_not_intro heq), if_neg (ne_true_of_eq_false hmeets)])
    case partials =>
      intro row col n ws fl hlen hcount hcredit
      have harrival := execPartialTileArrival_on_path (col := col) hpath fl hlen hcount hcredit
      rw [State.combine_on_path hpath] at harrival
      have hgoing : r.refused = false → r.abandoned = false → ¬ (r.refused || r.abandoned) = true := by
        intro hrefused habandoned
        simp only [hrefused, habandoned, Bool.or_self, Bool.false_eq_true, not_false_eq_true]
      refine ⟨fun hrefused habandoned hne => ?_, fun hrefused habandoned heq => ?_, fun hover => ?_⟩
      · exact harrival.trans (by rw [if_neg (hgoing hrefused habandoned), if_neg hne])
      · exact harrival.trans (by rw [if_neg (hgoing hrefused habandoned), if_pos heq])
      · exact harrival.trans (by rw [if_pos (Bool.or_eq_true_iff.mpr hover)])
    case credit =>
      intro row hne hnone hrefused habandoned
      exact execReduceCreditReceive_at_member hpath hne hnone hrefused habandoned
    case down =>
      intro hne
      exact ⟨execReduceRefusal_at_member hpath hne, execReduceAbandon_at_member hpath hne⟩
  case grant =>
    intro p run e l row hshard hrun hlanding hl hrow r hnone hrefused habandoned
    have hgrant := execReduceCreditGrant_on_owner hshard hrun hlanding hl hrow hnone hrefused habandoned
    exact ⟨fun hfree => hgrant.trans (whenThen_of _ _ hfree), fun hused => hgrant.trans (whenThen_not _ _ hused)⟩
  case consume =>
    intro p run e l t last bad u hshard hrun hlanding r hnext hlast
    exact execPressSliceConsume_on_owner hshard hrun hlanding hnext hlast
  case watchdog =>
    intro now p run t hshard hrun r hopen
    have hwatch := execReduceWatchdogExpiry_running hshard hrun hopen
    refine ⟨fun hpast => ?_, fun hbefore => ?_⟩
    · exact hwatch.trans (whenThen_of _ _ (decide_eq_true hpast))
    · exact hwatch.trans (whenThen_not _ _ (decide_eq_false hbefore.not_ge))

end Sys2Proof.Machine

/-! SUPPORT. What the five commands of the Mould answer once their checks pass, and where one turns the command away: each
outcome once, then the statement about all of them. -/
namespace Sys2Proof.Machine

/-- A command whose own gate is open starts as any other. -/
theorem jeiskIf_of_gate {gate : Nat → CmdRec → State → Bool} {op id : Nat} {body : Body} {s : State} {c : CmdRec}
    (hcmd : s.cmd id = some c) (hgate : gate id c s = true) : jeiskIf gate op body id s = jeisk op body id s := by
  simp only [jeiskIf, hcmd, hgate, ↓reduceIte]

theorem fmtReserved_of_le {f : Nat} (h : f ≤ 8) : fmtReserved f = false := decide_eq_false h.not_gt

/-- No format of a declared matrix is a reserved code: it is at most 4, or SPLIT32, which lies above them (R310). -/
theorem not_reserved_of_mouldMatFmt {f : Nat} (h : mouldMatFmt f = true) : (decide (f > 15) || !fmtReserved f) = true := by
  simp only [mouldMatFmt, Bool.or_eq_true, decide_eq_true_eq, beq_iff_eq] at h
  rcases h with hle | rfl
  · rw [fmtReserved_of_le (by omega)]; simp
  · rfl

variable {id : Nat} {c : CmdRec} {s t u : State}

/-! ### MOULD_DECLARE (R310 to R313) -/

/-- The bytes of the matrix that a MOULD_DECLARE packet names. -/
def declareBytes (p : BitVec 512) : Nat := fld p 36 2 * fld p 38 2 * (fmtBits (fld p 34 1) / 8)

/-- The copy of the matrix that a MOULD_DECLARE packet names, from its bytes. -/
def declareCopy (p : BitVec 512) (bs : List Byte) : List (BitVec 32) :=
  (unpackBits (fmtBits (fld p 34 1)) bs (fld p 36 2 * fld p 38 2)).map (BitVec.ofNat 32)

/-- The tiles of that matrix with an element whose value is as `q` says. -/
def declareTiles (p : BitVec 512) (bs : List Byte) (q : FVal → Bool) : List Nat :=
  tilesWhere (fld p 36 2) (fld p 38 2) (declareCopy p bs) (fun x => q (decodeAs (srcFmt (fld p 34 1)) x.toNat))

/-- The matrix that a MOULD_DECLARE packet without a pin mode and outside any shard declares. -/
def declaredMatrix (p : BitVec 512) (bs : List Byte) : Matrix :=
  { copy := declareCopy p bs, fmt := srcFmt (fld p 34 1), m := fld p 36 2, k := fld p 38 2, pin := 0,
    optical := (fld p 35 1).testBit 2, tiles := declareTiles p bs (fun v => !v.isZero), shard := none }

/-- A MOULD_DECLARE packet without a pin mode has its fields in range and names bytes that read well, in a handle that the
host does not see, that is the weight of no attached shard, and outside every low plane (R143, R310 to R312). -/
structure DeclareChecked (id : Nat) (p : BitVec 512) (e : Extent) (bs : List Byte) (s u : State) : Prop where
  unpinned : fld p 35 1 % 4 = 0
  fmt : mouldMatFmt (fld p 34 1) = true
  rows : 1 ≤ fld p 36 2 ∧ fld p 36 2 ≤ 16384
  cols : 1 ≤ fld p 38 2 ∧ fld p 38 2 ≤ 16384
  range : s.rangeFor id (fld p 24 4) (fld p 28 6) (declareBytes p) = .ok e
  hidden : e.hostVisible = false
  unattached : (s.shardOf (fld p 24 4)).filter (fun q => q.2.weight == fld p 24 4) = none
  whole : s.lowPlane (fld p 24 4) (fld p 28 6) (declareBytes p) = false
  reads : s.extRead e (fld p 28 6) (declareBytes p) = (bs, false, u)

/-- A MOULD_DECLARE without a pin mode waits for no tile load (log 22). -/
theorem execMouldDeclare_unpinned (hcmd : s.cmd id = some c) (hpin : fld c.packet 35 1 % 4 = 0) :
    execMouldDeclare id s = jeisk 0x500 mouldDeclareBody id s :=
  jeiskIf_of_gate hcmd (by simp only [hpin, beq_self_eq_true, Bool.true_or])

section Declare
variable {e : Extent} {bs : List Byte} (h : DeclareChecked id c.packet e bs s u)
include h

/-- Past its checks, MOULD_DECLARE is down to the values, a matrix id and the room for the tiles. -/
theorem mouldDeclareBody_checked : mouldDeclareBody id c s =
    match declareTiles c.packet bs (fun v => !v.isFinite) with
    | i :: _ => .error (stBadParam, i)
    | [] => match u.freeMatrix with
      | none => .error (stNoResource, 0)
      | some i =>
        need (decide (u.tileTotal + (declaredMatrix c.packet bs).tiles.length ≤ 256)) (stNoResource, 0) >>= fun _ =>
          okDone ((u.addOp c.ctx wDramRead bs.length).declareMatrix i (declaredMatrix c.packet bs)) i := by
  obtain ⟨hpin, hfmt, hrows, hcols, hrange, hhidden, hshard, hwhole, hreads⟩ := h
  simp only [declareBytes] at hrange hwhole hreads
  simp only [mouldDeclareBody, not_reserved_of_mouldMatFmt hfmt, hpin, hfmt, hrows, hcols, hrange, hhidden, hshard, hwhole,
    hreads, need_of, ok_bind, and_self, decide_true, Bool.true_and, Bool.not_false, beq_self_eq_true, Bool.true_or,
    Bool.false_eq_true, ↓reduceIte]
  rfl

/-- A matrix of finite values that fits takes the lowest free id. -/
theorem mouldDeclareBody_declares {i : Nat} (hfinite : declareTiles c.packet bs (fun v => !v.isFinite) = [])
    (hfree : u.freeMatrix = some i) (hroom : u.tileTotal + (declaredMatrix c.packet bs).tiles.length ≤ 256) :
    mouldDeclareBody id c s =
      okDone ((u.addOp c.ctx wDramRead bs.length).declareMatrix i (declaredMatrix c.packet bs)) i := by
  simp only [mouldDeclareBody_checked h, hfinite, hfree, need_of, decide_eq_true hroom, ok_bind]

/-- A matrix with a value that is not finite is turned away with its first such tile. -/
theorem mouldDeclareBody_not_finite {i : Nat} {r : List Nat}
    (hbad : declareTiles c.packet bs (fun v => !v.isFinite) = i :: r) :
    mouldDeclareBody id c s = .error (stBadParam, i) := by
  simp only [mouldDeclareBody_checked h, hbad]

end Declare

/-! ### MOULD_APPLY (R316, R324, R325) -/

/-- A MOULD_APPLY names a matrix `x`, formats and vectors as R316 asks, a range to read and a range to write. -/
structure ApplyChecked (id : Nat) (a : ApplyCmd) (x : Matrix) (s : State) : Prop where
  inFmt : mouldInFmt a.fin_ = true
  outFmt : mouldOutFmt a.fout = true
  some_vector : 1 ≤ a.n
  matrix : tget s.mould.mats a.mat = some x
  src : ∃ e, s.rangeFor id a.inH a.inOff ((a.n - 1) * a.inStride + a.inBytes x) = .ok e
  dst : ∃ e, s.rangeFor id a.outH a.outOff ((a.n - 1) * a.outStride + a.outBytes x) = .ok e
  whole : s.lowPlane a.inH a.inOff ((a.n - 1) * a.inStride + a.inBytes x) = false
  writable : s.writeGuarded a.outH = false

/-- The tile loads that a MOULD_APPLY in light on units `us` needs first, each with its unit (R325); `t` holds the command
with its units placed. -/
def State.lightWork (s t : State) (a : ApplyCmd) (x : Matrix) (us : List Nat) : List (Nat × Nat) :=
  (s.unloaded a.mat x us).map (fun k => (t.rowUnit a.mat us (k / 128), k))

/-- A run in light waits for its tile loads, which begin (R325). -/
def State.queueRun (s : State) (r : LightRun) : State :=
  State.nextLoads { s with mould := { s.mould with runs := s.mould.runs ++ [r] } }

section Apply
variable {x : Matrix} (h : ApplyChecked id (applyCmd c.packet) x s)
include h

/-- Past its checks, MOULD_APPLY computes electronically, in light at once, or in light after tile loads. -/
theorem mouldApplyBody_checked : let a := applyCmd c.packet
    mouldApplyBody id c s =
      match s.lightChoice a x with
      | none => .ok (.done (s.mouldCompute id c a x []).1 (s.mouldCompute id c a x []).2)
      | some us =>
        let t := s.placeUnits id us.length
        if (s.lightWork t a x us).isEmpty then
          .ok (.done (t.mouldCompute id c a x us).1 (t.mouldCompute id c a x us).2)
        else .ok (.busy (t.queueRun { cmd := id, id := a.mat, mat := x, units := us, work := s.lightWork t a x us })) := by
  obtain ⟨hin, hout, hn, hmat, ⟨e, hsrc⟩, ⟨o, hdst⟩, hwhole, hwritable⟩ := h
  have hin' : fmtReserved (applyCmd c.packet).fin_ = false :=
    fmtReserved_of_le ((of_decide_eq_true hin).trans (by decide))
  have hout' : fmtReserved (applyCmd c.packet).fout = false :=
    fmtReserved_of_le ((of_decide_eq_true hout).trans (by decide))
  simp only [mouldApplyBody, hin, hout, hn, hin', hout', hmat, hsrc, hdst, hwhole, hwritable, need_of, ok_bind, decide_true,
    Bool.not_false, Bool.and_self]
  rfl

/-- Where R324 gives no unit, the electronic path computes. -/
theorem mouldApplyBody_electronic (hnone : s.lightChoice (applyCmd c.packet) x = none) {st : Cause}
    (hrun : s.mouldCompute id c (applyCmd c.packet) x [] = (st, t)) : mouldApplyBody id c s = .ok (.done st t) := by
  simp only [mouldApplyBody_checked h, hnone, hrun]

section Light
variable {us : List Nat} (hlight : s.lightChoice (applyCmd c.packet) x = some us)
include hlight

/-- Where every tile stands on a unit, the run in light is done at once. -/
theorem mouldApplyBody_loaded (hwork : s.lightWork (s.placeUnits id us.length) (applyCmd c.packet) x us = []) {st : Cause}
    (hrun : (s.placeUnits id us.length).mouldCompute id c (applyCmd c.packet) x us = (st, t)) :
    mouldApplyBody id c s = .ok (.done st t) := by
  simp only [mouldApplyBody_checked h, hlight, hwork, hrun, List.isEmpty_nil, ↓reduceIte]

/-- Where a tile stands on none, the run waits for its tile loads. -/
theorem mouldApplyBody_loads (hwork : s.lightWork (s.placeUnits id us.length) (applyCmd c.packet) x us ≠ []) :
    mouldApplyBody id c s = .ok (.busy ((s.placeUnits id us.length).queueRun
      { cmd := id, id := (applyCmd c.packet).mat, mat := x, units := us,
        work := s.lightWork (s.placeUnits id us.length) (applyCmd c.packet) x us })) := by
  simp only [mouldApplyBody_checked h, hlight, List.isEmpty_iff, hwork, ↓reduceIte]

end Light
end Apply

/-! ### MOULD_RELEASE, MOULD_QUERY and MOULD_RETUNE (R315, R339, R340) -/

/-- A MOULD_APPLY in the table of commands names matrix `i`. -/
def State.applyNames (s : State) (i : Nat) : Bool :=
  s.host.cmds.any (fun e => pktOp e.2.packet == 0x501 && fld e.2.packet 24 1 == i)

/-- MOULD_RELEASE discards its matrix, unless a MOULD_APPLY names it. -/
theorem mouldReleaseBody_declared (hmat : (tget s.mould.mats (fld c.packet 24 1)).isSome = true) :
    mouldReleaseBody id c s =
      if s.applyNames (fld c.packet 24 1) then .error (stConflict, 0) else okDone (s.dropMatrix (fld c.packet 24 1)) := by
  cases hused : s.applyNames (fld c.packet 24 1) with
  | false =>
    simp only [State.applyNames] at hused
    simp only [mouldReleaseBody, hmat, hused, need_of, ok_bind, Bool.not_false, Bool.false_eq_true, ↓reduceIte]
  | true =>
    simp only [State.applyNames] at hused
    simp only [mouldReleaseBody, hmat, hused, need_of, need_not, ok_bind, error_bind, Bool.not_true, ↓reduceIte]

/-- MOULD_QUERY writes the records of the four units; it leaves their flags unless it is to clear them. -/
theorem mouldQueryBody_keeping (halign : fld c.packet 24 8 % 32 = 0) (hkeep : (fld c.packet 32 1).testBit 0 = false) :
    mouldQueryBody id c s = okDone (s.hostWrite (fld c.packet 24 8)
      ((List.range 4).flatMap (fun u => recBytes (s.unit u).record))) := by
  simp only [mouldQueryBody, halign, hkeep, need_of, ok_bind, decide_true, Bool.false_eq_true, ↓reduceIte]

/-- MOULD_RETUNE tunes a unit that no MOULD_RETUNE tunes already. -/
theorem mouldRetuneBody_tunes (hu : fld c.packet 24 1 < 4) (hidle : (s.unit (fld c.packet 24 1)).retune = none) :
    mouldRetuneBody id c s = .ok (.busy (s.setUnit (fld c.packet 24 1)
      { (s.unit (fld c.packet 24 1)).tune with reason := 6, retune := some id, failures := 0 })) := by
  simp only [mouldRetuneBody, hu, hidle, need_of, ok_bind, decide_true, Option.isNone_none]

/-- Settles O45: the checks, the values and the room decide MOULD_DECLARE, the choice of R324 and the tiles that stand on
units decide MOULD_APPLY, and the commands read before decide MOULD_RELEASE. -/
theorem mouldCommandsComplete : Obligations.MouldCommandsComplete := by
  intro s id c t
  refine ⟨?declare, ?apply, ?release, ?query, ?retune⟩
  case declare =>
    intro e bs u hready k h off f m kk n hpin hfmt hm hm' hkk hkk' hrange hhidden hshard hwhole hreads copy value
    have hchecked : DeclareChecked id k e bs t u :=
      ⟨hpin, hfmt, ⟨hm, hm'⟩, ⟨hkk, hkk'⟩, hrange, hhidden, hshard, hwhole, hreads⟩
    have hstarts := execMouldDeclare_unpinned hready.1 hpin
    refine ⟨?finite, ?notFinite⟩
    case finite =>
      intro i hfinite hfree x hroom
      exact hstarts.trans (jeisk_done hready (mouldDeclareBody_declares hchecked hfinite hfree hroom))
    case notFinite =>
      intro i r hbad
      exact hstarts.trans (jeisk_error hready (mouldDeclareBody_not_finite hchecked hbad))
  case apply =>
    intro x e o hready a hin hout hn hmat il ol hsrc hdst hwhole hwritable
    have hchecked : ApplyChecked id a x t := ⟨hin, hout, hn, hmat, ⟨e, hsrc⟩, ⟨o, hdst⟩, hwhole, hwritable⟩
    refine ⟨?electronic, ?light⟩
    case electronic =>
      intro hnone st u hrun
      exact jeisk_done hready (mouldApplyBody_electronic hchecked hnone hrun)
    case light =>
      intro us hlight v work
      refine ⟨fun hwork st u hrun => ?_, fun hwork => ?_⟩
      · exact jeisk_done hready (mouldApplyBody_loaded hchecked hlight hwork hrun)
      · exact jeisk_busy hready (mouldApplyBody_loads hchecked hlight hwork)
  case release =>
    intro hready hmat used
    have hbody := mouldReleaseBody_declared (id := id) hmat
    refine ⟨fun hfree => ?_, fun hused => ?_⟩
    · exact jeisk_done hready (hbody.trans (if_neg (ne_true_of_eq_false hfree)))
    · exact jeisk_error hready (hbody.trans (if_pos hused))
  case query =>
    intro hready halign hkeep
    exact jeisk_done hready (mouldQueryBody_keeping halign hkeep)
  case retune =>
    intro hready u hu hidle
    exact jeisk_busy hready (mouldRetuneBody_tunes hu hidle)

end Sys2Proof.Machine

/-! SUPPORT. What each event of a Mould unit comes to where the unit can meet it: each event once, then the statement about
all of them. -/
namespace Sys2Proof.Machine

theorem inRange_of {c : Bool} (x : Nat) (o : Out') (h : c = true) : inRange c x o = o := if_pos h

/-- An event of a unit that exists has its effect where it can occur. -/
theorem inRange_whenThen_of {c w : Bool} (x : Nat) {s t : State} (hc : c = true) (hw : w = true) :
    inRange c x (whenThen w s t) = .next t :=
  (inRange_of x _ hc).trans (whenThen_of s t hw)

/-- An event of a unit that exists leaves the state as it is where it cannot occur (log 6). -/
theorem inRange_whenThen_not {c w : Bool} (x : Nat) {s t : State} (hc : c = true) (hw : w = false) :
    inRange c x (whenThen w s t) = .next s :=
  (inRange_of x _ hc).trans (whenThen_not s t hw)

section Choice
variable {p : Prop} [Decidable p] {o : Out'} {s t : State} (h : o = .next (if p then s else t))
include h

theorem next_of_pos (hp : p) : o = .next s := h.trans (by rw [if_pos hp])

theorem next_of_neg (hp : ¬ p) : o = .next t := h.trans (by rw [if_neg hp])

end Choice

/-- A unit in service is neither off nor held out (Table 6 of ch. 08). -/
theorem MouldUnit.on_of_serving {m : MouldUnit} (h : m.serving = true) : m.state ≠ 0 ∧ m.state ≠ 6 := by
  simp only [MouldUnit.serving, Bool.or_eq_true, beq_iff_eq] at h
  omega

/-- A unit that is being tuned is not in service. -/
theorem MouldUnit.not_serving_of_tuning {m : MouldUnit} (h : m.state = 1) : m.serving = false := by
  simp [MouldUnit.serving, h]

/-- The unit once ring `ring` of a bus has been locked or lost: the next ring of the bus is searched (R328, R329). -/
def MouldUnit.ringSearched (m : MouldUnit) (bus ring : Nat) (locked : Bool) : MouldUnit :=
  let r := bus * 32 + ring
  let rest := m.searching.filter (· != r)
  let m1 := { m with searching := if ring < 31 then rest ++ [r + 1] else rest,
                     parked := if locked then m.parked else m.parked ++ [r] }
  { m1 with lines := m1.linesNow }

/-- The unit once ring `ring` of a bus is found locked to a wrong line: it and the rings above it are searched again
(R330). -/
def MouldUnit.searchedAgain (m : MouldUnit) (bus ring : Nat) : MouldUnit :=
  let r := bus * 32 + ring
  let m1 := { m with parked := m.parked.filter (fun q => !(q / 32 == bus && decide (r ≤ q))),
                     searching := m.searching.filter (fun q => q / 32 != bus) ++ [r] }
  { m1 with lines := m1.linesNow }

/-- The unit once a probe has read excess loss `excess` at section `sect` (R331 to R333). -/
def MouldUnit.captured (m : MouldUnit) (time sect : Nat) (excess : BitVec 32) : MouldUnit :=
  { m with probeSeq := (m.probeSeq + 1) % 2 ^ 32, captureAt := time, probing := true, excess := excess,
           sect := if f32Le dB1 excess then sect else 0xFF }

/-- The unit once a probe with errors `rms` and `maxErr` has passed: it vouches for what came before it (R334, R335). -/
def MouldUnit.passed (m : MouldUnit) (rms maxErr : BitVec 32) (now : Nat) : MouldUnit :=
  { m with probing := false, rms := rms, maxErr := maxErr, lastPass := m.probeSeq, tPass := now,
           done := m.done.filter (fun d => decide (m.probeSeq ≤ d)) }

/-- Passes in a row whose error lies above the drift bound (R338). -/
def MouldUnit.drifting (m : MouldUnit) (rms : BitVec 32) : Nat := if f32Le rms rmsDrift then 0 else m.drift + 1

section Units
variable {s : State} {u : Nat} (hu : u < 4)
include hu

/-! ### Tile loads (R325) -/

/-- Whether the load of a tile of a declared matrix ends is whether 40 µs have passed since it began. -/
theorem execTileLoadDone_of_loading {now i k : Nat} (hload : ((s.advance now).unit u).loading = some (i, k))
    (hmat : (tget (s.advance now).mould.mats i).isSome = true) :
    let t := s.advance now
    execTileLoadDone u now s = whenThen (decide ((t.unit u).loadAt + us 40 ≤ t.time)) s
      ((t.setUnit u { t.unit u with loading := none, loaded := some (i, k) }).loadedTile u i k) := by
  intro t
  simp only [execTileLoadDone, inRange_of, hu, decide_true, hload, hmat, ↓reduceIte, t]

/-! ### The comb and the rings (R327 to R330, R337) -/

/-- A unit that is neither off nor held out loses its comb: in service it falls back, else it is tuned anew. -/
theorem execCombLost_of_on (h0 : (s.unit u).state ≠ 0) (h6 : (s.unit u).state ≠ 6) :
    execCombLost u s =
      .next (if (s.unit u).serving then s.fallback u 4 0xFF else s.setUnit u (s.unit u).tune) :=
  inRange_whenThen_of _ (decide_eq_true hu) (by simp [h0, h6])

theorem execCombStartDone_of_comb (hcomb : (s.unit u).comb = true) :
    execCombStartDone u s = .next (s.setUnit u
      { s.unit u with comb := false, searching := (List.range 256).map (· * 32), parked := [], lines := 0 }) :=
  inRange_whenThen_of _ (decide_eq_true hu) hcomb

/-- While a unit is tuned, a searched ring that is locked or lost moves the search on; the last one ends it. -/
theorem execRingSearchDone_tuning {bus ring : Nat} (locked : Bool) (hbus : bus < 256) (hring : ring < 32)
    (hsearch : (s.unit u).searching.contains (bus * 32 + ring) = true) (htune : (s.unit u).state = 1) :
    let m := (s.unit u).ringSearched bus ring locked
    execRingSearchDone u bus ring locked s = .next (
      if m.searching.isEmpty then
        if m.lines = 0 then (s.setUnit u m).holdOut u
        else (s.setUnit u m).setUnit u { m with state := 2, calibrating := true }
      else s.setUnit u m) := by
  intro m
  have hexec : execRingSearchDone u bus ring locked s = .next (
      let m' := if m.serving then { m with state := if m.lines = 0xFFFFFFFF then 3 else 4 } else m
      if m'.searching.isEmpty && m'.state == 1 then
        if m'.lines = 0 then (s.setUnit u m').holdOut u
        else (s.setUnit u m').setUnit u { m' with state := 2, calibrating := true }
      else s.setUnit u m') :=
    inRange_whenThen_of _ (decide_eq_true ⟨hu, hbus, hring⟩) hsearch
  have hstate : m.state = 1 := htune
  simpa [MouldUnit.not_serving_of_tuning hstate, hstate] using hexec

section Dither
variable {bus ring : Nat} (hbus : bus < 256) (hring : ring < 32)
include hbus hring

/-- A ring that is locked as it should be leaves the unit as it is. -/
theorem execRingDitherCheck_right : execRingDitherCheck u bus ring false s = .next s :=
  inRange_whenThen_not _ (decide_eq_true ⟨hu, hbus, hring⟩) rfl

/-- A ring of a unit in service that is locked to a wrong line is searched again; the unit computes on the lines below, and
leaves service where there are none. -/
theorem execRingDitherCheck_wrong (hserving : (s.unit u).serving = true) (hcomb : (s.unit u).comb = false)
    (hparked : (s.unit u).parked.contains (bus * 32 + ring) = false)
    (hsearched : (s.unit u).searching.any (fun q => q / 32 == bus && decide (q ≤ bus * 32 + ring)) = false) :
    let m := (s.unit u).searchedAgain bus ring
    let t := (s.setUnit u m).bump (slotMould 7 u) 1
    execRingDitherCheck u bus ring true s =
      .next (if m.lines = 0 then t.fallback u 2 ring else t.setUnit u { m with state := 4 }) := by
  intro m t
  obtain ⟨h0, h6⟩ := MouldUnit.on_of_serving hserving
  have hexec : execRingDitherCheck u bus ring true s = .next (
      if m.serving then if m.lines = 0 then t.fallback u 2 ring else t.setUnit u { m with state := 4 } else t) :=
    inRange_whenThen_of _ (decide_eq_true ⟨hu, hbus, hring⟩) (by
      simp only [h0, h6, hcomb, hparked, hsearched, bne_iff_ne, ne_eq, not_false_eq_true, Bool.and_eq_true, Bool.not_false,
        and_self])
  exact next_of_pos hexec hserving

end Dither

theorem execRecalibrationDone_of_calibrating (hcal : (s.unit u).calibrating = true) :
    let t := s.setUnit u { s.unit u with calibrating := false, hadamard := true, passes := 0, tCal := s.dk.now }
    execRecalibrationDone u s = .next (if (s.unit u).reason = 0 then t else t.bump (slotMould 6 u) 1) :=
  inRange_whenThen_of _ (decide_eq_true hu) hcal

/-! ### The fidelity probe (R331 to R338) -/

/-- A unit in service captures its first probe at once and each further one 10 ms after the last; an excess loss of 3.0 dB
takes it out of service. -/
theorem execProbeCapture_serving {now sect : Nat} (excess : BitVec 32) (hsect : sect < 17)
    (hserving : ((s.advance now).unit u).serving = true) (hidle : ((s.advance now).unit u).probing = false)
    (hdue : ((s.advance now).unit u).probeSeq = 0
      ∨ ((s.advance now).unit u).captureAt + ms 10 ≤ (s.advance now).time) :
    let t := s.advance now
    let v := t.setUnit u ((t.unit u).captured t.time sect excess)
    execProbeCapture u now sect excess s = .next (if f32Le dB3 excess then v.fallback u 3 sect else v) := by
  intro t v
  have hexec : execProbeCapture u now sect excess s = .next (
      if (t.unit u).serving && f32Le dB3 excess then v.fallback u 3 sect else v) :=
    inRange_whenThen_of _ (decide_eq_true ⟨hu, hsect⟩) (by simp [hserving, hidle, hdue])
  rwa [hserving, Bool.true_and] at hexec

section Verdict
variable {rms err : BitVec 32} (hprobe : (s.unit u).probing = true)
include hprobe

/-- A probe within its bounds passes: on Hadamard vectors it counts toward the ten of a recovery, else it may drift. -/
theorem execProbeVerdict_passes (hrms : f32Le rms rmsMax = true) (herr : f32Le err errMax = true) :
    let m := (s.unit u).passed rms err s.dk.now
    let t := s.bump (slotMould 3 u) 1
    execProbeVerdict u rms err s = .next (
      if m.hadamard then
        if 10 ≤ m.passes + 1 then (t.setUnit u { m with passes := m.passes + 1 }).enterService u
        else t.setUnit u { m with passes := m.passes + 1 }
      else if 3 ≤ m.drifting rms then
        t.setUnit u { m with state := 2, reason := 5, calibrating := true, drift := 0, failures := 0 }
      else t.setUnit u { m with drift := m.drifting rms }) := by
  intro m t
  exact next_of_pos (inRange_whenThen_of _ (decide_eq_true hu) hprobe) (Bool.and_eq_true_iff.mpr ⟨hrms, herr⟩)

/-- A probe beyond a bound fails: a unit in service falls back, and another one's recovery has failed. -/
theorem execProbeVerdict_fails (hbad : f32Le rms rmsMax = false ∨ f32Le err errMax = false) :
    let v := (s.setUnit u { s.unit u with probing := false, rms := rms, maxErr := err }).bump (slotMould 4 u) 1
    execProbeVerdict u rms err s =
      .next (if (s.unit u).serving then v.fallback u 1 0xFF else v.failRecovery u) := by
  intro v
  have hout : ¬ (f32Le rms rmsMax && f32Le err errMax) = true := by
    rcases hbad with h | h <;> simp [h]
  exact next_of_neg (inRange_whenThen_of _ (decide_eq_true hu) hprobe) hout

end Verdict
end Units

/-- Settles O46: each clause is what one event of the unit comes to. -/
theorem mouldUnitsAreTunedAndProbed : Obligations.MouldUnitsAreTunedAndProbed := by
  refine ⟨?tuning, ?probes⟩
  case tuning =>
    intro s u hu m
    refine ⟨?load, ?lost, ?lostTuning, execCombStartDone_of_comb hu, ?search, ?dither,
      execRecalibrationDone_of_calibrating hu⟩
    case load =>
      intro now i k t hload hmat
      have hexec := execTileLoadDone_of_loading hu hload hmat
      refine ⟨fun hdone => ?_, fun hbefore => ?_⟩
      · exact hexec.trans (whenThen_of _ _ (decide_eq_true hdone))
      · exact hexec.trans (whenThen_not _ _ (decide_eq_false hbefore.not_ge))
    case lost =>
      intro hserving
      obtain ⟨h0, h6⟩ := MouldUnit.on_of_serving hserving
      exact next_of_pos (execCombLost_of_on hu h0 h6) hserving
    case lostTuning =>
      intro hserving h0 h6
      exact next_of_neg (execCombLost_of_on hu h0 h6) (ne_true_of_eq_false hserving)
    case search =>
      intro bus ring locked hbus hring hsearch r rest m1 m2
      have hexec := execRingSearchDone_tuning hu locked hbus hring hsearch
      refine ⟨fun htune hmore => ?_, fun htune hlast hlines => ?_⟩
      · exact next_of_neg (hexec htune) (mt List.isEmpty_iff.mp hmore)
      · exact next_of_neg (next_of_pos (hexec htune) (List.isEmpty_iff.mpr hlast)) hlines
    case dither =>
      intro bus ring hbus hring _ _ hcomb r hparked hsearched m1 m2 t
      have hwrong (hserving) := execRingDitherCheck_wrong hu hbus hring hserving hcomb hparked hsearched
      refine ⟨fun hserving hnone => ?_, fun hserving hlines => ?_, execRingDitherCheck_right hu hbus hring⟩
      · exact next_of_pos (hwrong hserving) hnone
      · exact next_of_neg (hwrong hserving) hlines
  case probes =>
    intro s u hu
    refine ⟨?capture, ?verdict⟩
    case capture =>
      intro now sect excess t m hsect hserving hidle hdue v
      have hexec := execProbeCapture_serving hu excess hsect hserving hidle hdue
      exact ⟨fun hlow => next_of_neg hexec (ne_true_of_eq_false hlow), next_of_pos hexec⟩
    case verdict =>
      intro rms err m0 hprobe m t drift
      refine ⟨fun hrms herr => ?_, fun hbad => ?_⟩
      · have hpass := execProbeVerdict_passes hu hprobe hrms herr
        refine ⟨fun hhad hfew => ?_, fun hhad hnine => ?_, fun hhad hdrift => ?_, fun hhad hdrift => ?_⟩
        · exact next_of_neg (next_of_pos hpass hhad) (mt Nat.le_of_succ_le_succ hfew.not_ge)
        · exact next_of_pos (next_of_pos hpass hhad) (Nat.succ_le_succ hnine)
        · exact next_of_neg (next_of_neg hpass (ne_true_of_eq_false hhad)) hdrift.not_ge
        · exact next_of_pos (next_of_neg hpass (ne_true_of_eq_false hhad)) hdrift
      · have hfail := execProbeVerdict_fails hu hprobe hbad
        exact ⟨next_of_pos hfail, fun hserving => next_of_neg hfail (ne_true_of_eq_false hserving)⟩

end Sys2Proof.Machine

/-! SUPPORT. What each event of a Felt link comes to where the link can meet it: sending and replay, receiving, credit, and the
lanes; each event once, then the statement about all of them. -/
namespace Sys2Proof.Machine

/-! ### Codewords off the link (R352) -/

/-- The data of a codeword that decodes, corrected or not. -/
def s144Data (c : BitVec 144) : Option Unit16 :=
  match s144Decode c with
  | .clean d => some d
  | .corrected d => some d
  | .bad _ => none

/-- The decoder has corrected the codeword. -/
def s144Corrected (c : BitVec 144) : Bool :=
  match s144Decode c with
  | .corrected _ => true
  | _ => false

/-- The receiver takes one codeword: the data decoded so far, newest first, whether it has met an uncorrectable one, and the
codewords corrected. -/
def rxDecode (a : List Unit16 × Bool × Nat) (c : BitVec 144) : List Unit16 × Bool × Nat :=
  if a.2.1 then a else
  match s144Decode c with
  | .clean d => (d :: a.1, false, a.2.2)
  | .corrected d => (d :: a.1, false, a.2.2 + 1)
  | .bad _ => (a.1, true, a.2.2)

theorem rxDecode_of_data {c : BitVec 144} {d : Unit16} (h : s144Data c = some d) (ds : List Unit16) (n : Nat) :
    rxDecode (ds, false, n) c = (d :: ds, false, n + (s144Corrected c).toNat) := by
  cases hc : s144Decode c <;> simp_all [s144Data, s144Corrected, rxDecode]

theorem rxDecode_of_bad {c : BitVec 144} {e : Unit16} (h : s144Decode c = .bad e) (ds : List Unit16) (n : Nat) :
    rxDecode (ds, false, n) c = (ds, true, n) := by
  simp only [rxDecode, h, Bool.false_eq_true, ↓reduceIte]

/-- Codewords that all decode are taken one by one. -/
theorem foldl_rxDecode_of_data {pre : List (BitVec 144)} {ds : List Unit16} (h : pre.mapM s144Data = some ds)
    (acc : List Unit16) (n : Nat) :
    pre.foldl rxDecode (acc, false, n) = (ds.reverse ++ acc, false, n + (pre.filter s144Corrected).length) := by
  induction pre generalizing ds acc n with
  | nil =>
    obtain rfl : [] = ds := Option.some.inj h
    rfl
  | cons c pre ih =>
    obtain ⟨d, hd, ds', hds, rfl⟩ : ∃ d, s144Data c = some d ∧ ∃ ds', pre.mapM s144Data = some ds' ∧ d :: ds' = ds := by
      simpa [List.mapM_cons, Option.bind_eq_some_iff] using h
    rw [List.foldl_cons, rxDecode_of_data hd, ih hds]
    cases hcorr : s144Corrected c <;> simp [hcorr, Nat.add_assoc, Nat.add_comm]

/-- Nothing behind an uncorrectable codeword is taken. -/
theorem foldl_rxDecode_of_error (post : List (BitVec 144)) (ds : List Unit16) (n : Nat) :
    post.foldl rxDecode (ds, true, n) = (ds, true, n) := by
  induction post with
  | nil => rfl
  | cons c post ih => exact ih

@[simp] theorem State.feltBump_link (s : State) (row l n m : Nat) : (s.feltBump row l n).link m = s.link m := by
  unfold State.feltBump State.bump
  split <;> rfl

/-- What the receiver makes of the codewords of a unit once they are decoded (R352). -/
theorem execLinkPacketReceive_decoded {s : State} {l : Nat} (hl : l < 24) (hdata : (s.link l).data = true)
    {cws : List (BitVec 144)} {ds : List Unit16} {bad : Bool} {n : Nat}
    (hdec : cws.foldl rxDecode ([], false, 0) = (ds, bad, n)) :
    let t := (s.feltBump 0 l n).parseRx (cws.length + 64) l ((s.link l).partialCw ++ ds.reverse)
    execLinkPacketReceive l cws s = .next (if bad then (t.feltBump 1 l 1).askReplay l else t) := by
  intro t
  have hexec : execLinkPacketReceive l cws s = inRange (l < 24) l (whenThen (s.link l).data s
      (let r := cws.foldl rxDecode ([], false, 0)
       let u := s.feltBump 0 l r.2.2
       let v := u.parseRx (cws.length + 64) l ((u.link l).partialCw ++ r.1.reverse)
       if r.2.1 then (v.feltBump 1 l 1).askReplay l else v)) := rfl
  rw [hexec, inRange_whenThen_of _ (decide_eq_true hl) hdata, hdec]
  simp only [State.feltBump_link, t]

/-! ### Sending, credit and replay (R353, R356, R357, R361) -/

/-- The oldest packet `p` of a channel may go out: the channel's credit, the limit of 2,048 packets and the port's replay
buffer allow it. -/
structure State.MaySend (s : State) (l vc : Nat) (p : Packet) (rest : List Packet) : Prop where
  channel : vc < 8
  data : (s.link l).data = true
  oldest : tgetD (s.link l).txq vc [] = p :: rest
  credit : creditOk (s.width l) (eight (s.link l).heldCw) vc p.length = true
  packets : (s.link l).unacked.length < 2048
  buffer : ((List.range 4).map (fun g => ((s.link (4 * linkPort l + g)).unacked.map (fun x => x.2.2.length)).sum)).sum
    + p.length ≤ 49152

/-- The link once it has sent its oldest packet `p` of a channel: the packet is kept for replay and spends credit. -/
def Link.sent (k : Link) (vc : Nat) (p : Packet) (rest : List Packet) : Link :=
  { k with txq := tset k.txq vc rest, unacked := k.unacked ++ [(k.txSeq, vc, stampLead p k.txSeq vc)],
           txSeq := (k.txSeq + 1) % 4096, heldCw := vcUpd k.heldCw vc (· + p.length) }

/-- A link of the package has sent `p`, and the package has counted it. -/
def State.countSent (s : State) (l vc : Nat) (p : Packet) (rest : List Packet) : State :=
  ((s.setLink l ((s.link l).sent vc p rest)).bump (slotRoute (6 + l)) (if vc = 7 then p.length else 0)).noteSent l vc p.length

/-- A packet enters a stretch on this link, so it goes only against the stretch's credit (R424). -/
def State.entersOn (s : State) (l vc : Nat) (p : Packet) : Bool := vc == 7 && hTransit p && (s.onStretch l).isNone

/-- Credit of the stretch that the packet enters is spent. -/
def State.spendStretch (s : State) (l : Nat) (p : Packet) : State :=
  { s with xfer := { s.xfer with
    stretchCredit := tupd s.xfer.stretchCredit (8 * l + hResume p) 0 (· - p.length) } }

/-- The link once it has received a credit codeword: what is acknowledged and freed no longer counts (R353, R356). -/
def Link.credited (k : Link) (cw : BitVec 128) : Link :=
  let passed := k.unacked.findIdx? (fun x => x.1 == bits cw 19 8)
  let freed := (List.range 8).map (fun v => bits cw (24 + 12 * v + 11) (24 + 12 * v))
  { k with
    unacked := (passed.map (fun i => k.unacked.drop (i + 1))).getD k.unacked
    replays := if passed.isSome then 0 else k.replays
    freedSeen := freed
    creditSeen := bits cw 23 20
    heldCw := (eight k.heldCw).zipIdx.map (fun h =>
      h.1 - ((freed[h.2]?).getD 0 + 4096 - ((eight k.freedSeen)[h.2]?).getD 0) % 4096) }

/-- Replay requests of one sequence in a row, with the one just received (R361). -/
def Link.requests (k : Link) (seq : Nat) : Nat := if k.replaySeq = seq ∧ k.replays ≠ 0 then k.replays + 1 else 1

/-- A replay begins: the lane map received last takes effect, and a marker goes out on every lit lane (R354, R361). -/
def State.startReplay (s : State) (l seq : Nat) : State :=
  let k := s.link l
  let map := k.nextMap.getD k.sendMap
  ((List.range 32).filter (fun i => map.toNat.testBit i)).foldl (fun s i => s.emit l (markerCw i (s.width l) l))
    (s.setLink l { k with replays := k.requests seq, replaySeq := seq, sendMap := map, nextMap := none })

section Packets
variable {s : State} {l : Nat} (hl : l < 24)
include hl

/-- A packet that may go out waits only for the credit of a stretch that it enters. -/
theorem execLinkPacketSend_of_maySend {vc : Nat} {p : Packet} {rest : List Packet} (h : s.MaySend l vc p rest) :
    let t := s.countSent l vc p rest
    execLinkPacketSend l vc s =
      whenThen (!s.entersOn l vc p || decide (p.length ≤ tgetD s.xfer.stretchCredit (8 * l + hResume p) 0)) s
        ((stampLead p (s.link l).txSeq vc).foldl (fun s cw => s.emit l cw)
          (if s.entersOn l vc p then t.spendStretch l p else t)) := by
  obtain ⟨hvc, hdata, hqueue, hcredit, hpackets, hbuffer⟩ := h
  have hunit : (decide (l < 24) && decide (vc < 8)) = true := by simp only [hl, hvc, decide_true, Bool.and_self]
  simp only [execLinkPacketSend, inRange_of _ _ hunit, hqueue, hdata, hcredit, hpackets, hbuffer, decide_true, Bool.true_and]
  rfl

/-- Whether a credit codeword frees what it acknowledges or has the link retrain is whether the link has missed three
before it (R357). -/
theorem execCreditCodewordReceive_of_credit (hdata : (s.link l).data = true) {cw : BitVec 128} (hkind : fld cw 0 1 = 2)
    (hreserved : fld cw 15 1 = 0) :
    execCreditCodewordReceive l cw s = .next (if 3 ≤ (bits cw 23 20 + 15 - (s.link l).creditSeen) % 16 then s.retrain l
      else s.setLink l ((s.link l).credited cw)) := by
  simp only [execCreditCodewordReceive, inRange_of, hl, hdata, hkind, hreserved, decide_true, beq_self_eq_true, Bool.and_self,
    whenThen_of, Link.credited]
  cases (s.link l).unacked.findIdx? (fun x => x.1 == bits cw 19 8) <;> rfl

/-- A replay request of a link that carries data retrains it, or replays from the requested packet on where it still holds
it (R353, R361). -/
theorem execReplayRequestReceive_of_request (hdata : (s.link l).data = true) {cw : BitVec 128} (hkind : fld cw 0 1 = 4)
    (hreserved : bits cw 127 20 = 0) :
    let k := s.link l
    let t := s.startReplay l (bits cw 19 8)
    execReplayRequestReceive l cw s = .next (if 8 ≤ k.requests (bits cw 19 8) then s.retrain l
      else (k.unacked.findIdx? (fun x => x.1 == bits cw 19 8)).elim t
        (fun i => (k.unacked.drop i).foldl (fun s x => x.2.2.foldl (fun s c => s.emit l c) s) t)) := by
  intro k t
  simp only [execReplayRequestReceive, inRange_of, hl, hdata, hkind, hreserved, decide_true, beq_self_eq_true, Bool.and_self,
    whenThen_of]
  cases (s.link l).unacked.findIdx? (fun x => x.1 == bits cw 19 8) <;> rfl

/-- A credit codeword goes out 64 ns after the last, or earlier where a channel has freed much (R357). -/
theorem execCreditSendTimer_due {now : Nat} : let t := s.advance now
    let k := t.link l
    k.data = true → k.changed = true → (k.creditAt + 64 ≤ t.time ∨ (eight k.freedSince).any (1024 ≤ ·) = true) →
    execCreditSendTimer l now s = .next ((t.setLink l { k with
      creditSeq := (k.creditSeq + 1) % 16, creditAt := t.time, changed := false, freedSince := [] }).emit l
        (creditCw (k.rxSeq + 4095) ((k.creditSeq + 1) % 16) (eight k.freed))) := by
  intro t k hdata hchanged hdue
  refine inRange_whenThen_of _ (decide_eq_true hl) ?_
  rw [Bool.and_eq_true, Bool.and_eq_true, Bool.or_eq_true, decide_eq_true_iff]
  exact ⟨⟨hdata, hchanged⟩, hdue⟩

/-- Whether a link that retrains is lost is whether 500 ms have passed (R354). -/
theorem execLinkRetrainTimeout_of_retraining {now b : Nat} (hretrain : ((s.advance now).link l).retrainAt = some b) :
    let t := s.advance now
    execLinkRetrainTimeout l now s = whenThen (decide (b + ms 500 ≤ t.time)) s (t.linkLost l) := by
  simp only [execLinkRetrainTimeout, inRange_of, hl, decide_true, hretrain]

end Packets

/-! ### Lanes (R348, R358, R359, R361 to R363) -/

/-- The lanes that a marker of another lane drops: this one and those of its bus above it (R348). -/
def busAbove (lane : Nat) : BitVec 32 :=
  BitVec.ofNat 32 ((List.range 8).foldl (fun m i => if lane % 8 ≤ i then m + 2 ^ (lane / 8 * 8 + i) else m) 0)

section Lanes
variable {s : State} {l : Nat} (hl : l < 24)
include hl

section Marker
variable {lane : Nat} {cw : BitVec 128} (hlane : lane < s.width l) (hstep : 5 ≤ (s.link l).step) (hkind : fld cw 0 1 = 3)
include hlane hstep hkind

/-- A marker of the lane's own begins its 100 ms where it is dark and has none running (R363). -/
theorem execLaneMarkerReceive_right (hown : fld cw 1 1 = lane) :
    execLaneMarkerReceive l lane cw s = .next
      (if !(s.link l).laneMap.toNat.testBit lane && (tget (s.link l).rejoin lane).isNone
        then s.setLink l { s.link l with rejoin := tset (s.link l).rejoin lane s.time } else s) := by
  have hother : ¬ fld cw 1 1 ≠ lane := not_not_intro hown
  simp only [execLaneMarkerReceive, inRange_of, hl, hlane, hstep, hkind, decide_true, beq_self_eq_true, Bool.and_self,
    whenThen_of, if_neg hother]

/-- A marker of another lane on a lit lane drops it and those of its bus above it (R348). -/
theorem execLaneMarkerReceive_wrong (hother : fld cw 1 1 ≠ lane) (hlit : (s.link l).laneMap.toNat.testBit lane = true) :
    execLaneMarkerReceive l lane cw s = .next (s.loseLanes l (busAbove lane)) := by
  simp only [execLaneMarkerReceive, inRange_of, hl, hlane, hstep, hkind, decide_true, beq_self_eq_true, Bool.and_self,
    whenThen_of, if_pos hother, if_pos hlit, busAbove]

end Marker

theorem execLaneMapReceive_of_map {cw : BitVec 128} (hstep : 5 ≤ (s.link l).step) (hkind : fld cw 0 1 = 6)
    (hreserved : fld cw 6 10 = 0) : execLaneMapReceive l cw s =
      .next (s.setLink l { s.link l with nextMap := some (BitVec.ofNat 32 (fld cw 1 4)) }) :=
  inRange_whenThen_of _ (decide_eq_true hl) (by simp only [hstep, hkind, hreserved]; rfl)

/-- Whether a dark lane rejoins is whether its 100 ms have passed (R363). -/
theorem execLaneRejoin_of_rejoining {lane now b : Nat} (hlane : lane < s.width l)
    (hrejoin : tget ((s.advance now).link l).rejoin lane = some b) :
    let t := s.advance now
    execLaneRejoin l lane now s = whenThen (decide (b + ms 100 ≤ t.time)) s
      ((t.setLink l { t.link l with rejoin := tdel (t.link l).rejoin lane }).newLanes l
        ((t.link l).laneMap ||| BitVec.ofNat 32 (2 ^ lane))) := by
  simp only [execLaneRejoin, inRange_of, hl, hlane, decide_true, Bool.and_self, hrejoin]

/-- A probe is echoed, and an echo gives the loop time (R358). -/
theorem execLoopProbeReceive_of_probe {cw : BitVec 128} {now : Nat} : let t := s.advance now
    5 ≤ (t.link l).step → fld cw 0 1 = 7 → bits cw 127 73 = 0 → execLoopProbeReceive l cw now s = .next
      (if bit cw 72 = true then t.setLink l { t.link l with loopNs := t.time - fld cw 1 8 + 584 }
        else t.emit l (probeCw (fld cw 1 8) true)) := by
  intro t hstep hkind hreserved
  exact inRange_whenThen_of _ (decide_eq_true hl) (by simp only [t, hstep, hkind, hreserved]; rfl)

end Lanes

/-- Settles O36: each clause is what one event of a link, or of one of its lanes, comes to. -/
theorem linksCarryPackets : Obligations.LinksCarryPackets := by
  refine ⟨?packets, ?lanes⟩
  case packets =>
    intro s l hl k
    refine ⟨?send, ?receive, ?credit, fun now => execCreditSendTimer_due hl, ?replay, ?retrain⟩
    case send =>
      intro vc p rest hvc hdata hqueue hcredit hpackets hbuffer q k' t enters key
      have hexec := execLinkPacketSend_of_maySend hl ⟨hvc, hdata, hqueue, hcredit, hpackets, hbuffer⟩
      refine ⟨fun hout => ?_, fun henters hroom => ?_⟩
      · have hout' : s.entersOn l vc p = false := hout
        rw [hout'] at hexec
        exact hexec
      · have henters' : s.entersOn l vc p = true := henters
        rw [henters'] at hexec
        exact hexec.trans (whenThen_of _ _ (decide_eq_true hroom))
    case receive =>
      intro pre ds hdata hds n t
      have hpre := foldl_rxDecode_of_data (ds := ds) hds [] 0
      rw [Nat.zero_add, List.append_nil] at hpre
      refine ⟨?whole, fun c e post hbad => ?cut⟩
      case whole =>
        have hexec := execLinkPacketReceive_decoded hl hdata hpre
        rw [List.reverse_reverse] at hexec
        exact hexec
      case cut =>
        have hdec : (pre ++ c :: post).foldl rxDecode ([], false, 0)
            = (ds.reverse, true, (pre.filter s144Corrected).length) := by
          rw [List.foldl_append, hpre, List.foldl_cons, rxDecode_of_bad hbad, foldl_rxDecode_of_error]
        have hexec := execLinkPacketReceive_decoded hl hdata hdec
        rw [List.reverse_reverse] at hexec
        exact hexec
    case credit =>
      intro cw hdata hkind hreserved
      have hexec := execCreditCodewordReceive_of_credit hl hdata hkind hreserved
      exact ⟨fun hfew => next_of_neg hexec hfew.not_ge, fun hmissed => next_of_pos hexec hmissed⟩
    case replay =>
      intro cw hdata hkind hreserved seq n map t
      have hexec := execReplayRequestReceive_of_request hl hdata hkind hreserved
      refine ⟨fun heighth => next_of_pos hexec heighth, fun hfew i hheld => ?_, fun hfew hgone => ?_⟩
      · exact (next_of_neg hexec hfew.not_ge).trans (by rw [hheld]; rfl)
      · exact (next_of_neg hexec hfew.not_ge).trans (by rw [hgone]; rfl)
    case retrain =>
      intro now b t hretrain
      have hexec := execLinkRetrainTimeout_of_retraining hl hretrain
      refine ⟨fun hdue => ?_, fun hbefore => ?_⟩
      · exact hexec.trans (whenThen_of _ _ (decide_eq_true hdue))
      · exact hexec.trans (whenThen_not _ _ (decide_eq_false hbefore.not_ge))
  case lanes =>
    intro s l hl k
    refine ⟨?loss, ?marker, fun cw => execLaneMapReceive_of_map hl, ?rejoin, ?probe, ?fclk⟩
    case loss =>
      intro lanes hstep
      exact inRange_whenThen_of _ (decide_eq_true hl) (decide_eq_true hstep)
    case marker =>
      intro lane cw hlane hstep hkind
      refine ⟨fun hown hdark hnone => ?_, fun hown hlit => ?_, execLaneMarkerReceive_wrong hl hlane hstep hkind⟩
      · exact next_of_pos (execLaneMarkerReceive_right hl hlane hstep hkind hown)
          (by rw [hdark, hnone]; rfl)
      · exact next_of_neg (execLaneMarkerReceive_right hl hlane hstep hkind hown) (by rw [hlit]; exact Bool.false_ne_true)
    case rejoin =>
      intro lane now b t hlane hrejoin
      have hexec := execLaneRejoin_of_rejoining hl hlane hrejoin
      refine ⟨fun hdue => ?_, fun hbefore => ?_⟩
      · exact hexec.trans (whenThen_of _ _ (decide_eq_true hdue))
      · exact hexec.trans (whenThen_not _ _ (decide_eq_false hbefore.not_ge))
    case probe =>
      intro cw now t hstep hkind hreserved
      have hexec := execLoopProbeReceive_of_probe hl hstep hkind hreserved
      exact ⟨fun hecho => next_of_pos hexec hecho, fun hprobe => next_of_neg hexec (ne_true_of_eq_false hprobe)⟩
    case fclk =>
      intro port hport
      exact inRange_of _ _ (decide_eq_true hport)

end Sys2Proof.Machine

/-! SUPPORT. How a Felt link comes up, what a discovery record does to it and what it is judged: each step and each kind of
record once, then the statement about all of them. -/
namespace Sys2Proof.Machine

/-! ### The steps of bring-up (R365) -/

/-- A link takes the steps of bring-up: the Felt domain is on, the link is on, and its port's mode has it. -/
structure State.Trains (s : State) (l : Nat) : Prop where
  domain : s.domOn 18 = true
  on : (s.link l).on = true
  has : s.linkHas l = true

theorem State.Trains.gate_open {s : State} {l : Nat} (h : s.Trains l) :
    (!s.domOn 18 || !(s.link l).on || !s.linkHas l) = false := by
  rw [h.domain, h.on, h.has]
  rfl

section Training
variable {s : State} {l now : Nat} (hl : l < 24)
include hl

section Lit
variable (htrains : (s.advance now).Trains l) (nonce : BitVec 128)
include htrains

/-- Before its lanes light, a link passes one step at a time. -/
theorem execLinkTrainingStep_early (hstep : ((s.advance now).link l).step < 4) : let t := s.advance now
    execLinkTrainingStep l nonce now s = .next (t.setLink l { t.link l with step := (t.link l).step + 1 }) := by
  simp only [execLinkTrainingStep, inRange_of, hl, htrains.gate_open, decide_true, Bool.false_eq_true, ↓reduceIte]
  split
  case h_6 => exact if_pos hstep
  all_goals omega

/-- In step 5 all the link's lanes light. -/
theorem execLinkTrainingStep_lights (hstep : ((s.advance now).link l).step = 4) : let t := s.advance now
    let all : BitVec 32 := BitVec.ofNat 32 (2 ^ t.width l - 1)
    execLinkTrainingStep l nonce now s = .next (t.setLink l { t.link l with step := 5, laneMap := all, sendMap := all }) := by
  simp only [execLinkTrainingStep, inRange_of, hl, htrains.gate_open, hstep, decide_true, Bool.false_eq_true, ↓reduceIte]

/-- In step 6 the link probes its loop time. -/
theorem execLinkTrainingStep_probes (hstep : ((s.advance now).link l).step = 5) : let t := s.advance now
    execLinkTrainingStep l nonce now s = .next ((t.setLink l { t.link l with step := 6 }).emit l (probeCw t.time false)) := by
  simp only [execLinkTrainingStep, inRange_of, hl, htrains.gate_open, hstep, decide_true, Bool.false_eq_true, ↓reduceIte]

/-- In step 7 the link sends its hello. -/
theorem execLinkTrainingStep_greets (hstep : ((s.advance now).link l).step = 6) : let t := s.advance now
    execLinkTrainingStep l nonce now s = .next ((t.setLink l { t.link l with
      step := 7, nonce := nonce, peerKey := none, idFailed := false, settled := false }).sendRecord l 1) := by
  simp only [execLinkTrainingStep, inRange_of, hl, htrains.gate_open, hstep, decide_true, Bool.false_eq_true, ↓reduceIte]

/-- Step 9 sends the settle record once every planned link has its proof, is missing or has failed identity. -/
theorem execLinkTrainingStep_settles (hstep : ((s.advance now).link l).step = 8) {p : Plan}
    (hplan : (s.advance now).felt.plan = some p) : let t := s.advance now
    p.entries.all (fun e => decide (8 ≤ (t.link e.link).step) || (t.link e.link).judged == 5 || (t.link e.link).idFailed)
      = true →
    execLinkTrainingStep l nonce now s = .next ((t.setLink l { t.link l with step := 9 }).sendRecord l 3) := by
  intro t hready
  simp only [execLinkTrainingStep, inRange_of, hl, htrains.gate_open, hstep, hplan, hready, whenThen_of, decide_true,
    Bool.false_eq_true, ↓reduceIte, t]

end Lit

/-- A planned link that has not completed step 5 by its limit is judged missing. -/
theorem execLinkMissingTimeout_due : let t := s.advance now
    t.domOn 18 = true → (t.planOf l).isSome = true → (t.link l).step < 5 → (t.link l).judged ≠ 5 →
    t.felt.litAt + ms 2000 ≤ t.time →
    execLinkMissingTimeout l now s =
      .next ((t.setLink l { t.link l with judged := 5 }).cableNotice l 2).feltCheck := by
  intro t hdom hplanned hstep hjudged hdue
  refine inRange_whenThen_of _ (decide_eq_true hl) ?_
  rw [Bool.and_eq_true, Bool.and_eq_true, Bool.and_eq_true, bne_iff_ne, decide_eq_true_iff]
  exact ⟨⟨⟨hdom, hplanned⟩, hstep, hdue⟩, hjudged⟩

end Training

/-! ### Discovery records (R368, R369, Table 8) -/

/-- Whether the record that a link sends is repeated is whether 1 ms has passed. -/
theorem execDiscoveryRepeatTimer_sending {s : State} {l now : Nat} (hl : l < 24)
    (hout : ((s.advance now).link l).outType ≠ 0) : let t := s.advance now
    execDiscoveryRepeatTimer l now s =
      whenThen (decide ((t.link l).sentAt + ms 1 ≤ t.time)) s (t.sendRecord l (t.link l).outType) := by
  simp only [execDiscoveryRepeatTimer, inRange_of, hl, decide_true, bne_iff_ne.mpr hout, Bool.true_and]

/-- The number in `n` bytes of a record from byte `o` on. -/
def recordField (r : List Byte) (o n : Nat) : Nat := leNat ((r.drop o).take n)

/-- The link that has received a hello knows its neighbour. -/
def Link.greeted (k : Link) (r : List Byte) : Link :=
  { k with
    peerSerial := BitVec.ofNat 64 (recordField r 8 8), peerPkg := recordField r 4 2,
    peerPhys := byteLink (recordField r 2 1), peerMode := recordField r 2 1 / 32 % 4,
    peerNonce := BitVec.ofNat 128 (recordField r 16 16),
    peerKey := Config.certKey ((r.drop 112).take (recordField r 6 2)) }

/-- The link that has received a settle record can be judged. -/
def Link.settledBy (k : Link) (r : List Byte) : Link :=
  { k with
    peerLogical := byteLink (recordField r 3 1), peerPkg := recordField r 4 2, settled := true,
    outType := if k.outType = 3 then 3 else k.outType }

/-- What a record that passes its checks does to the link: type 1 is a hello, 2 a proof, 3 a settle record. -/
def State.takeRecord (s : State) (l : Nat) (r : List Byte) : State :=
  let k := s.link l
  if recordField r 1 1 = 1 then (s.setLink l (k.greeted r)).sendRecord l 2
  else if recordField r 1 1 = 2 then
    if k.step = 7 then s.setLink l { k with step := 8, outType := if k.outType = 1 then 1 else 0 } else s
  else s.setLink l (k.settledBy r)

/-- A whole record on a link that exchanges records is taken, or fails identity. -/
theorem execDiscoveryRecordReceive_exchanging {s : State} {l : Nat} (hl : l < 24) {r : List Byte}
    (hstep : 7 ≤ (s.link l).step) (hlen : 112 ≤ r.length) (hversion : recordField r 0 1 = 1) :
    execDiscoveryRecordReceive l r s = .next (if recordOk (s.link l) r then s.takeRecord l r
      else s.setLink l { s.link l with idFailed := true, outType := 0 }) := by
  have hwhole : ¬ ((s.link l).step < 7 ∨ r.length < 112 ∨ recordField r 0 1 ≠ 1) := by omega
  refine (inRange_of _ _ (decide_eq_true hl)).trans ((if_neg hwhole).trans ?_)
  cases recordOk (s.link l) r with
  | false => rfl
  | true =>
    refine (if_neg Bool.false_ne_true).trans ?_
    by_cases hello : recordField r 1 1 = 1
    · exact (if_pos hello).trans (congrArg _ (if_pos hello).symm)
    by_cases proof : recordField r 1 1 = 2
    · exact (if_neg hello).trans ((if_pos proof).trans (congrArg _ ((if_neg hello).trans (if_pos proof)).symm))
    · exact (if_neg hello).trans ((if_neg proof).trans (congrArg _ ((if_neg hello).trans (if_neg proof)).symm))

/-! ### Judging (R370 to R372, Table 9) -/

section Judging
variable {s : State} {l : Nat}

/-- A link that is not swapped keeps its label. -/
theorem State.labelOf_of_no_swap (h : s.swapOf l = none) : s.labelOf l = l := by
  simp only [State.labelOf, h]

theorem State.judgement_of_idFailed (h : (s.link l).idFailed = true) : s.judgement l = 6 := by
  simp only [State.judgement, h, ↓reduceIte]

section NotSwapped
variable (hid : (s.link l).idFailed = false) (hswap : s.swapOf l = none)
include hid hswap

/-- A link that has not settled is missing where it is planned, and unused otherwise. -/
theorem State.judgement_of_not_settled (h : (s.link l).settled = false) :
    s.judgement l = if (s.planOf l).isSome then 5 else 7 := by
  simp only [State.judgement, hid, hswap, h, Bool.not_false, Bool.false_eq_true, ↓reduceIte]

/-- A settled link of no plan is mismatched. -/
theorem State.judgement_of_not_planned (h : (s.link l).settled = true) (hplan : s.planOf l = none) : s.judgement l = 4 := by
  simp only [State.judgement, hid, hswap, h, hplan, Bool.not_true, Bool.false_eq_true, ↓reduceIte]

/-- A settled, planned link is matched in place or mismatched, by what its neighbour says. -/
theorem State.judgement_of_planned (h : (s.link l).settled = true) {p : PlanEntry} (hplan : s.planOf l = some p) :
    s.judgement l = if (s.link l).peerSerial = p.serial ∧ (s.link l).peerLogical = p.expected
      ∧ (s.link l).peerMode = s.modeOf l then 1 else 4 := by
  simp only [State.judgement, hid, hswap, h, hplan, State.labelOf_of_no_swap hswap, Bool.not_true, Bool.false_eq_true,
    ↓reduceIte]

end NotSwapped

/-- Only a link that is matched in place or in an accepted swap carries data (R372). -/
theorem Link.judged_of_data {k : Link} (h : k.data = true) : k.judged = 1 ∨ k.judged = 2 := by
  simp only [Link.data, Bool.and_eq_true, Bool.or_eq_true, beq_iff_eq] at h
  obtain ⟨⟨⟨hjudged, -⟩, -⟩, -⟩ := h
  exact hjudged

/-- felt_ready holds once the Felt domain is on and no planned link is still to be judged (R436, R538). -/
theorem State.feltCheck_feltReady_iff (s : State) : s.feltCheck.host.feltReady = true ↔ s.domOn 18 = true
    ∧ ∀ p, s.felt.plan = some p → ∀ e ∈ p.entries, (s.link e.link).judged ≠ 0 := by
  cases hplan : s.felt.plan <;> simp [State.feltCheck, hplan]

/-- A link that has sent its settle record is judged. -/
theorem execLinkJudge_settled (hl : l < 24) (hhas : s.linkHas l = true) (hplan : s.felt.plan.isSome = true)
    (hstep : (s.link l).step = 9) : execLinkJudge l s = .next (s.judge l) :=
  inRange_whenThen_of _ (decide_eq_true hl) (by simp only [hhas, hplan, hstep]; rfl)

end Judging

/-- Settles O37: the clauses about events are the steps and records of one link, the others say what its judgement is. -/
theorem linksComeUpAndAreJudged : Obligations.LinksComeUpAndAreJudged := by
  refine ⟨?bringUp, ?judgement⟩
  case bringUp =>
    intro s l now hl t k
    refine ⟨?training, ?record, ?again, execLinkJudge_settled hl, execLinkMissingTimeout_due hl⟩
    case training =>
      intro nonce hdom hon hhas all
      have htrains : t.Trains l := ⟨hdom, hon, hhas⟩
      exact ⟨execLinkTrainingStep_early hl htrains nonce, execLinkTrainingStep_lights hl htrains nonce,
        execLinkTrainingStep_probes hl htrains nonce, execLinkTrainingStep_greets hl htrains nonce,
        fun hstep _ hplan => execLinkTrainingStep_settles hl htrains nonce hstep hplan⟩
    case record =>
      intro r k at2 hstep hlen hversion
      have hexec := execDiscoveryRecordReceive_exchanging hl hstep hlen hversion
      refine ⟨fun hfails => next_of_neg hexec (ne_true_of_eq_false hfails), fun hok htype => ?_, fun hok htype h7 => ?_,
        fun hok htype => ?_⟩
      · exact next_of_pos (next_of_pos hexec hok) htype
      · have hnot : ¬ recordField r 1 1 = 1 := fun h => absurd (h.symm.trans htype) (by decide)
        exact next_of_pos (next_of_pos (next_of_neg (next_of_pos hexec hok) hnot) htype) h7
      · have hnot1 : ¬ recordField r 1 1 = 1 := fun h => absurd (h.symm.trans htype) (by decide)
        have hnot2 : ¬ recordField r 1 1 = 2 := fun h => absurd (h.symm.trans htype) (by decide)
        exact next_of_neg (next_of_neg (next_of_pos hexec hok) hnot1) hnot2
    case again =>
      intro hout
      have hexec := execDiscoveryRepeatTimer_sending hl hout
      refine ⟨fun hdue => ?_, fun hbefore => ?_⟩
      · exact hexec.trans (whenThen_of _ _ (decide_eq_true hdue))
      · exact hexec.trans (whenThen_not _ _ (decide_eq_false hbefore.not_ge))
  case judgement =>
    intro s l
    refine ⟨State.judgement_of_idFailed, State.judgement_of_not_settled, State.judgement_of_not_planned, ?matched,
      Link.judged_of_data, s.feltCheck_feltReady_iff⟩
    case matched =>
      intro p hid hswap hsettled hplan
      rw [State.judgement_of_planned hid hswap hsettled hplan]
      split_ifs with hpeer
      · exact iff_of_true rfl hpeer
      · exact iff_of_false (by decide) hpeer

end Sys2Proof.Machine

/-! SUPPORT. What the Felt commands answer once their checks pass, and how the waiting codewords are sampled and folded into
maps: each once, then the statement about all of them. -/
namespace Sys2Proof.Machine

/-! ### Links changed twice -/

theorem tset_tset {α : Type} (t : Tab α) (k : Nat) (v w : α) : tset (tset t k v) k w = tset t k w := by
  induction t with
  | nil => simp [tset]
  | cons e r ih =>
    obtain ⟨i, x⟩ := e
    rcases Nat.lt_trichotomy k i with h | h | h
    · simp [tset, h]
    · simp [tset, h]
    · simp [tset, h.not_gt, h.ne', ih]

/-- Of two changes of a link the later one stays. -/
theorem State.setLink_setLink (s : State) (l : Nat) (k k' : Link) : (s.setLink l k).setLink l k' = s.setLink l k' := by
  simp only [State.setLink, tset_tset]

variable {s : State} {id : Nat} {c : CmdRec}

/-! ### FELT_PLAN (R366, R367) -/

/-- The plan whose head is the record `h` and whose entries are the records `es`. -/
def planOfRecords (h : BitVec 256) (es : List (BitVec 128)) : Plan :=
  { id := fld h 0 4, generation := fld h 4 4, pkg := fld h 16 2, modes := fld h 18 2, entries := es.map planEntry }

/-- A FELT_PLAN packet names a plan for this package with good fields, each link of which exists in its port's mode and stands
once (R366). -/
structure PlanChecked (p : BitVec 512) (h : BitVec 256) (es : List (BitVec 128)) (s : State) : Prop where
  head : s.hostRec 256 (fld p 24 8) = some h
  count : fld h 20 1 ≤ 24
  reads : (List.range (fld h 20 1)).mapM (fun i => s.hostRec 128 (fld p 24 8 + 32 + 16 * i)) = some es
  reserved : fld h 21 11 = 0 ∧ fld h 18 2 < 4096
  entries : ∀ e ∈ es, fld e 0 1 < 32 ∧ fld e 1 1 < 2 ∧ fld e 2 1 < 32 ∧ fld e 3 1 = 0 ∧ fld e 14 2 = 0
  aligned : fld p 24 8 % 64 = 0
  serial : BitVec.ofNat 64 (fld h 8 8) = Config.serial
  modes : (List.range 6).all (fun i => fld h 18 2 / 4 ^ i % 4 != 3) = true
  links : ∀ e ∈ es.map planEntry, e.link < 24 ∧ e.expected < 24
    ∧ linkGroup e.link < 2 ^ (fld h 18 2 / 4 ^ linkPort e.link % 4)
  once : noDup ((es.map planEntry).map PlanEntry.link) = true

/-- Past its other checks, a plan takes effect and is measured where it disturbs no link of a placed job (R367, R617). -/
theorem feltPlanBody_checked {h : BitVec 256} {es : List (BitVec 128)} (hplan : PlanChecked c.packet h es s) :
    feltPlanBody id c s = need (s.keepsSlice (planOfRecords h es)) (stConflict, 0) >>= fun _ =>
      okDone ((s.loadPlan (planOfRecords h es)).setMeasure 4 (sm3 (recBytes h ++ es.flatMap recBytes))) := by
  obtain ⟨hhead, hcount, hreads, hreserved, hentries, haligned, hserial, hmodes, hlinks, honce⟩ := hplan
  have hentries' := List.all_eq_true.mpr fun e he => decide_eq_true (hentries e he)
  have hlinks' := List.all_eq_true.mpr fun e he => decide_eq_true (hlinks e he)
  simp only [feltPlanBody, hhead, hcount, hreads, hreserved, hentries', haligned, hserial, hmodes, hlinks', honce, need_of,
    ok_bind, and_self, decide_true, Bool.and_self, ↓reduceIte]
  rfl

theorem feltPlanBody_keeps_slice {h : BitVec 256} {es : List (BitVec 128)} (hplan : PlanChecked c.packet h es s)
    (hkeeps : s.keepsSlice (planOfRecords h es) = true) : feltPlanBody id c s =
      okDone ((s.loadPlan (planOfRecords h es)).setMeasure 4 (sm3 (recBytes h ++ es.flatMap recBytes))) := by
  rw [feltPlanBody_checked hplan, need_of _ _ hkeeps, ok_bind]

theorem feltPlanBody_disturbs_slice {h : BitVec 256} {es : List (BitVec 128)} (hplan : PlanChecked c.packet h es s)
    (hdisturbs : s.keepsSlice (planOfRecords h es) = false) : feltPlanBody id c s = .error (stConflict, 0) := by
  rw [feltPlanBody_checked hplan, need_not _ _ hdisturbs, error_bind]

/-! ### FELT_LINK (R376) -/

/-- The link once it is turned on or retrained: it starts at the first step of bring-up. -/
def Link.restarted (k : Link) : Link :=
  { k with on := true, step := 1, again := k.judged != 0, settled := false, idFailed := false, laneMap := 0, sendMap := 0,
           peerKey := none, outType := 0 }

section FeltLink
variable {l : Nat} (hlink : byteLink (fld c.packet 24 1) = l) (hhas : s.linkHas l = true)
include hlink hhas

theorem feltLinkBody_starts (hact : fld c.packet 25 1 = 1 ∨ fld c.packet 25 1 = 2) :
    feltLinkBody id c s = okDone (s.setLink l (s.link l).restarted) := by
  have hle : fld c.packet 25 1 ≤ 2 := by omega
  have hne : fld c.packet 25 1 ≠ 0 := by omega
  simp only [feltLinkBody, hlink, hhas, hle, hne, need_of, ok_bind, decide_true, Bool.and_self, ↓reduceIte, State.onLink,
    Link.restarted]

section Down
variable (hact : fld c.packet 25 1 = 0)
include hact

/-- A link that the slice of a placed job uses is not turned off. -/
theorem feltLinkBody_down_used (hused : s.sliceLinks.contains l = true) :
    feltLinkBody id c s = .error (stConflict, 0) := by
  simp only [feltLinkBody, hlink, hhas, hact, hused, need_of, need_not, ok_bind, error_bind, Nat.zero_le, decide_true,
    Bool.and_self, Bool.not_true, ↓reduceIte]

theorem feltLinkBody_down_free (hfree : s.sliceLinks.contains l = false) :
    feltLinkBody id c s = .ok (.busy (s.setLink l { s.link l with on := false })) := by
  simp only [feltLinkBody, hlink, hhas, hact, hfree, need_of, ok_bind, Nat.zero_le, decide_true, Bool.and_self, Bool.not_false,
    ↓reduceIte, State.onLink]

end Down
end FeltLink

/-- A link that is off and has all its packets acknowledged goes dark. -/
theorem feltLinkDone_acknowledged {l : Nat} (hlink : byteLink (fld c.packet 24 1) = l) (hacked : (s.link l).unacked = []) :
    feltLinkDone id c (s.setLink l { s.link l with on := false }) = some ((stOk, 0), s.setLink l { s.link l with
      on := false, step := 0, oldSerial := 0, laneMap := 0, sendMap := 0, settled := false }) := by
  simp only [feltLinkDone, hlink, State.onLink, State.setLink_link, State.setLink_setLink, hacked, List.isEmpty_nil,
    ↓reduceIte]

/-! ### FELT_QUERY and FELT_CONG (R377, R428) -/

theorem feltQueryBody_aligned (halign : fld c.packet 24 8 % 32 = 0) : feltQueryBody id c s =
    okDone (s.hostWrite (fld c.packet 24 8) ((List.range 24).flatMap (fun l => recBytes (s.linkRecord l)))) := by
  simp only [feltQueryBody, halign, need_of, ok_bind, decide_true]

/-- FELT_CONG answers the sequence number of the first map that it writes. -/
theorem feltCongBody_maps (halign : fld c.packet 32 8 % 32 = 0) {m : Nat × List Byte} {r : List (Nat × List Byte)}
    (hmaps : s.xfer.congest.maps.filter (fun m => decide (fld c.packet 24 4 ≤ m.1)) = m :: r) :
    feltCongBody id c s = okDone (s.hostWrite (fld c.packet 32 8) ((m :: r).flatMap Prod.snd)) m.1 := by
  simp only [feltCongBody, halign, hmaps, need_of, ok_bind, decide_true]

/-! ### Congestion (R426, R427) -/

/-- While a map lacks samples, whether one is taken is whether 10 µs have passed. -/
theorem execCongestionSample_open {now : Nat} : let t := s.advance now
    let c := t.xfer.congest
    c.samples.length < 100 → execCongestionSample now s = whenThen (decide (c.sampleAt + us 10 ≤ t.time)) s
      { t with xfer := { t.xfer with congest := { c with samples := c.samples ++ [t.waitingCw], sampleAt := t.time } } } := by
  intro t c hopen
  simp only [execCongestionSample, hopen, true_and, c, t]

/-- The bytes of a congestion map from the samples in `s`: its head and the entries of the 24 links (Table 10). -/
def State.mapBytes (s : State) (draw : Nat) : List Byte :=
  let c := s.xfer.congest
  recBytes (mkRec 256 [(0, 4, (c.seq + 1) % 2 ^ 32), (4, 2, s.pkgId), (8, 8, c.startAt),
    (16, 4, s.job.job.elim 0 Job.generation), (20, 4, s.job.job.elim 0 Job.id)] : BitVec 256)
  ++ (List.range 24).flatMap (fun l => recBytes (s.mapEntry draw l))

theorem State.mapBytes_length (s : State) (draw : Nat) : (s.mapBytes draw).length = 800 := by
  have hentries : ((List.range 24).flatMap (fun l => recBytes (s.mapEntry draw l))).length = 24 * 32 :=
    (flatMap_length_const _ 32 _ fun _ _ => leBytes_length _ _).trans (by rw [List.length_range])
  rw [State.mapBytes, List.length_append, hentries, recBytes, leBytes_length]

/-- The samples have become the map `m`, of which the last 64 are kept; the next ones begin at `now`. -/
def Congest.folded (c : Congest) (now : Nat) (m : List Byte) : Congest :=
  let maps := c.maps ++ [((c.seq + 1) % 2 ^ 32, m)]
  { c with samples := [], seq := (c.seq + 1) % 2 ^ 32, startAt := now, maps := maps.drop (maps.length - 64), sent := [] }

theorem Congest.folded_maps (c : Congest) (now : Nat) (m : List Byte) :
    (c.folded now m).maps = (c.maps ++ [((c.seq + 1) % 2 ^ 32, m)]).drop (c.maps.length + 1 - 64) := by
  rw [Congest.folded, List.length_append, List.length_singleton]

/-- A hundred samples become a map. -/
theorem execCongestionMapFold_full {now : Nat} : let t := s.advance now
    let u := t.draw.2
    t.xfer.congest.samples.length = 100 → execCongestionMapFold now s = .next { u with xfer := { u.xfer with
      congest := t.xfer.congest.folded u.dk.now (u.mapBytes t.draw.1) } } := by
  intro t u hfull
  exact whenThen_of _ _ (decide_eq_true hfull)

/-- Settles O42: the checks decide FELT_PLAN, FELT_QUERY and FELT_CONG, the link's use and its packets FELT_LINK; the number of
samples decides what the congestion timers do. -/
theorem feltCommandsAndCongestion : Obligations.FeltCommandsAndCongestion := by
  refine ⟨?commands, ?congestion⟩
  case commands =>
    intro s id c t
    refine ⟨?plan, ?link, ?query, ?cong⟩
    case plan =>
      intro h es hready a modes ps hhead hcount _ hreads hreserved hmodes hentries haligned hserial hgood hlinks honce plan
      have hchecked : PlanChecked c.packet h es t :=
        ⟨hhead, hcount, hreads, ⟨hreserved, hmodes⟩, hentries, haligned, hserial, hgood, hlinks, honce⟩
      exact ⟨fun hkeeps => jeisk_done hready (feltPlanBody_keeps_slice hchecked hkeeps),
        fun hdisturbs => jeisk_error hready (feltPlanBody_disturbs_slice hchecked hdisturbs)⟩
    case link =>
      intro hready l k hhas
      refine ⟨fun hact => ?_, fun hact hfree hacked => ?_, fun hact hused => ?_⟩
      · exact jeiskWait_now hready (feltLinkBody_starts rfl hhas hact)
      · exact jeiskWait_done hready (feltLinkBody_down_free rfl hhas hact hfree) (feltLinkDone_acknowledged rfl hacked)
      · exact jeiskWait_error hready (feltLinkBody_down_used rfl hhas hact hused)
    case query =>
      intro hready halign
      exact jeisk_done hready (feltQueryBody_aligned halign)
    case cong =>
      intro hready halign m r hmaps
      exact jeisk_done hready (feltCongBody_maps halign hmaps)
  case congestion =>
    intro s now t c
    refine ⟨fun hopen hdue => ?_, fun hopen hbefore => ?_, fun hfull => ?_, fun hopen => ?_⟩
    · exact (execCongestionSample_open hopen).trans (whenThen_of _ _ (decide_eq_true hdue))
    · exact (execCongestionSample_open hopen).trans (whenThen_not _ _ (decide_eq_false hbefore.not_ge))
    · exact ⟨_, _, execCongestionMapFold_full hfull, rfl, rfl, t.draw.2.mapBytes_length t.draw.1, c.folded_maps _ _⟩
    · exact whenThen_not _ _ (decide_eq_false hopen)

end Sys2Proof.Machine

/-! SUPPORT. How a placement is handed to the lead, decided there and installed: JOB_PLACE, the digests, the decisions and the
time limit, each once; then the statement about all of them. -/
namespace Sys2Proof.Machine

/-! ### What sending and hearing leave as they were -/

/-- Telling the members a decision changes no host state, so the package keeps its id. -/
theorem State.sendDecisions_host (s : State) (j : Job) (f : Nat → Decision) : (s.sendDecisions j f).host = s.host :=
  List.foldlRecOn (motive := fun u : State => u.host = s.host) _ _ rfl fun u hu m _ => by
    split
    · exact hu
    · rw [State.send_host, hu]

theorem State.sendDecisions_pkgId (s : State) (j : Job) (f : Nat → Decision) : (s.sendDecisions j f).pkgId = s.pkgId := by
  rw [State.pkgId, State.sendDecisions_host, State.pkgId]

/-- The digest of a package has been heard; an earlier one of that package is forgotten. -/
def State.hear (s : State) (h : Heard) : State :=
  { s with job := { s.job with heard := h :: s.job.heard.filter (fun x => x.pkg != h.pkg) } }

/-! ### The lead's decision (R107, R387, R474) -/

section Lead
variable {s : State} {p : Placing}

theorem State.tryPlace_of_not_placing (h : s.job.placing = none) : s.tryPlace = s := by
  simp only [State.tryPlace, h]

section Complete
variable (hplacing : s.job.placing = some p) (hlead : p.job.lead = s.pkgId)
  (hall : p.job.members.all (fun m => (s.heardOf m.pkg).isSome) = true)
include hplacing hlead hall

/-- With every member's digest heard, a block that passes the lead's checks is placed and reported. -/
theorem State.tryPlace_places {j : Job} (hjudge : s.judgePlace p.job = .ok j) :
    s.tryPlace = (((s.sendDecisions j (fun i => j.decision i none)).placeHere j
      (j.circuits ((j.pos s.pkgId).getD 0))).hostWrite j.report j.reportBytes).finish p.cmd (stOk, j.ringBits) := by
  simp only [State.tryPlace, hplacing, hlead, hall, hjudge, State.sendDecisions_pkgId, ne_eq, not_true_eq_false,
    Bool.not_true, Bool.false_eq_true, or_self, ↓reduceIte]

/-- With every member's digest heard, a block that fails one of the lead's checks comes to nothing. -/
theorem State.tryPlace_fails {st : Cause} (hjudge : s.judgePlace p.job = .error st) : s.tryPlace = s.placeFails p st := by
  simp only [State.tryPlace, hplacing, hlead, hall, hjudge, ne_eq, not_true_eq_false, Bool.not_true, Bool.false_eq_true,
    or_self, ↓reduceIte]

end Complete

/-- On the lead, whether a placement that lacks a member's digest ends is whether its 10 s have passed. -/
theorem execJobPlaceTimeout_incomplete {now : Nat} : let t := s.advance now
    t.job.placing = some p → p.job.lead = t.pkgId → p.job.members.all (fun m => (t.heardOf m.pkg).isSome) = false →
    execJobPlaceTimeout p.cmd now s =
      whenThen (decide (p.since + sec 10 ≤ t.time)) s (t.placeFails p (stTimeout, 0)) := by
  intro t hplacing hlead hmissing
  simp only [execJobPlaceTimeout, t, hplacing, hlead, hmissing, beq_self_eq_true, Bool.true_and, Bool.not_false, Bool.and_true]

/-- A decision ends the JOB_PLACE that waits: with its status where it places nothing, with the ring bits where it fits the
block. -/
theorem execPlacementDecisionReceive_placing (hplacing : s.job.placing = some p) (d : Decision) :
    execPlacementDecisionReceive d s = if d.status ≠ 0
      then .next (State.finish { s with job := { s.job with placing := none, heard := [] } } p.cmd (d.status, d.detail))
      else whenThen (p.job.fits d && d.digest == p.job.digest) s
        ((s.placeHere (p.job.take d) d.circuits).finish p.cmd (stOk, (p.job.take d).ringBits)) := by
  simp only [execPlacementDecisionReceive, hplacing]

end Lead

/-! ### JOB_PLACE (R388, R473) -/

variable {s : State} {id : Nat} {c : CmdRec}

/-- The header of a placement block, from its bytes. -/
def blockHeader (hb : List Byte) : BitVec 1024 := BitVec.ofNat 1024 (leNat hb)

/-- The entries behind the header `h`: its members, then its shards. -/
def blockEntries (h : BitVec 1024) (bs : List Byte) : List (BitVec 128) :=
  (chunks (fld h 8 2 + fld h 12 4) 16 bs).map (fun l => BitVec.ofNat 128 (leNat l))

/-- The job that the header bytes `hb` and the entry bytes `bs` name. -/
def jobOfBlock (hb bs : List Byte) : Job :=
  let h := blockHeader hb
  blockJob h ((blockEntries h bs).take (fld h 8 2)) ((blockEntries h bs).drop (fld h 8 2)) (hb ++ bs)

/-- A JOB_PLACE packet names a block that can be read, with good reserved fields, at an aligned address. -/
structure BlockChecked (p : BitVec 512) (hb bs : List Byte) (s : State) : Prop where
  head : s.hostRead (fld p 24 8) 128 = some hb
  entries : s.hostRead (fld p 24 8 + 128) (16 * (fld (blockHeader hb) 8 2 + fld (blockHeader hb) 12 4)) = some bs
  members : 1 ≤ fld (blockHeader hb) 8 2 ∧ fld (blockHeader hb) 8 2 ≤ 4096
  shards : fld (blockHeader hb) 12 4 ≤ 262144
  reserved : placeReservedOk (blockHeader hb) ((blockEntries (blockHeader hb) bs).take (fld (blockHeader hb) 8 2))
    ((blockEntries (blockHeader hb) bs).drop (fld (blockHeader hb) 8 2)) = true
  aligned : fld p 24 8 % 64 = 0 ∧ (jobOfBlock hb bs).report % 32 = 0

/-- JOB_PLACE `id` waits for the placement of `j`. -/
def State.awaitPlacement (s : State) (id : Nat) (j : Job) : State :=
  { s with job := { s.job with placing := some { cmd := id, job := j, since := s.time } } }

/-- This package's block digest reaches the lead, with what its links show. -/
def State.handIn (s : State) (j : Job) : State :=
  if j.lead = s.pkgId
  then (s.hear { pkg := s.pkgId, digest := j.digest, links := s.seenLinks, serial := Config.serial }).tryPlace
  else s.send (.digest j.lead j.digest s.seenLinks Config.serial)

section Block
variable {hb bs : List Byte} (h : BlockChecked c.packet hb bs s)
include h

/-- Past the checks of its block, JOB_PLACE asks for the limits of R473 and a package free to be placed. -/
theorem jobPlaceBody_checked : jobPlaceBody id c s =
    need ((jobOfBlock hb bs).limits (fld (blockHeader hb) 8 2) (fld (blockHeader hb) 12 4)
      && ((jobOfBlock hb bs).pos s.pkgId).isSome) (stBadParam, 0) >>= fun _ =>
    need (s.job.job.isNone && s.job.placing.isNone) (stConflict, 0) >>= fun _ =>
    .ok (.busy ((s.awaitPlacement id (jobOfBlock hb bs)).handIn (jobOfBlock hb bs))) := by
  obtain ⟨hhead, hentries, ⟨hsome, hmost⟩, hshards, hreserved, haligned⟩ := h
  simp only [jobOfBlock, blockEntries, blockHeader] at hentries hsome hmost hshards hreserved haligned
  simp only [jobPlaceBody, hhead, hentries, hsome, hmost, hshards, hreserved, haligned, need_of, ok_bind, and_self, decide_true,
    ↓reduceIte, State.handIn, apply_ite Work.busy, apply_ite Except.ok]
  rfl

theorem jobPlaceBody_over_limits
    (hlimits : (jobOfBlock hb bs).limits (fld (blockHeader hb) 8 2) (fld (blockHeader hb) 12 4) = false) :
    jobPlaceBody id c s = .error (stBadParam, 0) := by
  rw [jobPlaceBody_checked h, hlimits, Bool.false_and, need_not _ _ rfl, error_bind]

theorem jobPlaceBody_within_limits
    (hlimits : (jobOfBlock hb bs).limits (fld (blockHeader hb) 8 2) (fld (blockHeader hb) 12 4) = true)
    (hmember : ((jobOfBlock hb bs).pos s.pkgId).isSome = true) (hjob : s.job.job = none) (hplacing : s.job.placing = none) :
    jobPlaceBody id c s = .ok (.busy ((s.awaitPlacement id (jobOfBlock hb bs)).handIn (jobOfBlock hb bs))) := by
  rw [jobPlaceBody_checked h, hlimits, hmember, hjob, hplacing]
  rfl

end Block

/-- Settles O33: the block's checks and the lead decide JOB_PLACE, once every digest has come (log 44); the digests, the decision
and the time limit end it. -/
theorem placementIsDecided : Obligations.PlacementIsDecided := by
  refine ⟨fun s id c => ⟨?submits, ?hears, ?late⟩, ?decided⟩
  case submits =>
    intro hb bs hready a h nm ns es j t hhead hentries hsome hmost hshards hreserved haligned hreport
    have hchecked : BlockChecked c.packet hb bs t :=
      ⟨hhead, hentries, ⟨hsome, hmost⟩, hshards, hreserved, haligned, hreport⟩
    refine ⟨?_, fun hlimits => jeisk_error hready (jobPlaceBody_over_limits hchecked hlimits)⟩
    intro hlimits hmember hjob hplacing u
    have hsubmits : exec (.jobPlace id) s = .next (u.handIn j) :=
      jeisk_busy hready (jobPlaceBody_within_limits hchecked hlimits hmember hjob hplacing)
    exact ⟨fun hother => next_of_neg hsubmits hother, fun hlead => next_of_pos hsubmits hlead⟩
  case hears =>
    intro pkg digest links serial h t
    exact ⟨rfl, State.tryPlace_of_not_placing (s := t), fun p hplacing hlead hall =>
      ⟨fun _ => State.tryPlace_places (s := t) hplacing hlead hall,
        fun _ => State.tryPlace_fails (s := t) hplacing hlead hall⟩⟩
  case late =>
    rintro now p t hplacing rfl hlead hdue hmissing
    exact (execJobPlaceTimeout_incomplete hplacing hlead hmissing).trans (whenThen_of _ _ (decide_eq_true hdue))
  case decided =>
    intro s p d hplacing
    have hexec := execPlacementDecisionReceive_placing hplacing d
    refine ⟨fun hfails => hexec.trans (if_pos hfails), ?_⟩
    intro hplaces hfits hdigest j
    refine ⟨?_, rfl, rfl, rfl, rfl, rfl⟩
    exact (hexec.trans (if_neg (not_not_intro hplaces))).trans
      (whenThen_of _ _ (Bool.and_eq_true_iff.mpr ⟨hfits, beq_iff_eq.mpr hdigest⟩))

end Sys2Proof.Machine

/-! SUPPORT. PUT and GET, and the packets that carry them: each command's start, and each kind of packet at its destination, once;
then the statement about all of them. -/
namespace Sys2Proof.Machine

variable {s t : State} {id : Nat} {c : CmdRec} {e : Extent}

/-! ### Members of the job (R418, R471) -/

theorem needJob_of_me {m : Job × Nat} (h : s.me = some m) : needJob s = .ok () := by
  refine need_of _ _ ?_
  cases hjob : s.job.job with
  | none => simp [State.me, hjob] at h
  | some _ => rfl

section Member
variable {j : Job} {i pkg : Nat} (hme : s.me = some (j, i))
include hme

theorem needMember_of_pos_none (h : j.pos pkg = none) : needMember s pkg = .error (stBadParam, 0) := by
  simp only [needMember, hme, h, Option.isSome_none, need_not, error_bind]

theorem needMember_of_fenced (h : (j.pos pkg).isSome = true) (hfenced : s.isFenced pkg = true) :
    needMember s pkg = .error (stFenced, 0) := by
  have hout : s.fail.fenced.any (fun f => f.1 == pkg) = true := hfenced
  simp only [needMember, hme, h, hout, need_of, need_not, ok_bind, Bool.not_true]

end Member

/-! ### PUT and GET (R413, R414) -/

/-- A PUT's or GET's packet `p` names whole units, an unfenced member, and a range of this package's, `e`. -/
structure TransferChecked (id : Nat) (p : BitVec 512) (e : Extent) (s : State) : Prop where
  whole : fld p 38 6 % 16 = 0
  job : needJob s = .ok ()
  member : needMember s (fld p 24 2) = .ok ()
  range : s.rangeFor id (fld p 44 4) (fld p 48 6) (fld p 38 6) = .ok e

/-- The header of what a PUT or GET `id` sends to the package that its packet names. -/
def State.transferHdr (s : State) (id : Nat) (p : BitVec 512) (type : Nat) (last bad : Bool) : Hdr :=
  { dst := fld p 24 2, src := s.pkgId, via := fld p 24 2, type := type, last := last, poison := bad, tagged := false,
    stable := false, xfer := id % 2 ^ 32 }

/-- PUT issues the units `us` in packets of at most 62, each at its offset; the last carries the count of all. -/
def State.issuePut (s : State) (id : Nat) (c : CmdRec) (us : List Unit16) (bad : Bool) : State :=
  let k := c.packet
  let n := fld k 38 6 / 16
  let parts := (chunks n 62 us).zipIdx
  parts.foldl (fun s p =>
    let last := decide (p.2 + 1 = parts.length)
    let o := fld k 32 6 + 992 * p.2
    s.issueReq c.ctx id (s.transferHdr id k tyData last bad) (o / 16)
      (xferHdr o (fld k 28 4 + fld k 26 2 * 2 ^ 32) (if last then n else 0) :: p.1))
    (s.setOne id { get_ := false, pkg := fld k 24 2, units := n, acked := 0, status := if bad then stDataError else 0 })

/-- GET issues its reads, each of at most 62 units, with the offset at which the answer lands. -/
def State.issueGet (s : State) (id : Nat) (c : CmdRec) : State :=
  let k := c.packet
  let n := fld k 38 6 / 16
  (List.range (ceilDiv n 62)).foldl (fun s i =>
    s.issueReq c.ctx id (s.transferHdr id k tyRead false false) (62 * i)
      [mkRec 128 [(0, 6, fld k 32 6 + 992 * i), (6, 2, Min.min 62 (n - 62 * i)), (8, 4, fld k 28 4)],
       mkRec 128 [(0, 6, 992 * i)]])
    (s.setOne id { get_ := true, pkg := fld k 24 2, units := n, acked := 0, status := 0 })

/-- A PUT past its checks reads its bytes and issues them; one of no bytes is done. -/
theorem putBody_checked (h : TransferChecked id c.packet e s) (halign : fld c.packet 32 6 % 16 = 0)
    (hplane : s.lowPlane (fld c.packet 44 4) (fld c.packet 48 6) (fld c.packet 38 6) = false) {bs : List Byte} {bad : Bool}
    {u : State} (hread : s.extRead e (fld c.packet 48 6) (fld c.packet 38 6) = (bs, bad, u)) :
    let len := fld c.packet 38 6
    let v := (u.addOp c.ctx wDramRead len).addOp c.ctx wFeltTx len
    putBody id c s = if len = 0 then okDone v else .ok (.busy (v.issuePut id c (toUnits bs) bad)) := by
  obtain ⟨hwhole, hjob, hmember, hrange⟩ := h
  simp only [putBody, hwhole, halign, hjob, hmember, hrange, hplane, hread, need_of, ok_bind, and_self, decide_true,
    Bool.not_false]
  rfl

/-- A GET past its checks issues its reads; one of no bytes is done. -/
theorem getBody_checked (h : TransferChecked id c.packet e s) (hguard : s.writeGuarded (fld c.packet 44 4) = false) :
    getBody id c s = if fld c.packet 38 6 = 0 then okDone s else .ok (.busy (s.issueGet id c)) := by
  obtain ⟨hwhole, hjob, hmember, hrange⟩ := h
  simp only [getBody, hwhole, hjob, hmember, hrange, hguard, need_of, ok_bind, decide_true, Bool.not_false]
  rfl

/-- A PUT to a package that is no unfenced member is turned away. -/
theorem putBody_of_needMember_error {m : Job × Nat} {st : Cause} (hwhole : fld c.packet 38 6 % 16 = 0)
    (halign : fld c.packet 32 6 % 16 = 0) (hme : s.me = some m) (h : needMember s (fld c.packet 24 2) = .error st) :
    putBody id c s = .error st := by
  simp only [putBody, hwhole, halign, needJob_of_me hme, h, need_of, ok_bind, error_bind, and_self, decide_true]

/-! ### Packets at their destination (R384, R389) -/

section Arrival
variable {l vc : Nat} {pkt p : Packet}

/-- A packet of a wrong length, or with a reserved field set, is discarded and counted. -/
theorem State.refusePkt_malformed (h : (!pktLenOk p || !pktFieldsOk p) = true) :
    s.refusePkt vc p = some (s.bump (slotRoute 0) 1) := if_pos h

section Data
variable (harr : s.arrival [tyData, tyRData] pkt = some ((l, vc, p), t))
include harr

theorem execDataReceive_refused {u : State} (hrefuse : t.refusePkt vc p = some u) : execDataReceive pkt s = .next u := by
  simp only [execDataReceive, harr, hrefuse]

section Good
variable (hgood : t.refusePkt vc p = none)
include hgood

/-- What a circuit delivers is a collective's. -/
theorem execDataReceive_collective (hvc : 5 ≤ vc) : execDataReceive pkt s = .next (t.landData p) := by
  simp only [execDataReceive, harr, hgood, hvc, ↓reduceIte]

theorem execDataReceive_put (hvc : vc < 5) (htype : hType p = tyData) :
    execDataReceive pkt s = .next (t.putArrival p) := by
  simp only [execDataReceive, harr, hgood, hvc.not_ge, htype, show tyData ≠ tyRData by decide, ↓reduceIte]

theorem execDataReceive_get (hvc : vc < 5) (htype : hType p = tyRData) :
    execDataReceive pkt s = .next (t.getArrival p) := by
  simp only [execDataReceive, harr, hgood, hvc.not_ge, htype, ↓reduceIte]

end Good
end Data

/-- DATA of a PUT is stored at its offset and counted as received. -/
def State.storePut (s : State) (e : Extent) (p : Packet) : State :=
  ((s.extWrite e (tOff p) (pktData p)).addOp 1024 wDramWrite (16 * pktUnits p)).addOp 1024 wFeltRx (16 * pktUnits p)

/-- DATA of a PUT to a range of this package is stored, counted in its token and acknowledged, unless the range is guarded. -/
theorem State.putArrival_in_range (hrange : s.range (tArg p % 2 ^ 32) (tOff p) (16 * pktUnits p) = .ok e) :
    s.putArrival p = if s.writeGuarded (tArg p % 2 ^ 32) then s.ack (hSrc p) (hXfer p) (pktUnits p) stConflict
      else (if tArg p / 2 ^ 32 = 0xFFFF then s.storePut e p
        else (s.storePut e p).addToken (tArg p / 2 ^ 32) (pktUnits p)).ack (hSrc p) (hXfer p) (pktUnits p) stOk := by
  simp only [State.putArrival, hrange, State.storePut]

/-- The record of a GET once `n` more units of it have landed. -/
def OneSided.landed (o : OneSided) (n : Nat) (bad : Bool) : OneSided :=
  { o with acked := o.acked + n, status := if bad then stDataError else o.status }

/-- RDATA of a GET lands at its offset and completes the GET with its last unit. -/
theorem State.getArrival_lands {o : OneSided} (hone : s.oneOf (hXfer p) = some (id, o))
    (hcmd : (s.trkFree id).cmd id = some c) (hget : o.get_ = true) (hfits : tOff p + 16 * pktUnits p ≤ fld c.packet 38 6)
    (hunits : o.acked + pktUnits p ≤ o.units)
    (hrange : (s.trkFree id).range (fld c.packet 44 4) (fld c.packet 48 6) (fld c.packet 38 6) = .ok e) :
    let n := pktUnits p
    let v := (((s.trkFree id).extWrite e (fld c.packet 48 6 + tOff p) (pktData p)).addOp c.ctx wDramWrite (16 * n)).addOp
      c.ctx wFeltRx (16 * n)
    let o' := o.landed n (hPoison p)
    s.getArrival p = if o.acked + n = o.units then v.endOne id (o'.status, 0) else v.setOne id o' := by
  have hok : ¬ ((!o.get_) = true ∨ fld c.packet 38 6 < tOff p + 16 * pktUnits p ∨ o.units < o.acked + pktUnits p) := by
    simp only [hget, hfits.not_gt, hunits.not_gt, Bool.not_true, Bool.false_eq_true, or_self, not_false_eq_true]
  simp only [State.getArrival, hone, hcmd, if_neg hok, hrange, OneSided.landed]

/-- A READ of bytes that the fabric may read is answered with them, one of other bytes with ST_BAD_PARAM. -/
theorem execReadReceive_in_range (harr : s.arrival [tyRead] pkt = some ((l, vc, p), t)) (hgood : t.refusePkt vc p = none)
    (hsome : 1 ≤ fld (pktCw p 1) 6 2) (hmost : fld (pktCw p 1) 6 2 ≤ 62)
    (hrange : t.range (fld (pktCw p 1) 8 4) (fld (pktCw p 1) 0 6) (16 * fld (pktCw p 1) 6 2) = .ok e) :
    let off := fld (pktCw p 1) 0 6
    let n := fld (pktCw p 1) 6 2
    let land := fld (pktCw p 2) 0 6
    execReadReceive pkt s = .next (
      if !e.fabricRead then t.ack (hSrc p) (hXfer p) n stBadParam
      else if t.lowPlane (fld (pktCw p 1) 8 4) off (16 * n) then t.ack (hSrc p) (hXfer p) n stConflict
      else
        let r := t.extRead e off (16 * n)
        ((r.2.2.addOp 1024 wDramRead (16 * n)).addOp 1024 wFeltTx (16 * n)).launchPkt 3
          { dst := hSrc p, src := r.2.2.pkgId, via := hSrc p, type := tyRData, last := false, poison := r.2.1,
            tagged := false, stable := false, xfer := hXfer p } (land / 16) (xferHdr land 0 0 :: toUnits r.1)) := by
  have hcount : ¬ (fld (pktCw p 1) 6 2 = 0 ∨ 62 < fld (pktCw p 1) 6 2) := by omega
  simp only [execReadReceive, harr, hgood, if_neg hcount, hrange, State.pkgId, State.addOp_host, apply_ite Host.Outcome.next]

/-- The record of a PUT once `n` more units of it have been acknowledged with a status. -/
def OneSided.acknowledged (o : OneSided) (n st : Nat) : OneSided :=
  { o with acked := o.acked + n, status := Max.max o.status st }

/-- An ACK of a PUT counts its units, and completes it with the last. -/
theorem execAckReceive_put (harr : s.arrival [tyAck] pkt = some ((l, vc, p), t)) (hgood : t.refusePkt vc p = none)
    {o : OneSided} (hone : t.oneOf (hXfer p) = some (id, o)) (hput : o.get_ = false) :
    let o' := o.acknowledged (fld (pktCw p 1) 0 4) (fld (pktCw p 1) 4 2)
    execAckReceive pkt s = .next (
      if o'.units ≤ o'.acked then (t.trkFree id).endOne id (o'.status, 0) else (t.trkFree id).setOne id o') := by
  simp only [execAckReceive, harr, hgood, hone, hput, Bool.false_eq_true, ↓reduceIte, OneSided.acknowledged,
    apply_ite Host.Outcome.next]

end Arrival

/-- Settles O38: a command's checks decide its start, a packet's checks and kind what it does at its destination. -/
theorem transfersStartAndArrive : Obligations.TransfersStartAndArrive := by
  refine ⟨?starts, ?arrives⟩
  case starts =>
    intro s id c t pkg off len h at_
    refine ⟨?put, ?get, ?refused⟩
    case put =>
      intro hready e bs bad u hwhole halign hjob hmember hrange hplane hread v
      have hbody := putBody_checked ⟨hwhole, hjob, hmember, hrange⟩ halign hplane hread
      exact ⟨fun hnone => jeisk_done hready (hbody.trans (if_pos hnone)),
        fun hsome => jeisk_busy hready (hbody.trans (if_neg hsome))⟩
    case get =>
      intro hready e hwhole hjob hmember hrange hguard
      have hbody := getBody_checked ⟨hwhole, hjob, hmember, hrange⟩ hguard
      exact ⟨fun hnone => jeisk_done hready (hbody.trans (if_pos hnone)),
        fun hsome => jeisk_busy hready (hbody.trans (if_neg hsome))⟩
    case refused =>
      intro hready hwhole halign j i hme
      exact ⟨fun hpos => jeisk_error hready (putBody_of_needMember_error hwhole halign hme (needMember_of_pos_none hme hpos)),
        fun hpos hfenced =>
          jeisk_error hready (putBody_of_needMember_error hwhole halign hme (needMember_of_fenced hme hpos hfenced))⟩
  case arrives =>
    intro s t l vc pkt p e
    refine ⟨fun harr hvc => ⟨?data, ?rdata, ?malformed⟩, ?read, ?ack⟩
    case data =>
      intro hgood htype h n
      have hexec := execDataReceive_put harr hgood hvc htype
      refine ⟨fun hrange hfree hnone => ?_, fun hrange hfree htoken => ?_, fun hrange hguard => ?_⟩
      · rw [State.putArrival_in_range hrange, if_neg (ne_true_of_eq_false hfree), if_pos hnone] at hexec
        exact hexec
      · rw [State.putArrival_in_range hrange, if_neg (ne_true_of_eq_false hfree), if_neg htoken] at hexec
        exact hexec
      · rw [State.putArrival_in_range hrange, if_pos hguard] at hexec
        exact hexec
    case rdata =>
      intro hgood htype id o c hone _ u n hcmd hget hfits hunits hrange v o'
      have hexec := (execDataReceive_get harr hgood hvc htype).trans
        (congrArg _ (State.getArrival_lands hone hcmd hget hfits hunits hrange))
      exact ⟨fun hlast => next_of_pos hexec hlast, fun hmore => next_of_neg hexec hmore⟩
    case malformed =>
      intro hbad
      exact execDataReceive_refused harr (State.refusePkt_malformed hbad)
    case read =>
      intro harr hgood off n h land hsome hmost hrange
      have hexec := execReadReceive_in_range harr hgood hsome hmost hrange
      refine ⟨fun hreadable hplane bs bad u hread => ?_, fun hhidden => next_of_pos hexec (by rw [hhidden]; rfl)⟩
      have hbytes := next_of_neg (next_of_neg hexec (by rw [hreadable]; exact Bool.false_ne_true)) (ne_true_of_eq_false hplane)
      rw [hread] at hbytes
      exact hbytes
    case ack =>
      intro id o harr hgood hone hput u o'
      have hexec := execAckReceive_put harr hgood hone hput
      exact ⟨fun hlast => next_of_pos hexec hlast, fun hmore => next_of_neg hexec hmore.not_ge⟩

end Sys2Proof.Machine

/-! SUPPORT. Packets that go on: routed packets, a circuit's packets, and packets and credit on a transit stretch; TRANSIT_GRANT
and TRANSIT_REVOKE; each once, then the statement about all of them. -/
namespace Sys2Proof.Machine

/-! ### Routed packets and circuits (R389, R390, R392, R393, R398) -/

section Forward
variable {s t : State} {l vc : Nat} {pkt p : Packet}

/-- `q` is the packet `pkt` on a channel of routed packets and goes on from here, or is a frame. -/
def State.goesOn (s : State) (vc : Nat) (pkt : Packet) : Nat → Nat → Packet → Bool := fun l v q =>
  l != 24 && v == vc && vc ≤ 4 && q == pkt && (hDst q != s.pkgId || hType q == tyFrame)

/-- A routed packet that is not at its destination goes on where it is of this package's job. -/
theorem execPacketForward_taken {v : Nat} (htake : s.takeRx (s.goesOn vc pkt) = some ((l, v, p), t)) :
    execPacketForward vc pkt s = .next (if hDst p = t.pkgId then t
      else if !t.ownJob vc p then t.bump (slotRoute 1) 1 else t.forward vc p) := by
  unfold State.goesOn at htake
  simp only [execPacketForward, htake, apply_ite Host.Outcome.next]

/-- `q` is the packet `pkt` and came in on edge `edge` of its circuit. -/
def State.cameIn (s : State) (edge : Nat) (pkt : Packet) : Nat → Nat → Packet → Bool := fun l vc q =>
  l != 24 && (vc == 5 || vc == 6) && q == pkt &&
    s.physLink (byteLink ((s.circuit (hVia q % 256)).edge edge % 32)) == l &&
    ((s.circuit (hVia q % 256)).edge edge).testBit 5

section Circuit
variable {edge me : Nat} {j : Job} (hedge : edge < 6) (htake : s.takeRx (s.cameIn edge pkt) = some ((l, vc, p), t))
  (hvalid : (t.circuit (hVia p % 256)).valid = true) (hown : t.ownJob vc p = true) (hme : t.me = some (j, me))
include hedge htake hvalid hown hme

/-- Multicast DATA is kept where this member is on the circuit, and is copied to the other edges (log 20). -/
theorem execCircuitPacketReceive_multicast (htype : hType p = tyData) (hmulti : hDst p = hSrc p) :
    let u := if (t.circuit (hVia p % 256)).member then t.deliverHere 5 p else t
    execCircuitPacketReceive edge pkt s = .next (u.toEdges (hVia p % 256) (some edge) p (u.sinkCopy p)) := by
  unfold State.cameIn at htake
  simp only [execCircuitPacketReceive, inRange_of, hedge, htake, hvalid, hown, hme, htype, hmulti, decide_true, Bool.not_true,
    Bool.false_eq_true, and_self, ↓reduceIte]

/-- A PARTIAL stops at every member of its circuit. -/
theorem execCircuitPacketReceive_partial (htype : hType p = tyPartial) (hmember : (t.circuit (hVia p % 256)).member = true) :
    execCircuitPacketReceive edge pkt s = .next (t.deliverHere 5 p) := by
  unfold State.cameIn at htake
  simp only [execCircuitPacketReceive, inRange_of, hedge, htake, hvalid, hown, hme, htype, hmember,
    show tyPartial ≠ tyData by decide, decide_true, Bool.not_true, Bool.false_eq_true, false_and, and_self, ↓reduceIte]

/-- A directed packet goes on toward the member that it names. -/
theorem execCircuitPacketReceive_directed {r m : Nat} (hdata : hType p ≠ tyData) (hpartial : hType p ≠ tyPartial)
    (hentry : (j.entries me)[hVia p % 256]? = some (.member r)) (hindex : j.index (j.group me r) (hDst p) = some m)
    (hdir : ((t.circuit (hVia p % 256)).dirs[m]?).getD 7 ≠ 7) :
    execCircuitPacketReceive edge pkt s = .next (t.toMember (hVia p % 256) m p) := by
  unfold State.cameIn at htake
  simp only [execCircuitPacketReceive, inRange_of, hedge, htake, hvalid, hown, hme, hdata, hpartial, hentry, hindex, hdir,
    decide_true, Bool.not_true, Bool.false_eq_true, false_and, ↓reduceIte]

end Circuit
end Forward

/-! ### TRANSIT_GRANT and TRANSIT_REVOKE (R421) -/

section Grants
variable {s : State} {id : Nat} {c : CmdRec}

/-- The entries of a stretch, from their bytes. -/
def stretchEntries (count : Nat) (bs : List Byte) : List Nat := (chunks count 8 bs).map leNat

/-- A TRANSIT_GRANT packet names a stretch that can be read, with good fields, and a share. -/
structure GrantChecked (p : BitVec 512) (bs : List Byte) (s : State) : Prop where
  reads : s.hostRead (fld p 32 8) (8 * fld p 29 1) = some bs
  share : 1 ≤ fld p 28 1 ∧ fld p 28 1 ≤ 32
  count : 1 ≤ fld p 29 1 ∧ fld p 29 1 ≤ 14
  entries : ∀ e ∈ stretchEntries (fld p 29 1) bs,
    e / 2 ^ 32 = 0 ∧ e / 2 ^ 16 % 256 < 32 ∧ e / 2 ^ 24 % 256 < 32 ∧ e / 2 ^ 16 % 8 < 6 ∧ e / 2 ^ 24 % 8 < 6

/-- A grant with good fields over packages of this job takes the lowest free id, which it answers. -/
theorem transitGrantBody_grants {bs : List Byte} (h : GrantChecked c.packet bs s) {j : Job} {g : Nat}
    (hjob : s.job.job = some j) (hpkgs : ∀ e ∈ stretchEntries (fld c.packet 29 1) bs, (j.pos (e % 2 ^ 16)).isSome = true)
    (hfree : (List.range 16).find? (fun g => (tget s.xfer.grants g).isNone) = some g) :
    transitGrantBody id c s = okDone (setGrants s (tset s.xfer.grants g
      { borrower := fld c.packet 24 4, share := fld c.packet 28 1,
        stretch := (stretchEntries (fld c.packet 29 1) bs).map (fun e =>
          (e % 2 ^ 16, e / 2 ^ 16 % 256 + 32, e / 2 ^ 24 % 256 + 32)),
        slotsUsed := 0, windowAt := s.time })) g := by
  obtain ⟨hreads, hshare, hcount, hentries⟩ := h
  have hreserved : (stretchEntries (fld c.packet 29 1) bs).all
      (fun e => decide (e / 2 ^ 32 = 0 ∧ e / 2 ^ 16 % 256 < 32 ∧ e / 2 ^ 24 % 256 < 32)) = true :=
    List.all_eq_true.mpr fun e he => by
      obtain ⟨hhigh, harrives, hleaves, -, -⟩ := hentries e he
      exact decide_eq_true ⟨hhigh, harrives, hleaves⟩
  have hdirs : (stretchEntries (fld c.packet 29 1) bs).all (fun e => decide (e / 2 ^ 16 % 8 < 6 ∧ e / 2 ^ 24 % 8 < 6)) = true :=
    List.all_eq_true.mpr fun e he => by
      obtain ⟨-, -, -, harrives, hleaves⟩ := hentries e he
      exact decide_eq_true ⟨harrives, hleaves⟩
  have hpkgs' := List.all_eq_true.mpr hpkgs
  simp only [stretchEntries] at hreserved hdirs hpkgs' ⊢
  simp only [transitGrantBody, hreads, hreserved, hshare, hcount, hdirs, hjob, List.all_map, Function.comp_def, hpkgs', hfree,
    need_of, ok_bind, and_self, decide_true]

/-- A placed job's grant is dropped unless a placement uses its stretch. -/
theorem transitRevokeBody_granted (inUse : Bool) (hjob : needJob s = .ok ())
    (hgrant : (tget s.xfer.grants (fld c.packet 24 1)).isSome = true) :
    transitRevokeBody inUse id c s = need (!inUse) (stConflict, 0) >>= fun _ =>
      okDone (setGrants s (tdel s.xfer.grants (fld c.packet 24 1))) := by
  simp only [transitRevokeBody, hjob, hgrant, need_of, ok_bind]

end Grants

/-! ### On a stretch (R422 to R425) -/

section Stretch
variable {s u : State} {l vc now gi : Nat} {pkt p : Packet} {g : Grant}

/-- `q` is the packet `pkt` on VC 7 and has arrived on a stretch. -/
def State.onVc7 (s : State) (pkt : Packet) : Nat → Nat → Packet → Bool := fun l v q =>
  l != 24 && v == 7 && hTransit q && q == pkt && (s.onStretch l).isSome

/-- The grant once `n` more codewords have gone over its stretch: in its window of 1 µs, or in a new one that begins now. -/
def Grant.spent (g : Grant) (time n : Nat) : Grant :=
  if g.windowAt + us 1 ≤ time then { g with slotsUsed := n, windowAt := time } else { g with slotsUsed := g.slotsUsed + n }

section Packet
variable (htake : (s.advance now).takeRx ((s.advance now).onVc7 pkt) = some ((l, vc, p), u))
  (hgrant : (s.advance now).onStretch l = some (gi, g))
include htake hgrant

/-- A packet of a stretch that names this package is discarded and counted. -/
theorem execTransitPacket_named (hdst : hDst p = (s.advance now).pkgId) :
    execTransitPacket pkt now s = .next (u.bump (slotRoute 5) 1) := by
  unfold State.onVc7 at htake
  simp only [execTransitPacket, htake, hgrant, hdst, ↓reduceIte]

section Passing
variable (hdst : hDst p ≠ (s.advance now).pkgId)
  (hfree : g.stretch.any (fun e => (s.advance now).isFenced e.1) = false)
include hdst hfree

/-- At the far end a packet goes back to its own channel, and the credit that it frees is sent. -/
theorem execTransitPacket_far {out : Nat} (hnext : (s.advance now).stretchNext g l = some (out, true)) :
    execTransitPacket pkt now s =
      .next ((u.enqueue out (hResume p) (setTransit p false 0)).send (.stretchCredit l (hResume p) p.length)) := by
  unfold State.onVc7 at htake
  simp only [execTransitPacket, htake, hgrant, hdst, hfree, hnext, Bool.false_eq_true, ↓reduceIte]

/-- Within the stretch a packet goes on where its codewords keep within the share of a window. -/
theorem execTransitPacket_within {out : Nat} (hnext : (s.advance now).stretchNext g l = some (out, false)) :
    execTransitPacket pkt now s =
      whenThen (decide ((g.spent (s.advance now).time p.length).slotsUsed ≤ (s.advance now).shareSlots g out)) s
        ((setGrants u (tset u.xfer.grants gi (g.spent (s.advance now).time p.length))).enqueue out 7 p) := by
  unfold State.onVc7 at htake
  simp only [execTransitPacket, htake, hgrant, hdst, hfree, hnext, Bool.false_eq_true, ↓reduceIte, Grant.spent]
  by_cases hfresh : g.windowAt + us 1 ≤ (s.advance now).time
  · simp only [hfresh, decide_true, ↓reduceIte, Nat.zero_add]
  · simp only [hfresh, decide_false, Bool.false_eq_true, ↓reduceIte]

end Passing
end Packet

section Credit
variable {n : Nat} (hl : l < 24) (hvc : vc < 7)
include hl hvc

/-- On a package of the stretch a credit frame runs on, back along it. -/
theorem execTransitCreditFrame_passes {out : Nat} {far : Bool}
    (hnext : (s.onStretch l).bind (fun g => s.stretchNext g.2 l) = some (out, far)) :
    execTransitCreditFrame l vc n s = .next (s.send (.stretchCredit out vc n)) := by
  simp only [execTransitCreditFrame, inRange_of, hl, hvc, hnext, decide_true, Bool.and_self]

/-- On the package that enters the stretch the credit is there to be spent. -/
theorem execTransitCreditFrame_arrives (hnone : (s.onStretch l).bind (fun g => s.stretchNext g.2 l) = none) :
    execTransitCreditFrame l vc n s = .next { s with
      xfer := { s.xfer with stretchCredit := tupd s.xfer.stretchCredit (8 * l + vc) 0 (· + n) } } := by
  simp only [execTransitCreditFrame, inRange_of, hl, hvc, hnone, decide_true, Bool.and_self]

end Credit
end Stretch

/-- Settles O39: a packet goes on by its destination, its circuit (log 20) or its stretch; the checks decide TRANSIT_GRANT and
TRANSIT_REVOKE. -/
theorem packetsAreForwarded : Obligations.PacketsAreForwarded := by
  refine ⟨?packets, ?transit⟩
  case packets =>
    intro s t l vc pkt p
    refine ⟨fun htake => ?routed, ?circuit⟩
    case routed =>
      have hexec := execPacketForward_taken (vc := vc) htake
      refine ⟨fun hdst hown => ?_, fun hdst hforeign => ?_, fun hhere => next_of_pos hexec hhere⟩
      · exact next_of_neg (next_of_neg hexec hdst) (by rw [hown]; exact Bool.false_ne_true)
      · exact next_of_pos (next_of_neg hexec hdst) (by rw [hforeign]; rfl)
    case circuit =>
      intro edge j me hedge htake id k hvalid hown hme
      refine ⟨?_, ?_, ?_, ?_⟩
      · intro htype hmulti hmember u
        have hexec := execCircuitPacketReceive_multicast hedge htake hvalid hown hme htype hmulti
        rw [if_pos hmember] at hexec
        exact hexec
      · intro htype hmulti hrelay
        have hexec := execCircuitPacketReceive_multicast hedge htake hvalid hown hme htype hmulti
        rw [if_neg (ne_true_of_eq_false hrelay)] at hexec
        exact hexec
      · exact execCircuitPacketReceive_partial hedge htake hvalid hown hme
      · intro r m htype
        exact execCircuitPacketReceive_directed hedge htake hvalid hown hme (by rw [htype]; decide) (by rw [htype]; decide)
  case transit =>
    intro s id c t
    refine ⟨?grant, ?revoke, ?packet, fun l vc n hl hvc =>
      ⟨fun out far => execTransitCreditFrame_passes hl hvc, execTransitCreditFrame_arrives hl hvc⟩⟩
    case grant =>
      intro bs j g hready k count es hreads hshare hshare' hcount hcount' hentries hjob hpkgs hfree
      exact jeisk_done hready
        (transitGrantBody_grants ⟨hreads, ⟨hshare, hshare'⟩, ⟨hcount, hcount'⟩, hentries⟩ hjob hpkgs hfree)
    case revoke =>
      intro hready g hjob hgrant
      exact ⟨jeisk_done hready (transitRevokeBody_granted false hjob hgrant),
        jeisk_error hready (transitRevokeBody_granted true hjob hgrant)⟩
    case packet =>
      intro pkt now l vc p u gi g t htake hgrant
      refine ⟨execTransitPacket_named htake hgrant, fun hdst hfree => ⟨fun out => ?far, ?fresh, ?window⟩⟩
      case far => exact execTransitPacket_far htake hgrant hdst hfree
      case fresh =>
        intro out hnext hdue hshare
        have hexec := execTransitPacket_within htake hgrant hdst hfree hnext
        rw [Grant.spent, if_pos hdue] at hexec
        exact hexec.trans (whenThen_of _ _ (decide_eq_true hshare))
      case window =>
        intro out hnext hbefore hshare
        have hexec := execTransitPacket_within htake hgrant hdst hfree hnext
        rw [Grant.spent, if_neg hbefore.not_ge] at hexec
        exact hexec.trans (whenThen_of _ _ (decide_eq_true hshare))

end Sys2Proof.Machine

/-! SUPPORT. What a collective's command comes to on a member once its checks pass: each command once, then the statement about
all of them. -/
namespace Sys2Proof.Machine

/-- The shards that the `count` list entries in `bs` name. -/
def gatherShards (count : Nat) (bs : List Byte) : List Nat := (chunks count 4 bs).map leNat

/-- A gather of the shards `sh` as it starts on the member at place `me`: the places in the list of the shards it owns, and the
last packets to come from the other owners. -/
def Inst.gather (j : Job) (me : Nat) (c : CmdRec) (since : Nat) (sh : List Nat) : Inst :=
  let i := Inst.start c 0 since 0 sh ((List.range (fld c.packet 38 1)).filter (fun p => ((sh[p]?).bind j.shardOwner) == some me))
  let g := j.group me (fld c.packet 24 1)
  { i with land := { i.land with expect := ((j.senders g i).filter (fun x => g[x]? != some me)).length } }

section Starts
variable {s : State} {id : Nat} {c : CmdRec} {j : Job} {me : Nat} (hme : s.me = some (j, me)) (hjob : needJob s = .ok ())
  (hgroup : fld c.packet 24 1 ≤ 3)
include hme hjob hgroup

/-! ### GATHER_JIT (R407) -/

/-- A gather whose list names shards of the job, those owned here attached, and whose target fits, starts. -/
theorem gatherJitBody_starts {bs : List Byte} (hflags : fld c.packet 25 1 < 2) (hsome : 1 ≤ fld c.packet 38 1)
    (hmost : fld c.packet 38 1 ≤ 64) (hlist : s.hostRead (fld c.packet 56 8) (4 * fld c.packet 38 1) = some bs)
    (hshards : (gatherShards (fld c.packet 38 1) bs).all (fun x => decide (x < j.shards.length)) = true)
    (hmine : ((gatherShards (fld c.packet 38 1) bs).filter (fun x => j.shardOwner x == some me)).all
      (fun x => (tget s.press.shards x).isSome) = true)
    (hdst : s.needDst id (fld c.packet 40 4) (fld c.packet 44 6)
      (((gatherShards (fld c.packet 38 1) bs).map j.shardBytes).sum) = .ok ()) :
    gatherJitBody id c s =
      .ok (.busy (s.beginInst id (Inst.gather j me c s.time (gatherShards (fld c.packet 38 1) bs)))) := by
  simp only [gatherShards] at hshards hmine hdst
  simp only [gatherJitBody, hflags, hgroup, hsome, hmost, hlist, hjob, hme, hshards, hmine, hdst, need_of, ok_bind, and_self,
    decide_true]
  rfl

/-! ### BROADCAST (R405) -/

/-- A broadcast's root starts where its bytes can be read. -/
theorem broadcastBody_root (hroot : fld c.packet 32 2 < (j.group me (fld c.packet 24 1)).length)
    (his : (j.group me (fld c.packet 24 1))[fld c.packet 32 2]? = some me)
    (hsrc : s.needSrc id (fld c.packet 40 4) (fld c.packet 44 6) (16 * fld c.packet 36 4) = .ok ()) :
    broadcastBody id c s = .ok (.busy (s.beginInst id (Inst.start c 1 s.time 0 [] []))) := by
  simp only [broadcastBody, hgroup, hjob, hme, hroot, his, hsrc, need_of, ok_bind, decide_true, beq_self_eq_true, ↓reduceIte]

/-- Another member starts where its target can be written, and waits for one last packet. -/
theorem broadcastBody_member (hroot : fld c.packet 32 2 < (j.group me (fld c.packet 24 1)).length)
    (hnot : (j.group me (fld c.packet 24 1))[fld c.packet 32 2]? ≠ some me)
    (hdst : s.needDst id (fld c.packet 40 4) (fld c.packet 44 6) (16 * fld c.packet 36 4) = .ok ()) :
    broadcastBody id c s = .ok (.busy (s.beginInst id (Inst.start c 1 s.time 1 [] []))) := by
  simp only [broadcastBody, hgroup, hjob, hme, hroot, beq_eq_false_iff_ne.mpr hnot, hdst, need_of, ok_bind, decide_true,
    Bool.false_eq_true, ↓reduceIte]

/-! ### REDUCE_SCATTER and ALL_REDUCE (R411) -/

/-- A reduction whose operator, formats and sizes are good, and whose source and target fit, starts. -/
theorem reduceBody_starts (kind : Nat) (hop : fld c.packet 32 1 ≤ 2) (hin : fld c.packet 33 1 % 16 ≤ 1)
    (hout : fld c.packet 33 1 / 16 ≤ 1) (hsize : fld c.packet 36 4 % (32 * (j.group me (fld c.packet 24 1)).length) = 0)
    (hsrc : s.needSrc id (fld c.packet 40 4) (fld c.packet 44 6) (fld c.packet 36 4 * redSize (fld c.packet 33 1 % 16)) = .ok ())
    {i : Inst} (hi : i = Inst.start c kind s.time
      (if kind = 3 then (j.group me (fld c.packet 24 1)).length - 1 else 0) [] [])
    (hdst : s.needDst id (fld c.packet 50 4) (fld c.packet 54 6)
      (j.instBytes i (j.group me (fld c.packet 24 1)).length) = .ok ()) :
    reduceBody kind id c s = .ok (.busy (s.beginInst id i)) := by
  subst hi
  simp only [reduceBody, hgroup, hop, hin, hout, hjob, hme, hsize, hsrc, hdst, need_of, ok_bind, and_self, decide_true]

/-! ### ALL_TO_ALL (R412) -/

/-- An all-to-all whose counts keep within the capacity of a part, and whose source and target fit, starts. -/
theorem allToAllBody_starts {bs : List Byte} (hcap : fld c.packet 32 4 % 16 = 0)
    (hcounts : s.hostRead (fld c.packet 56 8) (4 * (j.group me (fld c.packet 24 1)).length) = some bs)
    (hmost : ((chunks (j.group me (fld c.packet 24 1)).length 4 bs).map leNat).all
      (fun x => decide (x ≤ fld c.packet 32 4)) = true)
    (hsrc : s.needSrc id (fld c.packet 36 4) (fld c.packet 40 6)
      ((j.group me (fld c.packet 24 1)).length * fld c.packet 32 4) = .ok ())
    (hdst : s.needDst id (fld c.packet 46 4) (fld c.packet 50 6)
      ((j.group me (fld c.packet 24 1)).length * fld c.packet 32 4) = .ok ()) :
    allToAllBody id c s = .ok (.busy (s.beginInst id (Inst.start c 4 s.time ((j.group me (fld c.packet 24 1)).length - 1) []
      ((chunks (j.group me (fld c.packet 24 1)).length 4 bs).map leNat)))) := by
  simp only [allToAllBody, hgroup, hcap, hjob, hme, hcounts, hmost, hsrc, hdst, need_of, ok_bind, and_self, decide_true]

end Starts

/-- Settles O40: past its checks each collective begins with the record that its packet and the job's group give. -/
theorem collectivesStart : Obligations.CollectivesStart := by
  intro s id c j me t k g hme hjob hgroup
  refine ⟨?gather, ?broadcast, ?reductions, ?allToAll⟩
  case gather =>
    intro bs hready count shards hflags hsome hmost hlist hshards hmine hdst places i others
    exact jeisk_busy hready (gatherJitBody_starts hme hjob hgroup hflags hsome hmost hlist hshards hmine hdst)
  case broadcast =>
    intro hready hroot
    exact ⟨fun his hsrc => jeisk_busy hready (broadcastBody_root hme hjob hgroup hroot his hsrc),
      fun hnot hdst => jeisk_busy hready (broadcastBody_member hme hjob hgroup hroot hnot hdst)⟩
  case reductions =>
    intro fi fo n hop hin hout hsize hsrc
    refine ⟨?_, ?_⟩
    · intro hready i hdst
      exact jeisk_busy hready (reduceBody_starts hme hjob hgroup 2 hop hin hout hsize hsrc rfl hdst)
    · intro hready i hdst
      exact jeisk_busy hready (reduceBody_starts hme hjob hgroup 3 hop hin hout hsize hsrc rfl hdst)
  case allToAll =>
    intro bs hready cap hcap hcounts cs hmost hsrc hdst
    exact jeisk_busy hready (allToAllBody_starts hme hjob hgroup hcap hcounts hmost hsrc hdst)

end Sys2Proof.Machine

/-! SUPPORT. How a collective goes on: sending, reading out, its timeout, and the packets that land; each once, then the statement
about all of them. -/
namespace Sys2Proof.Machine

section Progress
variable {s t : State} {id : Nat} {j : Job} {me : Nat} {i : Inst}

/-! ### Sending (R403, R407) -/

/-- A sender that has not sent sends once every member that it serves is ready. -/
theorem execCollectiveSendStart_ready (hme : s.me = some (j, me)) (hinst : s.inst id = some i) (hkind : i.kind ≠ 0)
    (hsent : i.sent = false) (hlive : i.isOver = false) (hready : s.mayStart' j me i = true) :
    execCollectiveSendStart id s = .next ((s.sendInst id j me i).checkInst id) := by
  have hmay : (i.kind != 0 && !i.sent && !i.isOver && s.mayStart' j me i) = true := by
    rw [bne_iff_ne.mpr hkind, hsent, hlive, hready]
    rfl
  simp only [execCollectiveSendStart, hme, hinst, hmay, whenThen_of]

/-- Bytes of the shards listed before place `pos`. -/
def Inst.bytesBefore (i : Inst) (j : Job) (pos : Nat) : Nat := ((i.shards.take pos).map j.shardBytes).sum

/-- Units of all the listed shards that the member at place `me` owns. -/
def Inst.ownedUnits (i : Inst) (j : Job) (me : Nat) : Nat :=
  ((i.shards.filter (fun x => j.shardOwner x == some me)).map j.shardBytes).sum / 16

/-- The gather's owner has read the shard at place `pos` out of `w` into its own target `d` and has sent it, tagged with `tag`;
the shards at the places in `rest` are left. -/
def State.readShardOut (s : State) (id : Nat) (j : Job) (me : Nat) (i : Inst) (pos : Nat) (rest : List Nat) (tag : Nat)
    (w d : Extent) : State :=
  let n := j.shardBytes ((i.shards[pos]?).getD 0)
  let out := (List.range (ceilDiv n 992)).foldl (fun a q => State.gatherPiece i tag (i.bytesBefore j pos)
    (if rest.isEmpty then some (i.ownedUnits j me) else none) n w d a q) (s, false)
  (((out.1.addOp i.ctx wDramRead n).addOp i.ctx wDramWrite n).addOp i.ctx wFeltTx n).setInst id
    { i with left := rest, poison := i.poison || out.2 }

/-- The owner of a gather's next shard reads it out once the shard's step token has come to the step asked for and every member
is ready; with its last shard it counts in its token. -/
theorem execGatherReadoutStart_next {pos : Nat} {rest : List Nat} {p : PShard} {w d : Extent} (hme : s.me = some (j, me))
    (hinst : s.inst id = some i) (hkind : i.kind = 0) (hleft : i.left = pos :: rest)
    (hshard : tget s.press.shards ((i.shards[pos]?).getD 0) = some p)
    (hw : s.range p.weight 0 (j.shardBytes ((i.shards[pos]?).getD 0)) = .ok w)
    (hd : s.range (instDst i).1 (instDst i).2 (j.instBytes i 1) = .ok d) :
    let t := s.readShardOut id j me i pos rest (s.token p.token) w d
    execGatherReadoutStart id s = .next (if s.token p.token < fld i.packet 32 6 || !s.mayStart' j me i then s
      else (if rest.isEmpty ∧ fld i.packet 50 2 ≠ 0xFFFF then t.addToken (fld i.packet 50 2) 1 else t).checkInst id) := by
  have hgather : ¬ (i.kind != 0) = true := by
    rw [hkind]
    decide
  simp only [execGatherReadoutStart, hme, hinst, hleft, if_neg hgather, hshard, hw, hd, apply_ite Host.Outcome.next]
  rfl

/-- Whether a collective with a timeout ends by it is whether its time has passed (R404). -/
theorem execCollectiveTimeout_live {now : Nat} (hinst : (s.advance now).inst id = some i) (hlive : i.isOver = false)
    (htimeout : instTimeout i ≠ 0) : execCollectiveTimeout id now s =
      whenThen (decide (i.since + ms (instTimeout i) ≤ (s.advance now).time)) s
        ((s.advance now).endInst id (stTimeout, 0)) := by
  simp only [execCollectiveTimeout, hinst, hlive, htimeout, Bool.not_false, Bool.true_and, ne_eq, not_false_eq_true, true_and]

/-! ### Packets that land (R400, R401, R403) -/

section Landing
variable {l vc : Nat} {pkt p : Packet}

/-- The collective once DATA `p` from member `src` has landed in it. -/
def Inst.landed (i : Inst) (src : Nat) (p : Packet) : Inst :=
  { i with
    land := { i.land with
      units := i.land.units + pktUnits p
      lasts := if hLast p then i.land.lasts ++ [src] else i.land.lasts
      totals := i.land.totals + (if hLast p then tTotal p else 0) }
    poison := i.poison || hPoison p
    counts := if i.kind = 4 ∧ hLast p then tset i.counts src (16 * tTotal p) else i.counts }

/-- DATA of a live collective that keeps within its target and within the totals of its senders lands at its offset. -/
theorem State.landData_lands {e : Extent} (hme : s.me = some (j, me)) (hinst : s.instOf (hXfer p) = some (id, i))
    (hlive : i.isOver = false) (hfits : tOff p + 16 * pktUnits p ≤ j.instBytes i (j.group me (instGroup i)).length)
    (htotals : ¬ (i.land.lasts.length = i.land.expect ∧ i.land.totals < i.land.units + pktUnits p))
    (hrange : s.range (instDst i).1 (instDst i).2 (j.instBytes i (j.group me (instGroup i)).length) = .ok e) :
    let n := pktUnits p
    let u := ((s.extWrite e ((instDst i).2 + tOff p) (pktData p)).addOp i.ctx wDramWrite (16 * n)).addOp i.ctx wFeltRx (16 * n)
    s.landData p =
      (u.setInst id (i.landed ((j.index (j.group me (instGroup i)) (hSrc p)).getD 0xFFFF) p)).checkInst id := by
  simp only [State.landData, hme, hinst, if_neg (ne_true_of_eq_false hlive), hfits.not_gt, htotals, hrange, or_self, ↓reduceIte]
  rfl

section Partial
variable {seg : Nat} (harr : s.arrival [tyPartial] pkt = some ((l, vc, p), t)) (hgood : t.refusePkt vc p = none)
  (hme : t.me = some (j, me)) (hinst : t.instOf (hXfer p) = some (id, i)) (hkind : i.kind = 2 ∨ i.kind = 3)
  (hseg : j.index (j.group me (instGroup i)) (hDst p) = some seg)

/-- Contributors of unit `u0 + x` of segment `seg` that have been combined here. -/
def Inst.contributors (i : Inst) (seg u0 x : Nat) : Nat := (tget i.sums (seg * 2 ^ 32 + u0 + x)).elim 0 Prod.fst

/-- The PARTIAL `p` would give some unit of segment `seg` more contributors than the `k` members of the group. -/
def Inst.overcounted (i : Inst) (k seg : Nat) (p : Packet) : Bool :=
  (List.range (pktUnits p)).any (fun x => decide (k < i.contributors seg (tOff p / 16) x + tTotal p))

theorem Inst.overcounted_iff {k : Nat} : i.overcounted k seg p = true ↔
    ∃ x, x < pktUnits p ∧ k < i.contributors seg (tOff p / 16) x + tTotal p := by
  simp only [Inst.overcounted, List.any_eq_true, List.mem_range, decide_eq_true_eq]

theorem Inst.overcounted_eq_false_iff {k : Nat} : i.overcounted k seg p = false ↔
    ∀ x, x < pktUnits p → i.contributors seg (tOff p / 16) x + tTotal p ≤ k := by
  simp only [Bool.eq_false_iff, ne_eq, Inst.overcounted_iff, not_exists, not_and, not_lt]

/-- The PARTIAL `p` has been combined into segment `seg` of the collective. -/
def State.combinePartial (s : State) (id : Nat) (i : Inst) (own : Bool) (seg : Nat) (p : Packet) : State :=
  let r := combineUnits i own seg (tOff p / 16) (tTotal p) (p.drop 2)
  (((s.setInst id r.1).cmdFlags id r.2.1).addOp r.1.ctx wCombine r.2.2).addOp r.1.ctx wFeltRx (16 * pktUnits p)

include harr hgood hme hinst hkind hseg

/-- A PARTIAL of a reduction is combined, and the member's own segment lands, or the units go on; one that does not fit the
segment or its contributors ends it. -/
theorem execPartialReceive_of_reduction :
    let g := j.group me (instGroup i)
    let own := g[seg]? == some me
    let u := t.combinePartial id i own seg p
    execPartialReceive pkt s = .next (
      if i.overcounted g.length seg p || decide (segUnits i g.length < tOff p / 16 + pktUnits p) then
        if i.isOver then t else t.endInst id (stDataMismatch, (j.index g (hSrc p)).getD 0xFFFF)
      else State.checkInst
        (if own then u.landSegment id j me else u.passUnits id j me seg (tOff p / 16) (pktUnits p)) id) := by
  have hreduces : ¬ (i.kind ≠ 2 ∧ i.kind ≠ 3) := by omega
  simp only [execPartialReceive, harr, hgood, hme, hinst, hseg, if_neg hreduces, apply_ite Host.Outcome.next]
  rfl

end Partial

section Ready
variable (harr : s.arrival [tyReady] pkt = some ((l, vc, p), t)) (hgood : t.refusePkt vc p = none)
include harr hgood

/-- A READY is counted at the collective that it names. -/
theorem execReadyReceive_counted (hinst : t.instOf (hXfer p) = some (id, i)) :
    execReadyReceive pkt s = .next ((t.setInst id { i with
      ready := i.ready ++ [(fld (pktCw p 1) 0 2, hSrc p, fld (pktCw p 1) 2 2)] }).reportReady id) := by
  simp only [execReadyReceive, harr, hgood, hinst]

/-- A READY of a collective that has not started here stays in its buffer. -/
theorem execReadyReceive_waits (hnone : t.instOf (hXfer p) = none) : execReadyReceive pkt s = .next s := by
  simp only [execReadyReceive, harr, hgood, hnone]

end Ready
end Landing
end Progress

/-- Settles O41: each clause is what one event does to a collective that it finds. -/
theorem collectivesProgress : Obligations.CollectivesProgress := by
  intro s id j me i
  refine ⟨execCollectiveSendStart_ready, ?readout, ?timeout, ?data, ?partials, ?ready⟩
  case readout =>
    intro pos rest p w d hme hinst hkind hleft sh n hshard hw hd
    have hexec := execGatherReadoutStart_next hme hinst hkind hleft hshard hw hd
    refine ⟨?_, fun hearly => next_of_pos hexec (by rw [decide_eq_true hearly, Bool.true_or])⟩
    intro htag hready before total out t
    have hout := next_of_neg hexec (by rw [hready, decide_eq_false htag.not_gt]; exact Bool.false_ne_true)
    refine ⟨fun hmore => hout.trans ?_, fun hlast htoken => hout.trans ?_⟩
    · rw [if_neg fun ⟨hnone, _⟩ => hmore (List.isEmpty_iff.mp hnone)]
      rfl
    · rw [if_pos ⟨List.isEmpty_iff.mpr hlast, htoken⟩]
      rfl
  case timeout =>
    intro now t hinst hlive htimeout
    have hexec := execCollectiveTimeout_live hinst hlive htimeout
    exact ⟨fun hdue => hexec.trans (whenThen_of _ _ (decide_eq_true hdue)),
      fun hbefore => hexec.trans (whenThen_not _ _ (decide_eq_false hbefore.not_ge))⟩
  case data =>
    intro pkt l vc p t e harr hgood hvc hme hinst hlive g src n size hfits htotals hrange u i'
    exact (execDataReceive_collective harr hgood hvc).trans
      (congrArg _ (State.landData_lands hme hinst hlive hfits htotals hrange))
  case partials =>
    intro pkt l vc p t seg harr hgood hme hinst hkind hlive g k u0 n hseg hfits
    have hexec := execPartialReceive_of_reduction harr hgood hme hinst hkind hseg
    refine ⟨?combines, fun hmore => ?overcounts⟩
    case combines =>
      intro hcount r u
      have hfew : i.overcounted g.length seg p = false := Inst.overcounted_eq_false_iff.mpr hcount
      have hcombined := next_of_neg hexec (by rw [hfew, decide_eq_false hfits.not_gt]; exact Bool.false_ne_true)
      refine ⟨fun hown => hcombined.trans ?_, fun hother => hcombined.trans ?_⟩
      · rw [if_pos (beq_iff_eq.mpr hown)]
        rfl
      · rw [if_neg (mt beq_iff_eq.mp hother)]
        rfl
    case overcounts =>
      have hover : i.overcounted g.length seg p = true := Inst.overcounted_iff.mpr hmore
      exact next_of_neg (next_of_pos hexec (by rw [hover, Bool.true_or])) (ne_true_of_eq_false hlive)
  case ready =>
    intro pkt l vc p t harr hgood
    exact ⟨execReadyReceive_counted harr hgood, execReadyReceive_waits harr hgood⟩

end Sys2Proof.Machine

/-! SUPPORT. When a row that begins a command of the Jeisk protocol has its effect: the shared operations
through which rows do so, LAUNCH and FW_ACTIVATE, once each, then the statement about all of them. -/
namespace Sys2Proof.Machine

/-- The outcome `o` of a row that begins the command `id` of opcode `op` in `s` leaves `s` as it is where that command has not
been read, carries another opcode or waits for its turn (R456, R457, R437), and begins no work that R575 forbids. -/
structure TakesItsTurn (op id : Nat) (s : State) (o : Out') : Prop where
  unread : s.cmd id = none → o = .next s
  otherOp : ∀ c, s.cmd id = some c → pktOp c.packet ≠ op → o = .next s
  held : ∀ c, s.cmd id = some c → c.phase = .waiting → s.mayStart id c = false → o = .next s
  fenced : ∀ c, s.cmd id = some c → c.phase = .waiting → opNeedsJob op = true → s.fail.selfFenced.isSome = true →
    s.job.job.isSome = true → o = .next s ∨ o = .next (s.turnAway id (stFenced, 0))

variable {op id : Nat} {s : State} {o : Out'}

/-- A row without effect takes its turn. -/
theorem takesItsTurn_next : TakesItsTurn op id s (.next s) :=
  ⟨fun _ => rfl, fun _ _ _ => rfl, fun _ _ _ _ => rfl, fun _ _ _ _ _ _ => .inl rfl⟩

/-- A row that goes on with a command that has started does so for its own opcode alone. -/
theorem takesItsTurn_of_started {c : CmdRec} (hc : s.cmd id = some c) (hp : c.phase = .started)
    (hother : pktOp c.packet ≠ op → o = .next s) : TakesItsTurn op id s o := by
  have hsame (d : CmdRec) (hd : s.cmd id = some d) : d = c := Option.some.inj (hd.symm.trans hc)
  have hstarted (d : CmdRec) (hd : s.cmd id = some d) : d.phase ≠ .waiting := by simp [hsame d hd, hp]
  exact ⟨fun h => by simp [h] at hc, fun d hd hop => hother (hsame d hd ▸ hop),
    fun d hd hw => absurd hw (hstarted d hd), fun d hd hw => absurd hw (hstarted d hd)⟩

theorem jeisk_of_unread {body : Body} (hc : s.cmd id = none) : jeisk op body id s = .next s := by
  simp only [jeisk, hc]

theorem jeisk_of_not_startable {body : Body} {c : CmdRec} (hc : s.cmd id = some c)
    (hno : ¬ (pktOp c.packet = op ∧ s.mayStart id c = true)) : jeisk op body id s = .next s := by
  simp only [jeisk, hc]
  exact if_neg hno

/-- R575 turns the command away before its own checks. -/
theorem jeisk_of_fenced {body : Body} {c : CmdRec} (hc : s.cmd id = some c) (hop : pktOp c.packet = op)
    (hturn : s.mayStart id c = true) (hfenced : (opNeedsJob op && s.fail.selfFenced.isSome && s.job.job.isSome) = true) :
    jeisk op body id s = .next (s.turnAway id (stFenced, 0)) := by
  simp only [jeisk, hc, hop, hturn, hfenced, and_self, if_true, State.turnAway]

theorem jeisk_takesItsTurn (op : Nat) (body : Body) (id : Nat) (s : State) :
    TakesItsTurn op id s (jeisk op body id s) where
  unread := jeisk_of_unread
  otherOp _ hc hop := jeisk_of_not_startable hc (fun h => hop h.1)
  held _ hc _ hturn := jeisk_of_not_startable hc (fun h => absurd h.2 (by simp [hturn]))
  fenced c hc _ hneeds hself hjob := by
    by_cases h : pktOp c.packet = op ∧ s.mayStart id c = true
    · exact .inr (jeisk_of_fenced hc h.1 h.2 (by simp [hneeds, hself, hjob]))
    · exact .inl (jeisk_of_not_startable hc h)

theorem jeiskIf_takesItsTurn (gate : Nat → CmdRec → State → Bool) (op : Nat) (body : Body) (id : Nat) (s : State) :
    TakesItsTurn op id s (jeiskIf gate op body id s) := by
  unfold jeiskIf
  split
  · exact takesItsTurn_next
  · split
    · exact jeisk_takesItsTurn op body id s
    · exact takesItsTurn_next

theorem jeiskWait_takesItsTurn (op : Nat) (body : Body) (fin : Nat → CmdRec → State → Option (Cause × State)) (id : Nat)
    (s : State) : TakesItsTurn op id s (jeiskWait op body fin id s) := by
  unfold jeiskWait
  split
  · exact takesItsTurn_next
  next c hc =>
    split
    next hp => exact takesItsTurn_of_started hc (by simpa using hp) (fun hop => if_neg hop)
    next => exact jeisk_takesItsTurn op _ id s

/-- FW_ACTIVATE begins as a command of the secure core, and goes on where it has started (R616). -/
theorem execFwActivate_takesItsTurn (id : Nat) (s : State) : TakesItsTurn 0x902 id s (execFwActivate id s) := by
  unfold execFwActivate
  split
  · exact takesItsTurn_next
  next c hc =>
    split
    next hp => exact takesItsTurn_of_started hc (by simpa using hp) (fun hop => if_neg hop)
    next => exact jeiskIf_takesItsTurn secureGate 0x902 fwActivateBody id s

theorem execLaunch_of_not_startable {c : CmdRec} (hc : s.cmd id = some c)
    (hno : ¬ (pktOp c.packet = 0x200 ∧ s.mayStart id c = true)) : execLaunch id s = .next s := by
  simp only [execLaunch, hc]
  exact if_neg (fun h => hno ⟨h.1, h.2.1⟩)

/-- LAUNCH is no command that needs the job by its opcode alone: R575 sees to its bindings (R471). -/
theorem execLaunch_takesItsTurn (id : Nat) (s : State) : TakesItsTurn 0x200 id s (execLaunch id s) where
  unread hc := by simp only [execLaunch, hc]
  otherOp _ hc hop := execLaunch_of_not_startable hc (fun h => hop h.1)
  held _ hc _ hturn := execLaunch_of_not_startable hc (fun h => absurd h.2 (by simp [hturn]))
  fenced _ _ _ hneeds := absurd hneeds (by decide)

/-- Every row that begins a command takes its turn. -/
theorem exec_takesItsTurn {i : Instr} (h : i.order = some (op, id)) (s : State) : TakesItsTurn op id s (exec i s) := by
  cases i
  case launch => obtain ⟨rfl, rfl⟩ := h; exact execLaunch_takesItsTurn _ s
  case fwActivate => obtain ⟨rfl, rfl⟩ := h; exact execFwActivate_takesItsTurn _ s
  case fence | handleFree | feltLink | vatStop | sinkStop | ckptSave | selftest =>
    obtain ⟨rfl, rfl⟩ := h
    rw [exec]
    exact jeiskWait_takesItsTurn _ _ _ _ s
  case pressApply | pressFreeze | pressDetach | jobSpare | mouldDeclare | ckptRestore | powerSet | fwStage | attest =>
    obtain ⟨rfl, rfl⟩ := h
    rw [exec]
    exact jeiskIf_takesItsTurn _ _ _ _ s
  case hello | tokenSet | tokenReset | tokenRead | handleAlloc | handleQuery | memConfig | trackConfig | jobPlace | jobEnd
      | indexGather | indexScatter | indexScatterAdd | stackOpen | stackClose | gatherJit | broadcast | reduceScatter
      | allReduce | allToAll | put | get | feltPlan | feltQuery | feltCong | transitGrant | transitRevoke | srcRegister
      | srcRelease | vatConfig | vatStart | vatGetPosition | vatSetPosition | mouldApply | mouldRelease | mouldQuery
      | mouldRetune | pressAttach | sinkStart | pkgFence | counterCopy | traceConfig | traceCopy | deckleConfig
      | blackboxRead | blackboxConfig =>
    obtain ⟨rfl, rfl⟩ := h
    rw [exec]
    exact jeisk_takesItsTurn _ _ _ s
  all_goals cases h

/-- Settles O7: a row that begins a command is LAUNCH, FW_ACTIVATE or goes through one of three shared operations, and each of
these takes its turn. -/
theorem commandsWaitTheirTurn : Obligations.CommandsWaitTheirTurn := by
  intro i op id s horder
  obtain ⟨hunread, hother, hheld, hfenced⟩ := exec_takesItsTurn horder s
  exact ⟨hunread, hother, hheld, hfenced⟩

end Sys2Proof.Machine

/-! SUPPORT. What the completion of a command leaves behind: its record and signal, and what the halt of its pair (R462) may add
to them; then the statement about completions. -/
namespace Sys2Proof.Machine

theorem fld_lt {w : Nat} (r : BitVec w) (off len : Nat) : fld r off len < 2 ^ (8 * len) := Nat.mod_lt _ (Nat.two_pow_pos _)

/-- `t` comes from `s` by commands that leave the table, records that join the rings of their pairs, counts and traces. -/
structure State.OnlyPosts (s t : State) : Prop where
  cmd : ∀ id, s.cmd id = none → t.cmd id = none
  index : t.ctr.next = s.ctr.next
  tokens : t.host.tokens = s.host.tokens
  waiting : ∀ n, ∃ l, (t.pair n).waiting = (s.pair n).waiting ++ l
  mem : t.mem = s.mem
  hostMem : t.host.mem = s.host.mem
  job : t.job = s.job
  evc : t.evc = s.evc
  pwr : t.pwr = s.pwr

theorem no_record_joins (l : List Rec) : ∃ m, l = l ++ m := ⟨[], l.append_nil.symm⟩

namespace State.OnlyPosts
variable {s t u : State}

theorem refl (s : State) : s.OnlyPosts s :=
  ⟨fun _ h => h, rfl, rfl, fun _ => no_record_joins _, rfl, rfl, rfl, rfl, rfl⟩

theorem trans (h : s.OnlyPosts t) (k : t.OnlyPosts u) : s.OnlyPosts u where
  cmd id hn := k.cmd id (h.cmd id hn)
  index := k.index.trans h.index
  tokens := k.tokens.trans h.tokens
  waiting n := by
    obtain ⟨l, hl⟩ := h.waiting n
    obtain ⟨m, hm⟩ := k.waiting n
    exact ⟨l ++ m, by rw [hm, hl, List.append_assoc]⟩
  mem := k.mem.trans h.mem
  hostMem := k.hostMem.trans h.hostMem
  job := k.job.trans h.job
  evc := k.evc.trans h.evc
  pwr := k.pwr.trans h.pwr

theorem foldl {α : Type} {f : State → α → State} (h : ∀ (t : State) (a : α), t.OnlyPosts (f t a)) (l : List α)
    (s : State) : s.OnlyPosts (l.foldl f s) := by
  induction l generalizing s with
  | nil => exact refl s
  | cons a l ih => exact (h s a).trans (ih (f s a))

end State.OnlyPosts

/-! ### Operations that only post -/

theorem State.onlyPosts_bump (s : State) (x n : Nat) : s.OnlyPosts (s.bump x n) := by
  unfold State.bump
  split
  · exact .refl s
  · exact ⟨fun _ h => h, rfl, rfl, fun _ => no_record_joins _, rfl, rfl, rfl, rfl, rfl⟩

theorem State.onlyPosts_trace (s : State) (kind ctx op tag : Nat) (fs : List (Nat × Nat × Nat)) :
    s.OnlyPosts (s.trace kind ctx op tag fs) := by
  unfold State.trace
  split
  · exact ⟨fun _ h => h, rfl, rfl, fun _ => no_record_joins _, rfl, rfl, rfl, rfl, rfl⟩
  · exact .refl s

theorem State.dropCmd_cmd_of_none {s : State} {n : Nat} (id : Nat) (h : s.cmd n = none) : (s.dropCmd id).cmd n = none := by
  simp only [State.cmd, State.dropCmd, tget_tdel] at h ⊢
  rw [h, ite_self]

theorem State.onlyPosts_dropCmd (s : State) (id : Nat) : s.OnlyPosts (s.dropCmd id) :=
  ⟨fun _ h => State.dropCmd_cmd_of_none id h, rfl, rfl, fun _ => no_record_joins _, rfl, rfl, rfl, rfl, rfl⟩

/-- A change of a pair that leaves its waiting records as they are, or adds to them. -/
theorem State.onlyPosts_setPair (s : State) (n : Nat) {p : Pair} (h : ∃ l, p.waiting = (s.pair n).waiting ++ l) :
    s.OnlyPosts (s.setPair n p) := by
  refine ⟨fun _ h => h, rfl, rfl, fun m => ?_, rfl, rfl, rfl, rfl, rfl⟩
  rw [State.setPair_pair]
  split
  next heq => exact heq ▸ h
  next => exact no_record_joins _

theorem State.post_pair_waiting (s : State) (n : Nat) (r : Rec) : ((s.post n r).pair n).waiting = (s.pair n).waiting ++ [r] := by
  simp [State.post]

theorem State.onlyPosts_post (s : State) (n : Nat) (r : Rec) : s.OnlyPosts (s.post n r) :=
  s.onlyPosts_setPair n ⟨[r], rfl⟩

theorem State.onlyPosts_endUnstarted (s : State) (id : Nat) (c : CmdRec) (st : Cause) : s.OnlyPosts (s.endUnstarted id c st) :=
  ((s.onlyPosts_dropCmd id).trans (State.onlyPosts_post _ _ _)).trans (State.onlyPosts_trace _ _ _ _ _ _)

theorem State.onlyPosts_haltAfter (s : State) (pair id status : Nat) : s.OnlyPosts (s.haltAfter pair id status) := by
  unfold State.haltAfter
  dsimp only
  split
  · refine (s.onlyPosts_setPair pair (p := { s.pair pair with halted := true }) (no_record_joins _)).trans ?_
    apply State.OnlyPosts.foldl
    intro t e
    split
    · exact (t.onlyPosts_endUnstarted _ _ _).trans (State.onlyPosts_bump _ _ _)
    · exact .refl t
  · exact .refl s

theorem State.onlyPosts_refreshReady (s : State) : s.OnlyPosts s.refreshReady where
  cmd id h := by
    simp only [State.cmd] at h
    simp only [State.cmd, State.refreshReady, tget_tmap, h, Option.map_none]
  index := rfl
  tokens := rfl
  waiting _ := no_record_joins _
  mem := rfl
  hostMem := rfl
  job := rfl
  evc := rfl
  pwr := rfl

/-- The counter ring is emptied (R559). -/
theorem State.onlyPosts_counters (s : State) (recs : Tab (BitVec 2048)) (oldest : Nat) :
    s.OnlyPosts { s with ctr := { s.ctr with recs := recs, oldest := oldest } } :=
  ⟨fun _ h => h, rfl, rfl, fun _ => no_record_joins _, rfl, rfl, rfl, rfl, rfl⟩

/-! ### Completion (R450, R458, R558) -/

/-- The package once the counter record of a completing command is written and its token raised. -/
def State.signalled (s : State) (id : Nat) (c : CmdRec) (st : Cause) : State :=
  let u := (s.dropCmd id).counterRec c st.1
  if pktSignals c.packet && statusSignals st.1 then u.raiseToken (pktSigTok c.packet) (pktSigVal c.packet) else u

/-- The record that a completing command leaves to its pair, whose counter record has the index `idx`. -/
def State.completion (s : State) (c : CmdRec) (st : Cause) (idx : Nat) : Rec :=
  { bytes := completionRec (pktTag c.packet) st.1 (pktOp c.packet) (s.pair c.pair).context c.tStart s.dk.now idx st.2,
    atOnce := pktNotify c.packet, command := true }

/-- The package once the completion is traced and, for a MEM_CONFIG, the counter ring is emptied (R559). -/
def State.closed (s : State) (c : CmdRec) (st : Cause) (idx : Nat) : State :=
  let t := s.trace 3 c.ctx (pktOp c.packet) (pktTag c.packet) [(24, 2, st.1), (28, 4, st.2), (32, 4, idx)]
  if pktOp c.packet = 0x103 ∧ st.1 = stOk then { t with ctr := { t.ctr with recs := [], oldest := t.ctr.next } } else t

theorem State.onlyPosts_closed (s : State) (c : CmdRec) (st : Cause) (idx : Nat) : s.OnlyPosts (s.closed c st idx) := by
  unfold State.closed
  dsimp only
  split
  · exact (s.onlyPosts_trace _ _ _ _ _).trans (State.onlyPosts_counters _ _ _)
  · exact s.onlyPosts_trace _ _ _ _ _

theorem State.raiseToken_token (s : State) (t v x : Nat) :
    (s.raiseToken t v).token x = if x = t then Max.max (s.token t) (v % 2 ^ 48) else s.token x := by
  rw [State.raiseToken, State.putToken_token]

section Completion
variable (s : State) (id : Nat) (c : CmdRec) (st : Cause)

/-- Apart from the counter ring and the tokens, the signal and the counter record leave what the drop of the command left. -/
theorem State.signalled_eq : s.signalled id c st = { s.dropCmd id with
    ctr := (s.signalled id c st).ctr
    host := { (s.dropCmd id).host with tokens := (s.signalled id c st).host.tokens } } := by
  unfold State.signalled
  dsimp only
  split <;> rfl

theorem State.signalled_cmd : (s.signalled id c st).cmd id = none := by
  rw [State.signalled_eq]
  simp [State.cmd, State.dropCmd, tget_tdel]

theorem State.signalled_pair (n : Nat) : (s.signalled id c st).pair n = s.pair n := by
  rw [State.signalled_eq]
  rfl

theorem State.signalled_index : (s.signalled id c st).ctr.next = nextIndex s.ctr.next := by
  unfold State.signalled
  dsimp only
  split <;> rfl

theorem State.signalled_token (x : Nat) : (s.signalled id c st).token x =
    if x = pktSigTok c.packet ∧ pktSignals c.packet = true ∧ statusSignals st.1 = true
    then Max.max (s.token x) (pktSigVal c.packet) else s.token x := by
  have hval : pktSigVal c.packet % 2 ^ 48 = pktSigVal c.packet := Nat.mod_eq_of_lt (fld_lt c.packet 18 6)
  have hkeeps : ((s.dropCmd id).counterRec c st.1).token x = s.token x := rfl
  unfold State.signalled
  dsimp only
  split
  next hsig =>
    rw [State.raiseToken_token, hval]
    grind
  next hsig =>
    grind

theorem State.signalled_dk : (s.signalled id c st).dk = s.dk := by
  rw [State.signalled_eq]
  rfl

theorem State.signalled_completion (idx : Nat) : (s.signalled id c st).completion c st idx = s.completion c st idx := by
  simp only [State.completion, State.signalled_pair, State.signalled_dk]

variable {s c}

theorem State.finish_eq (hc : s.cmd id = some c) : s.finish id st =
    ((((s.signalled id c st).post c.pair (s.completion c st s.ctr.next)).closed c st s.ctr.next).haltAfter
      c.pair id st.1).refreshReady := by
  rw [← State.signalled_completion s id c st]
  unfold State.finish
  split
  next hnone => simp [hnone] at hc
  next d hd =>
    obtain rfl : d = c := Option.some.inj (hd.symm.trans hc)
    rfl

/-- Once the record is posted, what is left to do only posts. -/
theorem State.finish_onlyPosts (hc : s.cmd id = some c) :
    State.OnlyPosts ((s.signalled id c st).post c.pair (s.completion c st s.ctr.next)) (s.finish id st) := by
  rw [State.finish_eq id st hc]
  exact ((State.onlyPosts_closed _ _ _ _).trans (State.onlyPosts_haltAfter _ _ _ _)).trans (State.onlyPosts_refreshReady _)

end Completion

/-- Settles O8: what the counter record and the signal leave stands, and everything after the command's own record joins the
rings behind it. -/
theorem completionIsRecorded : Obligations.CompletionIsRecorded := by
  intro s id c st hc t
  have hposts := State.finish_onlyPosts id st hc
  have htoken (x : Nat) : t.token x = (s.signalled id c st).token x := by
    simp only [State.token, t, hposts.tokens]
    rfl
  have heq := s.signalled_eq id c st
  refine ⟨hposts.cmd id ?cmd, hposts.index.trans (s.signalled_index id c st),
    fun x => (htoken x).trans (s.signalled_token id c st x), ?ring, hposts.mem.trans ?mem,
    hposts.hostMem.trans ?hostMem, hposts.job.trans ?job, hposts.evc.trans ?evc, hposts.pwr.trans ?pwr⟩
  case cmd => exact (State.setPair_cmd _ _ _ _).trans (s.signalled_cmd id c st)
  case ring =>
    obtain ⟨l, hl⟩ := hposts.waiting c.pair
    refine ⟨l, hl.trans ?_⟩
    rw [State.post_pair_waiting, State.signalled_pair, List.append_assoc]
    rfl
  all_goals
    rw [heq]
    rfl

end Sys2Proof.Machine

/-! SUPPORT. The session, fences and tokens: the values at package reset, what HELLO, FENCE and the token commands answer once
their checks pass or fail, and the timeout of a wait; then the statements about them. -/
namespace Sys2Proof.Machine

/-! ### Package reset -/

theorem reset_domOn (d : Nat) : State.reset.domOn d = decide (d = 0) := by
  rw [Bool.eq_iff_iff, decide_eq_true_iff]
  exact Nat.testBit_one_eq_true_iff_self_eq_zero

/-- Settles O10: nothing is listed at reset, so each unit reads as its own reset value; PD00 is the one bit set. -/
theorem resetLeaves : Obligations.ResetLeaves :=
  ⟨rfl, rfl, rfl, fun _ => rfl, rfl, fun _ => rfl, reset_domOn, fun _ => ⟨rfl, rfl, rfl⟩, fun _ => rfl, rfl, rfl,
    fun _ => rfl, fun _ => rfl⟩

section Commands
variable {s : State} {id : Nat} {c : CmdRec}

/-! ### HELLO (R448) -/

theorem helloBody_opens (hclosed : s.host.session = false) (hlow : fld c.packet 24 1 ≤ 1) (hhigh : 1 ≤ fld c.packet 25 1) :
    helloBody id c s = okDone (State.releaseNotices { s with host := { s.host with session := true, levelNow := 1 } }) 1 := by
  simp [helloBody, need, hclosed, hlow, hhigh]

theorem helloBody_other_levels (hclosed : s.host.session = false) (hlevels : 1 < fld c.packet 24 1 ∨ fld c.packet 25 1 = 0) :
    helloBody id c s = .error (stLevelMismatch, 1) := by
  have hout : decide (fld c.packet 24 1 ≤ 1 ∧ 1 ≤ fld c.packet 25 1) = false := decide_eq_false (by omega)
  simp only [helloBody, hclosed, hout, need_not, Bool.not_false, need_of, ok_bind, error_bind]

theorem helloBody_of_session (hopen : s.host.session = true) : helloBody id c s = .error (stConflict, 0) := by
  simp [helloBody, need, hopen]

/-! ### FENCE (R460) -/

/-- Some command of the scope of the FENCE `c` that was read before it has not completed. -/
def State.fenceWaits (s : State) (id : Nat) (c : CmdRec) : Bool :=
  s.host.cmds.any (fun e => decide (e.1 < id) && (decide (fld c.packet 24 1 % 2 = 1) || e.2.ctx == c.ctx))

theorem fenceDone_of_no_earlier (h : s.fenceWaits id c = false) : fenceDone id c s = some ((stOk, 0), s) := by
  rw [fenceDone, if_pos (by rw [← List.not_any_eq_all_not]; exact congrArg not h)]

theorem fenceDone_of_earlier (h : s.fenceWaits id c = true) : fenceDone id c s = none := by
  rw [fenceDone, if_neg (by rw [← List.not_any_eq_all_not]; exact ne_true_of_eq_false (congrArg not h))]

/-! ### Tokens (R457, R459) -/

theorem tokenSetBody_eq : tokenSetBody id c s = okDone (s.putToken (fld c.packet 24 2)
    (Max.max (s.token (fld c.packet 24 2)) (fld c.packet 26 6))) := by
  have hval : fld c.packet 26 6 % 2 ^ 48 = fld c.packet 26 6 := Nat.mod_eq_of_lt (fld_lt c.packet 26 6)
  rw [tokenSetBody, State.raiseToken, hval]

theorem tokenResetBody_free (h : s.tokenHeld (fld c.packet 24 2) = false) :
    tokenResetBody id c s = okDone (s.putToken (fld c.packet 24 2) 0) := by
  simp [tokenResetBody, need, h]

theorem tokenResetBody_held (h : s.tokenHeld (fld c.packet 24 2) = true) :
    tokenResetBody id c s = .error (stConflict, 0) := by
  simp [tokenResetBody, need, h]

theorem tokenReadBody_reads {l : List Byte} (hsome : 1 ≤ fld c.packet 24 1) (hmax : fld c.packet 24 1 ≤ 64)
    (halign : fld c.packet 40 8 % 32 = 0) (hread : s.hostRead (fld c.packet 32 8) (2 * fld c.packet 24 1) = some l) :
    tokenReadBody id c s = okDone (s.hostWrite (fld c.packet 40 8)
      ((chunks (fld c.packet 24 1) 2 l).flatMap (fun t => leBytes 8 (s.token (leNat t))))) (fld c.packet 24 1) := by
  simp [tokenReadBody, need, hsome, hmax, halign, hread]

/-- A command whose token is not there yet may not start (R456). -/
theorem State.mayStart_of_token (hwaits : pktWaits c.packet = true)
    (hbelow : s.token (pktWaitTok c.packet) < pktWaitVal c.packet) : s.mayStart id c = false := by
  simp [State.mayStart, hwaits, hbelow]

/-- A wait that only its token holds times out at its limit and not before. -/
theorem execTokenWaitTimeout_waiting {now r : Nat} : let t := s.advance now
    t.cmd id = some c → c.phase = .waiting → tget t.sheet.launches id = none → pktWaits c.packet = true →
    t.token (pktWaitTok c.packet) < pktWaitVal c.packet → c.readyAt = some r → (t.pair c.pair).waitLimit ≠ 0 →
    execTokenWaitTimeout id now s = whenThen (decide (r + ms (t.pair c.pair).waitLimit ≤ t.time)) s
      ((t.bump slotWaitTimeout 1).failCmd id (stTimeout, 0)) := by
  intro t hc hp hlaunch hwaits hbelow hready hlimit
  have hheld : t.mayStart id c = false := State.mayStart_of_token hwaits hbelow
  simp [execTokenWaitTimeout, t, hc, hp, hlaunch, hwaits, hready, hlimit, hheld]

end Commands

/-- Settles O11: each check of HELLO, and its work where both pass. -/
theorem helloOpensSession : Obligations.HelloOpensSession := by
  intro s id c hready u
  have hsession : u.host.session = s.host.session := s.startCmd_host_session id
  exact ⟨fun hclosed hlow hhigh => jeisk_done hready (helloBody_opens (hsession.trans hclosed) hlow hhigh),
    fun hclosed hlevels => jeisk_error hready (helloBody_other_levels (hsession.trans hclosed) hlevels),
    fun hopen => jeisk_error hready (helloBody_of_session (hsession.trans hopen))⟩

/-- Settles O12: a FENCE that starts or has started waits exactly while some earlier command of its scope is left. -/
theorem fenceWaitsForEarlier : Obligations.FenceWaitsForEarlier := by
  intro s id c earlier
  exact ⟨fun hready => ⟨fun h => jeiskWait_done hready rfl (fenceDone_of_no_earlier h),
      fun h => jeiskWait_busy hready rfl (fenceDone_of_earlier h)⟩,
    fun hrun => ⟨fun h => jeiskWait_resume hrun (fenceDone_of_no_earlier h),
      fun h => jeiskWait_idle hrun (fenceDone_of_earlier h)⟩⟩

/-- Settles O13: what each token command answers, and the timeout of a wait on both sides of its limit. -/
theorem tokensAndTheirWaits : Obligations.TokensAndTheirWaits := by
  refine ⟨fun s id c => ?commands, fun s id now r c => ?timeout⟩
  case commands =>
    intro u
    exact ⟨fun hready => jeisk_done hready tokenSetBody_eq,
      fun hready hfree => jeisk_done hready (tokenResetBody_free hfree),
      fun hready hheld => jeisk_error hready (tokenResetBody_held hheld),
      fun hready l hsome hmax halign hread => jeisk_done hready (tokenReadBody_reads hsome hmax halign hread),
      fun t v x => u.putToken_token t v x⟩
  case timeout =>
    intro t hc hp hlaunch hwaits hbelow hready hlimit
    have hexec := execTokenWaitTimeout_waiting hc hp hlaunch hwaits hbelow hready hlimit
    exact ⟨fun hdue => hexec.trans (whenThen_of s _ (decide_eq_true hdue)),
      fun hearly => hexec.trans (whenThen_not s _ (decide_eq_false (Nat.not_le.mpr hearly)))⟩

end Sys2Proof.Machine

/-! SUPPORT. The host's accesses to registers, to the debug window and to its own window of DRAM: what each comes to while the
link is up; then the statement about all of them. -/
namespace Sys2Proof.Machine

section Accesses
variable {s : State}

/-! ### Registers (R435, R531) -/

theorem execRegisterWrite_whole (hup : s.host.linkUp = true) {o : Nat} (v : BitVec 64) (ho : o < 2 ^ 21) (halign : o % 8 = 0) :
    execRegisterWrite o 8 v s = .next (s.regWrite o v) :=
  (inRange_whenThen_of o (decide_eq_true ho) (by simp [hup, halign])).trans (congrArg _ (if_pos rfl))

theorem execRegisterWrite_half_doorbell (hup : s.host.linkUp = true) {o : Nat} (v : BitVec 64) (hlow : 0x10000 ≤ o)
    (hhigh : o < 0x20000) (halign : o % 4 = 0) : execRegisterWrite o 4 v s = .next (s.bump slotBadAccess 1) :=
  (inRange_whenThen_of o (decide_eq_true (hhigh.trans (by decide))) (by simp [hup, halign])).trans
    (congrArg _ ((if_neg (by decide)).trans (if_pos ⟨hlow, hhigh⟩)))

theorem execRegisterWrite_half (hup : s.host.linkUp = true) {o : Nat} (v : BitVec 64) (ho : o < 2 ^ 21) (halign : o % 4 = 0)
    (hbeside : o < 0x10000 ∨ 0x20000 ≤ o) : execRegisterWrite o 4 v s =
      .next (s.regWrite (o / 8 * 8) (if o % 8 = 0 then setBits (s.regOld (o / 8 * 8)) 31 0 (bits v 31 0)
        else setBits (s.regOld (o / 8 * 8)) 63 32 (bits v 31 0))) :=
  (inRange_whenThen_of o (decide_eq_true ho) (by simp [hup, halign])).trans
    (congrArg _ ((if_neg (by decide)).trans (if_neg (by omega))))

theorem State.clampWrite_taken (d : Nat) {v : BitVec 64} (h : 5 ≤ bits v 19 16) : s.clampWrite d v = { s with pwr :=
    { s.pwr with dies := tupd s.pwr.dies d Die.atReset (fun x => { x with clampLevel := bits v 19 16 }) } } := by
  have hmax : bits v 19 16 < 2 ^ 4 := Nat.mod_lt _ (by decide)
  exact if_pos ⟨h, by omega⟩

theorem State.clampWrite_refused (d : Nat) {v : BitVec 64} (h : bits v 19 16 < 5) : s.clampWrite d v = s.bump slotBadAccess 1 :=
  if_neg (fun hin => absurd hin.1 (Nat.not_le.mpr h))

/-! ### The debug window (R566) -/

/-- Where no address lies in the Press, every byte of the answer is the next byte read. -/
theorem foldl_answer_of_notPress {as : List Nat} (hnone : ∀ a ∈ as, s.inPress a = false) {bs : List Byte}
    (hlen : bs.length = as.length) (done : List Byte) :
    (as.foldl (fun (acc : List Byte × List Byte) a =>
      if s.inPress a then (0 :: acc.1, acc.2) else (acc.2.headD 0 :: acc.1, acc.2.tail)) (done, bs)).1 = bs.reverse ++ done := by
  induction as generalizing bs done with
  | nil => simp [List.length_eq_zero_iff.mp hlen]
  | cons a as ih =>
    obtain ⟨b, bs, rfl⟩ := List.exists_cons_of_length_eq_add_one hlen
    obtain ⟨ha, has⟩ := List.forall_mem_cons.mp hnone
    simp only [List.foldl_cons, ha, Bool.false_eq_true, if_false, List.headD_cons, List.tail_cons]
    rw [ih has (Nat.succ.inj hlen)]
    simp

theorem execBar2Read_closed (hup : s.host.linkUp = true) {o n : Nat} (ho : o + n ≤ 2 ^ 26) (hwin : bit s.trc.win 0 = false) :
    execBar2Read o n s = .next (s.respond (List.replicate n 0xFF) false) :=
  (inRange_whenThen_of o (decide_eq_true ho) hup).trans (congrArg _ (if_pos (by simp [hwin])))

theorem execBar2Read_open (hup : s.host.linkUp = true) {o n : Nat} (ho : o + n ≤ 2 ^ 26) (hwin : bit s.trc.win 0 = true)
    (hnone : ∀ a ∈ s.bar2Addrs o n, s.inPress a = false) {bs : List Byte} {bad : Bool} {t : State}
    (hread : s.readBytes (s.bar2Addrs o n) = (bs, bad, t)) (hlen : bs.length = n) :
    execBar2Read o n s = .next (t.respond bs bad) := by
  have hall : (s.bar2Addrs o n).filter (fun a => !s.inPress a) = s.bar2Addrs o n :=
    List.filter_eq_self.mpr (fun a ha => by simp [hnone a ha])
  have haddrs : bs.length = (s.bar2Addrs o n).length := by simp [State.bar2Addrs, hlen]
  have hanswer := foldl_answer_of_notPress hnone haddrs []
  refine (inRange_whenThen_of o (decide_eq_true ho) hup).trans (congrArg _ ((if_neg (by simp [hwin])).trans ?_))
  simp only [hall, hread, hanswer, List.append_nil, List.reverse_reverse]

theorem execBar2Write_performed (hup : s.host.linkUp = true) {o : Nat} {d : List Byte} (ho : o + d.length ≤ 2 ^ 26)
    (hread : bit s.trc.win 0 = true) (hwrite : bit s.trc.win 1 = true)
    (hfree : ∀ a ∈ s.bar2Addrs o d.length, inFirmware a = false ∧ s.inPress a = false) :
    execBar2Write o d s = .next (s.writeBytes (s.bar2Addrs o d.length) d) := by
  have hany : (s.bar2Addrs o d.length).any (fun a => inFirmware a || s.inPress a) = false :=
    List.any_eq_false.mpr (fun a ha => by simp [hfree a ha])
  exact (inRange_whenThen_of o (decide_eq_true ho) hup).trans (congrArg _ (if_neg (by simp [hread, hwrite, hany])))

theorem execBar2Write_dropped (hup : s.host.linkUp = true) {o : Nat} {d : List Byte} (ho : o + d.length ≤ 2 ^ 26)
    (hbarred : bit s.trc.win 0 = false ∨ bit s.trc.win 1 = false
      ∨ ∃ a ∈ s.bar2Addrs o d.length, inFirmware a = true ∨ s.inPress a = true) :
    execBar2Write o d s = .next (s.bump slotBadAccess 1) := by
  have hdrop : (!bit s.trc.win 0 || !bit s.trc.win 1
      || (s.bar2Addrs o d.length).any (fun a => inFirmware a || s.inPress a)) = true := by
    simpa [or_assoc] using hbarred
  exact (inRange_whenThen_of o (decide_eq_true ho) hup).trans (congrArg _ (if_pos hdrop))

/-! ### The host window (R130) -/

/-- The device address of byte `o` of the host window where the byte has one. -/
def State.windowAt (s : State) (o : Nat) : Nat := (s.windowAddr o).getD 0

theorem State.windowAddr_eq_some {s : State} {o : Nat} (h : (s.windowAddr o).isSome = true) :
    s.windowAddr o = some (s.windowAt o) := by
  obtain ⟨a, ha⟩ := Option.isSome_iff_exists.mp h
  rw [State.windowAt, ha, Option.getD_some]

section Window
variable (hup : s.host.linkUp = true) (hmode : s.host.cxlMode = true) {o : Nat}
include hup hmode

theorem execHostMemRead_eq {n : Nat} (ho : o + n ≤ s.mem.carve.window) {bs : List Byte} {bad : Bool} {t : State}
    (hread : s.readBytes ((List.range n).filterMap (fun i => s.windowAddr (o + i))) = (bs, bad, t)) :
    execHostMemRead o n s = .next (if (List.range n).any (fun i => (s.windowAddr (o + i)).isNone)
      then t.respond (List.replicate n 0) true else t.respond bs bad) := by
  have hvalid : ((List.range n).map (fun i => s.windowAddr (o + i))).filterMap id
      = (List.range n).filterMap (fun i => s.windowAddr (o + i)) := by simp [List.filterMap_map]
  simp only [execHostMemRead, inRange_of _ _ (decide_eq_true ho), hvalid, hread, List.any_map]
  exact whenThen_of s _ (by simp [hup, hmode])

theorem execHostMemRead_valid {n : Nat} (ho : o + n ≤ s.mem.carve.window) {bs : List Byte} {bad : Bool} {t : State}
    (hvalid : ∀ i, i < n → (s.windowAddr (o + i)).isSome = true)
    (hread : s.readBytes ((List.range n).filterMap (fun i => s.windowAddr (o + i))) = (bs, bad, t)) :
    execHostMemRead o n s = .next (t.respond bs bad) := by
  rw [execHostMemRead_eq hup hmode ho hread, if_neg]
  simpa [Option.isSome_iff_ne_none] using hvalid

theorem execHostMemRead_poisoned {n : Nat} (ho : o + n ≤ s.mem.carve.window)
    (hhole : ∃ i, i < n ∧ s.windowAddr (o + i) = none) :
    ∃ t : State, execHostMemRead o n s = .next (t.respond (List.replicate n 0) true) := by
  have hany : (List.range n).any (fun i => (s.windowAddr (o + i)).isNone) = true := by simpa using hhole
  exact ⟨_, (execHostMemRead_eq hup hmode ho rfl).trans (congrArg _ (if_pos hany))⟩

theorem execHostMemWrite_valid {d : List Byte} (ho : o + d.length ≤ s.mem.carve.window)
    (hvalid : ∀ i, i < d.length → (s.windowAddr (o + i)).isSome = true) :
    execHostMemWrite o d s = .next (s.writeBytes ((List.range d.length).filterMap (fun i => s.windowAddr (o + i))) d) := by
  have hsome : ∀ p ∈ d.zipIdx, s.windowAddr (o + p.2) = some (s.windowAt (o + p.2)) := fun p hp =>
    State.windowAddr_eq_some (hvalid p.2 (by simpa using List.snd_lt_of_mem_zipIdx hp))
  have hpairs : (d.zipIdx.map (fun p => (s.windowAddr (o + p.2), p.1))).filterMap (fun p => p.1.map (fun a => (a, p.2)))
      = d.zipIdx.map (fun p => (s.windowAt (o + p.2), p.1)) := by
    rw [List.filterMap_map, List.filterMap_eq_map_iff_forall_eq_some]
    exact fun p hp => by simp [hsome p hp]
  have haddrs : (d.zipIdx.map (fun p => (s.windowAt (o + p.2), p.1))).map Prod.fst
      = (List.range d.length).filterMap (fun i => s.windowAddr (o + i)) := by
    rw [List.filterMap_eq_map_iff_forall_eq_some.mpr
        (fun i hi => State.windowAddr_eq_some (hvalid i (List.mem_range.mp hi))),
      List.range_eq_range', ← List.zipIdx_map_snd 0 d, List.map_map, List.map_map]
    rfl
  have hbytes : (d.zipIdx.map (fun p => (s.windowAt (o + p.2), p.1))).map Prod.snd = d := by
    rw [List.map_map]
    exact List.zipIdx_map_fst 0 d
  have hnone : (d.zipIdx.map (fun p => (s.windowAddr (o + p.2), p.1))).any (fun p => p.1.isNone) = false := by
    rw [List.any_map, List.any_eq_false]
    exact fun p hp => by simp [hsome p hp]
  refine (inRange_whenThen_of o (decide_eq_true ho) (by simp [hup, hmode])).trans (congrArg _ ?_)
  dsimp only
  rw [hpairs, haddrs, hbytes, hnone]
  rfl

end Window
end Accesses

/-- Settles O27: what each access comes to while the link is up. -/
theorem hostAccesses : Obligations.HostAccesses := by
  intro s hup
  refine ⟨fun o v => execRegisterWrite_whole hup v, fun o v => execRegisterWrite_half_doorbell hup v,
    fun o v => execRegisterWrite_half hup v, whenThen_of s _ hup, fun d v hd hlevel => ?taken,
    fun d v hd hlevel => ?refused, fun o n => execBar2Read_closed hup,
    fun o n bs bad t ho hwin hnone => execBar2Read_open hup ho hwin hnone,
    fun o d ho => ⟨execBar2Write_performed hup ho, execBar2Write_dropped hup ho⟩,
    fun hmode o n ho => ⟨fun bs bad t => execHostMemRead_valid hup hmode ho, execHostMemRead_poisoned hup hmode ho⟩,
    fun hmode o d => execHostMemWrite_valid hup hmode⟩
  case taken => exact (inRange_whenThen_of d (decide_eq_true hd) hup).trans (congrArg _ (State.clampWrite_taken d hlevel))
  case refused => exact (inRange_whenThen_of d (decide_eq_true hd) hup).trans (congrArg _ (State.clampWrite_refused d hlevel))

end Sys2Proof.Machine

/-! SUPPORT. What a Function Level Reset ends and keeps, and the events of the host link; then the statement about them. -/
namespace Sys2Proof.Machine

/-- `t` differs from `s` by work given up alone: what the host set up, the memory that handles and carve-outs describe, the
matrices of the Mould and membership of the job stand. -/
structure State.KeepsSetUp (s t : State) : Prop where
  host : t.host = s.host
  slots : t.mem.slots = s.mem.slots
  carve : t.mem.carve = s.mem.carve
  dram : t.mem.dram = s.mem.dram
  mats : t.mould.mats = s.mould.mats
  job : t.job.job = s.job.job

/-- Giving up a command's work frees the stack where a self-test held it, and touches no other memory. -/
theorem State.abortWork_mem (s : State) (id : Nat) :
    (s.abortWork id).mem = { s.mem with stackBy := none } ∨ (s.abortWork id).mem = s.mem :=
  ite_eq_or_eq _ _ _

theorem State.abortWork_keepsSetUp (s : State) (id : Nat) : s.KeepsSetUp (s.abortWork id) := by
  refine ⟨rfl, ?_, ?_, ?_, rfl, rfl⟩
  all_goals rcases s.abortWork_mem id with hmem | hmem <;> rw [hmem]

theorem State.foldl_abortWork_keepsSetUp (l : List (Nat × CmdRec)) (s : State) :
    s.KeepsSetUp (l.foldl (fun s e => s.abortWork e.1) s) := by
  induction l generalizing s with
  | nil => exact ⟨rfl, rfl, rfl, rfl, rfl, rfl⟩
  | cons e l ih =>
    obtain ⟨hhost, hslots, hcarve, hdram, hmats, hjob⟩ := ih (s.abortWork e.1)
    obtain ⟨khost, kslots, kcarve, kdram, kmats, kjob⟩ := s.abortWork_keepsSetUp e.1
    exact ⟨hhost.trans khost, hslots.trans kslots, hcarve.trans kcarve, hdram.trans kdram, hmats.trans kmats, hjob.trans kjob⟩

/-- What a Function Level Reset leaves of the host interface (R449). -/
theorem State.flr_host (s : State) : s.flr.host =
    { s.host with session := false, levelNow := 0, cmds := [], pairs := [], hnCtrl := 0, hnMask := 0 } := by
  simp only [State.flr, (s.foldl_abortWork_keepsSetUp s.host.cmds).host]

/-- The link comes up once PD02 runs and neither reset is asserted (R432, R537). -/
theorem execCxlLinkStateChange_up {s : State} {now : Nat} (cxl : Bool) : let t := s.advance now
    t.pwr.resetLow = false → t.pins.perstLow = false → t.domOn 2 = true → t.host.linkUp = false →
    execCxlLinkStateChange true cxl now s = .next { t with host := { t.host with linkUp := true, cxlMode := cxl } } := by
  intro t hreset hperst hon hdown
  have hfree : (!t.pwr.resetLow && !t.pins.perstLow && t.domOn 2 && !t.host.linkUp) = true := by
    simp [hreset, hperst, hon, hdown]
  exact whenThen_of s _ hfree

theorem execCxlLinkStateChange_down {s : State} {now : Nat} (cxl : Bool) : let t := s.advance now
    t.host.linkUp = true → execCxlLinkStateChange false cxl now s =
      .next { t with host := { t.host with linkUp := false, downAt := t.time } } := by
  intro t hup
  exact (whenThen_of s _ hup).trans (congrArg _ (if_pos hup))

/-- A link that has been down for 1 s fences the package (R569). -/
theorem execHostLinkLossTimeout_due {s : State} {now : Nat} : let t := s.advance now
    t.host.linkUp = false → t.host.downAt + sec 1 ≤ t.time → t.job.job.isSome = true → t.fail.selfFenced = none →
    execHostLinkLossTimeout now s = .next (t.selfFence 8) := by
  intro t hdown hdue hjob hself
  have hlost : (!t.host.linkUp && decide (t.host.downAt + sec 1 ≤ t.time) && t.job.job.isSome
      && t.fail.selfFenced.isNone) = true := by
    simp [hdown, hdue, hjob, hself]
  exact whenThen_of s _ hlost

/-- Settles O28: what the reset sets, what giving up each command's work leaves, and each event of the link. -/
theorem functionResetAndLink : Obligations.FunctionResetAndLink := by
  refine ⟨fun s hup => whenThen_of s _ hup, fun s => ?reset, fun s now => ?link⟩
  case reset =>
    obtain ⟨-, hslots, hcarve, hdram, hmats, hjob⟩ := s.foldl_abortWork_keepsSetUp s.host.cmds
    rw [State.flr_host]
    exact ⟨rfl, rfl, rfl, rfl, rfl, rfl, rfl, rfl, rfl, rfl, hslots, hcarve, hdram, hmats, hjob⟩
  case link =>
    exact ⟨rfl, rfl, fun hreset hperst hon hdown cxl => execCxlLinkStateChange_up cxl hreset hperst hon hdown,
      fun hup cxl => execCxlLinkStateChange_down cxl hup, execHostLinkLossTimeout_due⟩

end Sys2Proof.Machine

/-! SUPPORT. What the counter, trace and Deckle commands answer once their checks pass or fail; then the statement about all
of them. -/
namespace Sys2Proof.Machine

section Telemetry
variable {s : State} {id : Nat} {c : CmdRec}

/-! ### COUNTER_COPY (R558, R560) -/

theorem counterCopyBody_held (halign : fld c.packet 32 8 % 32 = 0) (hheld : s.ctr.overwritten (fld c.packet 24 4) = false) :
    let rs := counterRun (fld c.packet 28 4) s.ctr.recs (fld c.packet 24 4) s.ctr.next
    counterCopyBody id c s = okDone (s.hostWrite (fld c.packet 32 8) (rs.flatMap recBytes)) rs.length := by
  simp only [counterCopyBody, halign, hheld, decide_true, Bool.not_false, need_of, ok_bind]

theorem counterCopyBody_overwritten (halign : fld c.packet 32 8 % 32 = 0)
    (hlost : s.ctr.overwritten (fld c.packet 24 4) = true) : counterCopyBody id c s = .error (stBadParam, 0) := by
  simp only [counterCopyBody, halign, hlost, decide_true, Bool.not_true, need_of, need_not, ok_bind, error_bind]

/-! ### TRACE_CONFIG, TRACE_COPY (R561, R564) -/

/-- Tracing begins in the trace carve-out, which it claims. -/
theorem traceConfigBody_begins (hset : (fld c.packet 24 1).testBit 0 = true) (hoff : s.trc.enabled = false)
    (hfree : s.mem.traceBy = none) (hcarve : s.mem.carve.trace ≠ 0) :
    traceConfigBody id c s = okDone { s with
      trc := { s.trc with enabled := true, mask := BitVec.ofNat 32 (fld c.packet 28 4) }
      mem := { s.mem with traceBy := some .trace } } := by
  simp only [traceConfigBody, hset, hoff, hfree, hcarve, Option.isNone_none, decide_true, ne_eq, not_false_eq_true, need_of,
    ok_bind, Bool.false_eq_true, ↓reduceIte]

theorem traceConfigBody_claimed (hset : (fld c.packet 24 1).testBit 0 = true) (hoff : s.trc.enabled = false)
    (hclaimed : s.mem.traceBy ≠ none) : traceConfigBody id c s = .error (stConflict, 0) := by
  simp only [traceConfigBody, hset, hoff, Option.isNone_eq_false_iff.mpr (Option.isSome_iff_ne_none.mpr hclaimed), need_not,
    error_bind, Bool.false_eq_true, ↓reduceIte]

theorem traceConfigBody_goes_on (hset : (fld c.packet 24 1).testBit 0 = true) (hon : s.trc.enabled = true) :
    traceConfigBody id c s = okDone { s with trc := { s.trc with mask := BitVec.ofNat 32 (fld c.packet 28 4) } } := by
  simp only [traceConfigBody, hset, hon, ↓reduceIte]

/-- Tracing ends, and the trace carve-out is given back where the trace had it. -/
def State.traceOff (s : State) : State :=
  { s with trc := { s.trc with enabled := false }
           mem := { s.mem with traceBy := if s.mem.traceBy = some .trace then none else s.mem.traceBy } }

theorem State.traceOff_traceBy (s : State) : s.traceOff.mem.traceBy ≠ some .trace := by
  simp only [State.traceOff]
  split
  · exact nofun
  · assumption

theorem traceConfigBody_ends (hclear : (fld c.packet 24 1).testBit 0 = false) : traceConfigBody id c s = okDone s.traceOff := by
  simp only [traceConfigBody, hclear, Bool.false_eq_true, ↓reduceIte, State.traceOff]

theorem traceCopyBody_aligned (hout : fld c.packet 32 8 % 32 = 0) (hlen : fld c.packet 40 4 % 64 = 0) :
    let rs := (s.trc.recs.filter (fun r => decide (fld c.packet 24 8 ≤ r.1))).take (fld c.packet 40 4 / 64)
    traceCopyBody id c s = okDone (s.hostWrite (fld c.packet 32 8) (rs.flatMap (fun r => recBytes r.2))) (64 * rs.length) := by
  simp only [traceCopyBody, hout, hlen, and_self, decide_true, need_of, ok_bind]

/-! ### DECKLE_CONFIG (R482, R551) -/

/-- The package with the role and source that a DECKLE_CONFIG packet names, and the ball where the source is the pulse. -/
def State.deckleSet (s : State) (p : BitVec 512) : State :=
  let changed := s.dk.role != (fld p 24 1 == 1) || s.dk.source != (fld p 25 1 == 1)
  { s with
    dk := { s.dk with
      role := fld p 24 1 == 1, source := fld p 25 1 == 1, acquiring := s.dk.acquiring || changed
      pulse := s.dk.pulse && !changed, edges := s.dk.edges && !changed
      pulseAt := if fld p 25 1 = 0 then none else if changed then some s.time else s.dk.pulseAt }
    pins := { s.pins with ball := if fld p 25 1 = 1 then 1 else if s.pins.ball = 1 then 0 else s.pins.ball } }

theorem deckleConfigBody_allowed (hrole : fld c.packet 24 1 ≤ 1) (hsource : fld c.packet 25 1 ≤ fld c.packet 24 1)
    (hball : fld c.packet 25 1 = 1 → s.pins.ball ≠ 2) :
    deckleConfigBody id c s = okDone (s.deckleSet c.packet).chooseMaster := by
  have hrange : decide (fld c.packet 24 1 ≤ 1 ∧ fld c.packet 25 1 ≤ 1 ∧ fld c.packet 25 1 ≤ fld c.packet 24 1) = true :=
    decide_eq_true ⟨hrole, hsource.trans hrole, hsource⟩
  have hfree : (fld c.packet 25 1 != 1 || s.pins.ball != 2) = true := by
    simpa [← imp_iff_not_or] using hball
  simp only [deckleConfigBody, hrange, hfree, need_of, ok_bind, State.deckleSet]

theorem deckleConfigBody_source_without_role (h : fld c.packet 24 1 < fld c.packet 25 1) :
    deckleConfigBody id c s = .error (stBadParam, 0) := by
  have hout : decide (fld c.packet 24 1 ≤ 1 ∧ fld c.packet 25 1 ≤ 1 ∧ fld c.packet 25 1 ≤ fld c.packet 24 1) = false :=
    decide_eq_false (fun hin => Nat.not_le.mpr h hin.2.2)
  simp only [deckleConfigBody, hout, need_not, error_bind]

end Telemetry

/-- Settles O51: the checks and the work of each command. -/
theorem telemetryCommands : Obligations.TelemetryCommands := by
  intro s id c t k
  refine ⟨?counters, ?config, ?copy, ?deckle,
    fun hready h => jeisk_error hready (deckleConfigBody_source_without_role h)⟩
  case counters =>
    intro hready halign
    exact ⟨fun hheld => jeisk_done hready (counterCopyBody_held halign hheld),
      fun hlost => jeisk_error hready (counterCopyBody_overwritten halign hlost)⟩
  case config =>
    intro hready mask
    exact ⟨fun hset hoff hfree hcarve => jeisk_done hready (traceConfigBody_begins hset hoff hfree hcarve),
      fun hset hoff hclaimed => jeisk_error hready (traceConfigBody_claimed hset hoff hclaimed),
      fun hset hon => jeisk_done hready (traceConfigBody_goes_on hset hon),
      fun hclear => ⟨t.traceOff, jeisk_done hready (traceConfigBody_ends hclear), rfl, t.traceOff_traceBy⟩⟩
  case copy =>
    intro hready hout hlen
    exact jeisk_done hready (traceCopyBody_aligned hout hlen)
  case deckle =>
    intro hready hrole hsource hball
    exact ⟨t.deckleSet k, jeisk_done hready (deckleConfigBody_allowed hrole hsource hball), beq_iff_eq, beq_iff_eq,
      fun hpulse => if_pos hpulse, rfl, rfl⟩

end Sys2Proof.Machine

/-! SUPPORT. What writes, reads and dumps the black box: the two commands, the dump trigger, the sideband and the loss of
standby power, each once; then the statement about all of them. -/
namespace Sys2Proof.Machine

section BlackBox
variable {s : State} {id : Nat} {c : CmdRec}

/-- Sentinel 1 writes the entry that has waited longest once its crystal runs (R598). -/
theorem execBlackboxRecordWrite_waiting {k : Nat} {e : BitVec 256} {b : List Byte} {rest : List (Nat × BitVec 256 × List Byte)}
    (hqueue : s.bb.queue = (k, e, b) :: rest) (hcrystal : s.pwr.crystal = true) :
    execBlackboxRecordWrite s = .next (State.bbWrite { s with bb := { s.bb with queue := rest } } k e b) := by
  simp only [execBlackboxRecordWrite, hqueue, hcrystal, whenThen_of]

/-! ### BLACKBOX_READ, BLACKBOX_CONFIG (R603, R630) -/

/-- The records that a BLACKBOX_READ packet asks for. -/
def State.bbAsked (s : State) (p : BitVec 512) : List (Nat × BitVec 4096) :=
  (s.bb.recs.filter (fun r => decide (s.bbFirst (fld p 24 4) ≤ r.1))).take (fld p 28 4)

/-- The package once those records stand in host memory. -/
def State.bbCopied (s : State) (p : BitVec 512) : State :=
  s.hostWrite (fld p 32 8) ((s.bbAsked p).flatMap (fun r => recBytes r.2))

/-- The mark moves past the last record copied. -/
theorem blackboxReadBody_some (halign : fld c.packet 32 8 % 32 = 0) {r : Nat × BitVec 4096}
    (hlast : (s.bbAsked c.packet).getLast? = some r) :
    let u := s.bbCopied c.packet
    blackboxReadBody id c s = okDone (State.bbNear { u with bb := { u.bb with mark := Max.max u.bb.mark (r.1 + 1) } })
      (s.bbAsked c.packet).length := by
  simp only [State.bbAsked] at hlast
  simp only [blackboxReadBody, halign, hlast, decide_true, need_of, ok_bind, State.bbCopied, State.bbAsked]

theorem blackboxReadBody_none (halign : fld c.packet 32 8 % 32 = 0) (hnone : s.bbAsked c.packet = []) :
    blackboxReadBody id c s = okDone (s.bbCopied c.packet).bbNear := by
  simp only [State.bbAsked] at hnone
  simp only [blackboxReadBody, halign, hnone, decide_true, need_of, ok_bind, State.bbCopied, State.bbAsked,
    List.getLast?_nil, List.length_nil]

theorem blackboxConfigBody_takes (htake : fld c.packet 24 1 = 1) (hfree : s.pins.ball ≠ 1) :
    blackboxConfigBody id c s = okDone { s with pins := { s.pins with ball := 2 } } := by
  simp [blackboxConfigBody, need, htake, hfree]

theorem blackboxConfigBody_pulse (htake : fld c.packet 24 1 = 1) (hpulse : s.pins.ball = 1) :
    blackboxConfigBody id c s = .error (stConflict, 0) := by
  simp [blackboxConfigBody, need, htake, hpulse]

theorem blackboxConfigBody_gives (hgive : fld c.packet 24 1 = 0) :
    blackboxConfigBody id c s =
      okDone { s with pins := { s.pins with ball := if s.pins.ball = 2 then 0 else s.pins.ball } } := by
  simp [blackboxConfigBody, need, hgive]

theorem blackboxConfigBody_reserved (h : 2 ≤ fld c.packet 24 1) : blackboxConfigBody id c s = .error (stBadParam, 0) := by
  have hout : decide (fld c.packet 24 1 ≤ 1) = false := decide_eq_false (by omega)
  simp only [blackboxConfigBody, hout, need_not, error_bind]

/-! ### The dump trigger and the sideband (R602, R604) -/

section Dump
variable {now : Nat} (hball : (s.advance now).pins.ball = 2)
include hball

theorem execDumpTriggerEdge_first (hnone : (s.advance now).bb.dumpAt = none) :
    let t := s.advance now
    execDumpTriggerEdge now s = .next (State.bbPush { t with bb := { t.bb with dumpAt := some t.time } }
      14 0 (recBytes t.idStatus ++ recBytes t.ptStatus ++ leBytes 8 t.fwNow ++ t.bb.notices.flatMap recBytes)) := by
  simp [execDumpTriggerEdge, whenThen, hball, hnone]

theorem execDumpTriggerEdge_recent {a : Nat} (hat : (s.advance now).bb.dumpAt = some a)
    (hrecent : (s.advance now).time < a + ms 100) : execDumpTriggerEdge now s = .next s := by
  simp [execDumpTriggerEdge, whenThen, hball, hat, hrecent]

end Dump

theorem execSidebandBlackboxRead_eq {first n : Nat} (hcrystal : s.pwr.crystal = true) (hsome : 1 ≤ n) (hmost : n ≤ 4) :
    execSidebandBlackboxRead first n s = .next (if first < s.bbOldest then s.send (.sideband 1 [])
      else s.send (.sideband 0 (((s.bb.recs.filter (fun r => decide (first ≤ r.1))).take n).flatMap
        (fun r => recBytes r.2)))) :=
  whenThen_of _ _ (by simp [hcrystal, hsome, hmost])

/-! ### Standby power lost (R601, R634) -/

theorem execHoldupAlarm_uncharged (h : s.bb.charged = false) : execHoldupAlarm s = .next (s.intoReset false) := by
  simp only [execHoldupAlarm, h, Bool.false_and, Bool.false_eq_true, ↓reduceIte]

section Charged
variable (hcharged : s.bb.charged = true) (hcrystal : s.pwr.crystal = true)
include hcharged hcrystal

theorem execHoldupAlarm_idle (hqueue : s.bb.queue = []) :
    execHoldupAlarm s = .next ((s.bbWrite 11 0 []).intoReset false) := by
  simp only [execHoldupAlarm, hcharged, hcrystal, hqueue, Bool.and_self, ↓reduceIte]

/-- The record being written is finished first. -/
theorem execHoldupAlarm_waiting {k : Nat} {e : BitVec 256} {b : List Byte} {rest : List (Nat × BitVec 256 × List Byte)}
    (hqueue : s.bb.queue = (k, e, b) :: rest) : execHoldupAlarm s =
      .next (((State.bbWrite { s with bb := { s.bb with queue := rest } } k e b).bbWrite 11 0 []).intoReset false) := by
  simp only [execHoldupAlarm, hcharged, hcrystal, hqueue, Bool.and_self, ↓reduceIte]

end Charged
end BlackBox

/-- Settles O58: what each command and each event of the black box comes to. -/
theorem blackBoxKeepsRecords : Obligations.BlackBoxKeepsRecords := by
  intro s
  refine ⟨fun k e b rest => execBlackboxRecordWrite_waiting, fun id c => ⟨?read, ?config⟩,
    fun now => ?dump, fun first n hcrystal hsome hmost => ?sideband, rfl, execHoldupAlarm_idle,
    fun k e b rest hcharged hcrystal => execHoldupAlarm_waiting hcharged hcrystal, execHoldupAlarm_uncharged⟩
  case read =>
    intro hready halign rs u
    exact ⟨fun r hlast => jeisk_done hready (blackboxReadBody_some halign hlast),
      fun hnone => jeisk_done hready (blackboxReadBody_none halign hnone)⟩
  case dump =>
    intro t hball
    exact ⟨execDumpTriggerEdge_first hball, fun a => execDumpTriggerEdge_recent hball⟩
  case config =>
    intro hready
    exact ⟨fun htake hfree => jeisk_done hready (blackboxConfigBody_takes htake hfree),
      fun htake hpulse => jeisk_error hready (blackboxConfigBody_pulse htake hpulse),
      fun hgive => jeisk_done hready (blackboxConfigBody_gives hgive),
      fun hreserved => jeisk_error hready (blackboxConfigBody_reserved hreserved)⟩
  case sideband =>
    have hread := execSidebandBlackboxRead_eq (first := first) hcrystal hsome hmost
    exact ⟨fun herased => next_of_pos hread herased, fun hheld => next_of_neg hread hheld.not_gt⟩

end Sys2Proof.Machine

/-! SUPPORT. How a membership ends and how a fenced member is replaced: JOB_END, JOB_SPARE, its redraw and its time limit, each
once; then the statement about all of them. -/
namespace Sys2Proof.Machine

section Membership
variable {s : State} {id : Nat} {c : CmdRec} {j : Job}

/-! ### JOB_END (R475, R575) -/

/-- Nothing of the job is under way here: the Vat, the Press, the fabric and the transit grants (R475). -/
def State.mayLeave (s : State) : Bool :=
  !s.vat.running && s.press.shards.isEmpty && !s.fabricBusy && s.xfer.grants.isEmpty

/-- JOB_END of the placed job is decided by whether the package is fenced, and by what is under way. -/
theorem jobEndBody_placed (hjob : s.job.job = some j) (hid : j.id = fld c.packet 24 4) : jobEndBody id c s =
    if s.fail.selfFenced.isSome then okDone (s.press.shards.foldl (fun s e => s.detachShard e.1) s).leaveJob
    else need s.mayLeave (stConflict, 0) >>= fun _ => okDone s.sayLeft.leaveJob := by
  simp only [jobEndBody, hjob, hid, decide_true, need_of, ok_bind]
  rfl

theorem jobEndBody_leaves (hjob : s.job.job = some j) (hid : j.id = fld c.packet 24 4) (hself : s.fail.selfFenced = none)
    (hfree : s.mayLeave = true) : jobEndBody id c s = okDone s.sayLeft.leaveJob := by
  simp only [jobEndBody_placed hjob hid, hself, hfree, need_of, ok_bind, Option.isSome_none, Bool.false_eq_true, ↓reduceIte]

theorem jobEndBody_conflict (hjob : s.job.job = some j) (hid : j.id = fld c.packet 24 4) (hself : s.fail.selfFenced = none)
    (hbusy : s.mayLeave = false) : jobEndBody id c s = .error (stConflict, 0) := by
  simp only [jobEndBody_placed hjob hid, hself, hbusy, need_not, error_bind, Option.isSome_none, Bool.false_eq_true,
    ↓reduceIte]

theorem jobEndBody_fenced (hjob : s.job.job = some j) (hid : j.id = fld c.packet 24 4)
    (hself : s.fail.selfFenced.isSome = true) :
    jobEndBody id c s = okDone (s.press.shards.foldl (fun s e => s.detachShard e.1) s).leaveJob := by
  simp only [jobEndBody_placed hjob hid, hself, ↓reduceIte]

/-- The end of the Vat releases its handle, and changes no Mould matrix. -/
@[simp] theorem State.endVat_mould (s : State) : s.endVat.mould = s.mould := by
  unfold State.endVat
  cases s.vat.cfg <;> rfl

theorem State.leaveJob_mats (s : State) : s.leaveJob.mould.mats = [] := by
  simp only [State.leaveJob, State.setMeasure_mould, State.endVat_mould]
  rfl

/-! ### JOB_SPARE (R109, R578) -/

/-- The first JOB_SPARE read starts as any other command. -/
theorem execJobSpare_first (hcmd : s.cmd id = some c)
    (hfirst : s.host.cmds.all (fun e => !(e.1 < id && pktOp e.2.packet == 0x709)) = true) :
    execJobSpare id s = jeisk 0x709 jobSpareBody id s :=
  jeiskIf_of_gate hcmd hfirst

/-- The spare that the JOB_SPARE `id` of the packet `p` waits for. -/
def State.awaitSpare (s : State) (id : Nat) (p : BitVec 512) : State :=
  { s with job := { s.job with
      sparing := some { cmd := id, fenced := fld p 24 2, spare := fld p 26 2, serial := BitVec.ofNat 64 (fld p 32 8),
                        since := s.time, ready := false } } }

/-- On the lead, a JOB_SPARE that names a fenced member and a package outside the job waits for its spare. -/
theorem jobSpareBody_waits (hjob : s.job.job.isSome = true) (hlead : s.isLead = true)
    (hfenced : s.isFenced (fld c.packet 24 2) = true)
    (hnew : (s.me.bind (fun m => m.1.pos (fld c.packet 26 2))).isNone = true)
    (hgone : (s.me.bind (fun m => m.1.pos (fld c.packet 24 2))).isSome = true) :
    jobSpareBody id c s = .ok (.busy (s.awaitSpare id c.packet).trySpare) := by
  simp only [State.isFenced] at hfenced
  simp only [jobSpareBody, needJob, hjob, hlead, hfenced, hnew, hgone, Bool.and_self, need_of, ok_bind, State.awaitSpare]

/-! ### The redraw (R109, R110, R419) -/

/-- The job once the spare has taken the place and the shards of the fenced package, one generation on. -/
def Job.redrawn (j : Job) (sp : Sparing) : Job :=
  { j.amend sp.fenced sp.spare with generation := (j.generation + 1) % 2 ^ 32 }

section Redraw
variable {sp : Sparing} (hsparing : s.job.sparing = some sp) (hjob : s.job.job = some j) (hready : sp.ready = true)
  (hinsts : s.xfer.insts = []) (hones : s.xfer.ones = [])
include hsparing hjob hready hinsts hones

theorem execRedrawInstall_installs (hfits : (j.redrawn sp).overfull = none) :
    let n := j.redrawn sp
    let t := (s.sendDecisions n (fun i => n.decision i (some (sp.fenced, sp.spare)))).redrawHere n
      (n.circuits ((n.pos s.pkgId).getD 0)) sp.fenced sp.spare
    execRedrawInstall s = .next ((State.hostWrite { t with job := { t.job with sparing := none } } n.report
      n.reportBytes).finish sp.cmd (stOk, n.generation)) := by
  simp only [Job.redrawn] at hfits
  simp only [execRedrawInstall, hsparing, hjob, hready, hinsts, hones, hfits, State.sendDecisions_pkgId, Job.redrawn,
    List.isEmpty_nil, Bool.not_true, Bool.or_self, Bool.false_eq_true, ↓reduceIte]

theorem execRedrawInstall_overfull {p : Nat} (hover : (j.redrawn sp).overfull = some p) :
    execRedrawInstall s = .next (s.spareFails sp (stNoResource, p)) := by
  simp only [Job.redrawn] at hover
  simp only [execRedrawInstall, hsparing, hjob, hready, hinsts, hones, hover, List.isEmpty_nil, Bool.not_true, Bool.or_self,
    Bool.false_eq_true, ↓reduceIte]

end Redraw

/-- A spare whose digest has not come in 10 s is waited for no longer (R578). -/
theorem execJobSpareTimeout_due {now : Nat} {sp : Sparing} : let t := s.advance now
    t.job.sparing = some sp → sp.ready = false → sp.since + sec 10 ≤ t.time → execJobSpareTimeout sp.cmd now s =
      .next (State.finish { t with job := { t.job with sparing := none } } sp.cmd (stTimeout, 0)) := by
  intro t hsparing hmissing hdue
  simp only [execJobSpareTimeout, t, hsparing]
  exact whenThen_of s _ (by simp [hmissing, hdue, t])

end Membership

/-- Settles O34: what is under way decides JOB_END, the spare's digest and the redraw end JOB_SPARE. -/
theorem membershipEndsAndIsSpared : Obligations.MembershipEndsAndIsSpared := by
  refine ⟨fun s id c j hready => ?ends, fun s id c => ⟨?waits, ?redraws, ?late,
    fun j gone new => ⟨rfl, List.length_map _⟩⟩⟩
  case ends =>
    intro t hjob hid
    refine ⟨fun hself => ⟨fun hfree => jeisk_done hready (jobEndBody_leaves hjob hid hself hfree),
        fun hbusy => jeisk_error hready (jobEndBody_conflict hjob hid hself hbusy)⟩,
      fun hself => jeisk_done hready (jobEndBody_fenced hjob hid hself),
      fun u => ⟨rfl, rfl, rfl, rfl, u.leaveJob_mats, rfl⟩⟩
  case waits =>
    intro hready hfirst t gone new hjob hlead hfenced hnew hgone
    exact (execJobSpare_first hready.1 hfirst).trans
      (jeisk_busy hready (jobSpareBody_waits hjob hlead hfenced hnew hgone))
  case redraws =>
    intro sp j hsparing hjob hready hinsts hones n
    exact ⟨execRedrawInstall_installs hsparing hjob hready hinsts hones,
      fun p => execRedrawInstall_overfull hsparing hjob hready hinsts hones⟩
  case late =>
    rintro now sp t hsparing rfl hmissing hdue
    exact execJobSpareTimeout_due hsparing hmissing hdue

end Sys2Proof.Machine

/-! SUPPORT. A launch from its checks to its end: LAUNCH, LAUNCH_START, LAUNCH_CLUSTERS_FINISHED and the progress timeout, each
once; then the statement about all of them. -/
namespace Sys2Proof.Machine

section Launches
variable {s : State} {id : Nat} {c : CmdRec} {l : Launch}

/-! ### LAUNCH (R476) -/

section Block
variable {b : BitVec 8192}

/-- R575 ends no LAUNCH of an unfenced package, of a package without a job, or without bindings. -/
theorem launch_not_fenced (h : s.fail.selfFenced = none ∨ s.job.job = none ∨ fld b 6 1 = 0) :
    (s.fail.selfFenced.isSome && s.job.job.isSome && decide (fld b 6 1 ≠ 0)) = false := by
  rcases h with hself | hjob | hnone
  · simp [hself]
  · simp [hjob]
  · simp [hnone]

variable (hc : s.cmd id = some c) (hop : pktOp c.packet = 0x200) (hturn : s.mayStart id c = true)
  (hnew : s.launchOf id = none) (hblock : s.hostRec 8192 (fld c.packet 24 8) = some b)
  (hallowed : s.fail.selfFenced = none ∨ s.job.job = none ∨ fld b 6 1 = 0)
include hc hop hturn hnew hblock hallowed

theorem execLaunch_accepted {t : State} (hcheck : launchCheck id c b s = .ok (some l, t)) :
    execLaunch id s = .next (t.setLaunch id l) := by
  simp only [execLaunch, hc, hop, hturn, hnew, hblock, launch_not_fenced hallowed, hcheck, Option.isNone_none, and_self,
    Bool.false_eq_true, ↓reduceIte]

theorem execLaunch_refused {st : Cause} (hcheck : launchCheck id c b s = .error st) :
    execLaunch id s = .next (s.turnAway id st) := by
  simp only [execLaunch, hc, hop, hturn, hnew, hblock, launch_not_fenced hallowed, hcheck, Option.isNone_none, and_self,
    Bool.false_eq_true, ↓reduceIte, State.turnAway]

end Block

/-! ### LAUNCH_START (R181, R477) -/

theorem State.freeClusters_free {rot cl : Nat} (h : cl ∈ s.freeClusters rot) : cl < 2048 ∧ (s.clus cl).launch = none := by
  simp only [State.freeClusters, List.mem_filter, List.mem_map, List.mem_range, Bool.and_eq_true, Option.isNone_iff_eq_none] at h
  obtain ⟨⟨i, -, rfl⟩, ⟨hfree, -⟩, -⟩ := h
  exact ⟨Nat.mod_lt _ (by decide), hfree⟩

/-- The launch `id` takes the clusters `held`: each has its rank and begins to be given its words. -/
def State.takeClusters (s : State) (id : Nat) (c : CmdRec) (l : Launch) (held : List Nat) : State :=
  let t := s.setCmd id { c with place := placeWord held }
  let t := l.bindings.foldl State.renewStep ((t.startCmd id).setLaunch id { l with held := held })
  let t := held.zipIdx.foldl (fun t x => t.setClus x.1
    ((t.clus x.1).begin_ id x.2 l.want t.time (tgetD t.ctr.cnt (slotBusy x.1) 0))) t
  held.foldl (fun t cl => t.distribute 770 cl) t

/-- A waiting launch starts where as many clusters are free as it wants; the rotation of the choice is free (log 29). -/
theorem execLaunchStart_takes (hc : s.cmd id = some c) (hl : s.launchOf id = some l) (hwaits : c.phase = .waiting)
    (htest : s.selftesting = false) (hstack : s.stackOk l = true) (hbind : l.bindings.all s.bindingOk = true) :
    let free := s.draw.2.freeClusters (Config.clusterRotation s.free % 2048)
    l.want ≤ free.length → execLaunchStart id s = .next (s.draw.2.takeClusters id c l (free.take l.want)) := by
  intro free henough
  have hgoes : (c.phase != .waiting || decide (free.length < l.want) || s.selftesting) = false := by
    simp [hwaits, htest, henough.not_gt]
  simp only [execLaunchStart, hl, hc, hstack, hbind, Bool.not_true, Bool.false_eq_true, ↓reduceIte]
  exact if_neg (ne_true_of_eq_false hgoes)

/-! ### LAUNCH_CLUSTERS_FINISHED (R195, R224) -/

/-- With every tile streamed no zero tile is due (R232). -/
theorem State.zeroTiles_of_none_missing (h : s.missingTiles l = []) : s.zeroTiles id l = (s, 0, false) := by
  simp only [State.zeroTiles, h, List.foldl_nil]

/-- The status with which the launch ends once no zero tile is due: that of the condition that stopped it, if any. -/
def Launch.ending (l : Launch) : Cause := l.stop.elim (stOk, 0) (fun x => (x.status, x.detail))

/-- A launch whose clusters have finished and whose near-memory adds have been performed ends, where it has been stopped or
owes no zero tile. -/
theorem execLaunchClustersFinished_ends (hl : s.launchOf id = some l) (hheld : l.held ≠ [])
    (hfin : ∀ cl ∈ l.held, (s.clus cl).finished = true)
    (hadds : ∀ a ∈ s.mem.adds, ∀ cl u, a.issuer = .cluster cl u → cl ∉ l.held)
    (hnone : l.stop = none → s.missingTiles l = [] ∧ l.zeros = 0) :
    execLaunchClustersFinished id s = .next ((s.dropLaunch id).finish id l.ending) := by
  have hall : l.held.all (fun cl => (s.clus cl).finished) = true := List.all_eq_true.mpr hfin
  have hfull : l.held.isEmpty = false := List.isEmpty_eq_false_iff.mpr hheld
  simp only [execLaunchClustersFinished, hl, hall, hfull, Bool.not_true, Bool.or_self, Bool.false_or]
  rw [if_neg ?retired]
  case retired =>
    simp only [Bool.not_eq_true, Bool.not_eq_false', List.all_eq_true]
    intro a ha
    split
    next cl u hissuer => simpa using hadds a ha cl u hissuer
    next => rfl
  cases hstop : l.stop with
  | some x => simp only [Option.isSome_some, ↓reduceIte, hl, hstop, Option.bind_some, Launch.ending, Option.elim_some]
  | none =>
    obtain ⟨hmissing, hzeros⟩ := hnone hstop
    simp only [Option.isSome_none, Bool.false_eq_true, ↓reduceIte, State.zeroTiles_of_none_missing hmissing, hl, hstop,
      Option.bind_some, hzeros, Launch.ending, Option.elim_none]

/-! ### No progress (R196) -/

theorem execLaunchProgressTimeout_due {cl now : Nat} (hcl : cl < 2048) : let t := s.advance now
    let c := t.clus cl
    c.launch = some id → c.finished = false → c.waitsOutside = false →
    2 ^ 24 * 10 ≤ (t.time - c.progressAt) * (tgetD t.pwr.clks (1 + cl / 512) Clk.atReset).j →
    execLaunchProgressTimeout cl now s =
      .next (t.stopLaunch id { status := stTimeout, detail := c.oldest, rank := c.rank, idx := c.oldest }) := by
  intro t c hlaunch hlive hinside hdue
  simp only [execLaunchProgressTimeout, inRange_of, hcl, decide_true, t, c] at hlaunch ⊢
  rw [hlaunch]
  have hstuck : (!c.finished && !c.waitsOutside
      && decide (2 ^ 24 * 10 ≤ (t.time - c.progressAt) * (tgetD t.pwr.clks (1 + cl / 512) Clk.atReset).j)) = true := by
    simp only [hlive, hinside, decide_eq_true hdue, Bool.not_false, Bool.and_self]
  exact whenThen_of s _ hstuck

end Launches

/-- Settles O24: the checks, the free clusters, the state of the clusters held and their progress decide each step of a
launch. -/
theorem launchesRunAndEnd : Obligations.LaunchesRunAndEnd := by
  refine ⟨fun s id c hc => ⟨?accepted, ?refused, ?starts⟩, ?finished, fun s cl now id => execLaunchProgressTimeout_due⟩
  case accepted =>
    intro b l t hop hturn hnew hblock hallowed hcheck
    exact execLaunch_accepted hc hop hturn hnew hblock hallowed hcheck
  case refused =>
    intro b st hop hturn hnew hblock hallowed hcheck
    exact execLaunch_refused hc hop hturn hnew hblock hallowed hcheck
  case starts =>
    intro l hl hwaits htest hstack hbind free held henough t
    refine ⟨List.length_take_of_le henough, fun cl hcl => ?_, execLaunchStart_takes hc hl hwaits htest hstack hbind henough⟩
    exact State.freeClusters_free (s := s.draw.2) (List.mem_of_mem_take hcl)
  case finished =>
    intro s id l hl hheld hfin hadds
    have hends := execLaunchClustersFinished_ends hl hheld hfin hadds
    refine ⟨fun x hstop => ?_, fun hstop hmissing hzeros => ?_⟩
    · exact (hends (by simp [hstop])).trans (by rw [Launch.ending, hstop]; rfl)
    · exact (hends (fun _ => ⟨hmissing, hzeros⟩)).trans (by rw [Launch.ending, hstop]; rfl)

end Sys2Proof.Machine

/-! SUPPORT. Every step keeps the invariant of Safety.lean: what steers keeps it by a lemma of its own, and the rest leaves alone
what the invariant speaks of. -/
namespace Sys2Proof.Machine

/-- What does not steer leaves alone all that the invariant speaks of. -/
theorem exec_still_of_not_steers {i : Instr} (hi : i.steers = false) (s : State) : OutKeeps s.still (exec i s) := by
  cases i
  case deckleConfig | blackboxConfig | powerSet | registerWrite | ptMclkClampWrite | resetNAssert | crystalStable | pllLock
      | pllLockLoss | dividerStep | avsWriteRetry | domainSwitchStage | domainSequenceTick | sensorSample | throttleLoopTick
      | clampHoldExpiry | holdupAlarm | fuseBlow | watchdogSample | eventSourceEdge | eventSourceLevel | evcClaim
      | evcComplete | evcPendClear | evcPendSet | evcConfigWrite | wakeEdge | s2Entry | s1Entry | firmwareAdminReady =>
    cases hi
  all_goals simp [exec]

theorem exec_inv_of_steers {i : Instr} (hi : i.steers = true) {s : State} (h : s.Inv) : OutInv (exec i s) := by
  cases i
  case deckleConfig => rw [exec]; exact execDeckleConfig_inv _ s h
  case blackboxConfig => rw [exec]; exact execBlackboxConfig_inv _ s h
  case powerSet => rw [exec]; exact execPowerSet_inv _ s h
  case registerWrite => rw [exec]; exact execRegisterWrite_inv _ _ _ s h
  case ptMclkClampWrite => rw [exec]; exact execPtMclkClampWrite_inv _ _ s h
  case resetNAssert => rw [exec]; exact execResetNAssert_inv s h
  case crystalStable => rw [exec]; exact execCrystalStable_inv _ s h
  case pllLock => rw [exec]; exact execPllLock_inv _ _ s h
  case pllLockLoss => rw [exec]; exact execPllLockLoss_inv _ s h
  case dividerStep => rw [exec]; exact execDividerStep_inv _ _ s h
  case avsWriteRetry => rw [exec]; exact execAvsWriteRetry_inv _ _ _ s h
  case domainSwitchStage => rw [exec]; exact execDomainSwitchStage_inv _ _ s h
  case domainSequenceTick => rw [exec]; exact execDomainSequenceTick_inv _ s h
  case sensorSample => rw [exec]; exact execSensorSample_inv _ _ _ _ s h
  case throttleLoopTick => rw [exec]; exact execThrottleLoopTick_inv _ _ s h
  case clampHoldExpiry => rw [exec]; exact execClampHoldExpiry_inv _ _ s h
  case holdupAlarm => rw [exec]; exact execHoldupAlarm_inv s h
  case fuseBlow => rw [exec]; exact execFuseBlow_inv s h
  case watchdogSample => rw [exec]; exact execWatchdogSample_inv _ _ s h
  case eventSourceEdge => rw [exec]; exact execEventSourceEdge_inv _ s h
  case eventSourceLevel => rw [exec]; exact execEventSourceLevel_inv _ _ s h
  case evcClaim => rw [exec]; exact execEvcClaim_inv _ s h
  case evcComplete => rw [exec]; exact execEvcComplete_inv _ _ s h
  case evcPendClear => rw [exec]; exact execEvcPendClear_inv _ _ _ s h
  case evcPendSet => rw [exec]; exact execEvcPendSet_inv _ _ s h
  case evcConfigWrite => rw [exec]; exact execEvcConfigWrite_inv _ _ s h
  case wakeEdge => rw [exec]; exact execWakeEdge_inv _ s h
  case s2Entry => rw [exec]; exact execS2Entry_inv s h
  case s1Entry => rw [exec]; exact execS1Entry_inv s h
  case firmwareAdminReady => rw [exec]; exact execFirmwareAdminReady_inv _ s h
  all_goals cases hi

theorem exec_inv (i : Instr) {s : State} (h : s.Inv) : OutInv (exec i s) := by
  cases hi : i.steers with
  | false => exact OutInv.of_keeps h (exec_still_of_not_steers hi s)
  | true => exact exec_inv_of_steers hi h

/-- The invariant says nothing of the queue of commands. -/
theorem State.Inv.setPending {s : State} (h : s.Inv) (q : List Instr) : ({ s with pending := q } : State).Inv :=
  h.evcOnly (h.evc.of_eq rfl) rfl rfl rfl

theorem step_inv {s : State} (h : s.Inv) : OutInv (step s) := by
  unfold step
  split
  · exact h.advance _
  next c rest _ => exact exec_inv c (h.setPending rest)

/-- Settles O4: the invariant passes through the command at the front of the queue, and through the idle step. -/
theorem everyStepKeepsTheInvariant : Obligations.EveryStepKeepsTheInvariant := by
  intro s t h hstep
  have ht := step_inv h
  rwa [hstep] at ht

/-- Settles O3: nothing is listed in the event controller, PD00 alone is on, and the factory's fuses are at most 64. -/
theorem invariantAtReset : Obligations.InvariantAtReset where
  evc := reset_evcOk
  power := reset_powerOk
  fuses := Nat.lt_succ_iff.mp (Nat.mod_lt _ (by decide))
  ball := Nat.zero_le _

end Sys2Proof.Machine

/-! SUPPORT. What a claim, a completion and the writes to sources and registers of the event controller answer; then the
statements about them. -/
namespace Sys2Proof.Machine

/-! ### The best source (R495) -/

/-- Source `i` comes before source `j`: its priority is higher, or the same with no higher number. -/
def State.Outranks (s : State) (i j : Nat) : Prop :=
  (s.evcSrc j).prio < (s.evcSrc i).prio ∨ ((s.evcSrc j).prio = (s.evcSrc i).prio ∧ i ≤ j)

theorem State.bestSrc_eq_argmax (s : State) (c : Nat) :
    s.bestSrc c = ((List.range 512).filter (s.eligible c)).argmax (fun i => (s.evcSrc i).prio) := by
  unfold State.bestSrc List.argmax
  congr
  funext r i
  cases r with
  | none => rfl
  | some b => simp only [State.betterSrc, List.argAux, apply_ite some, gt_iff_lt]

/-- In a rising list the lower number stands first. -/
theorem idxOf_le_idxOf_of_le {l : List Nat} (hl : l.Pairwise (· < ·)) {i j : Nat} (hi : i ∈ l) (hj : j ∈ l) (h : i ≤ j) :
    l.idxOf i ≤ l.idxOf j := by
  by_contra hlt
  have hji := List.pairwise_iff_getElem.mp hl _ _ (List.idxOf_lt_length_of_mem hj) (List.idxOf_lt_length_of_mem hi)
    (Nat.lt_of_not_le hlt)
  rw [List.getElem_idxOf, List.getElem_idxOf] at hji
  omega

theorem State.mem_eligibles {s : State} {c i : Nat} :
    i ∈ (List.range 512).filter (s.eligible c) ↔ i < 512 ∧ s.eligible c i = true := by
  rw [List.mem_filter, List.mem_range]

theorem State.bestSrc_of_outranks {s : State} {c i : Nat} (hi : i < 512) (he : s.eligible c i = true)
    (hbest : ∀ j, j < 512 → s.eligible c j = true → s.Outranks i j) : s.bestSrc c = some i := by
  have hmem := State.mem_eligibles.mpr ⟨hi, he⟩
  rw [State.bestSrc_eq_argmax, List.argmax_eq_some_iff]
  refine ⟨hmem, fun j hj => ?_, fun j hj hle => ?_⟩
  all_goals
    obtain ⟨hj512, hje⟩ := State.mem_eligibles.mp hj
    have hrank := hbest j hj512 hje
    unfold State.Outranks at hrank
  · omega
  · exact idxOf_le_idxOf_of_le (List.pairwise_lt_range.filter _) hmem hj (by omega)

theorem State.bestSrc_eq_none {s : State} {c : Nat} (h : ∀ i, i < 512 → s.eligible c i = false) : s.bestSrc c = none := by
  rw [State.bestSrc_eq_argmax, List.argmax_eq_none, List.filter_eq_nil_iff]
  intro i hi
  simp [h i (List.mem_range.mp hi)]

/-! ### Claims (R495, R496) -/

theorem execEvcClaim_one {c : Nat} (hc : c < 10) (s : State) : execEvcClaim [c] s = .next (s.claim c) := by
  have horder : ∀ c < 10, (List.range 10).filter ([c].contains ·) = [c] := by decide
  rw [execEvcClaim, horder c hc, List.foldl_cons, List.foldl_nil]

/-- However the claims of one cycle are listed, the lower core goes first. -/
theorem execEvcClaim_two {c d : Nat} (hcd : c < d) (hd : d < 10) (s : State) :
    execEvcClaim [c, d] s = .next ((s.claim c).claim d) ∧ execEvcClaim [d, c] s = .next ((s.claim c).claim d) := by
  have horder : ∀ d < 10, ∀ c < d, (List.range 10).filter ([c, d].contains ·) = [c, d]
      ∧ (List.range 10).filter ([d, c].contains ·) = [c, d] := by decide
  obtain ⟨hup, hdown⟩ := horder d hd c hcd
  constructor
  · rw [execEvcClaim, hup]; rfl
  · rw [execEvcClaim, hdown]; rfl

/-- The claim of source `i` by core `c`. -/
def State.claimed (s : State) (c i : Nat) : State :=
  let t := (s.setSrc i { s.evcSrc i with active := true, pend := false }).setEvCore c
    { s.evcCore c with stack := (i, (s.evcSrc i).prio) :: (s.evcCore c).stack }
  { t with evc := { t.evc with claims := tset t.evc.claims c i } }

theorem State.claim_of_best {s : State} {c i : Nat} (hawake : s.mgmt.sleep = 0) (hbest : s.bestSrc c = some i) :
    s.claim c = s.claimed c i := by
  rw [State.claim, if_pos hawake, hbest]
  rfl

theorem State.claim_of_none {s : State} {c : Nat} (hawake : s.mgmt.sleep = 0) (hnone : s.bestSrc c = none) :
    s.claim c = { s with evc := { s.evc with claims := tset s.evc.claims c 0x3FF } } := by
  rw [State.claim, if_pos hawake, hnone]
  rfl

theorem State.claimed_claims (s : State) (c i : Nat) : tget (s.claimed c i).evc.claims c = some i := tget_tset_self ..

theorem State.claimed_evcSrc (s : State) (c i j : Nat) :
    (s.claimed c i).evcSrc j = if i = j then { s.evcSrc i with active := true, pend := false } else s.evcSrc j :=
  State.setSrc_evcSrc ..

theorem State.claimed_evcCore (s : State) (c i d : Nat) : (s.claimed c i).evcCore d =
    if c = d then { s.evcCore c with stack := (i, (s.evcSrc i).prio) :: (s.evcCore c).stack } else s.evcCore d :=
  State.setEvCore_evcCore ..

/-- Settles O29: the best source is the first greatest of the eligible ones, and the claims of one cycle are a fold over the
cores in order. -/
theorem claimsTakeTheBestSource : Obligations.ClaimsTakeTheBestSource := by
  refine ⟨fun s c hc hawake => ⟨?best, ?spurious⟩, fun s c d hcd hd => ?order⟩
  case best =>
    intro i hi he hbest
    refine ⟨s.claimed c i, ?_, s.claimed_claims c i, ?_, fun j hj => ?_, ?_, fun d hd => ?_, rfl, rfl⟩
    · rw [exec, execEvcClaim_one hc, State.claim_of_best hawake (State.bestSrc_of_outranks hi he hbest)]
    · rw [State.claimed_evcSrc, if_pos rfl]
    · rw [State.claimed_evcSrc, if_neg (Ne.symm hj)]
    · rw [State.claimed_evcCore, if_pos rfl]
    · rw [State.claimed_evcCore, if_neg (Ne.symm hd)]
  case spurious =>
    intro hnone
    rw [exec, execEvcClaim_one hc, State.claim_of_none hawake (State.bestSrc_eq_none hnone)]
  case order =>
    obtain ⟨hup, hdown⟩ := execEvcClaim_two hcd hd s
    refine ⟨hdown.trans hup.symm, s.claim c, execEvcClaim_one (Nat.lt_trans hcd hd) s, ?_⟩
    exact hup.trans (execEvcClaim_one hd _).symm

/-! ### Completion (R497) -/

theorem execEvcComplete_top {s : State} {c i p : Nat} {rest : List (Nat × Nat)} (h : (s.evcCore c).stack = (i, p) :: rest) :
    execEvcComplete c i s = .next ((s.setEvCore c { s.evcCore c with stack := rest }).setSrc i
      (Source.follow { s.evcSrc i with active := false } i)) := by
  simp only [execEvcComplete, h, if_pos]

theorem execEvcComplete_bad {s : State} {c i : Nat} (h : ∀ p, (s.evcCore c).stack.head? ≠ some (i, p)) :
    execEvcComplete c i s = .next (s.setEvCore c { s.evcCore c with bad := true }) := by
  unfold execEvcComplete
  dsimp only
  split
  next j p rest hs =>
    have hne : j ≠ i := fun hji => h p (by rw [hs, hji]; rfl)
    rw [if_neg hne]
  next => rfl

/-- Settles O30: the top of the run stack decides. -/
theorem completePopsTheStack : Obligations.CompletePopsTheStack :=
  fun _ _ _ => ⟨fun _ _ htop => execEvcComplete_top htop, fun hbad => execEvcComplete_bad hbad⟩

/-! ### Inputs of sources (R499) -/

theorem execEventSourceEdge_awake {s : State} {i : Nat} (hawake : s.mgmt.sleep = 0) (hedge : srcIsEdge i = true)
    (hball : i ≠ 6 ∨ s.pins.ball ≠ 0) :
    execEventSourceEdge i s = .next (s.setSrc i { s.evcSrc i with pend := true }) := by
  have hfires : (srcIsEdge i && (i != 6 || s.pins.ball != 0)) = true := by simpa [hedge] using hball
  rw [execEventSourceEdge, whenThen_of s _ hfires, if_pos hawake]

theorem execEventSourceLevel_awake {s : State} {i : Nat} (hawake : s.mgmt.sleep = 0) (hlevel : srcIsLevel i = true)
    (l : Bool) : execEventSourceLevel i l s = .next (s.setSrc i
      { s.evcSrc i with level := l, pend := if (s.evcSrc i).active then (s.evcSrc i).pend else l }) := by
  rw [execEventSourceLevel, whenThen_of s _ hlevel, if_pos (.inl hawake)]
  cases hactive : (s.evcSrc i).active <;> simp [hactive]

/-! ### Groups of 32 sources (R499, R505) -/

/-- Source `b` of group `k` is changed by `g` where `p` says so. -/
def State.changeSrc (k : Nat) (p : Nat → Bool) (g : Nat → Source → Source) (s : State) (b : Nat) : State :=
  if p b then s.setSrc (32 * k + b) (g b (s.evcSrc (32 * k + b))) else s

theorem State.changeSrc_evcSrc (k : Nat) (p : Nat → Bool) (g : Nat → Source → Source) (s : State) (b a : Nat) :
    (s.changeSrc k p g b).evcSrc (32 * k + a) =
      if a = b ∧ p b = true then g b (s.evcSrc (32 * k + b)) else s.evcSrc (32 * k + a) := by
  unfold State.changeSrc
  split
  next hp =>
    rw [State.setSrc_evcSrc]
    by_cases hab : a = b
    · subst hab; simp [hp]
    · rw [if_neg (by omega), if_neg (fun h => hab h.1)]
  next hp => rw [if_neg (fun h => hp h.2)]

theorem State.changeSrc_rest (k : Nat) (p : Nat → Bool) (g : Nat → Source → Source) (s : State) (b : Nat) :
    ({ s.changeSrc k p g b with evc := s.evc } : State) = s := by
  unfold State.changeSrc
  split <;> rfl

/-- Changes of several sources of a group, each named once, leave all but the event controller as it was, and each source as
its own change leaves it. -/
theorem State.foldl_changeSrc {l : List Nat} (hl : l.Nodup) (k : Nat) (p : Nat → Bool) (g : Nat → Source → Source) (s : State) :
    ({ l.foldl (State.changeSrc k p g) s with evc := s.evc } : State) = s ∧ ∀ a,
      (l.foldl (State.changeSrc k p g) s).evcSrc (32 * k + a) =
        if a ∈ l ∧ p a = true then g a (s.evcSrc (32 * k + a)) else s.evcSrc (32 * k + a) := by
  induction l generalizing s with
  | nil => exact ⟨rfl, fun a => by simp⟩
  | cons b l ih =>
    obtain ⟨hb, hl⟩ := List.nodup_cons.mp hl
    obtain ⟨hrest, hsrc⟩ := ih hl (s.changeSrc k p g b)
    refine ⟨?_, fun a => ?_⟩
    · calc ({ l.foldl (State.changeSrc k p g) (s.changeSrc k p g b) with evc := s.evc } : State)
          = { s.changeSrc k p g b with evc := s.evc } := congrArg (fun t : State => { t with evc := s.evc }) hrest
        _ = s := s.changeSrc_rest k p g b
    · rw [List.foldl_cons, hsrc, State.changeSrc_evcSrc]
      by_cases hab : a = b
      · subst hab; simp [hb]
      · simp [hab]

/-- The same for all 32 sources of the group. -/
theorem State.foldl_changeSrc_group (k : Nat) (p : Nat → Bool) (g : Nat → Source → Source) (s : State) :
    let t := (List.range 32).foldl (State.changeSrc k p g) s
    ({ t with evc := s.evc } : State) = s ∧ ∀ b, b < 32 → t.evcSrc (32 * k + b) =
        if p b = true then g b (s.evcSrc (32 * k + b)) else s.evcSrc (32 * k + b) := by
  obtain ⟨hrest, hsrc⟩ := State.foldl_changeSrc List.nodup_range k p g s
  exact ⟨hrest, fun b hb => by simpa [hb] using hsrc b⟩

theorem Source.follow_pend (x : Source) (i : Nat) :
    (x.follow i).pend = (srcIsLevel i && !x.active && x.level || x.pend) := by
  unfold Source.follow
  split
  next hfollows => rw [hfollows, Bool.true_or]
  next hstays => rw [Bool.eq_false_iff.mpr hstays, Bool.false_or]

theorem Source.clear_pend (x : Source) (i : Nat) (clr hw : Bool) :
    (x.clear i clr hw).pend = (hw || if clr then srcIsLevel i && !x.active && x.level else x.pend) := by
  cases clr <;> cases hw <;> simp [Source.clear, Source.follow_pend]

theorem Source.clear_none (x : Source) (i : Nat) : x.clear i false false = x := rfl

theorem execEvcPendSet_group (k : Nat) (m : BitVec 32) (s : State) :
    ∃ t, execEvcPendSet k m s = .next t ∧ { t with evc := s.evc } = s
      ∧ ∀ b, b < 32 → t.evcSrc (32 * k + b) =
          if bit m b then { s.evcSrc (32 * k + b) with pend := true } else s.evcSrc (32 * k + b) :=
  ⟨_, rfl, s.foldl_changeSrc_group k (bit m) (fun _ x => { x with pend := true })⟩

theorem execEvcPendClear_group (k : Nat) (m h : BitVec 32) (s : State) :
    ∃ t, execEvcPendClear k m h s = .next t ∧ { t with evc := s.evc } = s
      ∧ ∀ b, b < 32 → t.evcSrc (32 * k + b) = (s.evcSrc (32 * k + b)).clear (32 * k + b) (bit m b) (bit h b) := by
  obtain ⟨hrest, hsrc⟩ := s.foldl_changeSrc_group k (fun b => bit m b || bit h b)
    (fun b x => x.clear (32 * k + b) (bit m b) (bit h b))
  refine ⟨_, rfl, hrest, fun b hb => (hsrc b hb).trans ?_⟩
  split
  next => rfl
  next hno =>
    obtain ⟨hm, hh⟩ : bit m b = false ∧ bit h b = false := by simpa using hno
    rw [hm, hh, Source.clear_none]

/-! ### Registers (R505) -/

theorem execEvcConfigWrite_src {i : Nat} (hi : i < 512) (v : BitVec 32) (s : State) :
    execEvcConfigWrite (4 * i) v s = .next (s.setSrc i
      { s.evcSrc i with targets := v.extractLsb' 16 10, wake := bit v 7, prio := v.toNat % 16 }) := by
  rw [execEvcConfigWrite, if_pos (by omega), Nat.mul_div_cancel_left i (by decide)]

theorem execEvcConfigWrite_thresh {c : Nat} (hc : c < 10) (v : BitVec 32) (s : State) :
    execEvcConfigWrite (0x1000 + 16 * c) v s =
      .next (s.setEvCore c { s.evcCore c with thresh := v.toNat % 16 }) := by
  have hcore : (0x1000 + 16 * c - 0x1000) / 16 = c := by omega
  rw [execEvcConfigWrite, if_neg (by omega), if_neg (by omega), if_pos (by omega), hcore]
  exact if_pos (by omega)

/-- Settles O31: each write and each input is what one meaning answers while the complex is awake. -/
theorem sourcesAndConfiguration : Obligations.SourcesAndConfiguration := by
  intro s hawake
  refine ⟨fun i hedge hball => execEventSourceEdge_awake hawake hedge hball,
    fun i l hlevel => execEventSourceLevel_awake hawake hlevel l, fun k m => execEvcPendSet_group k m s, ?clear,
    fun i v hi => execEvcConfigWrite_src hi v s, fun c v hc => execEvcConfigWrite_thresh hc v s, fun v => rfl⟩
  case clear =>
    intro k m h
    obtain ⟨t, hexec, hrest, hsrc⟩ := execEvcPendClear_group k m h s
    exact ⟨t, hexec, hrest, fun b hb => by rw [hsrc b hb, Source.clear_pend]⟩

end Sys2Proof.Machine

/-! SUPPORT. One step of the block: the command at the front of the queue, or the idle step; and what a step leaves alone. -/
namespace Sys2Proof.Machine

/-- A count changes the counters alone. -/
theorem State.bump_eq (s : State) (slot n : Nat) : s.bump slot n = { s with ctr := (s.bump slot n).ctr } := by
  unfold State.bump
  split <;> rfl

/-- The passing of time moves the clock, the Deckle where TCLK runs, and the counters, and nothing else (R551). -/
theorem State.advance_of_lt {s : State} {now : Nat} (h : s.time < now) : s.advance now =
    { s with time := now, dk := if s.domOn 1 then s.dk.advance (now - s.time) else s.dk, ctr := (s.advance now).ctr } := by
  rw [State.advance, if_pos h, State.bump_eq]
  rfl

theorem step_idle {s : State} (h : s.pending = []) : step s = .next (s.advance (s.time + 1)) := by
  rw [step, h]

theorem step_front {s : State} {c : Instr} {rest : List Instr} (h : s.pending = c :: rest) :
    step s = exec c { s with pending := rest } := by
  rw [step, h]

/-- What leaves `State.still` as it is leaves the steering parts as they are. -/
theorem State.sameSteering_of_still {s t : State} (h : t.still = s.still) : s.SameSteering t := by
  obtain ⟨-, hevc, hon, hclks, hdies, hstage, hsequence, hfuses, hball⟩ := Still.mk.inj h
  exact ⟨hevc, hon, hstage, hsequence, hclks, hdies, hfuses, hball⟩

/-- Settles O6: what does not steer, and the passing of time, leave alone what `State.still` holds. -/
theorem steeringHasItsOwnCommands : Obligations.SteeringHasItsOwnCommands := by
  refine ⟨fun i s t hsteers hexec => ?command, fun s t hempty hstep => ?idle⟩
  case command =>
    have hstill := exec_still_of_not_steers hsteers s
    rw [hexec] at hstill
    exact State.sameSteering_of_still hstill
  case idle =>
    rw [step_idle hempty] at hstep
    cases hstep
    exact State.sameSteering_of_still (s.advance_still _)

/-- Settles O1: it is what a step does where the queue has a front. -/
theorem stepRunsTheFront : Obligations.StepRunsTheFront :=
  fun _ _ _ => step_front

/-- Settles O2: the idle step is the passing of one nanosecond. -/
theorem emptyQueueIdles : Obligations.EmptyQueueIdles := by
  intro s hempty
  have hidle := State.advance_of_lt (Nat.lt_add_one s.time)
  rw [Nat.add_sub_cancel_left] at hidle
  refine ⟨_, step_idle hempty, ?_⟩
  rw [hidle]
  exact ⟨rfl, rfl, rfl⟩

end Sys2Proof.Machine

/-! SUPPORT. Where a record's fields stand among its bytes, and what writing a record leaves of the black box; then the
statement about the chain of records. -/
namespace Sys2Proof.Machine

/-! ### Bytes of records -/

theorem leNat_append (a b : List Byte) : leNat (a ++ b) = leNat a + 256 ^ a.length * leNat b := by
  induction a with
  | nil => simp [leNat]
  | cons x a ih =>
    simp only [List.cons_append, leNat, List.length_cons, ih, Nat.pow_succ', Nat.mul_add, Nat.add_assoc, Nat.mul_assoc]

/-- A record of whole bytes is the number of its bytes. -/
theorem leNat_recBytes {n : Nat} (r : BitVec (8 * n)) : leNat (recBytes r) = r.toNat := by
  have hlt := r.isLt
  rw [Nat.pow_mul] at hlt
  rw [recBytes, leNat_leBytes, Nat.mul_div_cancel_left _ (by decide)]
  exact Nat.mod_eq_of_lt hlt

/-- A record made of bytes that fill it has these bytes. -/
theorem recBytes_ofNat_leNat {w : Nat} {l : List Byte} (h : 8 * l.length = w) : recBytes (BitVec.ofNat w (leNat l)) = l := by
  subst h
  rw [recBytes, BitVec.toNat_ofNat, Nat.pow_mul, Nat.mod_eq_of_lt (leNat_lt l), Nat.mul_div_cancel_left _ (by decide),
    leBytes_leNat]

/-- Bits of a word that is cut from a number are bits of the number. -/
theorem extractLsb'_ofNat {w n k : Nat} (h : n + k ≤ w) (x : Nat) :
    (BitVec.ofNat w x).extractLsb' n k = BitVec.ofNat k (x >>> n) := by
  apply BitVec.eq_of_getLsbD_eq
  intro i hi
  have hw : n + i < w := by omega
  rw [BitVec.getLsbD_extractLsb', BitVec.getLsbD_ofNat, BitVec.getLsbD_ofNat, Nat.testBit_shiftRight, decide_eq_true hi,
    decide_eq_true hw, Bool.true_and, Bool.true_and]

/-- A record whose bytes stand in a longer one is read back where they stand. -/
theorem extractLsb'_recBytes {w n : Nat} {a c : List Byte} (hw : 8 * a.length + 8 * n ≤ w) (r : BitVec (8 * n)) :
    (BitVec.ofNat w (leNat (a ++ (recBytes r ++ c)))).extractLsb' (8 * a.length) (8 * n) = r := by
  have hlen : (recBytes r).length = n := by rw [recBytes, leBytes_length, Nat.mul_div_cancel_left _ (by decide)]
  apply BitVec.eq_of_toNat_eq
  rw [extractLsb'_ofNat hw, BitVec.toNat_ofNat, Nat.shiftRight_eq_div_pow, leNat_append, leNat_append, hlen, leNat_recBytes,
    Nat.pow_mul 2 8 a.length, Nat.add_mul_div_left _ _ (Nat.pow_pos (by decide)), Nat.div_eq_of_lt (leNat_lt a), Nat.zero_add,
    Nat.pow_mul 2 8 n, Nat.add_mul_mod_self_left, ← Nat.pow_mul 2 8 n]
  exact Nat.mod_eq_of_lt r.isLt

/-- A number with a field of `m` bytes above its `n` bytes. -/
theorem add_field_lt {x n : Nat} (hx : x < 2 ^ (8 * n)) (v m : Nat) :
    x + (v % 2 ^ (8 * m)) <<< (8 * n) < 2 ^ (8 * (n + m)) := by
  have hv : v % 2 ^ (8 * m) + 1 ≤ 2 ^ (8 * m) := Nat.mod_lt v (Nat.two_pow_pos _)
  calc x + (v % 2 ^ (8 * m)) <<< (8 * n) < 2 ^ (8 * n) + v % 2 ^ (8 * m) * 2 ^ (8 * n) := by rw [Nat.shiftLeft_eq]; omega
    _ = 2 ^ (8 * n) * (v % 2 ^ (8 * m) + 1) := by ring
    _ ≤ 2 ^ (8 * n) * 2 ^ (8 * m) := Nat.mul_le_mul_left _ hv
    _ = 2 ^ (8 * (n + m)) := by rw [← Nat.pow_add, Nat.mul_add]

/-- A field of `m` bytes between the `n` bytes below it and what lies above it. -/
theorem field_between {x n : Nat} (hx : x < 2 ^ (8 * n)) (v m y k : Nat) :
    ((x + (v % 2 ^ (8 * m)) <<< (8 * n) + y <<< (8 * (n + m + k))) >>> (8 * n)) % 2 ^ (8 * m) = v % 2 ^ (8 * m) := by
  rw [show x + (v % 2 ^ (8 * m)) <<< (8 * n) + y <<< (8 * (n + m + k)) =
      x + 2 ^ (8 * n) * (v % 2 ^ (8 * m) + 2 ^ (8 * m) * (2 ^ (8 * k) * y)) by
      simp only [Nat.shiftLeft_eq, Nat.mul_add, Nat.pow_add]; ring,
    Nat.shiftRight_eq_div_pow, Nat.add_mul_div_left _ _ (Nat.two_pow_pos _), Nat.div_eq_of_lt hx, Nat.zero_add,
    Nat.add_mul_mod_self_left, Nat.mod_mod]

/-! ### Black-box records (R599) -/

/-- The first 96 bytes of a record of Table 13. -/
def bbHead (seq deckle boot kind len : Nat) (prev event : BitVec 256) : BitVec 768 :=
  mkRec 768 [(0, 8, seq), (8, 8, deckle), (16, 4, boot), (20, 2, kind), (22, 2, Min.min 416 (32 + len)),
    (24, 32, prev.toNat), (64, 32, event.toNat)]

theorem bbHead_prev (seq deckle boot kind len : Nat) (prev event : BitVec 256) :
    (bbHead seq deckle boot kind len prev event).extractLsb' 192 256 = prev := by
  have hseq := add_field_lt (x := 0) (n := 0) Nat.one_pos seq 8
  have hdeckle := add_field_lt hseq deckle 8
  have hboot := add_field_lt hdeckle boot 4
  have hkind := add_field_lt hboot kind 2
  have hlen := add_field_lt hkind (Min.min 416 (32 + len)) 2
  have hprev := field_between hlen prev.toNat 32 (event.toNat % 2 ^ (8 * 32)) 8
  rw [bbHead, mkRec, extractLsb'_ofNat (by decide)]
  apply BitVec.eq_of_toNat_eq
  rw [BitVec.toNat_ofNat]
  simp only [List.foldl_cons, List.foldl_nil]
  simp only [Nat.reduceAdd] at hprev
  exact hprev.trans (Nat.mod_eq_of_lt prev.isLt)

section BbRecord
variable {seq deckle boot kind : Nat} {prev event : BitVec 256} {body : List Byte} {ctx : BitVec 3072}

/-- The 480 bytes of a record that its self digest covers. -/
def bbFront (seq deckle boot kind : Nat) (prev event : BitVec 256) (body : List Byte) (ctx : BitVec 3072) : List Byte :=
  recBytes (bbHead seq deckle boot kind body.length prev event) ++ (body ++ (recBytes ctx).drop body.length).take 384

theorem bbRecord_eq : bbRecord seq deckle boot kind prev event body ctx =
    BitVec.ofNat 4096 (leNat (bbFront seq deckle boot kind prev event body ctx ++
      recBytes (sm3 (bbFront seq deckle boot kind prev event body ctx)))) := rfl

theorem bbFront_length : (bbFront seq deckle boot kind prev event body ctx).length = 480 := by
  simp only [bbFront, recBytes, List.length_append, List.length_take, List.length_drop, leBytes_length]
  omega

theorem recBytes_bbRecord : recBytes (bbRecord seq deckle boot kind prev event body ctx) =
    bbFront seq deckle boot kind prev event body ctx ++ recBytes (sm3 (bbFront seq deckle boot kind prev event body ctx)) := by
  rw [bbRecord_eq]
  apply recBytes_ofNat_leNat
  rw [List.length_append, bbFront_length, recBytes, leBytes_length]

/-- The last 32 bytes of a record are the digest of the bytes before them. -/
theorem bbSelf_bbRecord : bbSelf (bbRecord seq deckle boot kind prev event body ctx) =
    sm3 ((recBytes (bbRecord seq deckle boot kind prev event body ctx)).take 480) := by
  have hself := extractLsb'_recBytes (w := 4096) (n := 32) (a := bbFront seq deckle boot kind prev event body ctx) (c := [])
    (by rw [bbFront_length]) (sm3 (bbFront seq deckle boot kind prev event body ctx))
  rw [bbFront_length, List.append_nil, ← bbRecord_eq] at hself
  rw [recBytes_bbRecord, List.take_left' bbFront_length]
  exact hself

/-- Bytes 24 to 55 of a record are the digest of the record before it. -/
theorem bbRecord_prev : (bbRecord seq deckle boot kind prev event body ctx).extractLsb' 192 256 = prev := by
  have hhead := extractLsb'_recBytes (w := 4096) (n := 96) (a := [])
    (c := (body ++ (recBytes ctx).drop body.length).take 384 ++ recBytes (sm3 (bbFront seq deckle boot kind prev event body ctx)))
    (by decide) (bbHead seq deckle boot kind body.length prev event)
  rw [List.nil_append, ← List.append_assoc] at hhead
  calc (bbRecord seq deckle boot kind prev event body ctx).extractLsb' 192 256
      = ((bbRecord seq deckle boot kind prev event body ctx).extractLsb' 0 768).extractLsb' 192 256 :=
        (BitVec.extractLsb'_extractLsb'_of_le (by decide)).symm
    _ = (bbHead seq deckle boot kind body.length prev event).extractLsb' 192 256 := congrArg (BitVec.extractLsb' 192 256) hhead
    _ = prev := bbHead_prev ..

end BbRecord

/-! ### Writing a record (R598 to R600) -/

/-- The record that sentinel 1 writes next for an entry (Table 13). -/
def State.bbNext (s : State) (kind : Nat) (event : BitVec 256) (body : List Byte) : BitVec 4096 :=
  bbRecord s.bb.next (if s.domOn 1 then s.dk.now else 0) s.bb.boot kind s.bb.lastSelf event body (Config.bbContext s.free)

/-- What the next record is chained to: the records held, its sequence number and the last self digest. -/
def BlackBox.chain (x : BlackBox) : List (Nat × BitVec 4096) × Nat × BitVec 256 := (x.recs, x.next, x.lastSelf)

theorem State.suppress_bb (s : State) (n : Nat) : (s.suppress n).bb = s.bb := State.bump_bb ..

theorem State.trace_bb (s : State) (kind ctx op tag : Nat) (fs : List (Nat × Nat × Nat)) :
    (s.trace kind ctx op tag fs).bb = s.bb := by
  unfold State.trace
  split <;> rfl

/-- Among the black box's parts a notice that is posted joins the list of notices alone. -/
theorem State.postNotice_chain (s : State) (b : Nat) (o : Occ) (n : Nat) :
    (s.postNotice b o n).bb.chain = s.bb.chain := by
  unfold State.postNotice
  split
  · rw [State.suppress_bb]
  · dsimp only
    split
    · rw [State.setWin_bb, State.trace_bb]; rfl
    · rw [State.trace_bb]; rfl

theorem State.detect_chain (s : State) (b ctx : Nat) (data : BitVec 64) (detail : BitVec 32) :
    (s.detect b ctx data detail).bb.chain = s.bb.chain := by
  unfold State.detect
  dsimp only
  split
  · rw [State.suppress_bb, State.setWin_bb]
  · split
    · exact State.postNotice_chain ..
    · rw [State.waitNotice, State.suppress_bb, State.setWin_bb]

theorem State.bbNear_chain (s : State) : s.bbNear.bb.chain = s.bb.chain := by
  unfold State.bbNear
  split
  · rfl
  · split
    · rfl
    · exact State.detect_chain ..

/-- The record written is chained to the last one, after the 128 oldest of a full flash are lost. -/
theorem State.bbWrite_chain (s : State) (k : Nat) (e : BitVec 256) (b : List Byte) : (s.bbWrite k e b).bb.chain =
    ((if s.bb.recs.length < bbCapacity then s.bb.recs else s.bb.recs.drop bbSector) ++ [(s.bb.next, s.bbNext k e b)],
      s.bb.next + 1, bbSelf (s.bbNext k e b)) :=
  State.bbNear_chain _

/-- Settles O59: what is written is a record of Table 13, whose bytes hold the digest of the last one and its own. -/
theorem blackBoxChains : Obligations.BlackBoxChains := by
  intro s k e b
  obtain ⟨hrecs, hrest⟩ := Prod.mk.inj (s.bbWrite_chain k e b)
  obtain ⟨hnext, hself⟩ := Prod.mk.inj hrest
  exact ⟨s.bbNext k e b, hrecs, hnext, bbRecord_prev, hself, bbSelf_bbRecord⟩

end Sys2Proof.Machine

/-! SUPPORT. Which outcomes the shared operations and then every command can have: a next state, or the fault of an operand
that names what the package does not have; then the statement about all commands. -/
namespace Sys2Proof.Machine

/-- The outcome is a next state, or, where `p` does not hold, a fault that names an absent operand (log 7). -/
def Answers (p : Prop) (o : Out') : Prop := (∃ t, o = .next t) ∨ ¬ p ∧ ∃ x, o = .fault (.absent x)

section Answers
variable {p : Prop} {o : Out'}

theorem answers_next (t : State) : Answers p (.next t) := .inl ⟨t, rfl⟩

theorem answers_whenThen (c : Bool) (s t : State) : Answers p (whenThen c s t) := by
  unfold whenThen
  split <;> exact answers_next _

theorem answers_inRange {c : Bool} (x : Nat) (hc : p → c = true) (ho : Answers p o) : Answers p (inRange c x o) := by
  cases h : c with
  | true => exact ho
  | false => exact .inr ⟨fun hp => ne_true_of_eq_false h (hc hp), x, rfl⟩

/-! ### Commands of the Jeisk protocol, and words of a sheet program -/

theorem answers_jeisk (op : Nat) (body : Body) (id : Nat) (s : State) : Answers p (jeisk op body id s) := by
  unfold jeisk
  repeat' split
  all_goals exact answers_next _

theorem answers_jeiskIf (gate : Nat → CmdRec → State → Bool) (op : Nat) (body : Body) (id : Nat) (s : State) :
    Answers p (jeiskIf gate op body id s) := by
  unfold jeiskIf
  repeat' split
  · exact answers_next _
  · exact answers_jeisk ..
  · exact answers_next _

theorem answers_jeiskWait (op : Nat) (body : Body) (fin : Nat → CmdRec → State → Option (Cause × State)) (id : Nat)
    (s : State) : Answers p (jeiskWait op body fin id s) := by
  unfold jeiskWait
  split
  · exact answers_next _
  · split
    · repeat' split
      all_goals exact answers_next _
    · exact answers_jeisk ..

/-- FW_ACTIVATE goes on where it has started, and else starts as a command of the secure core (R616). -/
theorem answers_fwActivate (id : Nat) (s : State) : Answers p (execFwActivate id s) := by
  unfold execFwActivate
  split
  · exact answers_next _
  · split
    · split <;> exact answers_next _
    · exact answers_jeiskIf ..

section Words
variable {cl : Nat} (hcl : p → decide (cl < 2048) = true) (s : State)
include hcl

theorem answers_runQueue (q o : Nat) (sel : Word128 → Bool) (f : OpFn) : Answers p (runQueue q o sel f cl s) := by
  refine answers_inRange cl hcl ?_
  dsimp only
  repeat' split
  all_goals exact answers_next _

theorem answers_runCopy (o : Nat) (f : OpFn) (pos : Nat) : Answers p (runCopy o f cl pos s) := by
  refine answers_inRange cl hcl ?_
  dsimp only
  repeat' split
  all_goals exact answers_next _

theorem answers_runControl (o : Nat) (f : Nat → Word128 → State → Option State) : Answers p (runControl o f cl s) := by
  refine answers_inRange cl hcl ?_
  dsimp only
  repeat' split
  all_goals exact answers_next _

end Words
end Answers

/-- The command names what the package has: its operands lie in their ranges, its access in the host window, its lane on its
bus. -/
structure Named (i : Instr) (s : State) : Prop where
  operands : i.wellFormed = true
  reads : ∀ o n, i = .hostMemRead o n → o + n ≤ s.mem.carve.window
  writes : ∀ o d, i = .hostMemWrite o d → o + d.length ≤ s.mem.carve.window
  marker : ∀ l n w, i = .laneMarkerReceive l n w → n < s.width l
  rejoin : ∀ l n a, i = .laneRejoin l n a → n < s.width l

/-- The first of two checks of the operands. -/
theorem Named.left {i : Instr} {s : State} {a b : Bool} (h : Named i s) (hab : i.wellFormed = (a && b)) : a = true :=
  (Bool.and_eq_true_iff.mp (hab ▸ h.operands)).1

/-- The second of two checks of the operands. -/
theorem Named.right {i : Instr} {s : State} {a b : Bool} (h : Named i s) (hab : i.wellFormed = (a && b)) : b = true :=
  (Bool.and_eq_true_iff.mp (hab ▸ h.operands)).2

/-- Every command goes through one of the shared operations, or is an event: one that always has a next state, which stays as
it is where a guard or what the event looks for is missing, or one of a numbered unit, which exists where the command names
it. -/
theorem exec_answers (i : Instr) (s : State) : Answers (Named i s) (exec i s) := by
  cases i
  case hello | tokenSet | tokenReset | tokenRead | handleAlloc | handleQuery | memConfig | trackConfig | jobPlace | jobEnd |
      indexGather | indexScatter | indexScatterAdd | stackOpen | stackClose | gatherJit | broadcast | reduceScatter |
      allReduce | allToAll | put | get | feltPlan | feltQuery | feltCong | transitGrant | transitRevoke | srcRegister |
      srcRelease | vatConfig | vatStart | vatGetPosition | vatSetPosition | mouldApply | mouldRelease | mouldQuery |
      mouldRetune | pressAttach | sinkStart | pkgFence | counterCopy | traceConfig | traceCopy | deckleConfig |
      blackboxRead | blackboxConfig =>
    rw [exec]
    exact answers_jeisk ..
  case mouldDeclare | pressApply | pressFreeze | pressDetach | ckptRestore | jobSpare | attest | fwStage | powerSet =>
    rw [exec]
    exact answers_jeiskIf ..
  case fence | handleFree | feltLink | vatStop | sinkStop | ckptSave | selftest =>
    rw [exec]
    exact answers_jeiskWait ..
  case fwActivate => exact answers_fwActivate ..
  case groupOpen | mma | groupCloseScratch | groupCloseStream | pageLoad | vAdd | vSub | vMul | vFma | vMax | vMin | vDiv |
      vSqrt | vConvert | vAbs | vNeg | vExp | vLog | vRsqrt | vTanh | vSigmoid | vGeluErf | vGeluTanh | vGeluErfD |
      vRecip | vCmpEq | vCmpNe | vCmpLt | vCmpLe | vCmpGt | vCmpGe | vSelect | vMaskRand | vRedSum | vRedMax |
      vRedMin | vSegSum | vSegMax | vSegMin | vSegMean | vSort64 | vTopk64 | rowSoftmax | rowSoftmaxBwd | rowLnorm |
      rowLnormBwd | rowRmsnorm | rowRmsnormBwd =>
    rw [exec]
    exact answers_runQueue Named.operands ..
  case cpLoad | cpStore | cpMove | cpFill | cpGather | cpScatter | cpScatterAdd | cpPush | cpPop =>
    rw [exec]
    exact answers_runCopy Named.operands ..
  case nop | setIx | addIx | loop | branchLoop | jump | setRndStream | setRndStep | flagsRc | latch | stop =>
    rw [exec]
    exact answers_runControl Named.operands ..
  case reduceCreditRequest | cxlPerstAssert | resetNAssert | holdupCharged | evcClaim | evcPendClear | evcPendSet |
      placementDigestReceive | cxlPerstRelease | holdupAlarm =>
    rw [exec]
    exact answers_next _
  case hnCtrlWrite | hnMaskWrite | heartbeatTick | dkNowLowRead | functionLevelReset | hostLinkLossTimeout | resetRelease |
      crystalStable | sensorSample | dramTrainingDone | startupSelftestDone | fuseBlow | watchdogSample |
      eventSourceEdge | eventSourceLevel | s2Entry | congestionSample | congestionMapFold | fenceRequestReceive |
      timeAnnounceTimer | announceExpiry | syncExchangeTimer | timePulseEdge | spdmRequest | sidebandSpdm |
      sidebandBlackboxRead | sidebandQuote | sidebandDebugChallenge | s1Entry | managementRestartDone | wakeEdge |
      bootRomVerify | dumpTriggerEdge | sidebandDebugUnlock =>
    rw [exec]
    exact answers_whenThen ..
  case collectiveTimeout | windowDrawStart | batchRegionReuse | partialTileArrival | reduceRefusal | reduceAbandon |
      jobSpareTimeout | domainSequenceTick | jobPlaceTimeout | beatSendTimer | beatReceive | memberSilentTimeout |
      fenceListReceive | sinkHelloTimeout | sinkPacketReceive | checkpointRoundOpen | callReceive | holdoverEntry |
      pulseMissingTimeout | blackboxRecordWrite | reduceCreditReceive | fwActivateTimeout =>
    dsimp only [exec, execCollectiveTimeout, execWindowDrawStart, execBatchRegionReuse, execPartialTileArrival,
      execReduceRefusal, execReduceAbandon, execJobSpareTimeout, execDomainSequenceTick, execJobPlaceTimeout,
      execBeatSendTimer, execBeatReceive, execMemberSilentTimeout, execFenceListReceive, execSinkHelloTimeout,
      execSinkPacketReceive, execCheckpointRoundOpen, execCallReceive, execHoldoverEntry, execPulseMissingTimeout,
      execBlackboxRecordWrite, execReduceCreditReceive, execFwActivateTimeout]
    split
    · exact answers_next _
    · exact answers_whenThen ..
  case launch | launchStart | launchClustersFinished | gatherReadoutStart | collectiveSendStart | chunkFetch |
      chunkDecodeDone | vatDraw | batchHandover | pressSliceConsume | reduceCreditGrant | reduceWatchdogExpiry |
      tokenWaitTimeout | evcComplete | trackerEntryGrant | nearMemoryAdd | packetForward | dataReceive | readReceive |
      ackReceive | partialReceive | readyReceive | transitPacket | placementDecisionReceive | redrawInstall |
      leadSilentTimeout | sinkHelloReceive | shardHoldExpiry | shardEntryReceive | sinkAbandonReceive |
      shardListReceive | evcConfigWrite | cxlLinkStateChange | firmwareAdminReady =>
    dsimp only [exec, execLaunch, execLaunchStart, execLaunchClustersFinished, execGatherReadoutStart,
      execCollectiveSendStart, execChunkFetch, execChunkDecodeDone, execVatDraw, execBatchHandover,
      execPressSliceConsume, execReduceCreditGrant, execReduceWatchdogExpiry, execTokenWaitTimeout, execEvcComplete,
      execTrackerEntryGrant, execNearMemoryAdd, execPacketForward, execDataReceive, execReadReceive, execAckReceive,
      execPartialReceive, execReadyReceive, execTransitPacket, execPlacementDecisionReceive, execRedrawInstall,
      execLeadSilentTimeout, execSinkHelloReceive, execShardHoldExpiry, execShardEntryReceive, execSinkAbandonReceive,
      execShardListReceive, execEvcConfigWrite, execCxlLinkStateChange, execFirmwareAdminReady]
    repeat' (first | with_reducible exact answers_next _ | with_reducible exact answers_whenThen .. | split)
  case probeVerdict | recalibrationDone | combLost | dbSetTail | dbSetHead | ringLineSnoop | ringLinePollTimer | qcfgEnable |
      qcfgDisable | qcfgResume | msixDelayExpiry | msixVectorUnmask | ptMclkClampWrite | pllLock | pllLockLoss |
      dividerStep | avsWriteRetry | throttleLoopTick | patrolScrubRead | creditCodewordReceive | creditSendTimer |
      replayRequestReceive | laneLoss | laneMapReceive | loopProbeReceive | linkMissingTimeout | discoveryRepeatTimer |
      linkJudge | announceReceive | syncReceive | delayRequestReceive | combStartDone =>
    rw [exec]
    exact answers_inRange _ Named.operands (answers_whenThen ..)
  case linkPacketReceive => exact answers_inRange _ (fun h => h.left rfl) (answers_whenThen ..)
  case registerWrite | bar2Read | bar2Write =>
    rw [exec]
    exact answers_inRange _ (fun h => h.right rfl) (answers_whenThen ..)
  case probeCapture | ringDitherCheck | ringSearchDone =>
    rw [exec]
    exact answers_inRange _ (fun h => by simpa [Instr.wellFormed, and_assoc] using h.operands) (answers_whenThen ..)
  case hostMemRead => exact answers_inRange _ (fun h => decide_eq_true (h.reads _ _ rfl)) (answers_whenThen ..)
  case hostMemWrite => exact answers_inRange _ (fun h => decide_eq_true (h.writes _ _ rfl)) (answers_whenThen ..)
  case laneMarkerReceive =>
    exact answers_inRange _ (fun h => Bool.and_eq_true_iff.mpr ⟨h.left rfl, decide_eq_true (h.marker _ _ _ rfl)⟩)
      (answers_whenThen ..)
  case laneRejoin =>
    refine answers_inRange _ (fun h => Bool.and_eq_true_iff.mpr ⟨h.left rfl, decide_eq_true (h.rejoin _ _ _ rfl)⟩) ?_
    split
    · exact answers_next _
    · exact answers_whenThen ..
  case launchProgressTimeout | tileLoadDone | cqRecordWrite | noticeWindowClose | clampHoldExpiry | linkPacketSend |
      linkRetrainTimeout | delayResponseReceive =>
    dsimp only [exec, execLaunchProgressTimeout, execTileLoadDone, execCqRecordWrite, execNoticeWindowClose,
      execClampHoldExpiry, execLinkPacketSend, execLinkRetrainTimeout, execDelayResponseReceive]
    refine answers_inRange _ Named.operands ?_
    split
    · exact answers_next _
    · exact answers_whenThen ..
  case domainSwitchStage | fclkLaneSwitch | linkTrainingStep | discoveryRecordReceive | transitCreditFrame =>
    dsimp only [exec, execDomainSwitchStage, execFclkLaneSwitch, execLinkTrainingStep, execDiscoveryRecordReceive,
      execTransitCreditFrame]
    refine answers_inRange _ Named.operands ?_
    repeat' (first | with_reducible exact answers_next _ | with_reducible exact answers_whenThen .. | split)
  case circuitPacketReceive =>
    dsimp only [exec, execCircuitPacketReceive]
    refine answers_inRange _ (fun h => h.left rfl) ?_
    repeat' (first | with_reducible exact answers_next _ | with_reducible exact answers_whenThen .. | split)

/-- Settles O5: no outcome of a command is a refusal, and none is a fault where the command names what the package has. -/
theorem everyCommandCompletes : Obligations.EveryCommandCompletes := by
  intro i s
  refine ⟨(exec_answers i s).imp_right And.right, fun hwf hreads hwrites hmarker hrejoin => ?_⟩
  exact (exec_answers i s).resolve_right (fun hfault => hfault.1 ⟨hwf, hreads, hwrites, hmarker, hrejoin⟩)

end Sys2Proof.Machine

/-! SUPPORT. Beats, silence and fences: each timer, each message and PKG_FENCE once; then the statement about all of them. -/
namespace Sys2Proof.Machine

section Fences
variable {s : State} {now : Nat} {j : Job}

section Beats
variable (hjob : (s.advance now).job.job = some j)
include hjob

/-! ### Beats (R570) -/

/-- The package once it counts another beat. -/
def State.beat (s : State) : State :=
  { s with fail := { s.fail with beatSeq := (s.fail.beatSeq + 1) % 2 ^ 32, beatAt := s.time } }

theorem execBeatSendTimer_due : let t := s.advance now
    let w := [beatWord j t.beat.fail.beatSeq]
    t.fail.beatAt + ms 1 ≤ t.time → t.fail.selfFenced = none → execBeatSendTimer now s = .next
      (if t.isLead then j.members.foldl (fun u m => if m.pkg = u.pkgId then u else u.sendFrame m.pkg w) t.beat
       else t.beat.sendFrame (t.beat.curLead j) w) := by
  intro t w hdue hself
  simp only [execBeatSendTimer, hjob]
  exact whenThen_of s _ (by simp [t, hdue, hself])

theorem execBeatSendTimer_early : let t := s.advance now
    t.time < t.fail.beatAt + ms 1 → execBeatSendTimer now s = .next s := by
  intro t hearly
  simp only [execBeatSendTimer, hjob]
  exact whenThen_not s _ (by simp [t, hearly])

theorem execBeatReceive_heard {pkg : Nat} (gen q : Nat) : let t := s.advance now
    (j.pos pkg).isSome = true → pkg ≠ t.pkgId → execBeatReceive pkg j.id gen q now s =
      .next { t with fail := { t.fail with heard := tset t.fail.heard pkg t.time } } := by
  intro t hmember hother
  simp only [execBeatReceive, hjob]
  exact whenThen_of s _ (by simp [t, hmember, hother])

/-! ### Silence (R573, R576) -/

/-- The lead listens to every other member that is not fenced: its silence decides. -/
theorem execMemberSilentTimeout_of_lead {pkg : Nat} : let t := s.advance now
    t.isLead = true → t.fail.selfFenced = none → (j.pos pkg).isSome = true → pkg ≠ t.pkgId → t.isFenced pkg = false →
      execMemberSilentTimeout pkg now s = whenThen (t.silent pkg) s (t.leadFence pkg 2) := by
  intro t hlead hself hmember hother hfree
  simp only [execMemberSilentTimeout, hjob]
  simp [t, hlead, hself, hmember, hfree, bne_iff_ne.mpr hother]

/-- The lowest unfenced member acts as the lead once the lead is fenced. -/
theorem execLeadSilentTimeout_lowest : let t := s.advance now
    t.isLead = false → t.fail.selfFenced = none → t.curLead j = t.pkgId →
      execLeadSilentTimeout now s = .next (t.actAsLead j none) := by
  intro t hlead hself hlowest
  simp only [execLeadSilentTimeout, hjob]
  simp [t, hlead, hself, hlowest]

/-- The lowest member beside a silent lead acts as the lead and fences it. -/
theorem execLeadSilentTimeout_silent : let t := s.advance now
    t.isLead = false → t.fail.selfFenced = none → t.curLead j ≠ t.pkgId → t.silent (t.curLead j) = true →
      leadOf (j.members.filter (fun m => !t.isFenced m.pkg && m.pkg != t.curLead j)) = t.pkgId →
      execLeadSilentTimeout now s = .next (t.actAsLead j (some (t.curLead j))) := by
  intro t hlead hself hother hsilent hnext
  simp only [execLeadSilentTimeout, hjob]
  simp [t, hlead, hself, hother, hsilent, hnext, whenThen_of]

end Beats

/-! ### PKG_FENCE (R577) -/

section PkgFence
variable {id : Nat} {c : CmdRec}

theorem pkgFenceBody_reserved (h : ¬ (1 ≤ fld c.packet 26 1 ∧ fld c.packet 26 1 ≤ 8)) :
    pkgFenceBody id c s = .error (stBadParam, 0) := by
  simp only [pkgFenceBody, h, decide_false, need_not, error_bind]

/-- A reason of 1 to 8 and a member of the job: who knows of the fence, and who is the lead, decide. -/
theorem pkgFenceBody_member (hreason : 1 ≤ fld c.packet 26 1 ∧ fld c.packet 26 1 ≤ 8) (hjob : s.job.job = some j)
    (hmember : (j.pos (fld c.packet 24 2)).isSome = true) : pkgFenceBody id c s =
      if s.isFenced (fld c.packet 24 2) then okDone s
      else if s.isLead then okDone (s.leadFence (fld c.packet 24 2) (fld c.packet 26 1))
      else .ok (.busy (s.send (.fenceRequest (s.curLead j) (fld c.packet 24 2) (fld c.packet 26 1)))) := by
  simp only [pkgFenceBody, hreason, hjob, hmember, and_self, decide_true, need_of, ok_bind]

end PkgFence

/-! ### Requests and lists (R572 to R575) -/

theorem execFenceRequestReceive_lead {pkg reason : Nat} (hlead : s.isLead = true) (hreason : 1 ≤ reason ∧ reason ≤ 8) :
    execFenceRequestReceive pkg reason s = .next (s.leadFence pkg reason) :=
  whenThen_of _ _ (by simp [hlead, hreason])

/-- A list of the job's generation takes effect where it is newer than the last. -/
theorem execFenceListReceive_eq (hjob : s.job.job = some j) (n : Nat) (es : List (Nat × Nat)) :
    execFenceListReceive j.id j.generation n es s = whenThen (decide (s.fail.fenceSeq < n)) s
      (State.applyFences { s with fail := { s.fail with fenceSeq := n } } j
        (es.filter (fun e => (j.pos e.1).isSome && !s.isFenced e.1))) := by
  simp only [execFenceListReceive, hjob, true_and]

end Fences

/-- Settles O35: each timer, each packet and the command, on the lead and on another member. -/
theorem silentMembersAreFenced : Obligations.SilentMembersAreFenced := by
  refine ⟨fun s now j => ?beats, fun s id c j => ?fences⟩
  case beats =>
    intro t hjob
    refine ⟨fun hdue hself => ?_, execBeatSendTimer_early hjob, fun pkg g q => execBeatReceive_heard hjob g q,
      fun pkg hlead hself hmember hother hfree => ?_, fun hlead hself => ⟨execLeadSilentTimeout_lowest hjob hlead hself,
        fun hother hsilent hnext => execLeadSilentTimeout_silent hjob hlead hself hother (decide_eq_true hsilent) hnext⟩⟩
    · have hexec := execBeatSendTimer_due hjob hdue hself
      exact ⟨fun hother => next_of_neg hexec (ne_true_of_eq_false hother), next_of_pos hexec⟩
    · have hexec := execMemberSilentTimeout_of_lead hjob hlead hself hmember hother hfree
      exact ⟨fun hsilent => hexec.trans (whenThen_of _ _ (decide_eq_true hsilent)),
        fun hheard => hexec.trans (whenThen_not _ _ (decide_eq_false hheard.not_ge))⟩
  case fences =>
    intro t pkg reason
    refine ⟨fun hready hjob hmember hlow hhigh => ?_, fun hready hreason => ?_, fun p r hlead hlow hhigh => ?_,
      fun hjob n es hnew => ?_, fun hjob n es hold => ?_⟩
    · have hbody := pkgFenceBody_member (id := id) ⟨hlow, hhigh⟩ hjob hmember
      refine ⟨fun hfenced => jeisk_done hready (hbody.trans (if_pos hfenced)), fun hfree hlead => jeisk_done hready ?_,
        fun hfree hlead => jeisk_busy hready ?_⟩
      · exact (hbody.trans (if_neg (ne_true_of_eq_false hfree))).trans (if_pos hlead)
      · exact (hbody.trans (if_neg (ne_true_of_eq_false hfree))).trans (if_neg (ne_true_of_eq_false hlead))
    · exact jeisk_error hready (pkgFenceBody_reserved (by omega))
    · exact execFenceRequestReceive_lead hlead ⟨hlow, hhigh⟩
    · exact (execFenceListReceive_eq hjob n es).trans (whenThen_of _ _ (decide_eq_true hnew))
    · exact (execFenceListReceive_eq hjob n es).trans (whenThen_not _ _ (decide_eq_false hold.not_gt))

end Sys2Proof.Machine

/-! SUPPORT. What a sample, a turn of the throttle loop and the end of a clamp come to; then the statement about thermal
control. -/
namespace Sys2Proof.Machine

section Thermal
variable {s : State} {now d : Nat}

/-! ### Samples (R525, R529 to R535) -/

/-- The package once the readings and the power of a period are in, before any die reacts. -/
def State.sampled (s : State) (logic dram : List (BitVec 16)) (power : Nat) : State :=
  let u := s.takeSamples logic dram
  let hot (st : Nat) : Bool := (List.range 4).any (fun k =>
    decide (680 ≤ (((u.die (st / 4)).dram)[4 * (st % 4) + k]?).getD 0))
  { u with pwr := { u.pwr with power := power % 2 ^ 16, fastRefresh := (List.range 16).filter hot } }

/-- The package once each die has seen to its clamp, and then to its critical reduction. -/
def State.reacted (s : State) : State := (List.range 4).foldl State.criticalCheck ((List.range 4).foldl State.clampCheck s)

section Samples
variable {logic dram : List (BitVec 16)} {power : Nat} (hcrystal : (s.advance now).pwr.crystal = true)
  (hlogic : logic.length = 256) (hdram : dram.length = 64)
include hcrystal hlogic hdram

theorem execSensorSample_calm (h : ((s.advance now).sampled logic dram power).reacted.tripSensor = none) :
    execSensorSample logic dram power now s = .next ((s.advance now).sampled logic dram power).reacted := by
  rw [execSensorSample, whenThen_of s _ (by simp [hcrystal, hlogic, hdram])]
  dsimp only [State.reacted, State.sampled] at h ⊢
  rw [h]

/-- A sensor at its trip value trips the package that has not tripped yet (R535). -/
theorem execSensorSample_trips {k : Nat} {r : Int}
    (h : ((s.advance now).sampled logic dram power).reacted.tripSensor = some (d, k, r))
    (hwhole : ((s.advance now).sampled logic dram power).reacted.pwr.tripped = false) :
    execSensorSample logic dram power now s = .next (((s.advance now).sampled logic dram power).reacted.trip d k r) := by
  rw [execSensorSample, whenThen_of s _ (by simp [hcrystal, hlogic, hdram])]
  dsimp only [State.reacted, State.sampled] at h hwhole ⊢
  simp only [h, hwhole, Bool.false_and, Bool.false_eq_true, ↓reduceIte]

end Samples

/-! ### The throttle loop (R528) -/

section Throttle
variable (hd : d < 4) (hcrystal : (s.advance now).pwr.crystal = true)
include hd

theorem execThrottleLoopTick_early (h : (s.advance now).time < ((s.advance now).die d).loopAt + ms 1) :
    execThrottleLoopTick d now s = .next s :=
  inRange_whenThen_not d (decide_eq_true hd) (by simp [h])

include hcrystal
variable (hdue : ((s.advance now).die d).loopAt + ms 1 ≤ (s.advance now).time)
include hdue

theorem execThrottleLoopTick_hot : let t := s.advance now
    let x := t.die d
    (760 ≤ x.logicHot ∨ 680 ≤ x.dramHot) → ∃ u, execThrottleLoopTick d now s = .next u
      ∧ u.die d = { x with loopAt := t.time, throttle := Max.max 4 (x.throttle - 1) } := by
  intro t x hhot
  refine ⟨_, inRange_whenThen_of d (decide_eq_true hd) (by simp [hcrystal, hdue]), ?_⟩
  dsimp only
  split
  next => split <;> exact (State.setDie_die ..).trans (if_pos rfl)
  next hcool => exact absurd hhot hcool

theorem execThrottleLoopTick_not_hot : let t := s.advance now
    let x := t.die d
    x.logicHot < 760 → x.dramHot < 680 → execThrottleLoopTick d now s = .next
      (if x.cool then t.setDie d { x with loopAt := t.time, throttle := Min.min 15 (x.throttle + 1) }
       else t.setDie d { x with loopAt := t.time }) := by
  intro t x hlogic hdram
  refine (inRange_whenThen_of d (decide_eq_true hd) (by simp [hcrystal, hdue])).trans (congrArg Host.Outcome.next ?_)
  exact if_neg (fun h => h.elim hlogic.not_ge hdram.not_ge)

end Throttle

/-! ### The end of a clamp (R532) -/

/-- A clamp on a calm die, whose level was reached at `r`, ends 10 ms later. -/
theorem execClampHoldExpiry_calm {r : Nat} (hd : d < 4) : let t := s.advance now
    let x := t.die d
    x.reachedAt = some r → x.clampActive = true → x.logic.any rises = false → x.logicHot < 760 →
      execClampHoldExpiry d now s = whenThen (decide (r + ms 10 ≤ t.time)) s (t.setDie d
        { x with clampActive := false, reachedAt := none, throttle := Min.min x.throttle x.clampLevel }) := by
  intro t x hreached hclamp hcalm hcool
  have hdie : ((s.advance now).die d).reachedAt = some r := hreached
  simp only [execClampHoldExpiry, hdie, inRange_of d _ (decide_eq_true hd)]
  simp [t, x, hclamp, hcalm, hcool]

end Thermal

/-- Settles O55: a sample is taken in and reacted to, the heat of a die decides its throttle loop, and time ends its clamp. -/
theorem thermalControl : Obligations.ThermalControl := by
  intro s now t
  refine ⟨fun logic dram power hcrystal hlogic hdram => ?samples, fun d hd hcrystal => ?throttle,
    fun d hd hcrystal => execThrottleLoopTick_early hd, fun d r hd => ?clamp⟩
  case samples =>
    intro u hot v w
    have hw : ((s.advance now).sampled logic dram power).reacted = w := rfl
    clear_value w
    subst hw
    exact ⟨execSensorSample_calm hcrystal hlogic hdram, fun d k r => execSensorSample_trips hcrystal hlogic hdram⟩
  case throttle =>
    intro x hdue
    have hexec := execThrottleLoopTick_not_hot hd hcrystal hdue
    exact ⟨execThrottleLoopTick_hot hd hcrystal hdue, fun hlogic hdram hcool => next_of_pos (hexec hlogic hdram) hcool,
      fun hlogic hdram hcool => next_of_neg (hexec hlogic hdram) (ne_true_of_eq_false hcool)⟩
  case clamp =>
    intro x hreached hclamp hcalm hcool
    have hexec := execClampHoldExpiry_calm hd hreached hclamp hcalm hcool
    exact ⟨fun hdue => hexec.trans (whenThen_of _ _ (decide_eq_true hdue)),
      fun hearly => hexec.trans (whenThen_not _ _ (decide_eq_false hearly.not_ge))⟩

end Sys2Proof.Machine

/-! SUPPORT. What the commands of the secure core answer once their checks pass or fail, what ends an activation, and what the
mailbox and the sideband answer; then the statement about all of them. -/
namespace Sys2Proof.Machine

section Firmware
variable {s : State} {id : Nat} {c : CmdRec}

/-! ### FW_STAGE (R614) -/

section Stage
variable {l : List Byte} (hlen : fld c.packet 32 4 ≤ 2 ^ 24)
  (hread : s.hostRead (fld c.packet 24 8) (fld c.packet 32 4) = some l)

include hlen hread

/-- An image whose checks pass stands in the bank that does not run. -/
theorem fwStageBody_valid {a b : Image} (hcheck : bankCheck l s.iden.fuses = .ok (a, b)) : fwStageBody id c s =
    okDone { s with iden := { s.iden.setBank (!s.iden.flag) l with staged := true } } (a.num 12 2) := by
  simp only [fwStageBody, hlen.not_gt, hread, hcheck, ↓reduceIte]

theorem fwStageBody_invalid {d : Nat} (hcheck : bankCheck l s.iden.fuses = .error d) :
    fwStageBody id c s = failDone (s.signFail c (stSecurity, d)) (stSecurity, d) := by
  simp only [fwStageBody, hlen.not_gt, hread, hcheck, ↓reduceIte]

end Stage

theorem fwStageBody_too_long (hlen : 2 ^ 24 < fld c.packet 32 4) :
    fwStageBody id c s = failDone (s.signFail c (stSecurity, 1)) (stSecurity, 1) :=
  if_pos hlen

/-! ### FW_ACTIVATE (R616) -/

/-- An FW_ACTIVATE that has not started begins as a command of the secure core. -/
theorem execFwActivate_ready (hready : s.Ready id c 0x902) (hgate : secureGate id c s = true) :
    execFwActivate id s = jeisk 0x902 fwActivateBody id s := by
  simp only [execFwActivate, hready.1, hready.phase, Bool.false_eq_true, ↓reduceIte]
  exact jeiskIf_of_gate hready.1 hgate

theorem fwActivateBody_begins (hjob : s.job.job = none) (hstaged : s.iden.staged = true) :
    fwActivateBody id c s = .ok (.busy (s.tryActivate id)) := by
  simp only [fwActivateBody, hjob, hstaged, Option.isNone_none, need_of, ok_bind]
  rfl

theorem fwActivateBody_conflict (hjob : s.job.job.isSome = true) : fwActivateBody id c s = .error (stConflict, 0) := by
  simp only [fwActivateBody, Option.isNone_eq_false_iff.mpr hjob, need_not, error_bind]

theorem State.tryActivate_begins (hidle : s.mgmt.activating = none)
    (hfirst : s.host.cmds.any (fun e => decide (e.1 < id)) = false) : s.tryActivate id =
      { s with mgmt := { s.mgmt with activating := some (id, s.time), fwState := 6 }
               host := { s.host with adminReady := false } } := by
  simp only [State.tryActivate, hidle, hfirst, Option.isSome_none, Bool.or_self, Bool.false_eq_true, ↓reduceIte]

section Activating
variable {now a : Nat} (hactivating : (s.advance now).mgmt.activating = some (id, a))
include hactivating

/-- The staged bank runs where its firmware is ready in time. -/
theorem execFirmwareAdminReady_staged {x y : Image} : let t := s.advance now
    t.mgmt.fwState ≠ 1 → bankCheck (t.iden.bank (!t.iden.flag)) t.iden.fuses = .ok (x, y) → t.time ≤ a + sec 5 →
      Config.trustListOk (y.head ++ y.body) = true →
      let u : State := { t with iden := { t.iden with flag := !t.iden.flag, staged := false }
                                mgmt := { t.mgmt with activating := none } }
      execFirmwareAdminReady now s = .next (((u.runBank x y).bbPush 10 0 []).finish id (stOk, 0)).adminUp := by
  intro t hdown hcheck hsoon htrusted u
  simp only [execFirmwareAdminReady, hactivating]
  rw [if_neg hdown, hcheck]
  exact whenThen_of s _ (by simp [t, hsoon, htrusted])

/-- FW_ACTIVATE_TIMEOUT goes by the 5 s of R616. -/
theorem execFwActivateTimeout_eq : let t := s.advance now
    execFwActivateTimeout now s = whenThen (decide (a + sec 5 ≤ t.time)) s (State.finish
      { t with iden := { t.iden with staged := false }
               mgmt := { t.mgmt with activating := none, fwState := 1 } } id (stBadParam, 1)) := by
  simp only [execFwActivateTimeout, hactivating]

end Activating

/-! ### ATTEST (R618) -/

section Attest
variable (hmask : fld c.packet 52 4 < 256) (halign : fld c.packet 40 8 % 32 = 0)
include hmask halign

theorem attestBody_fits (hfits : quoteLength (fld c.packet 52 4) ≤ fld c.packet 48 4) {q : List Byte} {u : State}
    (hquote : s.quote (BitVec.ofNat 128 (fld c.packet 24 16)) (fld c.packet 52 4) = (q, u)) :
    attestBody id c s = okDone (u.hostWrite (fld c.packet 40 8) q) (quoteLength (fld c.packet 52 4)) := by
  simp only [attestBody, hmask, halign, hfits, hquote, decide_true, need_of, ok_bind]

theorem attestBody_no_room (hshort : fld c.packet 48 4 < quoteLength (fld c.packet 52 4)) :
    attestBody id c s = .error (stNoResource, quoteLength (fld c.packet 52 4)) := by
  simp only [attestBody, hmask, halign, decide_eq_false hshort.not_ge, decide_true, need_of, need_not, ok_bind, error_bind]

end Attest

/-! ### SPDM, the sideband and the debug unlock (R619 to R621) -/

section Spdm
variable {code : BitVec 8} {payload r : List Byte} {t : State} (hspdm : s.spdm code payload = (r, t))
include hspdm

theorem execSpdmRequest_answers (hlink : s.host.linkUp = true) : execSpdmRequest code payload s = .next (t.send (.doe r)) := by
  simp only [execSpdmRequest, hspdm, hlink, whenThen_of]

theorem execSidebandSpdm_answers (hcrystal : s.pwr.crystal = true) :
    execSidebandSpdm code payload s = .next (t.send (.sideband 0 r)) := by
  simp only [execSidebandSpdm, hspdm, hcrystal, whenThen_of]

/-- A request that R619 does not name is answered by an error of the standard (log 25). -/
theorem State.spdm_unsupported (hcode : spdmCodes.contains code = false) : r = [0x12, 0x7F, 0x07, code] ∧ t = s := by
  simp only [State.spdm, hcode, Bool.false_eq_true, ↓reduceIte, Prod.mk.injEq] at hspdm
  exact ⟨hspdm.1.symm, hspdm.2.symm⟩

end Spdm

/-- The serial, the challenge and both signatures of an unlock hold. -/
def State.mayUnlock (s : State) (serial : BitVec 64) (chal : BitVec 128) (key e g : BitVec 512) : Bool :=
  serial == Config.serial && s.iden.challenge == some chal
    && Config.sm2Verify Config.rootKey 3 (sm3 (recBytes key)) e
    && Config.sm2Verify key 3 (sm3 (recBytes serial ++ recBytes chal)) g

theorem State.mayUnlock_iff {serial : BitVec 64} {chal : BitVec 128} {key e g : BitVec 512} :
    s.mayUnlock serial chal key e g = true ↔ serial = Config.serial ∧ s.iden.challenge = some chal
      ∧ Config.sm2Verify Config.rootKey 3 (sm3 (recBytes key)) e = true
      ∧ Config.sm2Verify key 3 (sm3 (recBytes serial ++ recBytes chal)) g = true := by
  simp only [State.mayUnlock, Bool.and_eq_true, beq_iff_eq, and_assoc]

section Sideband
variable (hcrystal : s.pwr.crystal = true)
include hcrystal

theorem execSidebandQuote_answers {nonce : BitVec 128} {mask : BitVec 8} {q : List Byte} {t : State}
    (hquote : s.quote nonce mask.toNat = (q, t)) : execSidebandQuote nonce mask s = .next (t.send (.sideband 0 q)) := by
  simp only [execSidebandQuote, hquote, hcrystal, whenThen_of]

theorem execSidebandDebugChallenge_answers : ∃ t n, execSidebandDebugChallenge s = .next t ∧ t.iden.challenge = some n
    ∧ t.xfer.out = .sideband 0 (recBytes n) :: s.xfer.out :=
  ⟨_, Config.fresh128 s.free, whenThen_of s _ hcrystal, rfl, rfl⟩

/-- An attempt uses up the challenge, whatever comes of it. -/
theorem execSidebandDebugUnlock_eq (serial : BitVec 64) (chal : BitVec 128) (key e g : BitVec 512) :
    let t : State := { s with iden := { s.iden with challenge := none } }
    execSidebandDebugUnlock serial chal key e g s = .next (if s.mayUnlock serial chal key e g
      then (State.measure3 { t with iden := { t.iden with unlocked := true } }).send (.sideband 0 [])
      else (t.bbPush 13 0 []).send (.sideband 1 [])) :=
  whenThen_of s _ hcrystal

end Sideband
end Firmware

/-- Settles O57: each command of the secure core by its checks and its time, each request by its code, its link or its
challenge. -/
theorem firmwareQuotesAndSideband : Obligations.FirmwareQuotesAndSideband := by
  refine ⟨fun s id c => ⟨?stage, ?activate, State.tryActivate_begins, ?ends, ?attest⟩, fun s => ⟨?spdm, ?sideband⟩⟩
  case stage =>
    intro hgate hready len
    have hexec := jeiskIf_of_gate (op := 0x901) (body := fwStageBody) hready.1 hgate
    exact ⟨fun l a b hlen hread hcheck => hexec.trans (jeisk_done hready (fwStageBody_valid hlen hread hcheck)),
      fun l d hlen hread hcheck => hexec.trans (jeisk_done hready (fwStageBody_invalid hlen hread hcheck)),
      fun hlong => hexec.trans (jeisk_done hready (fwStageBody_too_long hlong))⟩
  case activate =>
    intro hgate hready hstaged
    have hexec := execFwActivate_ready hready hgate
    exact ⟨fun hjob => hexec.trans (jeisk_busy hready (fwActivateBody_begins hjob hstaged)),
      fun hjob => hexec.trans (jeisk_error hready (fwActivateBody_conflict hjob))⟩
  case ends =>
    intro now a t hactivating
    have hexec := execFwActivateTimeout_eq hactivating
    exact ⟨fun x y => execFirmwareAdminReady_staged hactivating, fun hdue => hexec.trans (whenThen_of _ _ (decide_eq_true hdue)),
      fun hearly => hexec.trans (whenThen_not _ _ (decide_eq_false hearly.not_ge))⟩
  case attest =>
    intro hgate hready hmask halign
    have hexec := jeiskIf_of_gate (op := 0x900) (body := attestBody) hready.1 hgate
    exact ⟨fun hfits q u hquote => hexec.trans (jeisk_done hready (attestBody_fits hmask halign hfits hquote)),
      fun hshort => hexec.trans (jeisk_error hready (attestBody_no_room hmask halign hshort))⟩
  case spdm =>
    intro code payload r t hspdm
    exact ⟨execSpdmRequest_answers hspdm, execSidebandSpdm_answers hspdm, State.spdm_unsupported hspdm⟩
  case sideband =>
    intro hcrystal
    refine ⟨fun nonce mask q t => execSidebandQuote_answers hcrystal, execSidebandDebugChallenge_answers hcrystal,
      fun serial chal key e g => ?_⟩
    intro t good
    have hexec := execSidebandDebugUnlock_eq hcrystal serial chal key e g
    exact ⟨fun hgood => next_of_pos hexec (State.mayUnlock_iff.mpr hgood),
      fun hbad => next_of_neg hexec (mt State.mayUnlock_iff.mp hbad)⟩

end Sys2Proof.Machine

/-! SUPPORT. How a correction and a change of state act on the Deckle, each event of time once (ch. 15); then the statement about
all of them. -/
namespace Sys2Proof.Machine

/-! ### Corrections and states (R547, Table 2) -/

section Corrections
variable {d : Deckle} {theta : Int}

theorem bit_or_right {w : Nat} (x : BitVec w) {y : BitVec w} {i : Nat} (h : bit y i = true) : bit (x ||| y) i = true := by
  simp only [bit, BitVec.toNat_or, Nat.testBit_or] at h ⊢
  rw [h, Bool.or_true]

/-- While the Deckle acquires, a correction sets it. -/
theorem Deckle.correct_acquiring (h : d.acquiring = true) : d.correct theta =
    { d with now := ((d.now : Int) - theta / 65536).toNat, acquiring := false, slew := 0, events := d.events ||| 2 } :=
  if_pos h

/-- An offset of −1 µs or less steps the Deckle forward. -/
theorem Deckle.correct_behind (h : d.acquiring = false) (hbehind : theta ≤ -(65536000 : Int)) : d.correct theta =
    { d with now := ((d.now : Int) - theta / 65536).toNat, slew := 0, events := d.events ||| 2 } :=
  (if_neg (ne_true_of_eq_false h)).trans (if_pos hbehind)

/-- Any other offset is slewed away. -/
theorem Deckle.correct_slew (h : d.acquiring = false) (hnear : -(65536000 : Int) < theta) :
    d.correct theta = { d with slew := theta } :=
  (if_neg (ne_true_of_eq_false h)).trans (if_neg hnear.not_ge)

@[simp] theorem Deckle.correct_edge (d : Deckle) (theta : Int) : (d.correct theta).edge = d.edge := by
  simp only [Deckle.correct, apply_ite Deckle.edge, ite_self]

@[simp] theorem Deckle.correct_edges (d : Deckle) (theta : Int) : (d.correct theta).edges = d.edges := by
  simp only [Deckle.correct, apply_ite Deckle.edges, ite_self]

end Corrections

/-! ### Announces, syncs and requests (R545, R546) -/

section Exchanges
variable {s : State} {now : Nat}

theorem execTimeAnnounceTimer_eq : let t := s.advance now
    (t.dk.state = 4 ∨ t.dk.state = 5) → t.domOn 1 = true →
      let w := [timeWord 1 0 (t.timeFlags (t.dk.state == 5)) t.pkgId 0 Config.serial, 0]
      execTimeAnnounceTimer now s = whenThen (decide (t.dk.announceAt + ms 1 ≤ t.time)) s
        { t.dataLinks.foldl (fun t l => t.linkFrame l 0 w) t with dk := { t.dk with announceAt := t.time } } := by
  intro t hmaster hpower w
  have hstate : (t.dk.state == 4 || t.dk.state == 5) = true := by simp [hmaster]
  change whenThen ((t.dk.state == 4 || t.dk.state == 5) && t.domOn 1 && decide (t.dk.announceAt + ms 1 ≤ t.time)) s _ = _
  rw [hstate, hpower, Bool.true_and, Bool.true_and]

/-- The announce of a frame, heard on a physical link (Table 1). -/
def State.announceOf (s : State) (l : Nat) (f : BitVec 128) : Announce :=
  { link := s.logicalLink l, serial := BitVec.ofNat 64 (fld f 8 8), pkg := fld f 4 2, hops := fld f 2 1, flags := fld f 3 1
    heardAt := s.time }

/-- The package remembers an announce in the place of the last of its link and serial, and chooses its master. -/
def State.remember (s : State) (a : Announce) : State :=
  State.chooseMaster { s with dk := { s.dk with
    announces := s.dk.announces.filter (fun b => !(b.link == a.link && b.serial == a.serial)) ++ [a] } }

/-- An announce of another package is remembered; one that is followed goes on to the other data links. -/
theorem execAnnounceReceive_heard {l : Nat} {f : BitVec 128} : let t := s.advance now
    l < 24 → (t.link l).data = true → t.domOn 1 = true → fld f 0 1 = 1 → fld f 1 1 = 1 →
      let a := t.announceOf l f
      let u := t.remember a
      let w := [timeWord 1 (a.hops + 1) (u.timeFlags (a.flags.testBit 0)) a.pkg (fld f 6 2) a.serial, 0]
      a.serial ≠ Config.serial → execAnnounceReceive l f now s = .next
        (if u.dk.up == some a.link && u.dk.mserial == a.serial
         then (u.dataLinks.filter (· != l)).foldl (fun u l => u.linkFrame l 0 w) u else u) := by
  intro t hl hdata hpower hversion hkind a u w hserial
  have hheard : ((t.link l).data && t.domOn 1 && fld f 0 1 == 1 && fld f 1 1 == 1 && a.serial != Config.serial) = true := by
    simp [hdata, hpower, hversion, hkind, hserial]
  exact inRange_whenThen_of l (decide_eq_true hl) hheard

theorem execAnnounceExpiry_due : let t := s.advance now
    t.dk.announces.any (fun a => decide (a.heardAt + ms 3 ≤ t.time)) = true → execAnnounceExpiry now s =
      .next (State.chooseMaster { t with dk := { t.dk with
        announces := t.dk.announces.filter (fun a => decide (t.time < a.heardAt + ms 3)) } }) :=
  fun hold => whenThen_of s _ hold

theorem execSyncExchangeTimer_due : let t := s.advance now
    t.domOn 1 = true → t.dk.state ≠ 0 → t.dk.syncAt + 125000 ≤ t.time →
      let q := (t.dk.seq + 1) % 65536
      let u : State := { t with dk := { t.dk with
        syncAt := t.time, seq := q, t3 := none, unanswered := if t.upLink.isSome then t.dk.unanswered + 1 else 0 } }
      let w := [timeWord 2 u.dk.hops (u.timeFlags (u.dk.state == 5)) u.dk.master q u.dk.mserial, timeField u.stamp]
      execSyncExchangeTimer now s =
        .next ((u.dataLinks.filter (fun l => t.upLink != some l)).foldl (fun u l => u.linkFrame l 0 w) u) := by
  intro t hpower hstate hdue q u w
  have hbegins : (t.domOn 1 && t.dk.state != 0 && decide (t.dk.syncAt + 125000 ≤ t.time)) = true := by
    simp [hpower, hstate, hdue]
  exact whenThen_of s _ hbegins

theorem execSyncReceive_upstream {l : Nat} {f x : BitVec 128} : let t := s.advance now
    l < 24 → t.upLink = some l → t.domOn 1 = true → fld f 1 1 = 2 →
      let u : State := { t with dk := { t.dk with t1 := readTime x, t2 := t.stamp, t3 := some t.stamp, seq := fld f 6 2 } }
      execSyncReceive l f x now s = .next (u.linkFrame l 0
        [timeWord 3 u.dk.hops (u.timeFlags false) u.dk.master (fld f 6 2) u.dk.mserial, 0]) := by
  intro t hl hup hpower hkind u
  have hsync : (t.upLink == some l && t.domOn 1 && fld f 1 1 == 2) = true := by simp [hup, hpower, hkind]
  exact inRange_whenThen_of l (decide_eq_true hl) hsync

theorem execDelayRequestReceive_downstream {l : Nat} {f : BitVec 128} : let t := s.advance now
    l < 24 → (t.link l).data = true → t.domOn 1 = true → t.upLink ≠ some l → fld f 1 1 = 3 →
      execDelayRequestReceive l f now s = .next (t.linkFrame l 0
        [timeWord 4 t.dk.hops (t.timeFlags (t.dk.state == 5)) t.dk.master (fld f 6 2) t.dk.mserial, timeField t.stamp]) := by
  intro t hl hdata hpower hother hkind
  have hrequest : ((t.link l).data && t.domOn 1 && t.upLink != some l && fld f 1 1 == 3) = true := by
    simp [hdata, hpower, hother, hkind]
  exact inRange_whenThen_of l (decide_eq_true hl) hrequest

/-- The offset θ that a delay response on link `l` gives, in units of 2^-16 ns (R546). -/
def State.offset (s : State) (l : Nat) (x : BitVec 128) (t3 : Int) : Int :=
  ((s.dk.t2 - s.dk.t1) - (readTime x - t3) - tgetD s.dk.asym (s.logicalLink l) 0 * 65536 / 1000) / 2

/-- A response to the request under way corrects the Deckle, which is then locked. -/
theorem execDelayResponseReceive_upstream {l : Nat} {f x : BitVec 128} {t3 : Int} (hl : l < 24) (ht3 : s.dk.t3 = some t3)
    (hup : s.upLink = some l) (hpower : s.domOn 1 = true) (hkind : fld f 1 1 = 4) (hseq : fld f 6 2 = s.dk.seq) :
    execDelayResponseReceive l f x s = .next { s.draw.2 with dk := { (s.dk.correct (s.offset l x t3)).become 2 with
      theta := s.offset l x t3 * 1000 / 65536, t3 := none, unanswered := 0, freq := Config.freqCorrection s.draw.1 } } := by
  have hresponse : (s.upLink == some l && s.domOn 1 && fld f 1 1 == 4 && fld f 6 2 == s.dk.seq) = true := by
    simp [hup, hpower, hkind, hseq]
  simp only [execDelayResponseReceive, ht3]
  exact inRange_whenThen_of l (decide_eq_true hl) hresponse

/-! ### Holdover (R549) -/

theorem execHoldoverEntry_lost {l : Nat} : let t := s.advance now
    t.upLink = some l → ((t.link l).data = false ∨ 3 ≤ t.dk.unanswered) →
      let d := t.dk.become 3
      execHoldoverEntry now s = .next (State.chooseMaster { t with dk := { d with
        up := none, unanswered := 0, t3 := none, announces := d.announces.filter (fun a => some a.link != t.dk.up) } }) := by
  intro t hup hlost d
  have hentry : (!(t.link l).data || decide (3 ≤ t.dk.unanswered)) = true := by simpa using hlost
  simp only [execHoldoverEntry, show (s.advance now).upLink = some l from hup]
  exact whenThen_of s _ hentry

/-! ### The time pulse (R550) -/

/-- The second nearest to a time in nanoseconds. -/
def nearestSecond (n : Nat) : Nat := (n + 500000000) / 1000000000 * 1000000000

/-- The Deckle once an edge of the pulse is stamped. -/
def State.stampEdge (s : State) : Deckle :=
  { s.dk with
    edge := s.dk.now, pulseAt := some s.time, edges := true
    pulse := s.dk.edges && s.dk.pulseAt.any (fun p => decide (s.time < p + ms 1500)) }

/-- The Deckle after an edge: a master on the pulse is brought to the nearest second. -/
def State.deckleAtEdge (s : State) : Deckle :=
  if s.pulseMaster then (s.stampEdge.correct (((s.dk.now : Int) - nearestSecond s.dk.now) * 65536)).become 5
  else s.stampEdge

theorem execTimePulseEdge_stamps : let t := s.advance now
    t.pins.ball = 1 → t.domOn 1 = true → execTimePulseEdge now s = .next { t with dk := t.deckleAtEdge } := by
  intro t hball hpower
  have hedge : (t.pins.ball == 1 && t.domOn 1) = true := by simp [hball, hpower]
  refine (whenThen_of s _ hedge).trans ?_
  cases hlast : t.dk.pulseAt <;> simp only [State.deckleAtEdge, State.stampEdge, nearestSecond, t, hlast, Option.any]

theorem State.deckleAtEdge_edge (s : State) : s.deckleAtEdge.edge = s.dk.now := by
  unfold State.deckleAtEdge
  split
  · exact Deckle.correct_edge s.stampEdge _
  · rfl

theorem State.deckleAtEdge_edges (s : State) : s.deckleAtEdge.edges = true := by
  unfold State.deckleAtEdge
  split
  · exact Deckle.correct_edges s.stampEdge _
  · rfl

/-- An edge moves no Deckle but that of a master on the pulse. -/
theorem State.deckleAtEdge_now_of_not (hother : s.pulseMaster = false) : s.deckleAtEdge.now = s.dk.now := by
  rw [State.deckleAtEdge, if_neg (ne_true_of_eq_false hother)]
  rfl

section Master
variable (hmaster : s.pulseMaster = true)
include hmaster

/-- While it acquires, an edge sets the Deckle of a master to the nearest second. -/
theorem State.deckleAtEdge_now (hacquiring : s.dk.acquiring = true) : s.deckleAtEdge.now = nearestSecond s.dk.now := by
  rw [State.deckleAtEdge, if_pos hmaster, Deckle.correct_acquiring (d := s.stampEdge) hacquiring]
  simp only [Deckle.become, State.stampEdge]
  omega

theorem State.deckleAtEdge_state : s.deckleAtEdge.state = 5 := by
  rw [State.deckleAtEdge, if_pos hmaster]
  rfl

end Master

/-- The Deckle once the pulse is missing: a master on it keeps time by its own clock. -/
def Deckle.losePulse (d : Deckle) : Deckle :=
  let d := if d.state = 5 then d.become 4 else d
  { d with pulse := false, edges := false, pulseAt := none, events := d.events ||| 16 }

theorem Deckle.losePulse_state_ne (d : Deckle) : d.losePulse.state ≠ 5 := by
  by_cases hpulse : d.state = 5 <;> simp [Deckle.losePulse, Deckle.become, hpulse]

/-- 1.5 s without an edge end the pulse. -/
theorem execPulseMissingTimeout_eq {p : Nat} : let t := s.advance now
    t.dk.pulseAt = some p → t.pins.ball = 1 → execPulseMissingTimeout now s =
      whenThen (decide (p + ms 1500 ≤ t.time)) s { t with dk := t.dk.losePulse } := by
  intro t hlast hball
  have hwired : (t.pins.ball == 1) = true := beq_iff_eq.mpr hball
  simp only [execPulseMissingTimeout, show (s.advance now).dk.pulseAt = some p from hlast]
  simp only [t] at hwired ⊢
  rw [hwired, Bool.true_and]
  rfl

end Exchanges

/-- Settles O52: each event of time, where it is due or heard, and the three cases of a correction (log 24: when a sync goes out
and when an exchange counts as unanswered). -/
theorem timeIsKept : Obligations.TimeIsKept := by
  refine ⟨fun s now => ?events, fun d theta => ⟨fun hacquiring => ?set, fun hidle hbehind => ?step, fun hidle hnear => ?slew⟩⟩
  case events =>
    intro t
    refine ⟨fun hmaster hpower => ?_, fun l f hl hdata hpower hversion hkind => ?_, execAnnounceExpiry_due,
      execSyncExchangeTimer_due, fun l f x => execSyncReceive_upstream,
      fun l f => execDelayRequestReceive_downstream, fun l f x t3 hl ht3 hup hpower hkind hseq => ?_,
      fun l => execHoldoverEntry_lost, fun hball hpower => ?_, fun p hlast hball => ?_⟩
    · have hexec := execTimeAnnounceTimer_eq (s := s) (now := now) hmaster hpower
      exact ⟨fun hdue => hexec.trans (whenThen_of _ _ (decide_eq_true hdue)),
        fun hearly => hexec.trans (whenThen_not _ _ (decide_eq_false hearly.not_ge))⟩
    · intro a hserial u
      have hexec := execAnnounceReceive_heard (s := s) (now := now) hl hdata hpower hversion hkind hserial
      exact ⟨fun hother => next_of_neg hexec fun h =>
          have ⟨hup, hsame⟩ := Bool.and_eq_true_iff.mp h
          hother.elim (· (eq_of_beq hup)) (· (eq_of_beq hsame)),
        fun hup hsame => next_of_pos hexec (by simpa using ⟨hup, hsame⟩)⟩
    · intro a theta
      exact ⟨_, execDelayResponseReceive_upstream hl ht3 hup hpower hkind hseq, rfl, rfl, rfl, rfl, rfl, rfl, rfl, rfl⟩
    · refine ⟨_, execTimePulseEdge_stamps hball hpower, ?_⟩
      exact ⟨t.deckleAtEdge_edge, t.deckleAtEdge_edges, State.deckleAtEdge_now_of_not,
        fun hmaster hacquiring => ⟨State.deckleAtEdge_now hmaster hacquiring, State.deckleAtEdge_state hmaster⟩⟩
    · have hexec := execPulseMissingTimeout_eq hlast hball
      refine ⟨fun hdue => ⟨_, hexec.trans (whenThen_of _ _ (decide_eq_true hdue)), rfl, rfl, rfl, ?_, ?_⟩,
        fun hearly => hexec.trans (whenThen_not _ _ (decide_eq_false hearly.not_ge))⟩
      · exact Deckle.losePulse_state_ne t.dk
      · exact bit_or_right _ (by decide)
  case set =>
    rw [Deckle.correct_acquiring hacquiring]
    exact ⟨rfl, rfl, bit_or_right _ (by decide)⟩
  case step =>
    rw [Deckle.correct_behind hidle hbehind]
    exact ⟨rfl, by show d.now + 1000 ≤ ((d.now : Int) - theta / 65536).toNat; omega⟩
  case slew =>
    rw [Deckle.correct_slew hidle hnear]
    exact ⟨rfl, rfl⟩

end Sys2Proof.Machine
